-- ==== Sys2Proof/Word.lean ====
section
/-! DEFINITION. The data units of the manual (R4). -/

namespace Sys2Proof

/-- 8 bits (R4). -/
abbrev Byte := BitVec 8

/-- 16 bits (R4). -/
abbrev Half := BitVec 16

/-- 32 bits (R4); an instruction word has this size. -/
abbrev Word := BitVec 32

/-- 64 bits (R4). -/
abbrev DWord := BitVec 64

end Sys2Proof
end

