-- ==== Sys2Proof/Config.lean ====
section
/-! DEFINITION. What the DR-4820 fixes (counts and sizes of R13, R14, R142 and the fabric), and the free values: what the
manual leaves open and the model gives no value to. -/

namespace Sys2Proof.Config

/-- Quads (R13, R14). -/
def quads : Nat := 512

/-- Cores (R14). -/
def cores : Nat := 2048

/-- Tracts (R14). -/
def tracts : Nat := 16

/-- Populated bytes of a tract's window (R38). -/
def tractBytes : Nat := 0x1180000000

/-- Bytes of a tract's window (R38). -/
def tractWindow : Nat := 0x2000000000

/-- Ticks of a grant epoch (R29). -/
def epochTicks : Nat := 1000

/-- The floor level of the power arbiter (R29). -/
def floorLevel : Nat := 3

/-- Entries of a core's store record (R162). -/
def recordEntries : Nat := 48

/-- Entries in flight at once (R164). -/
def inFlight : Nat := 8

/-- Ticks after which an open entry begins to drain (R164). -/
def drainTicks : Nat := 100

/-- Slot returns that a tract's accumulator holds (R104, R105). -/
def returnDepth : Nat := 16

/-- Entries of a copy engine's queue (R166). -/
def copyQueue : Nat := 16

/-- Lines of a core's instruction cache: 64 KiB (R142). -/
def icacheLines : Nat := 1024

/-- Tile-table entries of a core (R142). -/
def tileEntries : Nat := 32

/-- Rendezvous latches, and reservation-table entries, of a quad (R142). -/
def latches : Nat := 8

/-- Registers of 32 bits per lane (R142). -/
def lanePool : Nat := 4096

/-- Scratchpad granules of a core (R142). -/
def padGranules : Nat := 192

/-- Start of the scratchpad window (R305). -/
def windowBase : Nat := 0x000FFFFFFFC00000

/-- End of the scratchpad window (R305). -/
def windowEnd : Nat := 0x0010000000000000

/-- Ticks a pre-empted gang has to end its save (R357). -/
def preemptTicks : Nat := 100000

/-- Ticks of a kill's stop (R135). -/
def killTicks : Nat := 1000

/-- Ticks of an invalidation fan-out's deadline (R68). -/
def snpTicks : Nat := 10000

/-- DESIGN CHOICE (log 2): a free choice of the hardware between two outcomes that the manual permits. -/
opaque freeBit : Nat → Bool

/-- DESIGN CHOICE (log 2): a byte that the manual does not give (what the host holds behind a Host-class address, R195). -/
opaque freeByte : Nat → Byte

/-- DESIGN CHOICE (log 11): the pool of levels above the floor that the arbiter has for an epoch, from the sum of the draws reported
(R29 gives no formula of the pool). -/
opaque pool : Nat → Nat

/-- DESIGN CHOICE (log 11): the order in which the quads of an epoch get the levels of the pool that their whole shares leave,
from the epoch and the quad (R29). -/
opaque poolRank : Nat → Nat → Nat

/-- DESIGN CHOICE (log 12): the public key that a firmware image carries (R97; no rule gives an image's layout). -/
opaque imageKey : List Byte → List Byte

/-- DESIGN CHOICE (log 12): the bytes of a firmware image that its signature covers (R97). -/
opaque imageText : List Byte → List Byte

/-- DESIGN CHOICE (log 12): the two integers of a firmware image's signature (R97). -/
opaque imageSign : List Byte → Nat × Nat

/-- DESIGN CHOICE (log 12): the SHA-384 digest of the firmware's public key that is fused (R97). -/
opaque firmwareDigest : List Byte

/-- DESIGN CHOICE (log 12): the bytes of an SPDM response to a supported request, given the measurements (R98; the message
layout is SPDM 1.3's). -/
opaque spdmReply : List Byte → List DWord → List Byte

/-- DESIGN CHOICE (log 12): the SPDM error response UnsupportedRequest (R98). -/
opaque spdmUnsupported : List Byte → List Byte

/-- DESIGN CHOICE (log 3): the version that a firmware image's configuration record holds (R33, R100). -/
opaque imageVersion : List Byte → DWord

/-- DESIGN CHOICE (log 3): the split mode that a firmware image sets (R23, R24). -/
opaque imageSplit : List Byte → BitVec 2

/-- DESIGN CHOICE (log 3): the fabric address that a firmware image's configuration record holds, where it holds one (R95). -/
opaque imageAddress : List Byte → Option (BitVec 128)

/-- DESIGN CHOICE (log 3): the MAC address of port 0 fused at manufacture (R95). -/
opaque portMac : BitVec 48

/-- DESIGN CHOICE (log 12): the digest of the boot ROM (R98). -/
opaque bootDigest : BitVec 384

/-- DESIGN CHOICE (log 5): whether a spare site passes its power-up test (R17). -/
opaque spareOk : Nat → Bool

/-- DESIGN CHOICE (log 3): the management key fused at manufacture (R95). -/
opaque fusedKey : BitVec 256

/-- DESIGN CHOICE (log 13): the value of an SFU function where the enclosures of the model do not decide its rounding
(never met by the bounds known for binary32; R217 gives the correctly rounded value). -/
opaque undecidedSfu : Nat → Word → Word

end Sys2Proof.Config
end

