-- ==== Sys2Proof/Syntax.lean ====
section
/-! DEFINITION. The steps of the machine: one constructor of Instr per row of the opcode table. -/

namespace Sys2Proof

/-- The guard of an instruction (R222): predicate register and negation. -/
structure Guard where
  p : BitVec 3
  neg : Bool
  deriving DecidableEq, Repr

/-- An operand of a three-word form (R225): its kind and what its index field holds. -/
inductive Operand where
  | none
  | v (i : BitVec 9)
  | b (i : BitVec 9)
  | w (i : BitVec 9)
  | p (i : BitVec 9)
  | m (i : BitVec 9)
  | t (i : BitVec 9)
  | lit (x : DWord)
  | imm (i : BitVec 9)
  | special (i : BitVec 9)
  deriving DecidableEq, Repr

/-- The fields of a one-word instruction but for OP and L (R219, 'The forms to the bit'). -/
structure Short where
  g : Guard
  u : Bool
  s : Bool
  b : BitVec 5
  a : BitVec 5
  d : BitVec 5
  deriving DecidableEq, Repr

/-- The fields of a three-word instruction; a literal stands in the operand of kind 7 (R225, R226). -/
structure Three where
  g : Guard
  u : Bool
  d : Operand
  a : Operand
  b : Operand
  c : Operand
  mod : BitVec 9
  ch : BitVec 2
  ord : BitVec 2
  sc : BitVec 3
  rm : BitVec 3
  ty : BitVec 4
  deriving DecidableEq, Repr

/-- The literal form (L = 2) or a three-word form (L = 1 or 3) (R219). -/
inductive Long where
  | lit (x : Short) (value : DWord)
  | three (x : Three)
  deriving DecidableEq, Repr

/-- Any form, for a stem whose table row is not split by form. -/
inductive Code where
  | short (x : Short)
  | long (x : Long)
  deriving DecidableEq, Repr

/-- Operations of atomics and reductions (R317), cas included. -/
inductive AtomOp where
  | add | exch | min | max | and | or | xor | cas
  deriving DecidableEq, Repr

/-- Causes of an orderly shutdown (R35, R100). -/
inductive ShutdownCause where
  | junction | coolantFlow | inlet | inputVoltage | modulePower | inputLoss
  deriving DecidableEq, Repr

/-- What the module measures of its environment each epoch (R36, R100): 0.1 C, mL/min, mV, mW. -/
structure Environment where
  inlet : Int
  flow : Nat
  volt : Nat
  power : Nat
  deriving DecidableEq, Repr

/-- Where a command came from (R79): fabric address, job id and PID on FEP. -/
structure Source where
  addr : BitVec 128
  job : BitVec 24
  pid : BitVec 12
  deriving DecidableEq, Repr

/-- A command header (R79) with the endpoint that received it (0 the management endpoint, 1 to 16 a partition's). -/
structure CmdHeader where
  endpoint : Nat
  src : Source
  version : Byte
  rsv0 : Half
  len : Word
  seq : DWord
  tag : DWord
  rsv1 : DWord
  deriving DecidableEq, Repr

/-- The launch record (R83), field by field; the reserved parts are kept to be checked. -/
structure LaunchRecord where
  entry : DWord
  codeBase : DWord
  params : DWord
  blocks : Word
  gang : Half
  sheaves : Byte
  log2w : Byte
  items : Word
  tail : Word
  regs : Half
  xpad : Half
  xwin : Half
  threshold : Byte
  prio : Byte
  refill : Word
  handler : Word
  resume : Word
  trapOff : Word
  endpoint : DWord
  tag : DWord
  fmask : Half
  nbv : Byte
  flags : Byte
  ctx : Word
  save : DWord
  tailCtr : DWord
  rsv : BitVec 192
  deriving DecidableEq, Repr

/-- Arguments of QOS ASSIGN (R93). -/
structure AssignArgs where
  part : Byte
  ways : Byte
  flags : Half
  tracts : Word
  addr : BitVec 128
  codeKey : BitVec 776
  key : BitVec 256
  deriving DecidableEq, Repr

/-- Arguments of EVENTCFG (R82). -/
structure EventSlotArgs where
  slot : Byte
  mask : Word
  addr : BitVec 128
  job : Word
  pid : Half
  index : Half
  deriving DecidableEq, Repr

/-- Arguments of FWLOAD (R82). -/
structure FwChunk where
  offset : Word
  length : Word
  flags : Word
  rsv : Word
  data : List Byte
  deriving DecidableEq, Repr

/-- The instruction stems of the opcode map (R229 to R236). -/
inductive Stem where
  | nop
  | bra
  | brx
  | call
  | callx
  | ret
  | yield
  | rgn
  | itend
  | rfl
  | exit
  | trap
  | bkpt
  | tret
  | pdone
  | join
  | leave
  | waitm
  | mmov
  | mlog
  | mfrp
  | vote
  | shfl
  | sred
  | sscan
  | bar
  | gbar
  | iadd
  | isub
  | imul
  | imulh
  | imad
  | idiv
  | irem
  | imin
  | imax
  | iabs
  | and
  | or
  | xor
  | not
  | shl
  | shr
  | sra
  | rot
  | popc
  | clz
  | brev
  | bfx
  | bfi
  | sel
  | icmp
  | mov
  | movi
  | lea
  | fadd
  | fsub
  | fmul
  | ffma
  | fmin
  | fmax
  | fcmp
  | fclass
  | frnd
  | fscl
  | fdot2
  | rcp
  | rsq
  | sqrt
  | ex2
  | lg2
  | sin
  | cos
  | tanh
  | fcvt
  | f2i
  | i2f
  | pack
  | unpk
  | plog
  | pmov
  | ld
  | st
  | pref
  | xst
  | rdrain
  | rinv
  | fence
  | waitc
  | atom
  | cas
  | red
  | regx
  | regf
  | shmap
  | shunm
  | shwr
  | shrd
  | csrr
  | csrw
  | csrs
  | csrc
  | tdef
  | tfree
  | tstat
  | tmark
  | cpy
  | cpo
  | cpr
  | mxe
  | mma
  | mxp
  | acco
  | accc
  | accr
  | acca
  | accz
  deriving DecidableEq, Repr

/-- One constructor per row of the table of operations and events (95_what_each_step_holds.md): the instruction rows
carry the fields of their words (R219 to R227), the event rows what the event names (a command of the host
with its fields, a measured value). An event row whose arguments are all numbers (a message of the fabric, a core, a gang)
has no field: its arguments are the focus (ctl.focus of State), in the order its docstring gives. Such rows stand last. -/
inductive Instr where
  /-- Over-temperature, loss of coolant flow or input out of range raises SHUTDOWN, stops dispatch, kills every gang and removes power within 5 ms (R35). -/
  | orderlyShutdown (cause : ShutdownCause)
  /-- A junction sensor crosses 105, 100 or 115 °C, so the arbiter sets or lifts the die's level cap and raises THERMAL at 115 °C (R31). -/
  | thermalSensorCrossing (die sensor : Nat) (temp : Int)
  /-- At each multiple of 1,000 ticks, every quad's latched budget level takes effect (R29). -/
  | powerEpochStart (env : Environment)
  /-- A host RMA write is applied at each line's home as a drain is (R75). -/
  | rmaWrite (part : Nat) (pa : Nat) (data : List Byte) (tag : DWord)
  /-- The transport completion for an RMA write is sent once DT has passed every written line's completion time (R75). -/
  | rmaWriteCompletion (tag : DWord)
  /-- A host RMA read returns each line's content at the home, or an error completion for poison or a bad address (R75). -/
  | rmaRead (part : Nat) (pa len : Nat) (tag : DWord)
  /-- A host transport atomic executes at the home slice as a system-scope atomic (R75). -/
  | transportAtomic (part : Nat) (pa : Nat) (op : AtomOp) (ty : BitVec 4) (value expected : DWord) (tag : DWord)
  /-- A command with an unassigned opcode is answered MALFORMED with no effect (R82). -/
  | unknownOpcode (h : CmdHeader) (opcode : Byte)
  /-- A LAUNCH record is checked, queued with its context copy and answered OK with its launch id (R84). -/
  | launch (h : CmdHeader) (r : LaunchRecord)
  /-- ABORT kills every gang of the launch, discards unplaced blocks and completes it as aborted (R90). -/
  | abort (h : CmdHeader) (id rsv : Word)
  /-- PREEMPT suspend stops the launch's dispatch and pre-empts each placed gang (R91). -/
  | preemptSuspend (h : CmdHeader) (id : Word) (rsv : BitVec 24)
  /-- PREEMPT resume re-places the saved gangs whole and restarts dispatch (R91). -/
  | preemptResume (h : CmdHeader) (id : Word) (rsv : BitVec 24)
  /-- SHOOT invalidates the context's TLB entries over the range, restarts walks and re-walks open faults (R89). -/
  | shoot (h : CmdHeader) (ctx count : Word) (va : DWord)
  /-- The SHOOT response is sent after drains, completion times of translated accesses and re-walks (R89). -/
  | shootResponse (part : Nat) (seq : DWord)
  /-- RESET kind 0 kills every gang, completes pending launches as reset, drops caches and abacus contents and may zero memory (R92). -/
  | resetPartition (h : CmdHeader) (flags : Byte) (rsv : Half) (index : Word)
  /-- RESET kind 1 kills gangs with copy operations on the engine and clears its queue (R92). -/
  | resetCopyEngine (h : CmdHeader) (flags : Byte) (rsv : Half) (index : Word)
  /-- RESET kind 2 kills gangs listed in latches or table entries of the engine and clears both (R92). -/
  | resetMatrixEngine (h : CmdHeader) (flags : Byte) (rsv : Half) (index : Word)
  /-- RESET kind 3 retrains one link, which counts as Down meanwhile (R92). -/
  | resetLink (h : CmdHeader) (flags : Byte) (rsv : Half) (index : Word)
  /-- QUERY subject 0 returns firmware version, slot, split mode, DT and environment (R99). -/
  | queryModule (h : CmdHeader) (rsv : BitVec 24) (index : Word)
  /-- QUERY subject 1 returns the partition's tracts, queued launches, faults, share and withheld cycles (R99). -/
  | queryPartition (h : CmdHeader) (rsv : BitVec 24) (index : Word)
  /-- QUERY subject 2 returns the tract's owner, spare state, retired quads and failed pseudo-channels (R99). -/
  | queryTract (h : CmdHeader) (rsv : BitVec 24) (index : Word)
  /-- QUERY subject 3 returns a link's state, failed lanes and CRC retries (R99). -/
  | queryLink (h : CmdHeader) (rsv : BitVec 24) (index : Word)
  /-- QUERY subject 4 returns a port's state, speed and frame counts (R99). -/
  | queryPort (h : CmdHeader) (rsv : BitVec 24) (index : Word)
  /-- QUERY subject 5 returns a launch's state, blocks retired and gangs killed and relaunched (R99). -/
  | queryLaunch (h : CmdHeader) (rsv : BitVec 24) (index : Word)
  /-- QUERY subject 6 returns one RAS log entry (R99). -/
  | queryRasLog (h : CmdHeader) (rsv : BitVec 24) (index : Word)
  /-- ASSIGN creates or redefines a partition, powering up and zeroing added tracts and crediting the dispatcher (R94). -/
  | qosAssign (h : CmdHeader) (rsv : BitVec 56) (x : AssignArgs)
  /-- SHARE sets the partition's weight in the power pool (R93). -/
  | qosShare (h : CmdHeader) (rsv : BitVec 56) (part weight : Byte)
  /-- CHANNEL sets the partition's weight at every pseudo-channel arbiter (R93). -/
  | qosChannel (h : CmdHeader) (rsv : BitVec 56) (part weight : Byte)
  /-- WAYS sets a context's cache-way mask and abacus allowance on every slice of the partition (R93). -/
  | qosWays (h : CmdHeader) (rsv : BitVec 56) (ctx : Byte) (mask : Half) (allowance : Byte)
  /-- CTXTABLE sets the partition's context table base and count (R93). -/
  | qosCtxtable (h : CmdHeader) (rsv : BitVec 56) (base : DWord) (count : Byte)
  /-- CODE verifies a signature block and code hash and registers a signed code region (R96). -/
  | qosCode (h : CmdHeader) (rsv : BitVec 56) (ctx : Byte) (va : DWord)
  /-- RELEASE resets and zeroes an idle partition, closes its endpoint and returns its tracts to unassigned (R94). -/
  | qosRelease (h : CmdHeader) (rsv : BitVec 56) (part : Byte)
  /-- MGMTKEY replaces the management endpoint's TSS key after its response (R95). -/
  | qosMgmtkey (h : CmdHeader) (rsv : BitVec 56) (key : BitVec 256)
  /-- PKEY replaces a partition endpoint's TSS key after its response (R95). -/
  | qosPkey (h : CmdHeader) (rsv : BitVec 56) (part : Byte) (key : BitVec 256)
  /-- EVENTCFG registers or clears an event slot, and held completions for the slot are then sent (R79). -/
  | eventcfg (h : CmdHeader) (rsv : BitVec 24) (x : EventSlotArgs)
  /-- ATTEST carries one SPDM 1.3 request and returns the device's SPDM response (R98). -/
  | attest (h : CmdHeader) (request : List Byte)
  /-- FWLOAD writes an image chunk into the slot that is not running (R97). -/
  | fwload (h : CmdHeader) (x : FwChunk)
  /-- A FWLOAD chunk with the final flag triggers verification of the image, marking the slot invalid on failure (R97). -/
  | fwloadFinal (h : CmdHeader) (x : FwChunk)
  /-- A parity error in control or placement state kills the owning gang with class CONTROL (R130). -/
  | controlParityError (core slot : Nat) (entry : Option Nat)
  /-- A write of %rlim caps the record's entries, holding new allocations until the count is below the new limit (R162). -/
  | rlimWrite (core slot : Nat) (v : Byte)
  /-- A write of KIND 0 to %einj disarms injection (R353). -/
  | einjDisarm (core slot : Nat) (unit : BitVec 4)
  /-- A write of KIND 1 with a valid UNIT arms a one-bit error (R353). -/
  | einjArmCorrected (core slot : Nat) (unit : BitVec 4)
  /-- A write of KIND 2 with a valid UNIT arms a two-bit error (R353). -/
  | einjArmUncorrected (core slot : Nat) (unit : BitVec 4)
  /-- A write of KIND 3 on the record-address unit arms a control parity error (R353). -/
  | einjArmControl (core slot : Nat) (unit : BitVec 4)
  /-- A write to a special register with no row of its own stores the new value if the register is RW (R352). -/
  | specialRegisterWrite (strand : Nat) (index : BitVec 9) (v : DWord)
  /-- One-word nop advances by its length (R268). -/
  | nop (x : Code)
  /-- One-word branch by a 15-bit byte offset, deferring on yld (R261). -/
  | bra (x : Short)
  /-- Branch with the offset as literal or imm9 in a longer form (R261). -/
  | braW (x : Long)
  /-- One-word branch to code base plus a register offset (R261). -/
  | brx (x : Short)
  /-- Register-offset branch in a longer form (R261). -/
  | brxW (x : Long)
  /-- One-word call: pushes return address and map, spilling as needed, and branches (R262). -/
  | call (x : Short)
  /-- Call with the offset as literal or imm9 in a longer form (R262). -/
  | callW (x : Long)
  /-- One-word call to code base plus a register offset (R262). -/
  | callx (x : Short)
  /-- Register-offset call in a longer form (R262). -/
  | callxW (x : Long)
  /-- Pops or fills a return entry and restores pc, map and depth (R262). -/
  | ret (x : Code)
  /-- Advances and makes the strand Deferred (R263). -/
  | yield (x : Code)
  /-- One-word carrel map set with X and Y as multiples of 16 (R264). -/
  | rgn (x : Short)
  /-- Carrel map set with multiples of 8 (R264). -/
  | rgnW (x : Long)
  /-- Ends the strand's item, parking it at the refill point or making it Done (R265). -/
  | itend (x : Code)
  /-- At the refill point, sets maps and draws items for parked strands; elsewhere acts as rgn (R267). -/
  | rfl (x : Short)
  /-- Refill point instruction in three-word form (R267). -/
  | rflW (x : Long)
  /-- Makes the strand Done (R265). -/
  | exit (x : Code)
  /-- One-word software trap with code 0 to 31 (R268). -/
  | trap (x : Short)
  /-- Software trap with code 32 to 255 (R268). -/
  | trapW (x : Long)
  /-- Software trap with detail 256 (R268). -/
  | bkpt (x : Code)
  /-- In resume code, reloads the strand record and, when all strands are done, the sheaf state (R364). -/
  | tret (x : Code)
  /-- In a pre-emption handler, makes the strand Saved and ends its sheaf's save when all are (R362). -/
  | pdone (x : Code)
  /-- Sets each participant's bit in a mask register (R269). -/
  | join (x : Code)
  /-- Clears each participant's bit in a mask register (R269). -/
  | leave (x : Code)
  /-- Waits with the mask group until its release (R270). -/
  | waitm (x : Code)
  /-- One-word mask copy, or fw from a uniform register (R269). -/
  | mmov (x : Short)
  /-- Mask move in three-word form, including tw to a uniform register (R269). -/
  | mmovW (x : Long)
  /-- One-word mask and (R269). -/
  | mlog (x : Short)
  /-- Mask or, xor or andn in three-word form (R269). -/
  | mlogW (x : Long)
  /-- Sets a mask from participants' predicate values (R269). -/
  | mfrp (x : Code)
  /-- One-word vote.any over a sheaf part (R271). -/
  | vote (x : Short)
  /-- vote.all or vote.uni in three-word form (R271). -/
  | voteW (x : Long)
  /-- One-word b32 index shuffle within a sheaf (R272). -/
  | shfl (x : Short)
  /-- Shuffle up, down or bfly, b64 or imm9 forms (R272). -/
  | shflW (x : Long)
  /-- One-word i32 add reduction over a sheaf part (R274). -/
  | sred (x : Short)
  /-- Sheaf reduction with other operation, type, rounding or w destination (R274). -/
  | sredW (x : Long)
  /-- One-word inclusive i32 add scan over a sheaf (R274). -/
  | sscan (x : Short)
  /-- Sheaf scan with other or exclusive operation, type or rounding (R274). -/
  | sscanW (x : Long)
  /-- Arrives at the block barrier and waits (R275). -/
  | bar (x : Code)
  /-- Arrives at the gang barrier and waits (R276). -/
  | gbar (x : Code)
  /-- One-word i32 add, wrapping or saturating (R282). -/
  | iadd (x : Short)
  /-- Integer add in literal or three-word form (R282). -/
  | iaddW (x : Long)
  /-- One-word i32 subtract (R282). -/
  | isub (x : Short)
  /-- Integer subtract in a longer form (R282). -/
  | isubW (x : Long)
  /-- One-word i32 multiply (R282). -/
  | imul (x : Short)
  /-- Integer multiply in a longer form (R282). -/
  | imulW (x : Long)
  /-- One-word high half of an i32 product (R283). -/
  | imulh (x : Short)
  /-- High product half in a longer form (R283). -/
  | imulhW (x : Long)
  /-- One-word multiply-add with C equal to D (R282). -/
  | imad (x : Short)
  /-- Multiply-add with a separate C operand (R282). -/
  | imadW (x : Long)
  /-- One-word i32 divide truncating toward zero (R284). -/
  | idiv (x : Short)
  /-- Integer divide in a longer form (R284). -/
  | idivW (x : Long)
  /-- One-word i32 remainder (R284). -/
  | irem (x : Short)
  /-- Integer remainder in a longer form (R284). -/
  | iremW (x : Long)
  /-- One-word i32 minimum (R285). -/
  | imin (x : Short)
  /-- Integer minimum in a longer form (R285). -/
  | iminW (x : Long)
  /-- One-word i32 maximum (R285). -/
  | imax (x : Short)
  /-- Integer maximum in a longer form (R285). -/
  | imaxW (x : Long)
  /-- One-word i32 absolute value (R285). -/
  | iabs (x : Short)
  /-- Absolute value in a longer form (R285). -/
  | iabsW (x : Long)
  /-- One-word b32 bitwise and (R286). -/
  | and (x : Short)
  /-- Bitwise and in a longer form (R286). -/
  | andW (x : Long)
  /-- One-word b32 bitwise or (R286). -/
  | or (x : Short)
  /-- Bitwise or in a longer form (R286). -/
  | orW (x : Long)
  /-- One-word b32 bitwise xor (R286). -/
  | xor (x : Short)
  /-- Bitwise xor in a longer form (R286). -/
  | xorW (x : Long)
  /-- One-word b32 bitwise not (R286). -/
  | not (x : Short)
  /-- Bitwise not in a longer form (R286). -/
  | notW (x : Long)
  /-- One-word b32 shift left by a register count (R286). -/
  | shl (x : Short)
  /-- Shift left with imm9 count or other type (R286). -/
  | shlW (x : Long)
  /-- One-word b32 logical shift right (R286). -/
  | shr (x : Short)
  /-- Logical shift right in a longer form (R286). -/
  | shrW (x : Long)
  /-- One-word i32 arithmetic shift right (R286). -/
  | sra (x : Short)
  /-- Arithmetic shift right in a longer form (R286). -/
  | sraW (x : Long)
  /-- One-word b32 rotate left (R286). -/
  | rot (x : Short)
  /-- Rotate in a longer form (R286). -/
  | rotW (x : Long)
  /-- One-word b32 population count (R287). -/
  | popc (x : Short)
  /-- Population count in a longer form (R287). -/
  | popcW (x : Long)
  /-- One-word b32 leading-zero count (R287). -/
  | clz (x : Short)
  /-- Leading-zero count in a longer form (R287). -/
  | clzW (x : Long)
  /-- One-word b32 bit reversal (R287). -/
  | brev (x : Short)
  /-- Bit reversal in a longer form (R287). -/
  | brevW (x : Long)
  /-- One-word n32 bit-field extract (R288). -/
  | bfx (x : Short)
  /-- Bit-field extract in a longer form (R288). -/
  | bfxW (x : Long)
  /-- One-word b32 bit-field insert (R288). -/
  | bfi (x : Short)
  /-- Bit-field insert in a longer form (R288). -/
  | bfiW (x : Long)
  /-- Selects A or B by a predicate; three-word only (R289). -/
  | sel (x : Three)
  /-- One-word i32 equality compare into a predicate (R290). -/
  | icmp (x : Short)
  /-- Integer compare with other relation, type or imm9 (R290). -/
  | icmpW (x : Long)
  /-- One-word b32 move, poison moving with it (R289). -/
  | mov (x : Short)
  /-- Move in a longer form (R289). -/
  | movW (x : Long)
  /-- One-word move of an immediate 0 to 31 (R289). -/
  | movi (x : Short)
  /-- Immediate move with literal or imm9 (R289). -/
  | moviW (x : Long)
  /-- One-word 64-bit address formation (R291). -/
  | lea (x : Short)
  /-- Address formation in a longer form (R291). -/
  | leaW (x : Long)
  /-- One-word f32 add in rn (R292). -/
  | fadd (x : Short)
  /-- Floating add with other type or rounding (R292). -/
  | faddW (x : Long)
  /-- One-word f32 subtract in rn (R292). -/
  | fsub (x : Short)
  /-- Floating subtract in a longer form (R292). -/
  | fsubW (x : Long)
  /-- One-word f32 multiply in rn (R292). -/
  | fmul (x : Short)
  /-- Floating multiply in a longer form (R292). -/
  | fmulW (x : Long)
  /-- One-word f32 fused multiply-add with C equal to D (R292). -/
  | ffma (x : Short)
  /-- Fused multiply-add with a separate C (R292). -/
  | ffmaW (x : Long)
  /-- One-word f32 minimum (R293). -/
  | fmin (x : Short)
  /-- Floating minimum in a longer form (R293). -/
  | fminW (x : Long)
  /-- One-word f32 maximum (R293). -/
  | fmax (x : Short)
  /-- Floating maximum in a longer form (R293). -/
  | fmaxW (x : Long)
  /-- One-word f32 equality compare (R294). -/
  | fcmp (x : Short)
  /-- Floating compare with other relation or type (R294). -/
  | fcmpW (x : Long)
  /-- One-word f32 class test against a mask (R295). -/
  | fclass (x : Short)
  /-- Class test in a longer form (R295). -/
  | fclassW (x : Long)
  /-- One-word f32 round to integral in rn (R296). -/
  | frnd (x : Short)
  /-- Round to integral with other type or mode (R296). -/
  | frndW (x : Long)
  /-- One-word f32 scale by a power of two (R297). -/
  | fscl (x : Short)
  /-- Scale in a longer form (R297). -/
  | fsclW (x : Long)
  /-- One-word bf16 paired dot product with C equal to D (R298). -/
  | fdot2 (x : Short)
  /-- Paired dot product in a longer form (R298). -/
  | fdot2W (x : Long)
  /-- One-word f32 reciprocal (R299). -/
  | rcp (x : Short)
  /-- Reciprocal in three-word form (R299). -/
  | rcpW (x : Long)
  /-- One-word f32 reciprocal square root (R299). -/
  | rsq (x : Short)
  /-- Reciprocal square root in three-word form (R299). -/
  | rsqW (x : Long)
  /-- One-word f32 square root (R299). -/
  | sqrt (x : Short)
  /-- Square root in three-word form (R299). -/
  | sqrtW (x : Long)
  /-- One-word f32 base-2 exponential (R299). -/
  | ex2 (x : Short)
  /-- Exponential in three-word form (R299). -/
  | ex2W (x : Long)
  /-- One-word f32 base-2 logarithm (R299). -/
  | lg2 (x : Short)
  /-- Logarithm in three-word form (R299). -/
  | lg2W (x : Long)
  /-- One-word f32 sine (R299). -/
  | sin (x : Short)
  /-- Sine in three-word form (R299). -/
  | sinW (x : Long)
  /-- One-word f32 cosine (R299). -/
  | cos (x : Short)
  /-- Cosine in three-word form (R299). -/
  | cosW (x : Long)
  /-- One-word f32 hyperbolic tangent (R299). -/
  | tanh (x : Short)
  /-- Hyperbolic tangent in three-word form (R299). -/
  | tanhW (x : Long)
  /-- Float-to-float conversion; three-word only (R300). -/
  | fcvt (x : Three)
  /-- Float-to-integer conversion; three-word only (R300). -/
  | f2i (x : Three)
  /-- Integer-to-float conversion; three-word only (R300). -/
  | i2f (x : Three)
  /-- One-word pack of two f32 values into bf16 halves (R301). -/
  | pack (x : Short)
  /-- Pack with other type or rounding (R301). -/
  | packW (x : Long)
  /-- One-word widening of the low bf16 half to f32 (R301). -/
  | unpk (x : Short)
  /-- Unpack of the high half or f16 (R301). -/
  | unpkW (x : Long)
  /-- One-word predicate and (R302). -/
  | plog (x : Short)
  /-- Predicate or, xor or andn (R302). -/
  | plogW (x : Long)
  /-- One-word predicate copy or predicate from register (R302). -/
  | pmov (x : Short)
  /-- Predicate move including tob (R302). -/
  | pmovW (x : Long)
  /-- One-word generic or global b32 load (R308). -/
  | ld (x : Short)
  /-- Load with scratchpad space, other type, acquire, scope or hint (R308). -/
  | ldW (x : Long)
  /-- One-word generic or global b32 store through the record (R309). -/
  | st (x : Short)
  /-- Store with scratchpad space, other type, release, scope or hint (R309). -/
  | stW (x : Long)
  /-- One-word prefetch into L1 or a slice (R311). -/
  | pref (x : Short)
  /-- Prefetch with a hint or imm9 offset (R311). -/
  | prefW (x : Long)
  /-- One-word b32 exchange store to a member's shadow bank (R312). -/
  | xst (x : Short)
  /-- Exchange store of b64 or with other operand kinds (R312). -/
  | xstW (x : Long)
  /-- Starts every open record entry of the block draining (R313). -/
  | rdrain (x : Code)
  /-- One-word drop of the core's L1 copies over a range (R314). -/
  | rinv (x : Short)
  /-- L1 invalidate with imm9 or literal length (R314). -/
  | rinvW (x : Long)
  /-- One-word fence of default (dev) scope (R315). -/
  | fence (x : Short)
  /-- Fence of scope blk, quad, dev or sys (R315). -/
  | fenceW (x : Long)
  /-- One-word wait for the sheaf's copy count to fall to at most 0 to 31 (R316). -/
  | waitc (x : Short)
  /-- Copy wait with count 32 to 255 (R316). -/
  | waitcW (x : Long)
  /-- Returning atomic between leading and trailing fences; three-word only (R318). -/
  | atom (x : Three)
  /-- Compare-and-swap between fences; three-word only (R318). -/
  | cas (x : Three)
  /-- One-word i32 add reduction sent without fences (R319). -/
  | red (x : Short)
  /-- Reduction with other operation, type or scope (R319). -/
  | redW (x : Long)
  /-- One-word request to grow the sheaf's allocation (R346). -/
  | regx (x : Short)
  /-- Allocation growth with a register or imm9 count (R346). -/
  | regxW (x : Long)
  /-- One-word release of register granules (R347). -/
  | regf (x : Short)
  /-- Register release with a register or imm9 count (R347). -/
  | regfW (x : Long)
  /-- Maps registers onto a partner sheaf's; three-word only (R348). -/
  | shmap (x : Three)
  /-- Ends a shared mapping for both sheaves; three-word only (R349). -/
  | shunm (x : Three)
  /-- Waits for empty, writes a shared register and sets it full (R350). -/
  | shwr (x : Three)
  /-- Waits for full, reads a shared register and sets it empty (R350). -/
  | shrd (x : Three)
  /-- Reads a special register (R352). -/
  | csrr (x : Three)
  /-- Writes a special register (R352). -/
  | csrw (x : Three)
  /-- Sets bits of a special register (R352). -/
  | csrs (x : Three)
  /-- Clears bits of a special register (R352). -/
  | csrc (x : Three)
  /-- Binds a tile name to a free table entry from a descriptor (R326). -/
  | tdef (x : Code)
  /-- Unbinds a tile name and frees its entry (R326). -/
  | tfree (x : Code)
  /-- One-word read of a tile's status word (R326). -/
  | tstat (x : Short)
  /-- Tile status into a v register (R326). -/
  | tstatW (x : Long)
  /-- Writes a tile's header and declares it Ready (R326). -/
  | tmark (x : Code)
  /-- Queues a copy that fills a tile from stored data (R330). -/
  | cpy (x : Three)
  /-- Queues a copy that writes a tile out to memory (R330). -/
  | cpo (x : Three)
  /-- Queues a copy that reduce-adds a tile into memory (R330). -/
  | cpr (x : Three)
  /-- Loads the sheaf's ensemble register (R332). -/
  | mxe (x : Code)
  /-- Arrives at a rendezvous latch for a matrix product into abacus lines (R333). -/
  | mma (x : Three)
  /-- One-word set of the sheaf's row-progress register (R337). -/
  | mxp (x : Short)
  /-- Row-progress set with other operand kinds (R337). -/
  | mxpW (x : Long)
  /-- Opens an abacus window on a grid; three-word only (R340). -/
  | acco (x : Three)
  /-- One-word f32 atomic collect of an abacus element (R342). -/
  | accc (x : Short)
  /-- Abacus collect with other type or operand kinds (R342). -/
  | acccW (x : Long)
  /-- One-word f32 read of an abacus element (R342). -/
  | accr (x : Short)
  /-- Abacus read with other type or operand kinds (R342). -/
  | accrW (x : Long)
  /-- One-word f32 add to an abacus element (R341). -/
  | acca (x : Short)
  /-- Abacus add with other type or operand kinds (R341). -/
  | accaW (x : Long)
  /-- One-word zeroing of an abacus line (R341). -/
  | accz (x : Short)
  /-- Abacus line zeroing with other operand kinds (R341). -/
  | acczW (x : Long)
  /-- Input power rises; boot ROM verifies and selects a firmware slot, starts DT, powers and trains dies, links and stacks, applies spare bindings and brings up the ports (R33). -/
  | powerUp 
  /-- Sudden loss of input power kills every gang and loses all memory content, with no event sent (R35). -/
  | powerLoss 
  /-- A sensor that stays at 115 °C for 10 ms starts an orderly shutdown (R31). The focus: die, sensor. -/
  | junctionOvertempTimeout 
  /-- At tick 600 of an epoch, each quad sends its demand report to the arbiter (R29). The focus: quad, demand, draw. -/
  | demandReport 
  /-- At tick 900 of an epoch, the arbiter sends the budgets, floor applied, and each quad latches its own for the next epoch (R29). -/
  | budgetSend 
  /-- A cycle outside the quad's allowance issues no bundle, starts no pass, advances no selection state and is counted as withheld (R30). The focus: quad. -/
  | withheldCycle 
  /-- In an issue cycle the core examines slots from the rotation pointer, picks a leader, forms or holds a bundle and issues it (R144). The focus: core. -/
  | issueCycle 
  /-- A timing detector flags a late transition, and the stage repeats the cycle at half clock with nothing committed twice (R126). The focus: quad. -/
  | timingReplay 
  /-- A flit that fails its link CRC is retransmitted from the sender's replay buffer (R20). The focus: link. -/
  | linkCrcRetry 
  /-- Lane failures move a link to Spared or Narrow between flits, with a RAS entry and, for Narrow, a LINK_NARROW event (R20). The focus: link, lanes. -/
  | linkLaneFailure 
  /-- A link goes Down, so the firmware installs detours under a new slice-map epoch, holds messages on the failed route or fences a cut-off die (R21). The focus: link. -/
  | linkDown 
  /-- A link retrain ends and the link enters Up, Spared or Narrow as training found it (R22). The focus: link, lanes. -/
  | linkTrainingDone 
  /-- A die's DT counter loses lock, so the die is fenced and gangs with a member on it are killed (R28). The focus: die. -/
  | dtLockLoss 
  /-- A fan-out's 10,000-tick deadline passes with acknowledgements missing over Down links, so each such die is fenced and its acknowledgement counted at that tick (R68). The focus: line. -/
  | snpDeadline 
  /-- A fenced die rejoins once its copies are dropped, parity is recomputed and its links are usable (R69). The focus: die. -/
  | dieRejoin 
  /-- An Ethernet port goes down, PORT_DOWN is raised, and traffic continues on the remaining ports (R25). The focus: port. -/
  | portDown 
  /-- A read request reaches a granting slice, which serves the line, sets expiry E and raises the line's horizon (R48). The focus: the message. -/
  | leaseGrant 
  /-- Data from the home reaches a near slice, which installs a near copy, unless an invalidation came first, and passes the data on (R52). The focus: the message. -/
  | nearCopyInstall 
  /-- DT reaches a leased L1 copy's expiry and the copy becomes invalid (R48). The focus: core, line. -/
  | leaseExpiry 
  /-- A drained store entry reaches the home, which applies its bytes at once and sends invalidations and recalls to the holders (R50). The focus: the message. -/
  | drainArrival 
  /-- An invalidation reaches a holder slice, which drops its near copy and acknowledges with its horizon (R53). The focus: the message. -/
  | snpInvalidation 
  /-- A recall reaches a helper, which drops the loan and its redirects and then acknowledges with its horizon (R62). The focus: the message. -/
  | loanRecall 
  /-- An acknowledgement reaches the home, and the last one of a fan-out fixes the completion time C and raises H (R50). The focus: the message. -/
  | ackArrival 
  /-- A loan return reaches the home, which folds its horizon into H (R61). The focus: the message. -/
  | loanReturn 
  /-- A loan push reaches a helper slice, which installs the loan and redirect entries on its die (R60). The focus: the message. -/
  | loanInstall 
  /-- A CTL completion time reaches the core, frees the record entry and releases stalled stores (R164). The focus: the message. -/
  | completionTimeArrival 
  /-- When a line's transaction ends, the home serves the queued request with the smallest age, then agent number (R55). The focus: line. -/
  | queuedRequestServe 
  /-- 16 mesh cycles after a RETRY, the requester resends the request with its original age (R56). The focus: the message. -/
  | retryResend 
  /-- A queue entry reserved for the oldest recorded request is released to general use after 64 mesh cycles (R56). The focus: quad. -/
  | reservedQueueEntryTimeout 
  /-- A parity delta reaches the parity stack's controller, which reads, updates and writes the parity line (R42). The focus: the message. -/
  | parityDelta 
  /-- The firmware moves the slice map from epoch E to E+1 by spilling, recalling and invalidating, then distributing the new map (R65). -/
  | sliceMapChange 
  /-- A forwarding stub powers off once every interface has confirmed the new map and DT has passed Hret (R65). The focus: quad. -/
  | stubPowerOff 
  /-- A requester receiving a remap decodes the address under the newer map and resends with its original age (R66). The focus: the message. -/
  | remapResend 
  /-- The suspend response is sent once every gang has executed pdone or been killed at its deadline (R91). The focus: part, id. -/
  | preemptSuspendResponse 
  /-- A launch's completion is sent once its blocks have retired, its entries have drained and DT has passed its completion times (R85). The focus: part, id. -/
  | launchCompletion 
  /-- The global dispatcher forms a batch of whole gangs for the tract with the most credit (R103). The focus: part. -/
  | batchForm 
  /-- A freed batch-queue entry report reaches the global dispatcher, returning the entry and the accumulated slot credits (R104). The focus: tract. -/
  | batchQueueEntryFreed 
  /-- The die dispatcher sends accumulated slot returns after 16 returns or 256 ticks (R105). The focus: tract. -/
  | slotReturnSend 
  /-- The die dispatcher scans its pending list and places a gang whole in the first feasible window (R108). The focus: tract. -/
  | gangPlacement 
  /-- A core sets up a placed block's sheaves, lanes, registers and scratchpad and lets its sheaves enter issue (R110). The focus: core, slot. -/
  | blockSetup 
  /-- A block whose sheaves, copy commands and ensembles are done retires and frees its resources (R105). The focus: core, slot. -/
  | blockRetire 
  /-- 100 ticks after an entry's allocation, that entry and every older open entry begin to drain (R164). The focus: core, seq. -/
  | recordDrainTimer 
  /-- A draining entry leaves the core in sequence order when fewer than 8 are in flight (R164). The focus: core. -/
  | drainSend 
  /-- A pending regx is granted in request order when its lanes have room, and its sheaf resumes (R154). The focus: core. -/
  | regxGrant 
  /-- All bar waiters of a block are released once every strand is waiting at bar or at rest (R275). The focus: core, slot. -/
  | barRelease 
  /-- gbar completes when every member has arrived and exchange stores have landed, swapping banks and releasing waiters (R276). The focus: gang. -/
  | gbarComplete 
  /-- waitm waiters on one mask register are released once every strand with its bit set is waiting or at rest (R270). The focus: core, slot, mask. -/
  | waitmRelease 
  /-- A load or atomic reply reaches the core and writes its destination registers (R174). The focus: the message. -/
  | loadReply 
  /-- An atomic group reaches its executing unit and is applied in lane order, with its completion time fixed (R184). The focus: the message. -/
  | atomicAtHome 
  /-- A red or cpr message reaches the home and its adds are applied one element at a time in arrival order (R189). The focus: the message. -/
  | reductionAtHome 
  /-- An exchange store lands in the target member's current shadow bank (R158). The focus: the message. -/
  | xstLanding 
  /-- The copy engine starts the command at the head of its queue (R166). The focus: core. -/
  | copyCommandStart 
  /-- The engine finishes reading a command's source, its tile becomes Ready and the sheaf's counter falls (R191). The focus: core. -/
  | copySourceReadDone 
  /-- A copy command meets PROT, PAGE or a header mismatch, ends at the failing line and sets F and EC on its tile (R331). The focus: core. -/
  | copyEngineFault 
  /-- A complete joint matrix request leaves its latch and enters a free reservation-table entry (R167). The focus: quad, latch. -/
  | tableEntry 
  /-- At a pass boundary the arbiter grants the next pass by effective priority, entry age and agent number (R168). The focus: quad. -/
  | passGrant 
  /-- Every 4,096 ticks in the table without a grant raises an entry's effective priority by 1, up to 7 (R168). The focus: quad, entry. -/
  | priorityAging 
  /-- A pass ends and delivers its partials as dev-scope reductions, finishing the request when K is reached (R334). The focus: quad. -/
  | passEnd 
  /-- A B failure mid-pass delivers the completed slices once, sets %mxp and releases the request, stalling or trapping the waiters (R335). The focus: quad. -/
  | passFault 
  /-- An abacus addition, zeroing, opening or collection reaches the line's home and is applied (R341). The focus: the message. -/
  | abacusOpAtHome 
  /-- A gang kill takes effect at Tk, and members stop before their next issue, with their state treated by R136 (R135). The focus: gang. -/
  | gangKill 
  /-- At Tk + 1,000 ticks every member of a killed gang has stopped and its resources are released (R135). The focus: gang. -/
  | killStopDeadline 
  /-- A restartable killed gang is relaunched once all its effects have landed, raising GANG_RELAUNCHED (R138). The focus: gang. -/
  | gangRelaunch 
  /-- A quad meeting the retirement criteria stops placement, kills its gangs, leaves the slice map and raises QUAD_RETIRED (R141). The focus: quad. -/
  | quadRetirement 
  /-- At Tp each member block stops issuing, completes in-flight work, drains, writes its frame and enters the handler (R357). The focus: core, slot. -/
  | preemptStop 
  /-- A gang whose sheaves have not all ended their save by Tp + 100,000 ticks is killed with class DEADLINE (R362). The focus: gang. -/
  | preemptDeadline 
  /-- A gang's pre-emption completes after every sheaf has ended and DT has passed every completion time, and its resources return (R199). The focus: gang. -/
  | preemptionComplete 
  /-- A pseudo-channel of an HBM stack fails, after which reads of its lines are rebuilt and writes update parity, with RAS log entries, and a second failure at the same index poisons lines by R44 (R43). The focus: stack, channel. -/
  | pseudoChannelFailure 
  /-- An Ethernet port that was down finishes training and is up again, and the transport sprays the partition's packets across it once more (R25). The focus: port. -/
  | portUp 
  /-- The transport completion for a Host-class store arrives at the fabric port from the host, and the drain's completion time becomes that DT plus 1 (R171). The focus: the message. -/
  | hostStoreTransportCompletion 
  /-- A cpo write line from the copy engine reaches its home and is applied as a drain, with its completion time fixed by R50 (R190). The focus: the message. -/
  | engineWriteAtHome 
  deriving DecidableEq, Repr

end Sys2Proof
end

