-- ==== Sys2Proof/Machine/OpMap.lean ====
section
/-! DEFINITION. The opcode map (R228 to R236) as data, the operand checks of R221 to R227 and R237, and the normal
form in which every instruction executes. -/

namespace Sys2Proof

/-- Operand roles (R224). -/
inductive Role where
  | d | s | u | a | o | p | m | t | i | n | k
  deriving DecidableEq, Repr

/-- One row of the opcode map: the role of each position, whether a one-word form exists, the TY codes (the first is
the default), which fields of word 2 may be non-zero, the MOD codes, U, and the mark C=D. -/
structure OpRow where
  op : BitVec 9
  d : Option Role
  a : Option Role
  b : Option Role
  c : Option Role
  base : Bool
  tys : List (BitVec 4)
  rm : Bool
  sc : Bool
  ord : Bool
  ch : Bool
  mods : List (BitVec 9)
  u : Bool
  cEqD : Bool

namespace Ty
/-! TY codes (R200, R202, R240). -/
/-- TY b32. -/
abbrev b32 : BitVec 4 := 0
/-- TY b64. -/
abbrev b64 : BitVec 4 := 1
/-- TY i32. -/
abbrev i32 : BitVec 4 := 2
/-- TY n32. -/
abbrev n32 : BitVec 4 := 3
/-- TY i64. -/
abbrev i64 : BitVec 4 := 4
/-- TY n64. -/
abbrev n64 : BitVec 4 := 5
/-- TY f32. -/
abbrev f32 : BitVec 4 := 6
/-- TY f16. -/
abbrev f16 : BitVec 4 := 7
/-- TY bf16. -/
abbrev bf16 : BitVec 4 := 8
/-- TY k8. -/
abbrev k8 : BitVec 4 := 9
/-- TY o4. -/
abbrev o4 : BitVec 4 := 10
/-- TY i8. -/
abbrev i8 : BitVec 4 := 11
/-- TY n8. -/
abbrev n8 : BitVec 4 := 12
/-- TY i16. -/
abbrev i16 : BitVec 4 := 13
/-- TY n16. -/
abbrev n16 : BitVec 4 := 14
end Ty

/-- The opcode map (R229 to R236). -/
def opRow : Stem → OpRow
  | .nop => ⟨0x000, none, none, none, none, true, [0], false, false, false, false, [0], false, false⟩
  | .bra => ⟨0x001, none, none, (some .o), none, true, [0], false, false, false, false, [0, 1], false, false⟩
  | .brx => ⟨0x002, none, (some .s), none, none, true, [0], false, false, false, false, [0, 1], false, false⟩
  | .call => ⟨0x003, none, none, (some .o), none, true, [0], false, false, false, false, [0], false, false⟩
  | .callx => ⟨0x004, none, (some .s), none, none, true, [0], false, false, false, false, [0], false, false⟩
  | .ret => ⟨0x005, none, none, none, none, true, [0], false, false, false, false, [0], false, false⟩
  | .yield => ⟨0x006, none, none, none, none, true, [0], false, false, false, false, [0], false, false⟩
  | .rgn => ⟨0x007, none, (some .n), (some .n), none, true, [0], false, false, false, false, [0], false, false⟩
  | .itend => ⟨0x008, none, none, none, none, true, [0], false, false, false, false, [0], false, false⟩
  | .rfl => ⟨0x009, none, (some .n), (some .n), none, true, [0], false, false, false, false, [0], false, false⟩
  | .exit => ⟨0x00A, none, none, none, none, true, [0], false, false, false, false, [0], false, false⟩
  | .trap => ⟨0x00B, none, (some .i), none, none, true, [0], false, false, false, false, [0], false, false⟩
  | .bkpt => ⟨0x00C, none, none, none, none, true, [0], false, false, false, false, [0], false, false⟩
  | .tret => ⟨0x00D, none, none, none, none, true, [0], false, false, false, false, [0], false, false⟩
  | .pdone => ⟨0x00E, none, none, none, none, true, [0], false, false, false, false, [0], false, false⟩
  | .join => ⟨0x040, none, (some .m), none, none, true, [0], false, false, false, false, [0], false, false⟩
  | .leave => ⟨0x041, none, (some .m), none, none, true, [0], false, false, false, false, [0], false, false⟩
  | .waitm => ⟨0x042, none, (some .m), none, none, true, [0], false, false, false, false, [0], false, false⟩
  | .mmov => ⟨0x043, (some .m), (some .m), none, none, true, [0], false, false, false, false, [0, 1, 2], false, false⟩
  | .mlog => ⟨0x044, (some .m), (some .m), (some .m), none, true, [0], false, false, false, false, [1, 2, 3, 4], false, false⟩
  | .mfrp => ⟨0x045, (some .m), (some .p), none, none, true, [0], false, false, false, false, [0], false, false⟩
  | .vote => ⟨0x046, (some .p), (some .p), none, none, true, [0], false, false, false, false, [1, 2, 3], false, false⟩
  | .shfl => ⟨0x047, (some .d), (some .s), (some .s), none, true, [0, 1], false, false, false, false, [1, 2, 3, 4], false, false⟩
  | .sred => ⟨0x048, (some .d), (some .s), none, none, true, [2, 11, 12, 13, 14, 3, 4, 5, 0, 1, 6, 7, 8], true, false, false, false, [1, 2, 3, 4, 5, 6], false, false⟩
  | .sscan => ⟨0x049, (some .d), (some .s), none, none, true, [2, 11, 12, 13, 14, 3, 4, 5, 0, 1, 6, 7, 8], true, false, false, false, [1, 2, 3, 4, 5, 6, 9, 10, 11, 12, 13, 14], false, false⟩
  | .bar => ⟨0x04A, none, none, none, none, true, [0], false, false, false, false, [0], false, false⟩
  | .gbar => ⟨0x04B, none, none, none, none, true, [0], false, false, false, false, [0], false, false⟩
  | .iadd => ⟨0x080, (some .d), (some .s), (some .s), none, true, [2, 11, 12, 13, 14, 3, 4, 5, 0, 1], false, false, false, false, [0, 1], true, false⟩
  | .isub => ⟨0x081, (some .d), (some .s), (some .s), none, true, [2, 11, 12, 13, 14, 3, 4, 5, 0, 1], false, false, false, false, [0, 1], true, false⟩
  | .imul => ⟨0x082, (some .d), (some .s), (some .s), none, true, [2, 11, 12, 13, 14, 3, 4, 5, 0, 1], false, false, false, false, [0, 1], true, false⟩
  | .imulh => ⟨0x083, (some .d), (some .s), (some .s), none, true, [2, 11, 12, 13, 14, 3, 4, 5, 0, 1], false, false, false, false, [0], true, false⟩
  | .imad => ⟨0x084, (some .d), (some .s), (some .s), (some .s), true, [2, 11, 12, 13, 14, 3, 4, 5, 0, 1], false, false, false, false, [0, 1], true, true⟩
  | .idiv => ⟨0x085, (some .d), (some .s), (some .s), none, true, [2, 11, 12, 13, 14, 3, 4, 5, 0, 1], false, false, false, false, [0], true, false⟩
  | .irem => ⟨0x086, (some .d), (some .s), (some .s), none, true, [2, 11, 12, 13, 14, 3, 4, 5, 0, 1], false, false, false, false, [0], true, false⟩
  | .imin => ⟨0x087, (some .d), (some .s), (some .s), none, true, [2, 11, 12, 13, 14, 3, 4, 5, 0, 1], false, false, false, false, [0], true, false⟩
  | .imax => ⟨0x088, (some .d), (some .s), (some .s), none, true, [2, 11, 12, 13, 14, 3, 4, 5, 0, 1], false, false, false, false, [0], true, false⟩
  | .iabs => ⟨0x089, (some .d), (some .s), none, none, true, [2, 11, 13, 4], false, false, false, false, [0, 1], true, false⟩
  | .and => ⟨0x08A, (some .d), (some .s), (some .s), none, true, [0, 1], false, false, false, false, [0], true, false⟩
  | .or => ⟨0x08B, (some .d), (some .s), (some .s), none, true, [0, 1], false, false, false, false, [0], true, false⟩
  | .xor => ⟨0x08C, (some .d), (some .s), (some .s), none, true, [0, 1], false, false, false, false, [0], true, false⟩
  | .not => ⟨0x08D, (some .d), (some .s), none, none, true, [0, 1], false, false, false, false, [0], true, false⟩
  | .shl => ⟨0x08E, (some .d), (some .s), (some .s), none, true, [0, 1], false, false, false, false, [0], true, false⟩
  | .shr => ⟨0x08F, (some .d), (some .s), (some .s), none, true, [0, 1], false, false, false, false, [0], true, false⟩
  | .sra => ⟨0x090, (some .d), (some .s), (some .s), none, true, [2, 4], false, false, false, false, [0], true, false⟩
  | .rot => ⟨0x091, (some .d), (some .s), (some .s), none, true, [0, 1], false, false, false, false, [0], true, false⟩
  | .popc => ⟨0x092, (some .d), (some .s), none, none, true, [0, 1], false, false, false, false, [0], true, false⟩
  | .clz => ⟨0x093, (some .d), (some .s), none, none, true, [0, 1], false, false, false, false, [0], true, false⟩
  | .brev => ⟨0x094, (some .d), (some .s), none, none, true, [0, 1], false, false, false, false, [0], true, false⟩
  | .bfx => ⟨0x095, (some .d), (some .s), (some .s), none, true, [3, 2, 5, 4], false, false, false, false, [0], true, false⟩
  | .bfi => ⟨0x096, (some .d), (some .s), (some .s), none, true, [0, 1], false, false, false, false, [0], true, false⟩
  | .sel => ⟨0x097, (some .d), (some .s), (some .s), (some .p), false, [0, 1], false, false, false, false, [0], false, false⟩
  | .icmp => ⟨0x098, (some .p), (some .s), (some .s), none, true, [2, 11, 12, 13, 14, 3, 4, 5, 0, 1], false, false, false, false, [1, 2, 3, 4, 5, 6], false, false⟩
  | .mov => ⟨0x099, (some .d), (some .s), none, none, true, [0, 1], false, false, false, false, [0], true, false⟩
  | .movi => ⟨0x09A, (some .d), none, (some .s), none, true, [0, 1], false, false, false, false, [0], true, false⟩
  | .lea => ⟨0x09B, (some .d), (some .a), (some .o), none, true, [1], false, false, false, false, [0], true, false⟩
  | .fadd => ⟨0x0C0, (some .d), (some .s), (some .s), none, true, [6, 7, 8], true, false, false, false, [0], true, false⟩
  | .fsub => ⟨0x0C1, (some .d), (some .s), (some .s), none, true, [6, 7, 8], true, false, false, false, [0], true, false⟩
  | .fmul => ⟨0x0C2, (some .d), (some .s), (some .s), none, true, [6, 7, 8], true, false, false, false, [0], true, false⟩
  | .ffma => ⟨0x0C3, (some .d), (some .s), (some .s), (some .s), true, [6, 7, 8], true, false, false, false, [0], true, true⟩
  | .fmin => ⟨0x0C4, (some .d), (some .s), (some .s), none, true, [6, 7, 8], false, false, false, false, [0], true, false⟩
  | .fmax => ⟨0x0C5, (some .d), (some .s), (some .s), none, true, [6, 7, 8], false, false, false, false, [0], true, false⟩
  | .fcmp => ⟨0x0C6, (some .p), (some .s), (some .s), none, true, [6, 7, 8], false, false, false, false, [1, 2, 3, 4, 5, 6, 7, 8], false, false⟩
  | .fclass => ⟨0x0C7, (some .p), (some .s), (some .s), none, true, [6, 7, 8], false, false, false, false, [0], false, false⟩
  | .frnd => ⟨0x0C8, (some .d), (some .s), none, none, true, [6, 7, 8], true, false, false, false, [0], true, false⟩
  | .fscl => ⟨0x0C9, (some .d), (some .s), (some .s), none, true, [6, 7, 8], true, false, false, false, [0], true, false⟩
  | .fdot2 => ⟨0x0CA, (some .d), (some .s), (some .s), (some .s), true, [8, 7], true, false, false, false, [0], true, true⟩
  | .rcp => ⟨0x100, (some .d), (some .s), none, none, true, [6], false, false, false, false, [0], true, false⟩
  | .rsq => ⟨0x101, (some .d), (some .s), none, none, true, [6], false, false, false, false, [0], true, false⟩
  | .sqrt => ⟨0x102, (some .d), (some .s), none, none, true, [6], false, false, false, false, [0], true, false⟩
  | .ex2 => ⟨0x103, (some .d), (some .s), none, none, true, [6], false, false, false, false, [0], true, false⟩
  | .lg2 => ⟨0x104, (some .d), (some .s), none, none, true, [6], false, false, false, false, [0], true, false⟩
  | .sin => ⟨0x105, (some .d), (some .s), none, none, true, [6], false, false, false, false, [0], true, false⟩
  | .cos => ⟨0x106, (some .d), (some .s), none, none, true, [6], false, false, false, false, [0], true, false⟩
  | .tanh => ⟨0x107, (some .d), (some .s), none, none, true, [6], false, false, false, false, [0], true, false⟩
  | .fcvt => ⟨0x108, (some .d), (some .s), none, none, false, [6, 7, 8, 9], true, false, false, false, [6, 7, 8, 9], true, false⟩
  | .f2i => ⟨0x109, (some .d), (some .s), none, none, false, [2, 11, 12, 13, 14, 3, 4, 5, 0, 1], true, false, false, false, [6, 7, 8, 9], true, false⟩
  | .i2f => ⟨0x10A, (some .d), (some .s), none, none, false, [6, 7, 8, 9], true, false, false, false, [2, 3, 4, 5, 11, 12, 13, 14], true, false⟩
  | .pack => ⟨0x10B, (some .d), (some .s), (some .s), none, true, [8, 7], true, false, false, false, [0], true, false⟩
  | .unpk => ⟨0x10C, (some .d), (some .s), none, none, true, [8, 7], false, false, false, false, [1, 2], true, false⟩
  | .plog => ⟨0x10D, (some .p), (some .p), (some .p), none, true, [0], false, false, false, false, [1, 2, 3, 4], false, false⟩
  | .pmov => ⟨0x10E, (some .p), (some .p), none, none, true, [0], false, false, false, false, [0, 1, 2], false, false⟩
  | .ld => ⟨0x140, (some .d), (some .a), (some .o), none, true, [0, 11, 12, 13, 14, 1], false, true, true, true, [0, 1, 2], true, false⟩
  | .st => ⟨0x141, (some .s), (some .a), (some .o), none, true, [0, 11, 12, 13, 14, 1], false, true, true, true, [0, 1, 2], true, false⟩
  | .pref => ⟨0x142, none, (some .a), (some .o), none, true, [0], false, false, false, true, [0, 1], false, false⟩
  | .xst => ⟨0x143, (some .s), (some .s), (some .s), none, true, [0, 1], false, false, false, false, [0], false, false⟩
  | .rdrain => ⟨0x144, none, none, none, none, true, [0], false, false, false, false, [0], false, false⟩
  | .rinv => ⟨0x145, none, (some .a), (some .o), none, true, [0], false, false, false, false, [0], false, false⟩
  | .fence => ⟨0x146, none, none, none, none, true, [0], false, true, false, false, [0], false, false⟩
  | .waitc => ⟨0x147, none, (some .i), none, none, true, [0], false, false, false, false, [0], false, false⟩
  | .atom => ⟨0x180, (some .d), (some .a), (some .o), (some .s), false, [0, 2, 3, 1, 4, 5], false, true, false, false, [1, 2, 3, 4, 5, 6, 7], false, false⟩
  | .cas => ⟨0x181, (some .d), (some .a), (some .s), (some .s), false, [0, 1], false, true, false, false, [0], false, false⟩
  | .red => ⟨0x182, (some .s), (some .a), (some .o), none, true, [2, 3, 4, 5, 0, 1, 6], false, true, false, false, [1, 3, 4, 5, 6, 7], false, false⟩
  | .regx => ⟨0x188, (some .p), (some .i), none, none, true, [0], false, false, false, false, [0], false, false⟩
  | .regf => ⟨0x189, none, (some .i), none, none, true, [0], false, false, false, false, [0], false, false⟩
  | .shmap => ⟨0x18A, (some .n), (some .n), (some .i), (some .s), false, [0], false, false, false, false, [0], false, false⟩
  | .shunm => ⟨0x18B, none, (some .n), none, none, false, [0], false, false, false, false, [0], false, false⟩
  | .shwr => ⟨0x18C, (some .n), (some .s), none, none, false, [0], false, false, false, false, [0], false, false⟩
  | .shrd => ⟨0x18D, (some .d), (some .n), none, none, false, [0], false, false, false, false, [0], false, false⟩
  | .csrr => ⟨0x190, (some .d), (some .k), none, none, false, [0], false, false, false, false, [0], false, false⟩
  | .csrw => ⟨0x191, (some .k), (some .s), none, none, false, [0], false, false, false, false, [0], false, false⟩
  | .csrs => ⟨0x192, (some .k), (some .s), none, none, false, [0], false, false, false, false, [0], false, false⟩
  | .csrc => ⟨0x193, (some .k), (some .s), none, none, false, [0], false, false, false, false, [0], false, false⟩
  | .tdef => ⟨0x1C0, (some .p), (some .t), (some .u), none, true, [0], false, false, false, false, [0], false, false⟩
  | .tfree => ⟨0x1C1, none, (some .t), none, none, true, [0], false, false, false, false, [0], false, false⟩
  | .tstat => ⟨0x1C2, (some .d), (some .t), none, none, true, [0], false, false, false, false, [0], false, false⟩
  | .tmark => ⟨0x1C3, none, (some .t), none, none, true, [0], false, false, false, false, [0], false, false⟩
  | .cpy => ⟨0x1C4, (some .t), (some .a), (some .o), (some .u), false, [0], false, false, false, true, [0], false, false⟩
  | .cpo => ⟨0x1C5, (some .t), (some .a), (some .o), (some .u), false, [0], false, false, false, true, [0], false, false⟩
  | .cpr => ⟨0x1C6, (some .t), (some .a), (some .o), (some .u), false, [6, 2], false, false, false, true, [1], false, false⟩
  | .mxe => ⟨0x1C8, none, (some .u), none, none, true, [0], false, false, false, false, [0], false, false⟩
  | .mma => ⟨0x1C9, (some .t), (some .u), (some .u), (some .u), false, [8, 7, 9, 10], false, false, false, false, [0], false, false⟩
  | .mxp => ⟨0x1CA, none, (some .s), none, none, true, [0], false, false, false, false, [0], false, false⟩
  | .acco => ⟨0x1D0, none, (some .u), (some .s), (some .s), false, [0], false, false, false, false, [0], false, false⟩
  | .accc => ⟨0x1D1, (some .d), (some .a), (some .o), none, true, [6, 7, 8, 9, 2, 11, 12, 13, 14, 3, 4, 5, 0, 1], false, false, false, false, [0], false, false⟩
  | .accr => ⟨0x1D2, (some .d), (some .a), (some .o), none, true, [6, 7, 8, 9, 2, 11, 12, 13, 14, 3, 4, 5, 0, 1], false, false, false, false, [0], false, false⟩
  | .acca => ⟨0x1D3, (some .s), (some .a), (some .o), none, true, [6, 7, 8, 9, 2, 11, 12, 13, 14, 3, 4, 5, 0, 1], false, false, false, false, [0], false, false⟩
  | .accz => ⟨0x1D4, none, (some .a), (some .o), none, true, [0], false, false, false, false, [0], false, false⟩

/-- The stem of an opcode; an opcode that is not listed is unassigned (R228). -/
def stemOf (op : BitVec 9) : Option Stem :=
  match op.toNat with
  | 0x000 => some .nop
  | 0x001 => some .bra
  | 0x002 => some .brx
  | 0x003 => some .call
  | 0x004 => some .callx
  | 0x005 => some .ret
  | 0x006 => some .yield
  | 0x007 => some .rgn
  | 0x008 => some .itend
  | 0x009 => some .rfl
  | 0x00A => some .exit
  | 0x00B => some .trap
  | 0x00C => some .bkpt
  | 0x00D => some .tret
  | 0x00E => some .pdone
  | 0x040 => some .join
  | 0x041 => some .leave
  | 0x042 => some .waitm
  | 0x043 => some .mmov
  | 0x044 => some .mlog
  | 0x045 => some .mfrp
  | 0x046 => some .vote
  | 0x047 => some .shfl
  | 0x048 => some .sred
  | 0x049 => some .sscan
  | 0x04A => some .bar
  | 0x04B => some .gbar
  | 0x080 => some .iadd
  | 0x081 => some .isub
  | 0x082 => some .imul
  | 0x083 => some .imulh
  | 0x084 => some .imad
  | 0x085 => some .idiv
  | 0x086 => some .irem
  | 0x087 => some .imin
  | 0x088 => some .imax
  | 0x089 => some .iabs
  | 0x08A => some .and
  | 0x08B => some .or
  | 0x08C => some .xor
  | 0x08D => some .not
  | 0x08E => some .shl
  | 0x08F => some .shr
  | 0x090 => some .sra
  | 0x091 => some .rot
  | 0x092 => some .popc
  | 0x093 => some .clz
  | 0x094 => some .brev
  | 0x095 => some .bfx
  | 0x096 => some .bfi
  | 0x097 => some .sel
  | 0x098 => some .icmp
  | 0x099 => some .mov
  | 0x09A => some .movi
  | 0x09B => some .lea
  | 0x0C0 => some .fadd
  | 0x0C1 => some .fsub
  | 0x0C2 => some .fmul
  | 0x0C3 => some .ffma
  | 0x0C4 => some .fmin
  | 0x0C5 => some .fmax
  | 0x0C6 => some .fcmp
  | 0x0C7 => some .fclass
  | 0x0C8 => some .frnd
  | 0x0C9 => some .fscl
  | 0x0CA => some .fdot2
  | 0x100 => some .rcp
  | 0x101 => some .rsq
  | 0x102 => some .sqrt
  | 0x103 => some .ex2
  | 0x104 => some .lg2
  | 0x105 => some .sin
  | 0x106 => some .cos
  | 0x107 => some .tanh
  | 0x108 => some .fcvt
  | 0x109 => some .f2i
  | 0x10A => some .i2f
  | 0x10B => some .pack
  | 0x10C => some .unpk
  | 0x10D => some .plog
  | 0x10E => some .pmov
  | 0x140 => some .ld
  | 0x141 => some .st
  | 0x142 => some .pref
  | 0x143 => some .xst
  | 0x144 => some .rdrain
  | 0x145 => some .rinv
  | 0x146 => some .fence
  | 0x147 => some .waitc
  | 0x180 => some .atom
  | 0x181 => some .cas
  | 0x182 => some .red
  | 0x188 => some .regx
  | 0x189 => some .regf
  | 0x18A => some .shmap
  | 0x18B => some .shunm
  | 0x18C => some .shwr
  | 0x18D => some .shrd
  | 0x190 => some .csrr
  | 0x191 => some .csrw
  | 0x192 => some .csrs
  | 0x193 => some .csrc
  | 0x1C0 => some .tdef
  | 0x1C1 => some .tfree
  | 0x1C2 => some .tstat
  | 0x1C3 => some .tmark
  | 0x1C4 => some .cpy
  | 0x1C5 => some .cpo
  | 0x1C6 => some .cpr
  | 0x1C8 => some .mxe
  | 0x1C9 => some .mma
  | 0x1CA => some .mxp
  | 0x1D0 => some .acco
  | 0x1D1 => some .accc
  | 0x1D2 => some .accr
  | 0x1D3 => some .acca
  | 0x1D4 => some .accz
  | _ => none

/-- The stem and the code of an instruction row; an event row has none. -/
def Instr.view : Instr → Option (Stem × Code)
  | .nop x => some (.nop, x)
  | .bra x => some (.bra, .short x)
  | .braW x => some (.bra, .long x)
  | .brx x => some (.brx, .short x)
  | .brxW x => some (.brx, .long x)
  | .call x => some (.call, .short x)
  | .callW x => some (.call, .long x)
  | .callx x => some (.callx, .short x)
  | .callxW x => some (.callx, .long x)
  | .ret x => some (.ret, x)
  | .yield x => some (.yield, x)
  | .rgn x => some (.rgn, .short x)
  | .rgnW x => some (.rgn, .long x)
  | .itend x => some (.itend, x)
  | .rfl x => some (.rfl, .short x)
  | .rflW x => some (.rfl, .long x)
  | .exit x => some (.exit, x)
  | .trap x => some (.trap, .short x)
  | .trapW x => some (.trap, .long x)
  | .bkpt x => some (.bkpt, x)
  | .tret x => some (.tret, x)
  | .pdone x => some (.pdone, x)
  | .join x => some (.join, x)
  | .leave x => some (.leave, x)
  | .waitm x => some (.waitm, x)
  | .mmov x => some (.mmov, .short x)
  | .mmovW x => some (.mmov, .long x)
  | .mlog x => some (.mlog, .short x)
  | .mlogW x => some (.mlog, .long x)
  | .mfrp x => some (.mfrp, x)
  | .vote x => some (.vote, .short x)
  | .voteW x => some (.vote, .long x)
  | .shfl x => some (.shfl, .short x)
  | .shflW x => some (.shfl, .long x)
  | .sred x => some (.sred, .short x)
  | .sredW x => some (.sred, .long x)
  | .sscan x => some (.sscan, .short x)
  | .sscanW x => some (.sscan, .long x)
  | .bar x => some (.bar, x)
  | .gbar x => some (.gbar, x)
  | .iadd x => some (.iadd, .short x)
  | .iaddW x => some (.iadd, .long x)
  | .isub x => some (.isub, .short x)
  | .isubW x => some (.isub, .long x)
  | .imul x => some (.imul, .short x)
  | .imulW x => some (.imul, .long x)
  | .imulh x => some (.imulh, .short x)
  | .imulhW x => some (.imulh, .long x)
  | .imad x => some (.imad, .short x)
  | .imadW x => some (.imad, .long x)
  | .idiv x => some (.idiv, .short x)
  | .idivW x => some (.idiv, .long x)
  | .irem x => some (.irem, .short x)
  | .iremW x => some (.irem, .long x)
  | .imin x => some (.imin, .short x)
  | .iminW x => some (.imin, .long x)
  | .imax x => some (.imax, .short x)
  | .imaxW x => some (.imax, .long x)
  | .iabs x => some (.iabs, .short x)
  | .iabsW x => some (.iabs, .long x)
  | .and x => some (.and, .short x)
  | .andW x => some (.and, .long x)
  | .or x => some (.or, .short x)
  | .orW x => some (.or, .long x)
  | .xor x => some (.xor, .short x)
  | .xorW x => some (.xor, .long x)
  | .not x => some (.not, .short x)
  | .notW x => some (.not, .long x)
  | .shl x => some (.shl, .short x)
  | .shlW x => some (.shl, .long x)
  | .shr x => some (.shr, .short x)
  | .shrW x => some (.shr, .long x)
  | .sra x => some (.sra, .short x)
  | .sraW x => some (.sra, .long x)
  | .rot x => some (.rot, .short x)
  | .rotW x => some (.rot, .long x)
  | .popc x => some (.popc, .short x)
  | .popcW x => some (.popc, .long x)
  | .clz x => some (.clz, .short x)
  | .clzW x => some (.clz, .long x)
  | .brev x => some (.brev, .short x)
  | .brevW x => some (.brev, .long x)
  | .bfx x => some (.bfx, .short x)
  | .bfxW x => some (.bfx, .long x)
  | .bfi x => some (.bfi, .short x)
  | .bfiW x => some (.bfi, .long x)
  | .sel x => some (.sel, .long (.three x))
  | .icmp x => some (.icmp, .short x)
  | .icmpW x => some (.icmp, .long x)
  | .mov x => some (.mov, .short x)
  | .movW x => some (.mov, .long x)
  | .movi x => some (.movi, .short x)
  | .moviW x => some (.movi, .long x)
  | .lea x => some (.lea, .short x)
  | .leaW x => some (.lea, .long x)
  | .fadd x => some (.fadd, .short x)
  | .faddW x => some (.fadd, .long x)
  | .fsub x => some (.fsub, .short x)
  | .fsubW x => some (.fsub, .long x)
  | .fmul x => some (.fmul, .short x)
  | .fmulW x => some (.fmul, .long x)
  | .ffma x => some (.ffma, .short x)
  | .ffmaW x => some (.ffma, .long x)
  | .fmin x => some (.fmin, .short x)
  | .fminW x => some (.fmin, .long x)
  | .fmax x => some (.fmax, .short x)
  | .fmaxW x => some (.fmax, .long x)
  | .fcmp x => some (.fcmp, .short x)
  | .fcmpW x => some (.fcmp, .long x)
  | .fclass x => some (.fclass, .short x)
  | .fclassW x => some (.fclass, .long x)
  | .frnd x => some (.frnd, .short x)
  | .frndW x => some (.frnd, .long x)
  | .fscl x => some (.fscl, .short x)
  | .fsclW x => some (.fscl, .long x)
  | .fdot2 x => some (.fdot2, .short x)
  | .fdot2W x => some (.fdot2, .long x)
  | .rcp x => some (.rcp, .short x)
  | .rcpW x => some (.rcp, .long x)
  | .rsq x => some (.rsq, .short x)
  | .rsqW x => some (.rsq, .long x)
  | .sqrt x => some (.sqrt, .short x)
  | .sqrtW x => some (.sqrt, .long x)
  | .ex2 x => some (.ex2, .short x)
  | .ex2W x => some (.ex2, .long x)
  | .lg2 x => some (.lg2, .short x)
  | .lg2W x => some (.lg2, .long x)
  | .sin x => some (.sin, .short x)
  | .sinW x => some (.sin, .long x)
  | .cos x => some (.cos, .short x)
  | .cosW x => some (.cos, .long x)
  | .tanh x => some (.tanh, .short x)
  | .tanhW x => some (.tanh, .long x)
  | .fcvt x => some (.fcvt, .long (.three x))
  | .f2i x => some (.f2i, .long (.three x))
  | .i2f x => some (.i2f, .long (.three x))
  | .pack x => some (.pack, .short x)
  | .packW x => some (.pack, .long x)
  | .unpk x => some (.unpk, .short x)
  | .unpkW x => some (.unpk, .long x)
  | .plog x => some (.plog, .short x)
  | .plogW x => some (.plog, .long x)
  | .pmov x => some (.pmov, .short x)
  | .pmovW x => some (.pmov, .long x)
  | .ld x => some (.ld, .short x)
  | .ldW x => some (.ld, .long x)
  | .st x => some (.st, .short x)
  | .stW x => some (.st, .long x)
  | .pref x => some (.pref, .short x)
  | .prefW x => some (.pref, .long x)
  | .xst x => some (.xst, .short x)
  | .xstW x => some (.xst, .long x)
  | .rdrain x => some (.rdrain, x)
  | .rinv x => some (.rinv, .short x)
  | .rinvW x => some (.rinv, .long x)
  | .fence x => some (.fence, .short x)
  | .fenceW x => some (.fence, .long x)
  | .waitc x => some (.waitc, .short x)
  | .waitcW x => some (.waitc, .long x)
  | .atom x => some (.atom, .long (.three x))
  | .cas x => some (.cas, .long (.three x))
  | .red x => some (.red, .short x)
  | .redW x => some (.red, .long x)
  | .regx x => some (.regx, .short x)
  | .regxW x => some (.regx, .long x)
  | .regf x => some (.regf, .short x)
  | .regfW x => some (.regf, .long x)
  | .shmap x => some (.shmap, .long (.three x))
  | .shunm x => some (.shunm, .long (.three x))
  | .shwr x => some (.shwr, .long (.three x))
  | .shrd x => some (.shrd, .long (.three x))
  | .csrr x => some (.csrr, .long (.three x))
  | .csrw x => some (.csrw, .long (.three x))
  | .csrs x => some (.csrs, .long (.three x))
  | .csrc x => some (.csrc, .long (.three x))
  | .tdef x => some (.tdef, x)
  | .tfree x => some (.tfree, x)
  | .tstat x => some (.tstat, .short x)
  | .tstatW x => some (.tstat, .long x)
  | .tmark x => some (.tmark, x)
  | .cpy x => some (.cpy, .long (.three x))
  | .cpo x => some (.cpo, .long (.three x))
  | .cpr x => some (.cpr, .long (.three x))
  | .mxe x => some (.mxe, x)
  | .mma x => some (.mma, .long (.three x))
  | .mxp x => some (.mxp, .short x)
  | .mxpW x => some (.mxp, .long x)
  | .acco x => some (.acco, .long (.three x))
  | .accc x => some (.accc, .short x)
  | .acccW x => some (.accc, .long x)
  | .accr x => some (.accr, .short x)
  | .accrW x => some (.accr, .long x)
  | .acca x => some (.acca, .short x)
  | .accaW x => some (.acca, .long x)
  | .accz x => some (.accz, .short x)
  | .acczW x => some (.accz, .long x)
  | .powerUp => none
  | .powerLoss => none
  | .orderlyShutdown _ => none
  | .junctionOvertempTimeout => none
  | .thermalSensorCrossing _ _ _ => none
  | .powerEpochStart _ => none
  | .demandReport => none
  | .budgetSend => none
  | .withheldCycle => none
  | .issueCycle => none
  | .timingReplay => none
  | .linkCrcRetry => none
  | .linkLaneFailure => none
  | .linkDown => none
  | .linkTrainingDone => none
  | .dtLockLoss => none
  | .snpDeadline => none
  | .dieRejoin => none
  | .portDown => none
  | .leaseGrant => none
  | .nearCopyInstall => none
  | .leaseExpiry => none
  | .drainArrival => none
  | .snpInvalidation => none
  | .loanRecall => none
  | .ackArrival => none
  | .loanReturn => none
  | .loanInstall => none
  | .completionTimeArrival => none
  | .queuedRequestServe => none
  | .retryResend => none
  | .reservedQueueEntryTimeout => none
  | .parityDelta => none
  | .sliceMapChange => none
  | .stubPowerOff => none
  | .remapResend => none
  | .rmaWrite _ _ _ _ => none
  | .rmaWriteCompletion _ => none
  | .rmaRead _ _ _ _ => none
  | .transportAtomic _ _ _ _ _ _ _ => none
  | .unknownOpcode _ _ => none
  | .launch _ _ => none
  | .abort _ _ _ => none
  | .preemptSuspend _ _ _ => none
  | .preemptSuspendResponse => none
  | .preemptResume _ _ _ => none
  | .shoot _ _ _ _ => none
  | .shootResponse _ _ => none
  | .resetPartition _ _ _ _ => none
  | .resetCopyEngine _ _ _ _ => none
  | .resetMatrixEngine _ _ _ _ => none
  | .resetLink _ _ _ _ => none
  | .queryModule _ _ _ => none
  | .queryPartition _ _ _ => none
  | .queryTract _ _ _ => none
  | .queryLink _ _ _ => none
  | .queryPort _ _ _ => none
  | .queryLaunch _ _ _ => none
  | .queryRasLog _ _ _ => none
  | .qosAssign _ _ _ => none
  | .qosShare _ _ _ _ => none
  | .qosChannel _ _ _ _ => none
  | .qosWays _ _ _ _ _ => none
  | .qosCtxtable _ _ _ _ => none
  | .qosCode _ _ _ _ => none
  | .qosRelease _ _ _ => none
  | .qosMgmtkey _ _ _ => none
  | .qosPkey _ _ _ _ => none
  | .eventcfg _ _ _ => none
  | .attest _ _ => none
  | .fwload _ _ => none
  | .fwloadFinal _ _ => none
  | .launchCompletion => none
  | .batchForm => none
  | .batchQueueEntryFreed => none
  | .slotReturnSend => none
  | .gangPlacement => none
  | .blockSetup => none
  | .blockRetire => none
  | .recordDrainTimer => none
  | .drainSend => none
  | .regxGrant => none
  | .barRelease => none
  | .gbarComplete => none
  | .waitmRelease => none
  | .loadReply => none
  | .atomicAtHome => none
  | .reductionAtHome => none
  | .xstLanding => none
  | .copyCommandStart => none
  | .copySourceReadDone => none
  | .copyEngineFault => none
  | .tableEntry => none
  | .passGrant => none
  | .priorityAging => none
  | .passEnd => none
  | .passFault => none
  | .abacusOpAtHome => none
  | .controlParityError _ _ _ => none
  | .gangKill => none
  | .killStopDeadline => none
  | .gangRelaunch => none
  | .quadRetirement => none
  | .preemptStop => none
  | .preemptDeadline => none
  | .preemptionComplete => none
  | .rlimWrite _ _ _ => none
  | .einjDisarm _ _ _ => none
  | .einjArmCorrected _ _ _ => none
  | .einjArmUncorrected _ _ _ => none
  | .einjArmControl _ _ _ => none
  | .specialRegisterWrite _ _ _ => none
  | .pseudoChannelFailure => none
  | .portUp => none
  | .hostStoreTransportCompletion => none
  | .engineWriteAtHome => none

/-- The row of the table that a stem in a given form belongs to; none where the stem has no such form. -/
def Instr.ofCode : Stem → Code → Option Instr
  | .nop, x => some (.nop x)
  | .bra, .short x => some (.bra x)
  | .bra, .long x => some (.braW x)
  | .brx, .short x => some (.brx x)
  | .brx, .long x => some (.brxW x)
  | .call, .short x => some (.call x)
  | .call, .long x => some (.callW x)
  | .callx, .short x => some (.callx x)
  | .callx, .long x => some (.callxW x)
  | .ret, x => some (.ret x)
  | .yield, x => some (.yield x)
  | .rgn, .short x => some (.rgn x)
  | .rgn, .long x => some (.rgnW x)
  | .itend, x => some (.itend x)
  | .rfl, .short x => some (.rfl x)
  | .rfl, .long x => some (.rflW x)
  | .exit, x => some (.exit x)
  | .trap, .short x => some (.trap x)
  | .trap, .long x => some (.trapW x)
  | .bkpt, x => some (.bkpt x)
  | .tret, x => some (.tret x)
  | .pdone, x => some (.pdone x)
  | .join, x => some (.join x)
  | .leave, x => some (.leave x)
  | .waitm, x => some (.waitm x)
  | .mmov, .short x => some (.mmov x)
  | .mmov, .long x => some (.mmovW x)
  | .mlog, .short x => some (.mlog x)
  | .mlog, .long x => some (.mlogW x)
  | .mfrp, x => some (.mfrp x)
  | .vote, .short x => some (.vote x)
  | .vote, .long x => some (.voteW x)
  | .shfl, .short x => some (.shfl x)
  | .shfl, .long x => some (.shflW x)
  | .sred, .short x => some (.sred x)
  | .sred, .long x => some (.sredW x)
  | .sscan, .short x => some (.sscan x)
  | .sscan, .long x => some (.sscanW x)
  | .bar, x => some (.bar x)
  | .gbar, x => some (.gbar x)
  | .iadd, .short x => some (.iadd x)
  | .iadd, .long x => some (.iaddW x)
  | .isub, .short x => some (.isub x)
  | .isub, .long x => some (.isubW x)
  | .imul, .short x => some (.imul x)
  | .imul, .long x => some (.imulW x)
  | .imulh, .short x => some (.imulh x)
  | .imulh, .long x => some (.imulhW x)
  | .imad, .short x => some (.imad x)
  | .imad, .long x => some (.imadW x)
  | .idiv, .short x => some (.idiv x)
  | .idiv, .long x => some (.idivW x)
  | .irem, .short x => some (.irem x)
  | .irem, .long x => some (.iremW x)
  | .imin, .short x => some (.imin x)
  | .imin, .long x => some (.iminW x)
  | .imax, .short x => some (.imax x)
  | .imax, .long x => some (.imaxW x)
  | .iabs, .short x => some (.iabs x)
  | .iabs, .long x => some (.iabsW x)
  | .and, .short x => some (.and x)
  | .and, .long x => some (.andW x)
  | .or, .short x => some (.or x)
  | .or, .long x => some (.orW x)
  | .xor, .short x => some (.xor x)
  | .xor, .long x => some (.xorW x)
  | .not, .short x => some (.not x)
  | .not, .long x => some (.notW x)
  | .shl, .short x => some (.shl x)
  | .shl, .long x => some (.shlW x)
  | .shr, .short x => some (.shr x)
  | .shr, .long x => some (.shrW x)
  | .sra, .short x => some (.sra x)
  | .sra, .long x => some (.sraW x)
  | .rot, .short x => some (.rot x)
  | .rot, .long x => some (.rotW x)
  | .popc, .short x => some (.popc x)
  | .popc, .long x => some (.popcW x)
  | .clz, .short x => some (.clz x)
  | .clz, .long x => some (.clzW x)
  | .brev, .short x => some (.brev x)
  | .brev, .long x => some (.brevW x)
  | .bfx, .short x => some (.bfx x)
  | .bfx, .long x => some (.bfxW x)
  | .bfi, .short x => some (.bfi x)
  | .bfi, .long x => some (.bfiW x)
  | .sel, .long (.three x) => some (.sel x)
  | .sel, _ => none
  | .icmp, .short x => some (.icmp x)
  | .icmp, .long x => some (.icmpW x)
  | .mov, .short x => some (.mov x)
  | .mov, .long x => some (.movW x)
  | .movi, .short x => some (.movi x)
  | .movi, .long x => some (.moviW x)
  | .lea, .short x => some (.lea x)
  | .lea, .long x => some (.leaW x)
  | .fadd, .short x => some (.fadd x)
  | .fadd, .long x => some (.faddW x)
  | .fsub, .short x => some (.fsub x)
  | .fsub, .long x => some (.fsubW x)
  | .fmul, .short x => some (.fmul x)
  | .fmul, .long x => some (.fmulW x)
  | .ffma, .short x => some (.ffma x)
  | .ffma, .long x => some (.ffmaW x)
  | .fmin, .short x => some (.fmin x)
  | .fmin, .long x => some (.fminW x)
  | .fmax, .short x => some (.fmax x)
  | .fmax, .long x => some (.fmaxW x)
  | .fcmp, .short x => some (.fcmp x)
  | .fcmp, .long x => some (.fcmpW x)
  | .fclass, .short x => some (.fclass x)
  | .fclass, .long x => some (.fclassW x)
  | .frnd, .short x => some (.frnd x)
  | .frnd, .long x => some (.frndW x)
  | .fscl, .short x => some (.fscl x)
  | .fscl, .long x => some (.fsclW x)
  | .fdot2, .short x => some (.fdot2 x)
  | .fdot2, .long x => some (.fdot2W x)
  | .rcp, .short x => some (.rcp x)
  | .rcp, .long x => some (.rcpW x)
  | .rsq, .short x => some (.rsq x)
  | .rsq, .long x => some (.rsqW x)
  | .sqrt, .short x => some (.sqrt x)
  | .sqrt, .long x => some (.sqrtW x)
  | .ex2, .short x => some (.ex2 x)
  | .ex2, .long x => some (.ex2W x)
  | .lg2, .short x => some (.lg2 x)
  | .lg2, .long x => some (.lg2W x)
  | .sin, .short x => some (.sin x)
  | .sin, .long x => some (.sinW x)
  | .cos, .short x => some (.cos x)
  | .cos, .long x => some (.cosW x)
  | .tanh, .short x => some (.tanh x)
  | .tanh, .long x => some (.tanhW x)
  | .fcvt, .long (.three x) => some (.fcvt x)
  | .fcvt, _ => none
  | .f2i, .long (.three x) => some (.f2i x)
  | .f2i, _ => none
  | .i2f, .long (.three x) => some (.i2f x)
  | .i2f, _ => none
  | .pack, .short x => some (.pack x)
  | .pack, .long x => some (.packW x)
  | .unpk, .short x => some (.unpk x)
  | .unpk, .long x => some (.unpkW x)
  | .plog, .short x => some (.plog x)
  | .plog, .long x => some (.plogW x)
  | .pmov, .short x => some (.pmov x)
  | .pmov, .long x => some (.pmovW x)
  | .ld, .short x => some (.ld x)
  | .ld, .long x => some (.ldW x)
  | .st, .short x => some (.st x)
  | .st, .long x => some (.stW x)
  | .pref, .short x => some (.pref x)
  | .pref, .long x => some (.prefW x)
  | .xst, .short x => some (.xst x)
  | .xst, .long x => some (.xstW x)
  | .rdrain, x => some (.rdrain x)
  | .rinv, .short x => some (.rinv x)
  | .rinv, .long x => some (.rinvW x)
  | .fence, .short x => some (.fence x)
  | .fence, .long x => some (.fenceW x)
  | .waitc, .short x => some (.waitc x)
  | .waitc, .long x => some (.waitcW x)
  | .atom, .long (.three x) => some (.atom x)
  | .atom, _ => none
  | .cas, .long (.three x) => some (.cas x)
  | .cas, _ => none
  | .red, .short x => some (.red x)
  | .red, .long x => some (.redW x)
  | .regx, .short x => some (.regx x)
  | .regx, .long x => some (.regxW x)
  | .regf, .short x => some (.regf x)
  | .regf, .long x => some (.regfW x)
  | .shmap, .long (.three x) => some (.shmap x)
  | .shmap, _ => none
  | .shunm, .long (.three x) => some (.shunm x)
  | .shunm, _ => none
  | .shwr, .long (.three x) => some (.shwr x)
  | .shwr, _ => none
  | .shrd, .long (.three x) => some (.shrd x)
  | .shrd, _ => none
  | .csrr, .long (.three x) => some (.csrr x)
  | .csrr, _ => none
  | .csrw, .long (.three x) => some (.csrw x)
  | .csrw, _ => none
  | .csrs, .long (.three x) => some (.csrs x)
  | .csrs, _ => none
  | .csrc, .long (.three x) => some (.csrc x)
  | .csrc, _ => none
  | .tdef, x => some (.tdef x)
  | .tfree, x => some (.tfree x)
  | .tstat, .short x => some (.tstat x)
  | .tstat, .long x => some (.tstatW x)
  | .tmark, x => some (.tmark x)
  | .cpy, .long (.three x) => some (.cpy x)
  | .cpy, _ => none
  | .cpo, .long (.three x) => some (.cpo x)
  | .cpo, _ => none
  | .cpr, .long (.three x) => some (.cpr x)
  | .cpr, _ => none
  | .mxe, x => some (.mxe x)
  | .mma, .long (.three x) => some (.mma x)
  | .mma, _ => none
  | .mxp, .short x => some (.mxp x)
  | .mxp, .long x => some (.mxpW x)
  | .acco, .long (.three x) => some (.acco x)
  | .acco, _ => none
  | .accc, .short x => some (.accc x)
  | .accc, .long x => some (.acccW x)
  | .accr, .short x => some (.accr x)
  | .accr, .long x => some (.accrW x)
  | .acca, .short x => some (.acca x)
  | .acca, .long x => some (.accaW x)
  | .accz, .short x => some (.accz x)
  | .accz, .long x => some (.acczW x)

/-- Width and access of each special register (R351): width rounded up to 32 or 64 (R352), and whether it is RW.
An index that is not listed is reserved. -/
def specialInfo (i : BitVec 9) : Option (Nat × Bool) :=
  match i.toNat with
  | 0x000 | 0x001 | 0x002 | 0x003 | 0x004 | 0x005 | 0x006 | 0x007 | 0x008 | 0x009 => some (32, false)
  | 0x010 => some (64, false)
  | 0x011 | 0x012 => some (32, false)
  | 0x013 => some (64, true)
  | 0x014 | 0x015 | 0x016 => some (32, true)
  | 0x017 => some (32, false)
  | 0x018 => some (32, true)
  | 0x019 => some (32, false)
  | 0x01A | 0x01B | 0x01C | 0x01D => some (64, false)
  | 0x01E => some (32, true)
  | 0x020 => some (32, false)
  | 0x021 | 0x022 | 0x023 | 0x024 => some (64, false)
  | _ => none

/-- The width in bits of a TY code (R200, R202). -/
def tyWidth (ty : BitVec 4) : Nat :=
  match ty.toNat with
  | 0 | 2 | 3 | 6 => 32
  | 1 | 4 | 5 => 64
  | 7 | 8 | 13 | 14 => 16
  | 9 | 11 | 12 => 8
  | 10 => 4
  | _ => 32

/-- Signed integer types (R200). -/
def tySigned (ty : BitVec 4) : Bool := ty = Ty.i8 || ty = Ty.i16 || ty = Ty.i32 || ty = Ty.i64

/-- Floating types (R202). -/
def tyFloat (ty : BitVec 4) : Bool := ty = Ty.f32 || ty = Ty.f16 || ty = Ty.bf16 || ty = Ty.k8

/-- The operand positions. -/
inductive Pos where
  | d | a | b | c
  deriving DecidableEq, Repr

/-- The operand of a position. -/
def Three.at (x : Three) : Pos → Operand
  | .d => x.d
  | .a => x.a
  | .b => x.b
  | .c => x.c

/-- The roles of a stem under a MOD: mmov and pmov change theirs with MOD (R230, R233). -/
def roleOf (stem : Stem) (mod : BitVec 9) (p : Pos) : Option Role :=
  match stem, mod.toNat, p with
  | .mmov, 1, .a => some .u
  | .mmov, 2, .d => some .u
  | .pmov, 1, .a => some .s
  | .pmov, 2, .d => some .d
  | _, _, .d => (opRow stem).d
  | _, _, .a => (opRow stem).a
  | _, _, .b => (opRow stem).b
  | _, _, .c => (opRow stem).c

/-- The width in bits of the operand at a position (R226, R227, R280, R352 and the instruction chapters). -/
def operandWidth (stem : Stem) (x : Three) (p : Pos) : Nat :=
  let w := max 8 (tyWidth x.ty)
  match stem, p with
  | .shl, .b | .shr, .b | .sra, .b | .rot, .b | .bfx, .b | .bfi, .b | .fscl, .b | .fclass, .b | .shfl, .b => 32
  | .lea, _ => 64
  | .ld, .a | .st, .a => if x.mod = 2 then 32 else 64
  | .rinv, .b => 32
  | .pref, _ | .rinv, _ | .accz, _ => 64
  | .atom, .a | .cas, .a | .red, .a | .accc, .a | .accr, .a | .acca, .a => 64
  | .ld, .b | .st, .b | .atom, .b | .red, .b | .accc, .b | .accr, .b | .acca, .b => 64
  | .bra, _ | .call, _ => 64
  | .fcvt, .a | .f2i, .a | .i2f, .a => max 8 (tyWidth (x.mod.setWidth 4))
  | .fdot2, .a | .fdot2, .b | .fdot2, .c | .fdot2, .d => 32
  | .pack, .a | .pack, .b | .pack, .d | .unpk, _ => 32
  | .icmp, .d | .fcmp, .d | .fclass, .d => 32
  | .xst, .a | .xst, .b => 32
  | .csrr, .d => match x.a with | .special i => ((specialInfo i).map (·.1)).getD 32 | _ => 32
  | .csrw, .a | .csrs, .a | .csrc, .a =>
    match x.d with | .special i => ((specialInfo i).map (·.1)).getD 32 | _ => 32
  | .cpy, _ | .cpo, _ | .cpr, _ | .mma, _ | .tdef, _ | .mxe, _ | .mmov, _ => 64
  | .acco, .a => 64
  | .brx, _ | .callx, _ | .trap, _ | .waitc, _ | .regx, _ | .regf, _ | .shmap, _ | .shunm, _ | .mxp, _
  | .acco, _ | .tstat, _ | .pmov, _ | .rgn, _ | .rfl, _ => 32
  | _, _ => w

/-- Role i takes the register kinds too in these stems (R235). -/
def iTakesRegister (stem : Stem) : Bool := stem = .regx || stem = .regf || stem = .shmap

/-- Role n names a register exactly in these stems (R235). -/
def nIsExact (stem : Stem) : Bool := stem = .shmap || stem = .shunm || stem = .shwr || stem = .shrd

/-- The destination may be of kind w without U (R225, R230). -/
def dTakesW (stem : Stem) : Bool := stem = .sred || stem = .sscan

/-- Positions of role m that are destinations; m0 there is ILLEGAL (R151). -/
def maskDest (stem : Stem) (mod : BitVec 9) (p : Pos) : Bool :=
  match stem, p with
  | .join, .a | .leave, .a => true
  | .mmov, .d => mod != 2
  | .mlog, .d | .mfrp, .d => true
  | _, _ => false

/-- A pair is named by its even register (R227). -/
def pairOk (width : Nat) (i : BitVec 9) : Bool := width != 64 || i.toNat % 2 == 0

/-- A literal of width below 64 is a zero or sign extension (R226). -/
def literalOk (width : Nat) (x : DWord) : Bool :=
  width ≥ 64 || x.toNat < 2 ^ width || decide (x = ((x.setWidth width).signExtend 64))

/-- Whether a base is a scratchpad offset, which a w register alone gives: ld and st under MOD s (R234). -/
def scratchBase (stem : Stem) (mod : BitVec 9) : Bool := (stem = .ld || stem = .st) && mod = 2

/-- One operand against its role (R225 to R227, R234 under MOD s, R223 for U). -/
def operandOk (stem : Stem) (x : Three) (p : Pos) : Bool :=
  let w := operandWidth stem x p
  let u := x.u
  match roleOf stem x.mod p, x.at p with
  | none, o => o = .none
  | some .d, .v i => !u && pairOk w i
  | some .d, .b i => !u && i.toNat < 32 && pairOk w i
  | some .d, .w i => (u || dTakesW stem) && i.toNat < 64
  | some .s, .v i => !u && pairOk w i
  | some .s, .b i => !u && i.toNat < 32 && pairOk w i
  | some .s, .w i => i.toNat < 64
  | some .s, .lit y => literalOk w y
  | some .s, .imm _ => true
  | some .s, .special i => (specialInfo i).isSome
  | some .u, .w i => i.toNat < 64
  | some .u, .lit y => p != .d && literalOk w y
  | some .u, .imm _ => p != .d
  | some .a, .v i => !u && pairOk w i && !scratchBase stem x.mod
  | some .a, .b i => !u && i.toNat < 32 && pairOk w i && !scratchBase stem x.mod
  | some .a, .w i => i.toNat < 64
  | some .o, .none => stem != .bra && stem != .call
  | some .o, .v _ => !u && stem != .bra && stem != .call
  | some .o, .b i => !u && i.toNat < 32 && stem != .bra && stem != .call
  | some .o, .w i => i.toNat < 64 && stem != .bra && stem != .call
  | some .o, .lit y => literalOk w y && ((stem != .bra && stem != .call) || y.toNat % 4 == 0)
  | some .o, .imm i => (stem != .bra && stem != .call) || i.toNat % 4 == 0
  | some .p, .p i => !u && i.toNat < 8
  | some .m, .m i => i.toNat < 12 && !(maskDest stem x.mod p && i.toNat == 0)
  | some .t, .t i => i.toNat < 32
  | some .i, .imm i => i.toNat < 256
  | some .i, .v _ => iTakesRegister stem
  | some .i, .b i => iTakesRegister stem && i.toNat < 32
  | some .i, .w i => iTakesRegister stem && i.toNat < 64
  | some .n, .v i => nIsExact stem || i.toNat % 8 == 0
  | some .k, .special i => (specialInfo i).isSome
  | some _, _ => false

/-- MOD, TY, RM, SC, ORD and CH against the row, R173, R235, R273 and R317. -/
def fieldsOk (stem : Stem) (x : Three) : Bool :=
  let e := opRow stem
  let isInt := !tyFloat x.ty
  let bitTy := x.ty = Ty.b32 || x.ty = Ty.b64
  e.mods.contains x.mod && e.tys.contains x.ty
  && (if e.rm then x.rm.toNat ≤ 4 else x.rm == 0)
  && (if e.sc then x.sc.toNat ≤ 4 else x.sc == 0)
  && (if e.ord then x.ord != 3 else x.ord == 0)
  && (if e.ch then x.ch != 3 else x.ch == 0)
  && (!x.u || e.u)
  && match stem with
    | .ld => x.ord != 2 && (x.ord != 0 || x.sc == 0) && (!x.u || x.mod == 1)
    | .st => x.ord != 1 && (x.ord != 0 || x.sc == 0) && (!x.u || x.mod == 1)
    | .sred | .sscan =>
      (x.rm == 0 || (!isInt && (x.mod == 1 || x.mod == 9)))
      && (isInt || x.mod == 1 || x.mod == 2 || x.mod == 3 || x.mod == 9 || x.mod == 10 || x.mod == 11)
    | .atom => if bitTy then x.mod == 2 || x.mod.toNat ≥ 5 else true
    | .red => if x.ty = Ty.f32 then x.mod == 1 else if bitTy then x.mod.toNat ≥ 5 else true
    | _ => true

/-- The guard pair G = 0b111 with GN = 1 is reserved (R222). -/
def Guard.ok (g : Guard) : Bool := !(g.p == 7 && g.neg)

/-- The checks of R237 on an instruction in its normal form. -/
def bodyOk (stem : Stem) (x : Three) : Bool :=
  x.g.ok && fieldsOk stem x && operandOk stem x .d && operandOk stem x .a && operandOk stem x .b && operandOk stem x .c

/-- What a 5-bit field names in the one-word and literal forms (R224); with U a register is a uniform one (R223). -/
def shortOperand (r : Option Role) (u : Bool) (f : BitVec 5) : Operand :=
  let i : BitVec 9 := f.setWidth 9
  match r with
  | none => .none
  | some .d | some .s | some .o => if u then .w i else .b i
  | some .u | some .a => .w i
  | some .p => .p i
  | some .m => .m i
  | some .t => .t i
  | some .i => .imm i
  | some .n => .v (i * 16)
  | some .k => .none

/-- The 15-bit branch offset of a one-word bra or call (R224). -/
def Short.offset (x : Short) : DWord := ((x.b ++ x.a ++ x.d : BitVec 15)).signExtend 64

/-- The normal form of a one-word instruction (R221): MOD is S, TY the default, C the register D where the map says so. -/
def Short.norm (stem : Stem) (x : Short) : Three :=
  let mod : BitVec 9 := if x.s then 1 else 0
  let e := opRow stem
  let isBra := decide (stem = .bra) || decide (stem = .call)
  let d := if isBra then .none else shortOperand (roleOf stem mod .d) x.u x.d
  { g := x.g, u := x.u,
    d := d,
    a := if isBra then .none else shortOperand (roleOf stem mod .a) x.u x.a,
    b := if isBra then .lit x.offset
         else if stem = .movi then .imm (x.b.setWidth 9) else shortOperand (roleOf stem mod .b) x.u x.b,
    c := if e.cEqD then d else .none,
    mod := mod, ch := 0, ord := 0, sc := 0, rm := 0, ty := e.tys.headD 0 }

/-- The normal form of any instruction: what it executes as. -/
def Code.norm (stem : Stem) : Code → Three
  | .short x => x.norm stem
  | .long (.lit x v) => { x.norm stem with b := .lit v }
  | .long (.three x) => x

/-- A field of an unused one-word position is 0; a field that holds a predicate or mask number is in range (R224).
mmov.tw and pmov.tob have no one-word form. -/
def shortFieldOk (r : Option Role) (f : BitVec 5) : Bool :=
  match r with
  | none => f == 0
  | some .p => f.toNat < 8
  | some .m => f.toNat < 12
  | _ => true

/-- The form's own checks (R237): unused fields, the literal form's B, the count of literals of a three-word form. -/
def formOk (stem : Stem) : Code → Bool
  | .short x =>
    let mod : BitVec 9 := if x.s then 1 else 0
    (opRow stem).base &&
      (stem = .bra || stem = .call ||
        (shortFieldOk (roleOf stem mod .d) x.d && shortFieldOk (roleOf stem mod .a) x.a
          && shortFieldOk (roleOf stem mod .b) x.b))
  | .long (.lit x _) =>
    let mod : BitVec 9 := if x.s then 1 else 0
    (opRow stem).base && x.b == 0 && shortFieldOk (roleOf stem mod .d) x.d && shortFieldOk (roleOf stem mod .a) x.a
      && (if stem = .bra || stem = .call then x.d == 0 && x.a == 0
          else roleOf stem mod .b = some .s || roleOf stem mod .b = some .o || roleOf stem mod .b = some .u)
  | .long (.three x) =>
    ([x.d, x.a, x.b, x.c].countP fun o => match o with | .lit _ => true | _ => false) ≤ 1

/-- Every check of R237 and R238 on an instruction of a stem. -/
def codeOk (stem : Stem) (c : Code) : Bool := formOk stem c && bodyOk stem (c.norm stem)

/-- The length in bytes (R219). -/
def Code.len : Code → Nat
  | .short _ => 4
  | .long (.lit _ _) => 12
  | .long (.three x) =>
    if ([x.d, x.a, x.b, x.c].any fun o => match o with | .lit _ => true | _ => false) then 20 else 12

end Sys2Proof
end

