-- ==== Sys2Proof/Machine/Numbers.lean ====
section
/-! DEFINITION. Number formats and arithmetic (R200 to R217): exact values, rounding, conversions, quantisation and the
special functions. -/

namespace Sys2Proof.Machine

/-- Sticky conditions of R208, one bit each in the layout of `%fstat`. -/
abbrev Flags := BitVec 16

namespace Flag
/-- Invalid operation. -/
abbrev nv : Flags := 0x01
/-- Exact infinity from a finite operand. -/
abbrev dz : Flags := 0x02
/-- Overflow. -/
abbrev of : Flags := 0x04
/-- Underflow. -/
abbrev uf : Flags := 0x08
/-- Inexact. -/
abbrev nx : Flags := 0x10
/-- Integer division by zero. -/
abbrev iz : Flags := 0x20
/-- An integer result was clamped. -/
abbrev sat : Flags := 0x40
/-- An abacus line whose SAT flag was set was read. -/
abbrev as : Flags := 0x80
end Flag

/-- An exact rational num / den with den positive. -/
structure Frac where
  num : Int
  den : Nat
  deriving DecidableEq, Repr

namespace Frac

/-- An integer. -/
def ofInt (n : Int) : Frac := ⟨n, 1⟩

/-- n times 2 to the e. -/
def dyadic (n : Int) (e : Int) : Frac :=
  match e with
  | .ofNat k => ⟨n * 2 ^ k, 1⟩
  | .negSucc k => ⟨n, 2 ^ (k + 1)⟩

/-- Exact sum. -/
def add (x y : Frac) : Frac := ⟨x.num * y.den + y.num * x.den, x.den * y.den⟩

/-- Exact negation. -/
def neg (x : Frac) : Frac := ⟨-x.num, x.den⟩

/-- Exact difference. -/
def sub (x y : Frac) : Frac := x.add y.neg

/-- Exact product. -/
def mul (x y : Frac) : Frac := ⟨x.num * y.num, x.den * y.den⟩

/-- Exact reciprocal of a non-zero value. -/
def inv (x : Frac) : Frac := ⟨(if x.num < 0 then -1 else 1) * (x.den : Int), x.num.natAbs⟩

/-- x times 2 to the e. -/
def scale (x : Frac) (e : Int) : Frac :=
  match e with
  | .ofNat k => ⟨x.num * 2 ^ k, x.den⟩
  | .negSucc k => ⟨x.num, x.den * 2 ^ (k + 1)⟩

/-- Exact comparison. -/
def lt (x y : Frac) : Bool := decide (x.num * y.den < y.num * x.den)

/-- Exact equality of values. -/
def eq (x y : Frac) : Bool := decide (x.num * y.den = y.num * x.den)

/-- Magnitude. -/
def abs (x : Frac) : Frac := ⟨(x.num.natAbs : Int), x.den⟩

/-- floor(log2(|x|)) of a non-zero value. -/
def floorLog2 (x : Frac) : Int :=
  let n := x.num.natAbs
  let k : Int := (n.log2 : Int) - (x.den.log2 : Int)
  if ((dyadic 1 k).lt x.abs || (dyadic 1 k).eq x.abs) then k else k - 1

end Frac

/-- Rounding modes (R204). -/
inductive Mode where
  | rn | rz | rp | rm | rna
  deriving DecidableEq, Repr

/-- The mode of an RM code; codes 5 to 7 are ILLEGAL (R238). -/
def Mode.ofCode (c : BitVec 3) : Mode :=
  match c.toNat with
  | 0 => .rn
  | 1 => .rz
  | 2 => .rp
  | 3 => .rm
  | _ => .rna

/-- The integer nearest to x in a mode (RoundToMultiple with q = 1, R204). -/
def roundInt (x : Frac) (mode : Mode) : Int :=
  let f := x.num / (x.den : Int)
  let r := x.num - f * x.den
  if r = 0 then f
  else match mode with
    | .rn => if 2 * r < x.den then f else if 2 * r > x.den then f + 1 else if f % 2 = 0 then f else f + 1
    | .rz => if x.num < 0 then f + 1 else f
    | .rp => f + 1
    | .rm => f
    | .rna => if 2 * r < x.den then f else if 2 * r > x.den then f + 1 else if x.num < 0 then f else f + 1

/-- A floating format (R202). -/
structure Fmt where
  p : Nat
  emin : Int
  emax : Int
  expBits : Nat
  k8 : Bool
  deriving DecidableEq, Repr

/-- Fraction bits. -/
def Fmt.fracBits (f : Fmt) : Nat := f.p - 1

/-- Bits of an encoding. -/
def Fmt.width (f : Fmt) : Nat := 1 + f.expBits + f.fracBits

/-- The formats of R202 by their TY code. -/
def fmtOf (ty : BitVec 4) : Fmt :=
  match ty.toNat with
  | 7 => ⟨11, -14, 15, 5, false⟩
  | 8 => ⟨8, -126, 127, 8, false⟩
  | 9 => ⟨4, -6, 8, 4, true⟩
  | _ => ⟨24, -126, 127, 8, false⟩

/-- f32. -/
def f32 : Fmt := fmtOf Ty.f32
/-- K8. -/
def k8Fmt : Fmt := fmtOf Ty.k8

/-- What an encoding stands for: a real that is not zero, a signed zero, an infinity, or a NaN. -/
inductive FVal where
  | nan
  | inf (neg : Bool)
  | zero (neg : Bool)
  | fin (x : Frac)
  deriving DecidableEq, Repr

/-- The canonical NaN (R202). -/
def Fmt.nan (f : Fmt) : Nat := if f.k8 then 0x80 else (2 ^ (f.expBits + 1) - 1) * 2 ^ (f.fracBits - 1)

/-- The encoding of an infinity; K8 has none and takes its largest value (R205). -/
def Fmt.inf (f : Fmt) (neg : Bool) : Nat :=
  (if neg then 2 ^ (f.width - 1) else 0) + (if f.k8 then 0x7F else (2 ^ f.expBits - 1) * 2 ^ f.fracBits)

/-- The encoding of the largest finite value. -/
def Fmt.maxFinite (f : Fmt) (neg : Bool) : Nat :=
  (if neg then 2 ^ (f.width - 1) else 0) +
    (if f.k8 then 0x7F else (2 ^ f.expBits - 1) * 2 ^ f.fracBits - 1)

/-- The encoding of a zero; K8 has no negative zero (R202). -/
def Fmt.zero (f : Fmt) (neg : Bool) : Nat := if neg && !f.k8 then 2 ^ (f.width - 1) else 0

/-- The value of an encoding (R202). -/
def Fmt.value (f : Fmt) (bits : Nat) : FVal :=
  let neg := bits / 2 ^ (f.width - 1) % 2 = 1
  let e := bits / 2 ^ f.fracBits % 2 ^ f.expBits
  let m := bits % 2 ^ f.fracBits
  if f.k8 && bits % 256 = 0x80 then .nan
  else if e = 0 then
    if m = 0 then .zero neg else .fin (.dyadic (if neg then -(m : Int) else m) (f.emin - f.fracBits))
  else if e = 2 ^ f.expBits - 1 && !f.k8 then (if m = 0 then .inf neg else .nan)
  else
    let s : Int := (2 ^ f.fracBits + m : Nat)
    .fin (.dyadic (if neg then -s else s) ((e : Int) - 1 + f.emin - f.fracBits))

/-- A signalling NaN: a NaN whose top fraction bit is 0 (R202); K8's one NaN is quiet. -/
def Fmt.signalling (f : Fmt) (bits : Nat) : Bool :=
  !f.k8 && f.value bits = .nan && bits / 2 ^ (f.fracBits - 1) % 2 = 0

/-- NV for a signalling input (R207). -/
def Fmt.nvOf (f : Fmt) (bits : Nat) : Flags := if f.signalling bits then Flag.nv else 0

/-- RoundF of a non-zero real (R205): the encoding and the sticky bits. -/
def roundReal (x : Frac) (f : Fmt) (mode : Mode) : Nat × Flags :=
  let neg := decide (x.num < 0)
  let sign := if neg then 2 ^ (f.width - 1) else 0
  let eu := x.floorLog2
  let e := max eu f.emin
  let q : Int := e - f.p + 1
  let m := roundInt (x.scale (-q)) mode
  let mu := roundInt (x.scale (-(eu - f.p + 1))) mode
  let isOver := eu > f.emax || (eu = f.emax && mu.natAbs ≥ 2 ^ f.p)
  if isOver then
    if f.k8 then (f.maxFinite neg, Flag.of ||| Flag.nx)
    else
      (match mode with
        | .rn | .rna => f.inf neg
        | .rz => f.maxFinite neg
        | .rp => if neg then f.maxFinite true else f.inf false
        | .rm => if neg then f.inf true else f.maxFinite false, Flag.of ||| Flag.nx)
  else
    let exact := (Frac.dyadic m q).eq x
    let tiny := decide (mu ≠ 0) && (eu + 1 < f.emin || (eu + 1 = f.emin && mu.natAbs < 2 ^ f.p))
    let flags : Flags := if exact then 0 else if tiny then Flag.nx ||| Flag.uf else Flag.nx
    if m = 0 then (f.zero neg, flags)
    else (sign + ((e - f.emin).toNat * 2 ^ f.fracBits + m.natAbs), flags)

/-- RoundF (R205). -/
def roundF (x : FVal) (f : Fmt) (mode : Mode) : Nat × Flags :=
  match x with
  | .nan => (f.nan, 0)
  | .inf neg => (f.inf neg, if f.k8 then Flag.of else 0)
  | .zero neg => (f.zero neg, 0)
  | .fin r => roundReal r f mode

/-- A product with its NV: 0 times infinity is invalid (R207), a zero's sign is the exclusive-or (R206). -/
def FVal.mul : FVal → FVal → FVal × Flags
  | .nan, _ | _, .nan => (.nan, 0)
  | .inf a, .inf b => (.inf (a != b), 0)
  | .inf _, .zero _ | .zero _, .inf _ => (.nan, Flag.nv)
  | .inf a, .fin y => (.inf (a != decide (y.num < 0)), 0)
  | .fin x, .inf b => (.inf (decide (x.num < 0) != b), 0)
  | .zero a, .zero b => (.zero (a != b), 0)
  | .zero a, .fin y => (.zero (a != decide (y.num < 0)), 0)
  | .fin x, .zero b => (.zero (decide (x.num < 0) != b), 0)
  | .fin x, .fin y => (.fin (x.mul y), 0)

/-- Negation of a value. -/
def FVal.neg : FVal → FVal
  | .nan => .nan
  | .inf a => .inf !a
  | .zero a => .zero !a
  | .fin x => .fin x.neg

/-- The real of a finite value. -/
def FVal.frac : FVal → Frac
  | .fin x => x
  | _ => ⟨0, 1⟩

/-- A zero of either sign or a non-zero real, by its value. -/
def FVal.ofFrac (x : Frac) (negZero : Bool) : FVal := if x.num = 0 then .zero negZero else .fin x

/-- An exact sum of terms (R211, R206, R207): NaN first, then opposite infinities with NV, then an infinity; a zero sum
is +0 (−0 in rm) unless every term is a zero of one sign. -/
def exactSum (ts : List FVal) (mode : Mode) : FVal × Flags :=
  if ts.contains .nan then (.nan, 0)
  else if ts.contains (.inf false) && ts.contains (.inf true) then (.nan, Flag.nv)
  else if ts.contains (.inf false) then (.inf false, 0)
  else if ts.contains (.inf true) then (.inf true, 0)
  else
    let sum := (ts.map FVal.frac).foldl Frac.add ⟨0, 1⟩
    if sum.num ≠ 0 then (.fin sum, 0)
    else if ts.all (· = .zero false) then (.zero false, 0)
    else if ts.all (· = .zero true) then (.zero true, 0)
    else (.zero (mode = .rm), 0)

/-- A floating sum node: RoundF(a + b) (R213, R292). -/
def fAdd (f : Fmt) (mode : Mode) (a b : Nat) : Nat × Flags :=
  let (x, nv) := exactSum [f.value a, f.value b] mode
  let (r, fl) := roundF x f mode
  (r, fl ||| nv ||| f.nvOf a ||| f.nvOf b)

/-- RoundF(a − b) (R292). -/
def fSub (f : Fmt) (mode : Mode) (a b : Nat) : Nat × Flags :=
  let (x, nv) := exactSum [f.value a, (f.value b).neg] mode
  let (r, fl) := roundF x f mode
  (r, fl ||| nv ||| f.nvOf a ||| f.nvOf b)

/-- RoundF(a × b) (R292). -/
def fMul (f : Fmt) (mode : Mode) (a b : Nat) : Nat × Flags :=
  let (x, nv) := (f.value a).mul (f.value b)
  let (r, fl) := roundF x f mode
  (r, fl ||| nv ||| f.nvOf a ||| f.nvOf b)

/-- RoundF(a × b + c), rounded once (R211, R292). -/
def fFma (f : Fmt) (mode : Mode) (a b c : Nat) : Nat × Flags :=
  let (p, nv1) := (f.value a).mul (f.value b)
  let (x, nv2) := exactSum [p, f.value c] mode
  let (r, fl) := roundF x f mode
  (r, fl ||| nv1 ||| nv2 ||| f.nvOf a ||| f.nvOf b ||| f.nvOf c)

/-- a.lo × b.lo + a.hi × b.hi + c, formed exactly and rounded once to f32 (R298). -/
def fDot2 (f : Fmt) (mode : Mode) (alo blo ahi bhi c : Nat) : Nat × Flags :=
  let (p, nv1) := (f.value alo).mul (f.value blo)
  let (q, nv2) := (f.value ahi).mul (f.value bhi)
  let (x, nv3) := exactSum [p, q, f32.value c] mode
  let (r, fl) := roundF x f32 mode
  (r, fl ||| nv1 ||| nv2 ||| nv3 ||| f.nvOf alo ||| f.nvOf blo ||| f.nvOf ahi ||| f.nvOf bhi ||| f32.nvOf c)

/-- Order of values with −0 below +0 (R207); neither is NaN. -/
def FVal.lt : FVal → FVal → Bool
  | .inf true, y => y != .inf true
  | _, .inf true => false
  | x, .inf false => x != .inf false
  | .inf false, _ => false
  | .zero a, .zero b => a && !b
  | x, y => x.frac.lt y.frac

/-- Order of values with the zeros equal (R294); neither is NaN. -/
def FVal.cmpLt (x y : FVal) : Bool :=
  match x, y with
  | .zero _, .zero _ => false
  | _, _ => x.lt y

/-- Equality of values with the zeros equal (R294); neither is NaN. -/
def FVal.cmpEq (x y : FVal) : Bool := !x.cmpLt y && !y.cmpLt x

/-- fmin and fmax (R293): the encoding of the operand that is taken. -/
def fMinMax (f : Fmt) (isMax : Bool) (a b : Nat) : Nat × Flags :=
  let fl := f.nvOf a ||| f.nvOf b
  let x := f.value a
  let y := f.value b
  if x = .nan then (if y = .nan then f.nan else b, fl)
  else if y = .nan then (a, fl)
  else if isMax then (if x.lt y then b else a, fl) else (if y.lt x then b else a, fl)

/-- fcmp (R294): the predicate and NV. -/
def fCmp (f : Fmt) (mod : Nat) (a b : Nat) : Bool × Flags :=
  let x := f.value a
  let y := f.value b
  let unordered := x = .nan || y = .nan
  let quiet := f.nvOf a ||| f.nvOf b
  match mod with
  | 1 => (!unordered && x.cmpEq y, quiet)
  | 2 => (unordered || !x.cmpEq y, quiet)
  | 3 => (!unordered && x.cmpLt y, if unordered then Flag.nv else 0)
  | 4 => (!unordered && !y.cmpLt x, if unordered then Flag.nv else 0)
  | 5 => (!unordered && y.cmpLt x, if unordered then Flag.nv else 0)
  | 6 => (!unordered && !x.cmpLt y, if unordered then Flag.nv else 0)
  | 7 => (unordered, quiet)
  | _ => (!unordered, quiet)

/-- The class bit of an encoding (R295). -/
def fClassBit (f : Fmt) (a : Nat) : Nat :=
  let sub := a / 2 ^ f.fracBits % 2 ^ f.expBits = 0
  match f.value a with
  | .nan => if f.signalling a then 0 else 1
  | .inf true => 2
  | .inf false => 9
  | .zero true => 5
  | .zero false => 6
  | .fin x => if x.num < 0 then (if sub then 4 else 3) else (if sub then 7 else 8)

/-- frnd (R296). -/
def fRound (f : Fmt) (mode : Mode) (a : Nat) : Nat × Flags :=
  match f.value a with
  | .nan => (f.nan, f.nvOf a)
  | .fin x =>
    let n := roundInt x mode
    if n = 0 then (f.zero (x.num < 0), 0) else ((roundReal (.ofInt n) f .rn).1, 0)
  | _ => (a, 0)

/-- fscl (R297). -/
def fScale (f : Fmt) (mode : Mode) (a : Nat) (e : Int) : Nat × Flags :=
  match f.value a with
  | .nan => (f.nan, f.nvOf a)
  | .fin x =>
    -- beyond 1,000 binades every format has long over- or underflowed
    let e' : Int := max (-1000) (min 1000 e)
    roundReal (x.scale e') f mode
  | _ => (a, 0)

/-- Float to float (R210); a conversion to the same format keeps the bits of what is no NaN. -/
def fConvert (src dst : Fmt) (mode : Mode) (a : Nat) : Nat × Flags :=
  if src = dst then (if src.value a = .nan then (dst.nan, src.nvOf a) else (a, 0))
  else
    let (r, fl) := roundF (src.value a) dst mode
    (r, fl ||| src.nvOf a)

/-- The range of an integer type (R200). -/
def intRange (ty : BitVec 4) : Int × Int :=
  let w := tyWidth ty
  if tySigned ty then (-(2 ^ (w - 1) : Int), 2 ^ (w - 1) - 1) else (0, 2 ^ w - 1)

/-- Float to integer (R210): NaN gives 0, an infinity or a value out of range the bound, each with NV. -/
def fToInt (src : Fmt) (ty : BitVec 4) (mode : Mode) (a : Nat) : Int × Flags :=
  let (lo, hi) := intRange ty
  match src.value a with
  | .nan => (0, Flag.nv)
  | .inf neg => (if neg then lo else hi, Flag.nv)
  | .zero _ => (0, 0)
  | .fin x =>
    let n := roundInt x mode
    if n < lo then (lo, Flag.nv) else if n > hi then (hi, Flag.nv)
    else (n, if (Frac.ofInt n).eq x then 0 else Flag.nx)

/-- Integer to float (R210). -/
def intToF (n : Int) (dst : Fmt) (mode : Mode) : Nat × Flags := roundF (.ofFrac (.ofInt n) false) dst mode

/-- Wrap (R201): x modulo 2^w in the type's signedness. -/
def wrapInt (x : Int) (w : Nat) (signed : Bool) : Int :=
  let m := x % (2 ^ w : Int)
  if signed && decide (m ≥ 2 ^ (w - 1)) then m - 2 ^ w else m

/-- SatS and SatU (R201): clamped to the type, with SAT if that changed the value. -/
def satInt (x : Int) (ty : BitVec 4) : Int × Flags :=
  let (lo, hi) := intRange ty
  if x < lo then (lo, Flag.sat) else if x > hi then (hi, Flag.sat) else (x, 0)

/-- The line flags of an abacus line (R215): NV and SAT. -/
structure LineFlags where
  nv : Bool
  sat : Bool
  deriving DecidableEq, Repr

/-- 2^63 − 1. -/
def ax64Max : Int := 2 ^ 63 - 1

/-- Quant (R215). -/
def quant (x : FVal) (g : Int) : Int × LineFlags :=
  match x with
  | .nan => (0, ⟨true, false⟩)
  | .inf neg => (if neg then -ax64Max else ax64Max, ⟨false, true⟩)
  | .zero _ => (0, ⟨false, false⟩)
  | .fin r =>
    let q := roundInt (r.scale (-g)) .rn
    if q > ax64Max then (ax64Max, ⟨false, true⟩)
    else if q < -ax64Max then (-ax64Max, ⟨false, true⟩)
    else (q, ⟨false, false⟩)

/-- An AX64 element plus a quantised addend, modulo 2^64 (R215). -/
def ax64Add (e : DWord) (q : Int) : DWord := e + BitVec.ofInt 64 q

/-- AxToType (R216): the encoding in TY's width and the sticky bits. -/
def axToType (e : DWord) (g : Int) (ty : BitVec 4) : Nat × Flags :=
  let x := (Frac.ofInt e.toInt).scale g
  if tyFloat ty then roundF (.ofFrac x false) (fmtOf ty) .rn
  else
    let (n, fl) := satInt (roundInt x .rn) ty
    ((n % (2 ^ tyWidth ty : Int)).toNat, fl)

/-- The value of an O4 element from the two fields of its pair and the book (R203). -/
def o4Value (book : Nat → Nat) (even : Bool) (ce co : Nat) : FVal :=
  let plain (c : Nat) : FVal :=
    .ofFrac (.ofInt (if c ≥ 8 then -((c % 8 : Nat) : Int) else (c : Int))) false
  if even then
    if ce = 8 then k8Fmt.value (book co) else if co = 8 then .zero false else plain ce
  else
    if ce = 8 then .zero false else if co = 8 then k8Fmt.value (book ce) else plain co

/-! Special functions of version 1 (R217): correctly rounded, from enclosures. -/

/-- floor of the square root, by bits. -/
def isqrt (n : Nat) : Nat :=
  (List.range (n.log2 / 2 + 1)).foldr (fun k r => if (r + 2 ^ k) * (r + 2 ^ k) ≤ n then r + 2 ^ k else r) 0

/-- Round a value known to lie strictly between two reals of one sign: decided when both ends round alike; such a value
is irrational, so NX is set (R205); an end that is itself representable says nothing of the flags. -/
def roundBetween (lo hi : Frac) : Option (Nat × Flags) :=
  let (a, fa) := roundReal lo f32 .rn
  let (b, fb) := roundReal hi f32 .rn
  if a ≠ b then none
  else if fa = fb || fb = 0 then some (a, fa ||| Flag.nx)
  else if fa = 0 then some (a, fb ||| Flag.nx)
  else none

/-- Fixed-point precision of the enclosures. -/
def sfuBits : Nat := 400

/-- Bound on the error of a fixed-point evaluation, in units of the last place. -/
def sfuSlack : Int := 2 ^ 40

/-- 2 to the sfuBits. -/
def sfuOne : Int := 2 ^ sfuBits

/-- The real n over 2^sfuBits. -/
def ofFixed (n : Int) : Frac := ⟨n, 2 ^ sfuBits⟩

/-- Fixed-point product. -/
def fxMul (a b : Int) : Int := a * b / sfuOne

/-- The sum of 1/((2k+1) q^(2k+1)) with signs s^k, in fixed point: atanh(1/q) for s = 1, atan(1/q) for s = −1. -/
def atanSeries (q : Int) (s : Int) : Int :=
  ((List.range (sfuBits / 2 + 2)).foldl
    (fun (acc : Int × Int) k => (acc.1 + acc.2 / (2 * k + 1 : Nat), acc.2 * s / (q * q))) (0, sfuOne / q)).1

/-- ln 2 in fixed point. -/
def fxLn2 : Int := 2 * atanSeries 3 1

/-- pi in fixed point (Machin). -/
def fxPi : Int := 16 * atanSeries 5 (-1) - 4 * atanSeries 239 (-1)

/-- exp of a fixed-point number of magnitude at most 1. -/
def fxExp (r : Int) : Int :=
  ((List.range 120).foldl (fun (acc : Int × Int) k => (acc.1 + acc.2, fxMul acc.2 r / (k + 1 : Nat))) (0, sfuOne)).1

/-- sin and cos of a fixed-point number between 0 and 2. -/
def fxSinCos (r : Int) : Int × Int :=
  let r2 := fxMul r r
  let s := ((List.range 80).foldl
    (fun (acc : Int × Int) k => (acc.1 + acc.2, -(fxMul acc.2 r2) / ((2 * k + 2) * (2 * k + 3) : Nat))) (0, r)).1
  let c := ((List.range 80).foldl
    (fun (acc : Int × Int) k => (acc.1 + acc.2, -(fxMul acc.2 r2) / ((2 * k + 1) * (2 * k + 2) : Nat))) (0, sfuOne)).1
  (s, c)

/-- log2 of a real between 1 and 2, in fixed point: 2 atanh((m−1)/(m+1)) / ln 2. -/
def fxLog2 (m : Frac) : Int :=
  let z := (m.num - m.den) * sfuOne / (m.num + m.den)
  let z2 := fxMul z z
  let ln := 2 * ((List.range 200).foldl
    (fun (acc : Int × Int) k => (acc.1 + acc.2 / (2 * k + 1 : Nat), fxMul acc.2 z2)) (0, z)).1
  ln * sfuOne / fxLn2

/-- The fixed-point number of a real, rounded down. -/
def toFixed (x : Frac) : Int := x.num * sfuOne / x.den

/-- Round a fixed-point result times 2^e. -/
def roundFixed (v : Int) (e : Int) : Option (Nat × Flags) :=
  roundBetween ((ofFixed (v - sfuSlack)).scale e) ((ofFixed (v + sfuSlack)).scale e)

/-- The eight functions of R217, in the order of their opcodes. -/
inductive Sfu where
  | rcp | rsq | sqrt | ex2 | lg2 | sin | cos | tanh
  deriving DecidableEq, Repr

/-- Square root of a positive real: exact where it is rational, else rounded from an enclosure. -/
def sqrtReal (x : Frac) : Option (Nat × Flags) :=
  let n := x.num.natAbs * x.den * 4 ^ 200
  let s := isqrt n
  let d := x.den * 2 ^ 200
  if s * s = n then some (roundReal ⟨s, d⟩ f32 .rn) else roundBetween ⟨s, d⟩ ⟨s + 1, d⟩

/-- 2^x of a non-zero real below 128. -/
def ex2Real (x : Frac) : Option (Nat × Flags) :=
  let y : Frac := if x.lt (.ofInt (-200)) then .ofInt (-200) else x
  let i := y.num / (y.den : Int)
  let f := y.sub (.ofInt i)
  -- below −200 the result rounds to zero whatever the fraction (R205)
  if x.lt (.ofInt (-200)) then some (roundReal (.dyadic 3 (-201)) f32 .rn)
  else if f.num = 0 then some (roundReal (.dyadic 1 i) f32 .rn)
  else roundFixed (fxExp (fxMul (toFixed f) fxLn2)) i

/-- log2 of a positive real. -/
def lg2Real (x : Frac) : Option (Nat × Flags) :=
  let e := x.floorLog2
  let m := x.scale (-e)
  if m.eq (.ofInt 1) then (if e = 0 then some (f32.zero false, 0) else some (roundReal (.ofInt e) f32 .rn))
  else roundFixed (e * sfuOne + fxLog2 m) 0

/-- sin or cos of a non-zero real. -/
def sinCosReal (wantCos : Bool) (x : Frac) : Option (Nat × Flags) :=
  let a := x.abs
  let neg := decide (x.num < 0)
  let signed (v : Int) : Int := if neg && !wantCos then -v else v
  if a.lt (.dyadic 1 (-20)) then
    if wantCos then roundBetween (Frac.sub (.ofInt 1) (a.mul a)) (.ofInt 1)
    else
      let lo := a.sub ((a.mul a).mul a)
      if neg then roundBetween a.neg lo.neg else roundBetween lo a
  else
    let half := fxPi
    -- a / (pi/2) = 2a / pi
    let k := (2 * a.num * sfuOne) / (half * a.den)
    let r := toFixed a - k * half / 2
    let (s, c) := fxSinCos r
    let q := k % 4
    let v := if wantCos then (if q = 0 then c else if q = 1 then -s else if q = 2 then -c else s)
             else (if q = 0 then s else if q = 1 then c else if q = 2 then -s else -c)
    -- the reduction multiplies the error of pi by k, below 2^130
    let w := signed v
    roundBetween ((ofFixed (w - 2 ^ 180)) : Frac) (ofFixed (w + 2 ^ 180))

/-- tanh of a non-zero real. -/
def tanhReal (x : Frac) : Option (Nat × Flags) :=
  let a := x.abs
  let neg := decide (x.num < 0)
  let flip (lo hi : Frac) := if neg then roundBetween hi.neg lo.neg else roundBetween lo hi
  if a.lt (.dyadic 1 (-20)) then flip (a.sub ((a.mul a).mul a)) a
  else if (Frac.ofInt 20).lt a then flip (Frac.sub (.ofInt 1) (.dyadic 1 (-50))) (.ofInt 1)
  else
    let y := 2 * toFixed a
    let k := y / fxLn2
    let e := fxExp (y - k * fxLn2) * 2 ^ k.toNat
    let v := (e - sfuOne) * sfuOne / (e + sfuOne)
    flip (ofFixed (v - sfuSlack)) (ofFixed (v + sfuSlack))

/-- The value of an SFU function and its sticky bits (R217). -/
def sfu (fn : Sfu) (a : Nat) : Nat × Flags :=
  let nan := f32.nan
  let inf (neg : Bool) := f32.inf neg
  let one := (roundReal (.ofInt 1) f32 .rn).1
  let undecided : Nat × Flags := ((Config.undecidedSfu (fn.ctorIdx) (BitVec.ofNat 32 a)).toNat, Flag.nx)
  match fn, f32.value a with
  | _, .nan => (nan, f32.nvOf a)
  | .rcp, .zero neg => (inf neg, Flag.dz)
  | .rcp, .inf neg => (f32.zero neg, 0)
  | .rcp, .fin x => roundReal x.inv f32 .rn
  | .rsq, .zero neg => (inf neg, Flag.dz)
  | .rsq, .inf neg => if neg then (nan, Flag.nv) else (f32.zero false, 0)
  | .rsq, .fin x => if x.num < 0 then (nan, Flag.nv) else (sqrtReal x.inv).getD undecided
  | .sqrt, .zero neg => (f32.zero neg, 0)
  | .sqrt, .inf neg => if neg then (nan, Flag.nv) else (inf false, 0)
  | .sqrt, .fin x => if x.num < 0 then (nan, Flag.nv) else (sqrtReal x).getD undecided
  | .ex2, .zero _ => (one, 0)
  | .ex2, .inf neg => (if neg then f32.zero false else inf false, 0)
  | .ex2, .fin x =>
    if x.lt (.ofInt 128) then (ex2Real x).getD undecided else (inf false, Flag.of ||| Flag.nx)
  | .lg2, .zero _ => (inf true, Flag.dz)
  | .lg2, .inf neg => if neg then (nan, Flag.nv) else (inf false, 0)
  | .lg2, .fin x => if x.num < 0 then (nan, Flag.nv) else (lg2Real x).getD undecided
  | .sin, .zero neg => (f32.zero neg, 0)
  | .sin, .inf _ => (nan, Flag.nv)
  | .sin, .fin x => (sinCosReal false x).getD undecided
  | .cos, .zero _ => (one, 0)
  | .cos, .inf _ => (nan, Flag.nv)
  | .cos, .fin x => (sinCosReal true x).getD undecided
  | .tanh, .zero neg => (f32.zero neg, 0)
  | .tanh, .inf neg => (if neg then (roundReal (.ofInt (-1)) f32 .rn).1 else one, 0)
  | .tanh, .fin x => (tanhReal x).getD undecided

end Sys2Proof.Machine
end

