-- ==== Sys2Proof/Machine/State.lean ====
section
/-! DEFINITION. The state of the module as plain data: everything the manual names, and the state after reset. -/

namespace Sys2Proof.Machine

/-- A table from numbers to values, keys rising. -/
abbrev Tab (α : Type) := List (Nat × α)

/-- Bytes of physical memory that differ from 0, addresses rising (R38, R94: an assigned tract is zeroed). -/
abbrev Memory := List Host.Cell

/-! ## Strands and sheaves -/

/-- A return-stack entry (R262). -/
structure RetEntry where
  ret : DWord
  x : Half
  y : Half
  deriving DecidableEq, Repr

/-- Why a strand is Waiting (R143). -/
inductive Wait where
  | bar | gbar
  | waitm (m : Nat)
  | shrd (r : Nat)
  | shwr (r : Nat)
  | tile (t : Nat)
  | mma
  | request
  | draw
  | regx (deferred : Bool)
  deriving DecidableEq, Repr

/-- The permission an access needs of its page (R87, R173). -/
inductive Access where
  | read | write | fetch | engine
  deriving DecidableEq, Repr

/-- Why a strand is Stalled (R143); of a page fault, the addresses whose faults its instruction still waits for (R306) and the
access that met them; draw, a Parked strand whose draw's tail atomic, or whose fetch, met the fault (R114, R357); push, that the push
of its trap entry waits for a fence or for a link (R179, R262, R21). -/
inductive Stall where
  | page (vas : List Nat) (acc : Access)
  | draw (vas : List Nat) (acc : Access)
  | record
  | copyQueue
  | latch
  | push
  deriving DecidableEq, Repr

/-- The conditions of R143. -/
inductive Cond where
  | running | deferred | parked
  | waiting (w : Wait)
  | stalled (s : Stall)
  | done | saved
  deriving DecidableEq, Repr

/-- A register written by a reply. -/
inductive Dest where
  | none
  | v (i : Nat)
  | w (i : Nat)
  deriving DecidableEq, Repr

/-- A load or atomic whose reply has not come back: the bytes the record and L1 gave, with their poison, none where the reply gives
them (R174); riders, the other strands for which a load with U executes once in its sheaf (R149). -/
structure PendingLoad where
  id : Nat
  pa : Nat
  dest : Dest
  ty : BitVec 4
  known : List (Option (Byte × Bool))
  acquire : Bool
  riders : List Nat := []
  deriving DecidableEq, Repr

/-- What a fence still waits for (R179 to R181, R315): the entries that must have their completion time, those that must have begun to
drain, and so on. -/
structure FenceWait where
  entries : List Nat
  opening : List Nat
  ops : List Nat
  loads : List Nat
  horizon : Nat
  deriving DecidableEq, Repr

/-- A strand (R111, R151, R351); waitLen is the length of the bar, gbar, waitm or mma it waits in (R270, R275, R276, R334),
recorded the condition that tret has reloaded (R364), trap the cause, `%trpc` and `%tdet` of a trap entry whose push is stalled
(R356); mates, the participants of the bundle in which it has come to wait in its mma, shwr or shrd (R354); seen, how new the content is that
its loads have returned of a byte (R177; see L1Line). -/
structure Strand where
  lane : Nat
  sidx : Nat
  pc : DWord
  depth : Word
  stack : List RetEntry
  csp : DWord
  x : Half
  y : Half
  v : Tab Word
  vPoison : List Nat
  preds : Byte
  cond : Cond
  item : DWord
  age : Word
  fstat : Half
  fmask : Half
  nbv : Byte
  tcause : Byte
  trpc : DWord
  tdet : DWord
  trapDepth : Word
  loads : List PendingLoad
  fences : List FenceWait
  led : Option DWord
  waitLen : Nat
  recorded : Option Cond
  trap : Option (Nat × DWord × DWord)
  mates : List Nat := []
  seen : Tab Nat := []
  deriving DecidableEq, Repr

/-- A bundle: the strands of one block at one pc, by their keys, in ascending home lane (R147); lifted, that its key is the
lift's; above, the sheaves that had a ready strand outside it and above its pc at its issue (R146). -/
structure Bundle where
  core : Nat
  block : Nat
  pc : DWord
  strands : List Nat
  lifted : Bool := false
  above : List Nat := []
  deriving DecidableEq, Repr

/-- What code a sheaf runs (R361, R363). -/
inductive Phase where
  | normal | handler | resume
  deriving DecidableEq, Repr

/-- A pending regx (R154, R346): granules, predicate, the instruction's length and the strands that issued it. -/
structure RegxRequest where
  granules : Nat
  pred : Nat
  len : Nat
  strands : List Nat
  deriving DecidableEq, Repr

/-- A sheaf (R110, R111). -/
structure Sheaf where
  block : Nat
  idx : Nat
  slot : Nat
  context : Nat
  offset : Nat
  log2w : Nat
  alloc : Nat
  w : Tab DWord
  wPoison : List Nat
  masks : Tab DWord
  backedge : Nat
  held : Option Bundle
  ens : DWord
  mxp : Word
  copies : Nat
  regx : Option RegxRequest
  phase : Phase
  pendingMma : Bool
  placed : Nat
  deriving DecidableEq, Repr

/-! ## Blocks and cores -/

/-- Tile states (R160). -/
inductive TileState where
  | empty | filling | ready | draining
  deriving DecidableEq, Repr

/-- A bound tile: its descriptor (R325), state and status bits (R326). -/
structure Tile where
  desc : DWord
  state : TileState
  f : Bool
  p : Bool
  ec : Nat
  deriving DecidableEq, Repr

/-- An operation of a block that has no completion time yet (R179); host, an atomic or red that the host executes (R172). -/
inductive OpKind where
  | atomic | red | abacus | copy | delivery | tail | host
  deriving DecidableEq, Repr

/-- An outstanding operation: for a copy whether its source is read (R179, R191), for a tail draw whether its value is back (R114),
how many completion times are still to come, and for a copy its CH (R307). -/
structure OpRef where
  id : Nat
  kind : OpKind
  sourceRead : Bool
  count : Nat
  hint : Nat := 0
  deriving DecidableEq, Repr

/-- A strand that waits in shwr or shrd for a register of a mapping, by its position (R350), at the pc of its instruction. One whose
turn has come keeps its place until it has run the instruction again. -/
structure SharedWait where
  strand : Nat
  pos : Nat
  pc : DWord
  read : Bool
  deriving DecidableEq, Repr

/-- A shared-register mapping between sheaves a and b of a block (R155): registers f and up of a name g and up of b; full
lists (sidx, position) whose bit is full; queue, the strands that wait in shwr or shrd, in the order of issue (R350). -/
structure SharedMap where
  a : Nat
  f : Nat
  b : Nat
  g : Nat
  n : Nat
  full : List (Nat × Nat)
  queue : List SharedWait
  deriving DecidableEq, Repr

/-- A draw whose tail atomic is on its way (R114): the operation, the strands that are short, in the group's order, the
pc they go on at, and whether it is the draw of placement (R113). -/
structure DrawWait where
  id : Nat
  strands : List Nat
  pc : DWord
  first : Bool
  deriving DecidableEq, Repr

/-- A member block placed on a core (R105 to R112, R156 to R164); framed, the granules of its frame that are stored (R357); undrawn, that
its draw at placement is still to be made (R113, R114); fault, the page fault that the hardware's own access to its frame waits for,
by its address and access (R88, R357). -/
structure Block where
  part : Nat
  launch : Nat
  gang : Nat
  index : Nat
  grank : Nat
  ready : Bool
  sheafSlots : List Nat
  padBase : Nat
  padBytes : Nat
  xBytes : Nat
  pad : Tab Byte
  padPoison : List Nat
  bank : Nat
  next : Nat
  last : Nat
  tailRecord : List (Nat × Nat)
  replay : List (Nat × Nat)
  draws : List DrawWait
  overflow : Bool
  rlim : Nat
  lct : Nat
  einj : Word
  tiles : Tab Tile
  ops : List OpRef
  shared : List SharedMap
  stopped : Bool
  framed : Nat
  undrawn : Bool := false
  fault : Option (Nat × Access) := none
  deriving DecidableEq, Repr

/-- State of a record entry (R162, R164): open, draining, or left the core. -/
inductive EntryState where
  | opened | draining | sent
  deriving DecidableEq, Repr

/-- A store-record entry (R162): data holds the bytes whose mask bit is set, by their offset in the line; due, that a
trigger of R164 has asked it to drain; loads, the loads that must return before it begins to (R178); hint, its newest store's CH
(R307). -/
structure RecEntry where
  seq : Nat
  line : Nat
  cls : Nat
  data : Tab Byte
  poison : List Nat
  block : Nat
  gang : Nat
  launch : Nat
  part : Nat
  state : EntryState
  alloc : Nat
  due : Bool
  loads : List Nat
  hint : Nat := 0
  deriving DecidableEq, Repr

/-- An L1 copy (R48, R171): expiry none for NC; mask the bytes a privatised grant covers (R58); born, how new its content is: the
number that the next message had when its home was read (R177). -/
structure L1Line where
  line : Nat
  bytes : List Byte
  poison : Bool
  expiry : Option Nat
  mask : Option (List Nat)
  hint : Nat
  used : Nat
  born : Nat := 0
  deriving DecidableEq, Repr

/-- A leaf of the page tables (R87). -/
structure Leaf where
  cls : Nat
  fail : Bool
  w : Bool
  x : Bool
  base : Nat
  size : Nat
  deriving DecidableEq, Repr

/-- A TLB entry (R87, R89); root is the context copy it was walked from (R77). -/
structure TlbEntry where
  part : Nat
  ctx : Nat
  root : Nat
  va : Nat
  leaf : Leaf
  deriving DecidableEq, Repr

/-- Copy commands (R330). -/
inductive CopyKind where
  | cpy | cpo | cpr
  deriving DecidableEq, Repr

/-- A queued or running copy command (R166, R330): the source lines that a cpy has read, by virtual line, with their poison;
awaited, how many are still on their way; image, what a cpy writes, or what a cpo or cpr has read of granules before a store to
them (by scratchpad offset); seen, granules of a cpy that a load has seen written (R161); touched, granules that are settled
(R161, R389); places, the lines of a cpo or cpr that has started, each with its physical address and class as the engine translated it
then; the address of a page fault it stalls on, and its engine fault (R331). -/
structure CopyCmd where
  kind : CopyKind
  block : Nat
  sheaf : Nat
  tile : Nat
  va : Nat
  fmt : DWord
  ty : BitVec 4
  hint : Nat
  op : Nat
  started : Bool
  lines : List (Nat × List Byte × Bool)
  awaited : Nat
  image : Tab Byte
  imagePoison : List Nat
  seen : List Nat
  touched : List Nat
  places : List (Nat × Nat × Nat)
  poison : Bool
  fault : Option Nat
  ec : Nat
  deriving DecidableEq, Repr

/-! ## Quads: throttle, slice, matrix engine -/

/-- An arrival of a sheaf at a rendezvous latch (R333), with a number of its own by which a SHOOT knows it (R89). -/
structure Arrival where
  sheaf : Nat
  ens : DWord
  tile : Nat
  tileDesc : DWord
  ty : BitVec 4
  b : Nat
  c : Nat
  k : Nat
  stride : Nat
  mxp : Nat
  prio : Nat
  id : Nat
  deriving DecidableEq, Repr

/-- No arrival. -/
def Arrival.blank : Arrival :=
  { sheaf := 0, ens := 0, tile := 0, tileDesc := 0, ty := 0, b := 0, c := 0, k := 0, stride := 0, mxp := 0, prio := 0, id := 0 }

/-- A rendezvous latch (R167). -/
structure Latch where
  ens : DWord
  arrivals : List Arrival
  deriving DecidableEq, Repr

/-- A reservation-table entry (R168, R334). -/
structure TableEntry where
  members : List Arrival
  row : Nat
  entered : Nat
  granted : Nat
  aged : Nat
  checked : Bool
  deriving DecidableEq, Repr

/-- The pass in progress: its table entry, first and end row, the grid of each member (R334). -/
structure Pass where
  entry : Nat
  row : Nat
  stop : Nat
  grids : List Int
  deriving DecidableEq, Repr

/-- What a slice's way holds of a line (R52, R60): a line it homes, a near copy, or a loan. -/
inductive CopyKindL2 where
  | homed | near | loan
  deriving DecidableEq, Repr

/-- A line in a cache-mode way of a slice (R70): of which context, when last used; bytes and poison of a near copy or a
loan (a homed line reads memory); the hint of the access that installed it (R307); and how new its content is (see L1Line). -/
structure SliceCopy where
  line : Nat
  kind : CopyKindL2
  part : Nat
  ctx : Nat
  way : Nat
  used : Nat
  bytes : List Byte
  poison : Bool
  hint : Nat := 0
  born : Nat := 0
  deriving DecidableEq, Repr

/-- An abacus line in an abacus-mode way (R339): whose context's allowance it uses, what its backing page holds meanwhile
(64 element bytes and the status halfword), and its poisoned elements. Memory holds its current elements and status. -/
structure Resident where
  line : Nat
  part : Nat
  ctx : Nat
  page : List Byte
  poison : List Nat
  deriving DecidableEq, Repr

/-- A quad: power (R29, R30), counters (R32, R126), retirement (R141), matrix engine (R167 to R169) and slice (R48 to R73):
horizons by line; directory, the lines with an entry, least recently used first; takeover, positions taken over with Hret (R65);
acted, the cores whose issue stage has had this cycle (R30); ahead, the cycles of the coming ticks it has had
already (R26, log 1); notes, forwarded requests (R52); stub, the DT a forwarding stub may
power off at (R65). -/
structure Quad where
  level : Nat
  latched : Option Nat
  demand : Nat
  draw : Nat
  withheld : Nat
  withheldLast : Nat
  cycle : Nat
  acted : List Nat
  ahead : Nat
  wcyc : Nat
  rply : Nat
  replays : Nat
  heavyEpochs : Nat
  uncorrected : List Nat
  controls : List Nat
  retired : Bool
  latches : List Latch
  table : List TableEntry
  pass : Option Pass
  hfloor : Nat
  gated : Bool
  horizons : Tab Nat
  copies : List SliceCopy
  directory : List Nat
  takeover : List (Nat × Nat)
  notes : List Nat
  hot : Tab (List (Nat × Nat))
  redirects : List (Nat × Nat)
  queueUsed : Nat
  retry : List (Nat × Nat)
  reserved : List (Nat × Nat × Nat)
  resident : List Resident
  tlb : List TlbEntry
  stub : Option Nat
  deriving DecidableEq, Repr

/-! ## Lines and messages -/

/-- The directory entry of a line (R53). -/
inductive Directory where
  | empty
  | exact (quads : List Nat)
  | coarse (tracts : List Nat)
  deriving DecidableEq, Repr

/-- The privatisation of a line (R57): Hpre and, per core, its byte mask and horizon. -/
structure Tracker where
  hpre : Nat
  cores : List (Nat × List Nat × Nat)
  deriving DecidableEq, Repr

/-- Whom a completion time is for (R50, R179). -/
inductive Notify where
  | entry (core seq : Nat)
  | op (block id : Nat)
  | engine (block id : Nat)
  | deliveries (blocks : List Nat) (id : Nat)
  | host (tag : DWord)
  | nobody
  deriving DecidableEq, Repr

/-- A transaction in progress at a home (R50, R55): its arrival, what acknowledgements are missing, the largest horizon,
whether an SNP was sent, the fan-out's deadline (R68), whom its completion time is for, the request that waits for it, and the
request on this line that waits for a directory entry (R54, R55). -/
structure Txn where
  tarr : Nat
  missing : List Nat
  hall : Nat
  snp : Bool
  deadline : Nat
  notify : Notify
  resume : Option Nat
  holds : Option Nat
  deriving DecidableEq, Repr

/-- A line at its home (R53 to R63); a line is named by its physical address over 64. -/
structure Home where
  dir : Directory
  tracker : Option Tracker
  loans : List Nat
  txn : Option Txn
  queue : List Nat
  deriving DecidableEq, Repr

/-- One element update of an atomic or reduction message (R184 to R189): the strand and lane it is for, address, operation,
type, operand, expected value, poison of the operand, destination. -/
structure LaneOp where
  strand : Nat
  pa : Nat
  op : AtomOp
  ty : BitVec 4
  value : DWord
  expected : DWord
  poison : Bool
  deriving DecidableEq, Repr

/-- An abacus operation of one line (R340 to R342). -/
inductive AbacusOp where
  | opening (g : Int)
  | zeroLine
  | add (offset : Nat) (ty : BitVec 4) (value : DWord)
  | deliver (parts : List DWord) (g : Int) (flags : List (Bool × Bool)) (poison : Bool)
  | read (offset : Nat) (ty : BitVec 4) (strand : Nat)
  | collect (offset : Nat) (ty : BitVec 4) (strand : Nat)
  deriving DecidableEq, Repr

/-- Who asked for a line, and for what (R48, R52, R311): stale, that its data is not to be kept in the L1 (R51, R194); born, how new
the data is that has answered it (see L1Line). -/
structure ReadReq where
  core : Nat
  line : Nat
  cls : Nat
  lease : Nat
  age : Nat
  part : Nat
  ctx : Nat
  near : Option Nat
  l2only : Bool
  block : Nat
  gang : Nat
  hint : Nat
  stale : Bool
  waiters : List (Nat × Nat)
  born : Nat := 0
  deriving DecidableEq, Repr

/-- A message of the fabric (R45), with the slice it goes to where it goes to one. -/
inductive Msg where
  /-- REQ: a load or lease request at a slice. -/
  | read (slice : Nat) (r : ReadReq)
  /-- DATA: line data with its lease, for a near slice to install (some quad) or for the core. -/
  | data (near : Option Nat) (r : ReadReq) (bytes : List Byte) (poison : Bool) (expiry : Option Nat)
      (mask : Option (List Nat))
  /-- REQ: a store-record drain. -/
  | drain (slice : Nat) (core : Nat) (e : RecEntry) (age : Nat)
  /-- SNP: an invalidation. -/
  | inval (line : Nat) (quad : Nat)
  /-- SNP: a recall of a loan. -/
  | recall (line : Nat) (quad : Nat)
  /-- ACK: an acknowledgement with the sender's horizon. -/
  | ack (line : Nat) (quad : Nat) (horizon : Nat)
  /-- DATA: a loan push. -/
  | loanPush (line : Nat) (quad : Nat) (bytes : List Byte) (poison : Bool)
  /-- REQ: a loan return. -/
  | loanReturn (line : Nat) (quad : Nat) (horizon : Nat)
  /-- SNP: the install of a redirect in a quad's network interface (R60). -/
  | redirect (line : Nat) (helper quad : Nat)
  /-- SNP: the removal of a redirect from a quad's network interface, where a helper has evicted its loan (R61). -/
  | unredirect (line : Nat) (helper quad : Nat)
  /-- CTL: a completion time. -/
  | ctl (notify : Notify) (c : Nat)
  /-- CTL: a retry answer to a request, and when it was given. -/
  | retry (m : Msg) (since : Nat)
  /-- CTL: a remap answer to a request, with the epoch of the newer map. -/
  | remap (m : Msg) (epoch : Nat)
  /-- CTL: the answer to a request that is refused at a fenced die's port (R69). -/
  | refused (m : Msg)
  /-- REQ: a parity delta of a row: the line and its old and new bytes. -/
  | parity (line : Nat) (delta : List Byte)
  /-- REQ: the lanes of an atomic on one line. -/
  | atomic (slice : Nat) (block : Nat) (ops : List LaneOp) (id : Nat) (age : Nat) (cls : Nat) (tail : Option Nat)
  /-- DATA: the values of an atomic, lane by lane. -/
  | values (block : Nat) (vals : List (Nat × DWord × Bool)) (id : Nat) (tail : Option Nat)
  /-- REQ: the lanes of a reduction on one line. -/
  | red (slice : Nat) (notify : Notify) (ops : List LaneOp) (age : Nat) (cls : Nat)
  /-- The exchange stores of one bundle to a member, in ascending lane order (R312): offset, bytes, poison. -/
  | xst (gang : Nat) (rank : Nat) (writes : List (Nat × List Byte × Bool)) (src : Nat)
  /-- REQ: an abacus operation of one line. -/
  | abacus (slice : Nat) (line : Nat) (op : AbacusOp) (notify : Notify) (age : Nat) (part ctx : Nat)
  /-- DATA: what accr or accc read. -/
  | element (strand : Nat) (value : DWord) (ty : BitVec 4) (flags : Half) (poison : Bool) (id : Nat)
  /-- REQ: a written line of cpo. -/
  | engineWrite (slice : Nat) (line : Nat) (data : Tab Byte) (poison : Bool) (notify : Notify) (age : Nat) (cls : Nat)
  /-- REQ: a line of a cpy's source; DATA: its answer (R190). -/
  | engineRead (slice : Nat) (line : Nat) (core op vline : Nat) (age : Nat) (cls : Nat)
  | engineData (core op vline : Nat) (bytes : List Byte) (poison : Bool)
  /-- A Host-class store, load or atomic on its way through the fabric port (R171, R195). -/
  | hostStore (core : Nat) (e : RecEntry)
  | hostLoad (pa : Nat) (r : ReadReq)
  | hostOp (block : Nat) (ops : List LaneOp) (id : Nat) (returns : Bool)
  /-- An RMA write or read, or a transport atomic, at a line's home (R75). -/
  | rmaWrite (slice : Nat) (line : Nat) (data : Tab Byte) (tag : DWord) (age : Nat)
  | rmaRead (slice : Nat) (line : Nat) (tag : DWord) (age : Nat)
  | portAtomic (slice : Nat) (pa : Nat) (op : AtomOp) (ty : BitVec 4) (value expected : DWord) (tag : DWord) (age : Nat)
  deriving DecidableEq, Repr

/-- Where a message has come from (R19, R47, R64): its die (8 and 9 the I/O dies), none where the message itself names its sender;
the epoch of its sender's map; and the port that carries it, of the host's traffic. -/
structure Origin where
  die : Option Nat
  epoch : Nat
  port : Option Nat
  deriving DecidableEq, Repr

/-! ## Cores -/

/-- A line that the instruction cache holds (R142), when last used. It holds what its home holds, since its loss changes no result
(R127; log 43). -/
structure CodeLine where
  line : Nat
  used : Nat
  deriving DecidableEq, Repr

/-- A core (R142); writes, what its copy engine has still to send of commands whose source it has read: block, operation, message
(R166, R330). -/
structure Core where
  rot : Nat
  record : List RecEntry
  seq : Nat
  l1 : List L1Line
  icache : List CodeLine
  clock : Nat
  tlb : List TlbEntry
  engineTlb : List TlbEntry
  queue : List CopyCmd
  writes : List (Nat × Nat × Msg)
  regxQueue : List Nat
  deriving DecidableEq, Repr

/-! ## Gangs, launches, partitions, tracts -/

/-- What a gang is doing (R108, R119, R135, R357). -/
inductive GangState where
  | pending
  | placed
  | killing (tk : Nat)
  | stopping (tp : Nat)
  | saved
  | retired
  | killed
  deriving DecidableEq, Repr

/-- The kept shape of a sheaf (R119): its index, lane offset, allocation, and its key at the stop. -/
structure ShapeSheaf where
  idx : Nat
  offset : Nat
  alloc : Nat
  key : Nat
  deriving DecidableEq, Repr

/-- The kept shape of a pre-empted member block (R119): block index, next-item pointer, tail record and whether it overflowed,
relaunch draws, sheaves; and that its draw at placement had not been made. -/
structure Shape where
  index : Nat
  next : Nat
  tailRecord : List (Nat × Nat)
  overflow : Bool
  replay : List (Nat × Nat)
  sheaves : List ShapeSheaf
  undrawn : Bool := false
  deriving DecidableEq, Repr

/-- Error classes (R125). -/
inductive RasClass where
  | replay | parity | corrected | uncorrected | control | consumed | hbmLine | channel | directory | link | fence
  | deadline | retire | budget | engine | walk | trap
  deriving DecidableEq, Repr

/-- A gang of a launch (R101, R106); final, that a kill is or will be final (R138, R139); replays, the tail ranges by block index
that a relaunch draws again (R139); ops, what its members that left their cores have still under way (R85, R138); horizon, the
largest completion time of such members (R199); draws, their tail atomics under way: operation, block index, strands (R139);
moved, where a resumed gang's sheaves were and are (R332); reads, the requests that only read which were on their way at its kill
(R138); seen, how new a content of each byte its loads return after a resume (R177, R199). -/
structure Gang where
  part : Nat
  launch : Nat
  first : Nat
  size : Nat
  tract : Nat
  firstCore : Nat
  state : GangState
  cause : Option RasClass
  final : Bool
  relaunches : Nat
  passes : Nat
  retiredMembers : List Nat
  shapes : List Shape
  replays : List (Nat × List (Nat × Nat))
  ops : List OpRef
  horizon : Nat
  draws : List (Nat × Nat × Nat)
  moved : List (Nat × Nat)
  reads : List Nat := []
  seen : Tab Nat := []
  deriving DecidableEq, Repr

/-- Status of a completion (R85). -/
inductive Status where
  | done | aborted | killed | reset
  deriving DecidableEq, Repr

/-- An accepted launch (R84, R85, R91). -/
structure Launch where
  part : Nat
  id : Nat
  order : Nat
  record : LaunchRecord
  root : Nat
  lease : Nat
  nextBlock : Nat
  resumed : List Nat
  suspended : Bool
  resuming : Bool
  retiredBlocks : Nat
  droppedBlocks : Nat
  killed : Nat
  relaunched : Nat
  aborted : Bool
  horizon : Nat
  ready : Option Nat
  deriving DecidableEq, Repr

/-- A registered destination of events and completions (R79, R82). -/
structure EventSlot where
  mask : Word
  addr : BitVec 128
  job : BitVec 24
  pid : BitVec 12
  index : BitVec 12
  deriving DecidableEq, Repr

/-- An entry of the page-fault table (R88): context, 64 KiB page, the root it was walked from, and the access code. -/
structure PageFault where
  ctx : Nat
  page : Nat
  root : Nat
  access : Nat
  deriving DecidableEq, Repr

/-- A signed code region (R96). -/
structure CodeRegion where
  ctx : Nat
  va : Nat
  len : Nat
  deriving DecidableEq, Repr

/-- What the module has sent to the host (R79, R85, R86, R75). -/
inductive Sent where
  | response (dst : Source) (opcode : Byte) (status : Byte) (seq tag result : DWord) (detail : List Byte)
  | completion (part slot : Nat) (tag : DWord) (launch : Nat) (status : Status) (killed relaunched : Nat) (dt : Nat)
  | event (endpoint slot : Nat) (code : Nat) (severity part seq dt die tract quad core : Nat) (detail : DWord)
  | rmaDone (tag : DWord) (ok : Bool) (data : List Byte)
  deriving DecidableEq, Repr

/-- A command whose response is not sent (R81, R89, R91): SHOOT, PREEMPT suspend or resume wait for their conditions, any
command waits for its turn in the stream. Target: the launch or context; count: the result; entries, ops, loads
and copies: what must drain, complete or return; rewalks: open faults whose walk waits for a link (R21); mmas:
arrivals of matrix requests that are not finished; ready: the response that waits for its turn. -/
structure Waiting where
  opcode : Nat
  h : CmdHeader
  target : Nat
  resume : Bool
  count : Nat
  entries : List (Nat × Nat)
  ops : List (Nat × Nat)
  loads : List (Nat × Nat)
  copies : List (Nat × Nat)
  rewalks : List Nat
  mmas : List Nat
  horizon : Nat
  ready : Option Sent
  deriving DecidableEq, Repr

/-- A partition (R76, R92 to R96); lastSeq, the sequence number of its stream's last accepted command (R81); leaseTop, the largest
lease length that its launches have used (R127). -/
structure Partition where
  tracts : List Nat
  addr : BitVec 128
  codeKey : BitVec 776
  key : BitVec 256
  signedCode : Bool
  share : Nat
  channel : Nat
  ways : Nat
  masks : Tab Nat
  allowances : Tab Nat
  ctxBase : Nat
  ctxCount : Nat
  slots : Tab EventSlot
  eventSeq : Nat
  lastSeq : Nat
  leaseTop : Nat
  nextLaunch : Nat
  faults : Tab PageFault
  regions : List CodeRegion
  waiting : List Waiting
  deriving DecidableEq, Repr

/-- A batch at a die dispatcher (R104): the gangs not yet placed. -/
structure Batch where
  gangs : List Nat
  deriving DecidableEq, Repr

/-- Spare site of a tract (R17). -/
inductive Spare where
  | unused | bound | failed
  deriving DecidableEq, Repr

/-- A tract (R102 to R109, R17, R43, R44): lost, the pseudo-channels that failed while the parity of a stack was not kept (R69);
owed, slots of a retired quad that were promised already (R141); placeAt, the tick of the die dispatcher's next placement (R108). -/
structure Tract where
  owner : Nat
  credit : Nat
  batchFree : Nat
  batches : List Batch
  pending : List Nat
  returns : Nat
  returnsSince : Nat
  freedEntries : Nat
  reservation : Option (Nat × Nat)
  spare : Spare
  failedChannels : List Nat
  lost : List (Nat × Nat)
  owed : Nat
  placeAt : Nat
  deriving DecidableEq, Repr

/-! ## The module -/

/-- A die (R28, R31, R68). -/
structure Die where
  fenced : Bool
  locked : Bool
  sensors : Tab Int
  hotSince : Tab Nat
  cap7 : Bool
  cap0 : Bool
  deriving DecidableEq, Repr

/-- Link states (R20). -/
inductive LinkState where
  | up | spared | narrow | down
  deriving DecidableEq, Repr

/-- A link (R18 to R22): the failed lanes of its two directions (R20). -/
structure Link where
  state : LinkState
  lanes : Nat × Nat
  crc : Nat
  detour : Bool
  deriving DecidableEq, Repr

/-- The states of a port, in the order of their codes (R100). -/
inductive PortState where
  | up | down | training
  deriving DecidableEq, Repr

/-- A port (R25, R99): its state, and the frames that it has sent and received; how many a message takes, and when one that is down
begins to train, is free (log 2). -/
structure Port where
  state : PortState
  sent : DWord
  received : DWord
  deriving DecidableEq, Repr

/-- A firmware slot (R33, R34, R97). -/
structure FwSlot where
  valid : Bool
  version : DWord
  split : BitVec 2
  image : List Byte
  deriving DecidableEq, Repr

/-- A RAS log entry (R99, R125); injected marks class bit 7. Location: die, tract, quad, core; agent, the number of the agent it is
about (R47). -/
structure RasEntry where
  dt : Nat
  cls : RasClass
  injected : Bool
  die : Nat
  tract : Nat
  quad : Nat
  core : Nat
  agent : Option Nat
  detail : DWord × DWord
  deriving DecidableEq, Repr

/-- An RMA access or transport atomic whose completion is not sent (R75): lines without a completion time or answer yet, the
largest completion time, the value of an atomic, the range of a read and what it has found (R133), the port that carries it, and
that a home's die has refused it (R69). -/
structure RmaPending where
  tag : DWord
  lines : Nat
  horizon : Nat
  data : List Byte
  range : Option (Nat × Nat)
  got : Tab Byte
  poison : Bool
  port : Nat
  refused : Bool := false
  deriving DecidableEq, Repr

/-- Power of the module (R33, R35). -/
inductive Power where
  | off | noFirmware | on
  deriving DecidableEq, Repr

/-- The module's own state (R13 to R36, R64, R95, R97): epochsBegun the last grant epoch that has begun, budgetsSent how many have
had the next one's budgets sent (R29); powers, the module power of the last 1,000 epochs, newest first (R36); lastPart, the
partition that the global dispatcher served last (R103); dispatchAt, the tick of the global dispatcher's next decision (R103). -/
structure Module where
  power : Power
  slotA : FwSlot
  slotB : FwSlot
  running : Nat
  fwOpen : Option (Source × Nat)
  mgmtKey : BitVec 256
  mgmtSlots : Tab EventSlot
  mgmtSeq : Nat
  env : Environment
  links : Tab Link
  ports : Tab Port
  epoch : Nat
  map : Tab Nat
  newRetired : List Nat
  newDetour : Bool
  bound : List Nat
  lastPart : Nat
  dispatchAt : Nat
  powers : List Nat
  epochsBegun : Nat
  budgetsSent : Nat
  rma : List RmaPending
  ras : List RasEntry
  deriving DecidableEq, Repr

/-- An entry of the agenda: the ticks that pass before it, the step, and the numbers it acts on. -/
structure Planned where
  after : Nat
  ev : Instr
  focus : List Nat
  deriving DecidableEq, Repr

/-- The model's control fields (log 1, log 2): the bundle that ISSUE_CYCLE chose and the next step runs, the agenda that
says which agent moves next, the numbers the moving agent acts on, the core that the default order visits next and whether another
agent has moved since the last one's turn, and the counter of free values. -/
structure Control where
  bundle : Option Bundle
  agenda : List Planned
  focus : List Nat
  turn : Nat
  moved : Bool
  free : Nat
  nextId : Nat
  deriving DecidableEq, Repr

/-- The machine. Keys: strand 4096 × core + 64 × sheaf slot + sidx; sheaf 64 × core + slot; block 4 × core + block slot;
launch 2^32 × partition + id; line physical address / 64; message the number it was sent under. -/
structure State where
  ctl : Control
  now : Nat
  mem : Memory
  parity : Memory
  badLines : List Nat
  strands : Tab Strand
  sheaves : Tab Sheaf
  blocks : Tab Block
  cores : Tab Core
  gangs : Tab Gang
  launches : Tab Launch
  parts : Tab Partition
  tracts : Tab Tract
  quads : Tab Quad
  dies : Tab Die
  homes : Tab Home
  net : Tab Msg
  origins : Tab Origin
  module : Module
  sent : List Sent
  deriving DecidableEq, Repr

/-- The reasons the machine could stop with a fault. The manual gives every error a next state (a trap, a kill, a fence), so
no step raises one. -/
inductive Fault where
  /-- Raised by no step: a step of a machine whose every error is a next state; it would be safe. -/
  | impossible
  deriving DecidableEq, Repr

/-- The reasons a step has no meaning. -/
inductive Refusal where
  /-- Raised by the arm of an instruction that has no meaning yet; safe. -/
  | notModelled (mnemonic : String)
  deriving DecidableEq, Repr

/-! ## Values of what no table lists, and reset -/

/-- A strand that no slot holds; nothing runs it. -/
def Strand.blank : Strand :=
  { lane := 0, sidx := 0, pc := 0, depth := 0, stack := [], csp := 0, x := 0, y := 16, v := [], vPoison := [], preds := 0,
    cond := .done, item := 0, age := 0, fstat := 0, fmask := 0, nbv := 1, tcause := 0, trpc := 0, tdet := 0, trapDepth := 0,
    loads := [], fences := [], led := none, waitLen := 4, recorded := none, trap := none }

/-- A sheaf that no slot holds. -/
def Sheaf.blank : Sheaf :=
  { block := 0, idx := 0, slot := 0, context := 0, offset := 0, log2w := 3, alloc := 0, w := [], wPoison := [], masks := [],
    backedge := 0, held := none, ens := 0, mxp := 0, copies := 0, regx := none, phase := .normal, pendingMma := false,
    placed := 0 }

/-- A block slot that holds no block. -/
def Block.blank : Block :=
  { part := 0, launch := 0, gang := 0, index := 0, grank := 0, ready := false, sheafSlots := [], padBase := 0, padBytes := 0,
    xBytes := 0, pad := [], padPoison := [], bank := 0, next := 0, last := 0, tailRecord := [], replay := [], draws := [],
    overflow := false, rlim := Config.recordEntries, lct := 0, einj := 0, tiles := [], ops := [], shared := [],
    stopped := false, framed := 0 }

/-- A gang number that names no gang. -/
def Gang.blank : Gang :=
  { part := 0, launch := 0, first := 0, size := 1, tract := 0, firstCore := 0, state := .retired, cause := none,
    final := false, relaunches := 0, passes := 0, retiredMembers := [], shapes := [], replays := [], ops := [], horizon := 0, draws := [],
    moved := [] }

/-- A launch record of zeros. -/
def LaunchRecord.blank : LaunchRecord :=
  { entry := 0, codeBase := 0, params := 0, blocks := 0, gang := 1, sheaves := 1, log2w := 3, items := 0, tail := 0,
    regs := 0, xpad := 0, xwin := 0, threshold := 0, prio := 0, refill := 0xFFFFFFFF, handler := 0xFFFFFFFF,
    resume := 0xFFFFFFFF, trapOff := 0xFFFFFFFF, endpoint := 0, tag := 0, fmask := 0, nbv := 1, flags := 0, ctx := 0,
    save := 0, tailCtr := 0, rsv := 0 }

/-- A launch id that names no launch. -/
def Launch.blank : Launch :=
  { part := 0, id := 0, order := 0, record := LaunchRecord.blank, root := 0, lease := 512, nextBlock := 0, resumed := [],
    suspended := false, resuming := false, retiredBlocks := 0, droppedBlocks := 0, killed := 0, relaunched := 0,
    aborted := false, horizon := 0, ready := none }

/-- A partition after ASSIGN creates it, but for what the command gives (R94). -/
def Partition.blank : Partition :=
  { tracts := [], addr := 0, codeKey := 0, key := 0, signedCode := false, share := 1, channel := 1, ways := 0, masks := [],
    allowances := [], ctxBase := 0, ctxCount := 0, slots := [], eventSeq := 0, lastSeq := 0, leaseTop := 0, nextLaunch := 1,
    faults := [], regions := [], waiting := [] }

/-- A core after power-up (R144, R162). -/
def Core.reset : Core :=
  { rot := 63, record := [], seq := 1, l1 := [], icache := [], clock := 0, tlb := [], engineTlb := [], queue := [], writes := [],
    regxQueue := [] }

/-- A quad after power-up: no budget received, so the floor level (R29); its tract is unassigned, so gated (R73). -/
def Quad.reset : Quad :=
  { level := Config.floorLevel, latched := none, demand := 0, draw := 0, withheld := 0, withheldLast := 0, cycle := 0,
    acted := [], ahead := 0, wcyc := 0, rply := 0, replays := 0, heavyEpochs := 0, uncorrected := [], controls := [], retired := false,
    latches := [], table := [], pass := none, hfloor := 0, gated := true, horizons := [], copies := [],
    directory := [], takeover := [], notes := [], hot := [], redirects := [], queueUsed := 0, retry := [], reserved := [],
    resident := [], tlb := [], stub := none }

/-- A die after power-up. -/
def Die.reset : Die :=
  { fenced := false, locked := true, sensors := [], hotSince := [], cap7 := false, cap0 := false }

/-- A link after training (R33). -/
def Link.reset : Link := { state := .up, lanes := (0, 0), crc := 0, detour := false }

/-- A port after power-up (R33). -/
def Port.reset : Port := { state := .up, sent := 0, received := 0 }

/-- A tract after power-up: unassigned (R33). -/
def Tract.reset : Tract :=
  { owner := 0, credit := 0, batchFree := 8, batches := [], pending := [], returns := 0, returnsSince := 0,
    freedEntries := 0, reservation := none, spare := .unused, failedChannels := [], lost := [], owed := 0, placeAt := 0 }

/-- A line that nothing has touched. -/
def Home.reset : Home := { dir := .empty, tracker := none, loans := [], txn := none, queue := [] }

/-- What an unlisted byte of memory reads as (R94). -/
def Memory.unlisted : Byte := 0

/-- The module after power-up. The firmware slots and the environment are DESIGN CHOICE (log 3, log 5). -/
def Module.reset : Module :=
  { power := .on, slotA := { valid := true, version := 0x0001000000000000, split := 0, image := [] },
    slotB := { valid := false, version := 0, split := 0, image := [] }, running := 0, fwOpen := none,
    mgmtKey := Config.fusedKey, mgmtSlots := [], mgmtSeq := 0,
    env := { inlet := 250, flow := 5000, volt := 54000, power := 420000 },
    links := [], ports := [], epoch := 0, map := [], newRetired := [], newDetour := false, bound := [],
    lastPart := 0, dispatchAt := 0, powers := [], epochsBegun := 0, budgetsSent := 0, rma := [], ras := [] }

/-- The machine right after power-up (R7, R33 step 4): the module accepts commands, every tract is unassigned. -/
def State.reset : State :=
  { ctl := { bundle := none, agenda := [], focus := [], turn := 0, moved := false, free := 0, nextId := 1 }, now := 0, mem := [], parity := [],
    badLines := [], strands := [], sheaves := [], blocks := [], cores := [], gangs := [], launches := [],
    parts := [], tracts := [], quads := [], dies := [], homes := [], net := [], origins := [], module := Module.reset, sent := [] }

end Sys2Proof.Machine
end

