-- ==== Sys2Proof/Machine/Table.lean ====
section
/-! DEFINITION. Tables from numbers to values: look up, set, erase. -/

namespace Sys2Proof.Machine

/-- The value at a key. -/
def tfind {α : Type} : List (Nat × α) → Nat → Option α
  | [], _ => none
  | (j, v) :: rest, k => if j = k then some v else tfind rest k

/-- The value at a key, or a default. -/
def tget {α : Type} (t : List (Nat × α)) (k : Nat) (d : α) : α := (tfind t k).getD d

/-- Set the value at a key, keys rising. -/
def tset {α : Type} : List (Nat × α) → Nat → α → List (Nat × α)
  | [], k, v => [(k, v)]
  | (j, w) :: rest, k, v =>
    if k < j then (k, v) :: (j, w) :: rest
    else if k = j then (k, v) :: rest
    else (j, w) :: tset rest k v

/-- Remove a key. -/
def terase {α : Type} : List (Nat × α) → Nat → List (Nat × α)
  | [], _ => []
  | (j, w) :: rest, k => if j = k then rest else (j, w) :: terase rest k

/-- Change the value at a key, if there is one. -/
def tmod {α : Type} (t : List (Nat × α)) (k : Nat) (f : α → α) : List (Nat × α) :=
  match tfind t k with
  | some v => tset t k (f v)
  | none => t

/-- The keys. -/
def tkeys {α : Type} (t : List (Nat × α)) : List Nat := t.map (·.1)

/-- Add a number to a set of numbers kept as a list. -/
def sinsert (k : Nat) (l : List Nat) : List Nat := if l.contains k then l else k :: l

/-- Remove a number from a set of numbers kept as a list. -/
def sremove (k : Nat) (l : List Nat) : List Nat := l.filter (· != k)

/-- Keys rising: the canonical form of a table. -/
def keysRise {α : Type} : List (Nat × α) → Bool
  | [] => true
  | [_] => true
  | (j, _) :: (k, v) :: rest => decide (j < k) && keysRise ((k, v) :: rest)

/-! ## Memory -/

/-- The byte of physical memory at an address (R38); an unlisted one reads as R94 leaves it. -/
def memRead (m : Memory) (a : Nat) : Byte := tget m a Memory.unlisted

/-- Store a byte, keeping the canonical form: an address that holds what an unlisted one reads as is not listed. -/
def memWrite (m : Memory) (a : Nat) (v : Byte) : Memory := if v = Memory.unlisted then terase m a else tset m a v

/-- The canonical form of memory: addresses rising, and nothing listed that reads as unlisted. -/
def Memory.wf (m : Memory) : Bool := keysRise m && m.all fun c => c.2 != Memory.unlisted

/-- Store bytes at consecutive addresses. -/
def memWriteList (m : Memory) (a : Nat) : List Byte → Memory
  | [] => m
  | b :: bs => memWriteList (memWrite m a b) (a + 1) bs

/-- Zero the addresses from lo up to hi. -/
def memZero (m : Memory) (lo hi : Nat) : Memory := m.filter fun c => !(decide (lo ≤ c.1) && decide (c.1 < hi))

/-- What a step of a home or of the host does to memory: bytes stored from an address on, or a range zeroed. -/
inductive MemEffect where
  | store (a : Nat) (bytes : List Byte)
  | zero (lo hi : Nat)
  deriving DecidableEq, Repr

/-- Apply one effect. -/
def MemEffect.apply (m : Memory) : MemEffect → Memory
  | .store a bytes => memWriteList m a bytes
  | .zero lo hi => memZero m lo hi

/-- Apply effects in order. -/
def memApply (m : Memory) (es : List MemEffect) : Memory := es.foldl MemEffect.apply m

/-- The number that bytes stand for, little-endian (R4). -/
def leNat : List Byte → Nat
  | [] => 0
  | b :: bs => b.toNat + 256 * leNat bs

/-- n little-endian bytes of a number (R4). -/
def leBytes : Nat → Nat → List Byte
  | 0, _ => []
  | n + 1, x => BitVec.ofNat 8 x :: leBytes n (x / 256)

end Sys2Proof.Machine
end

