-- ==== Sys2Proof/Machine/Ops.lean ====
section
/-! DEFINITION. The named operations over the machine's state: lookups and updates, locations, the RAS log and events,
gang kill, registers and masks, address translation, the store record, trap entry and the draw of items. -/

namespace Sys2Proof.Machine

/-! ## Lookups and updates -/

/-- The numbers the moving agent acts on, one by one. -/
def State.arg (s : State) (i : Nat) : Nat := s.ctl.focus.getD i 0

/-- The strand at a key. -/
def strandAt (s : State) (k : Nat) : Strand := tget s.strands k Strand.blank
/-- The sheaf at a key. -/
def sheafAt (s : State) (k : Nat) : Sheaf := tget s.sheaves k Sheaf.blank
/-- The block at a key. -/
def blockAt (s : State) (k : Nat) : Block := tget s.blocks k Block.blank
/-- The core of a number. -/
def coreAt (s : State) (c : Nat) : Core := tget s.cores c Core.reset
/-- The gang of a number. -/
def gangAt (s : State) (g : Nat) : Gang := tget s.gangs g Gang.blank
/-- The launch at a key. -/
def launchAt (s : State) (k : Nat) : Launch := tget s.launches k Launch.blank
/-- The partition of a number. -/
def partAt (s : State) (p : Nat) : Partition := tget s.parts p Partition.blank
/-- The tract of a number. -/
def tractAt (s : State) (t : Nat) : Tract := tget s.tracts t Tract.reset
/-- The quad of a number. -/
def quadAt (s : State) (q : Nat) : Quad := tget s.quads q Quad.reset
/-- The die of a number. -/
def dieAt (s : State) (d : Nat) : Die := tget s.dies d Die.reset
/-- The home record of a line. -/
def homeAt (s : State) (line : Nat) : Home := tget s.homes line Home.reset

/-- Change a strand. -/
def modStrand (s : State) (k : Nat) (f : Strand → Strand) : State := { s with strands := tmod s.strands k f }
/-- Change a sheaf. -/
def modSheaf (s : State) (k : Nat) (f : Sheaf → Sheaf) : State := { s with sheaves := tmod s.sheaves k f }
/-- Change a block. -/
def modBlock (s : State) (k : Nat) (f : Block → Block) : State := { s with blocks := tmod s.blocks k f }
/-- Change a core. -/
def modCore (s : State) (c : Nat) (f : Core → Core) : State := { s with cores := tset s.cores c (f (coreAt s c)) }
/-- Change a gang. -/
def modGang (s : State) (g : Nat) (f : Gang → Gang) : State := { s with gangs := tmod s.gangs g f }
/-- Change a launch. -/
def modLaunch (s : State) (k : Nat) (f : Launch → Launch) : State := { s with launches := tmod s.launches k f }
/-- Change a partition. -/
def modPart (s : State) (p : Nat) (f : Partition → Partition) : State := { s with parts := tmod s.parts p f }
/-- Change a tract. -/
def modTract (s : State) (t : Nat) (f : Tract → Tract) : State := { s with tracts := tset s.tracts t (f (tractAt s t)) }
/-- Change a quad. -/
def modQuad (s : State) (q : Nat) (f : Quad → Quad) : State := { s with quads := tset s.quads q (f (quadAt s q)) }
/-- Change a die. -/
def modDie (s : State) (d : Nat) (f : Die → Die) : State := { s with dies := tset s.dies d (f (dieAt s d)) }
/-- Change the home record of a line. -/
def modHome (s : State) (line : Nat) (f : Home → Home) : State := { s with homes := tset s.homes line (f (homeAt s line)) }
/-- Change the module's own state. -/
def modModule (s : State) (f : Module → Module) : State := { s with module := f s.module }

/-- A fresh number for a message, an operation or an order of arrival. -/
def fresh (s : State) : Nat × State := (s.ctl.nextId, { s with ctl := { s.ctl with nextId := s.ctl.nextId + 1 } })

/-- The next free choice (log 2). -/
def choose (s : State) : Bool × State :=
  (Config.freeBit s.ctl.free, { s with ctl := { s.ctl with free := s.ctl.free + 1 } })

/-- A message is on the fabric under a number, from a die and for a port where these are to be known (R19, R47); it carries the
epoch of its sender's map (R64). -/
def putMsg (s : State) (id : Nat) (die port : Option Nat) (m : Msg) : State :=
  { s with net := tset s.net id m, origins := tset s.origins id { die := die, epoch := s.module.epoch, port := port } }

/-- Put a message on the fabric, from a die or for a port. -/
def postFrom (s : State) (die port : Option Nat) (m : Msg) : State :=
  let (id, t) := fresh s
  putMsg t id die port m

/-- Put a message on the fabric whose sender it names itself. -/
def post (s : State) (m : Msg) : State := postFrom s none none m

/-- The port of a message. -/
def portOf (s : State) (id : Nat) : Option Nat := (tfind s.origins id).bind (·.port)

/-- A message goes on, or its answer goes back, under its number, from the die of a slice. -/
def passOn (s : State) (id slice : Nat) (m : Msg) : State := putMsg s id (some (slice / 64)) (portOf s id) m

/-- Take a message off the fabric. -/
def takeOff (s : State) (id : Nat) : State := { s with net := terase s.net id, origins := terase s.origins id }

/-- Some messages of the fabric are gone. -/
def dropMsgs (s : State) (gone : Nat → Msg → Bool) : State :=
  { s with net := s.net.filter fun p => !gone p.1 p.2,
           origins := s.origins.filter fun o => !(tfind s.net o.1).any (gone o.1) }

/-- Only an issue cycle puts a bundle at the issue stage (R144): any other step keeps it or drops it. -/
def keptBundle (s t : State) : Option Bundle := t.ctl.bundle.bind fun _ => s.ctl.bundle

/-- What a step of the fabric may leave: memory as it was. Strands act on memory through the record and the fabric alone, and
memory changes at the homes (R162, R174, R175). -/
def quiet (s t : State) : State :=
  { t with mem := s.mem, badLines := s.badLines, ctl := { t.ctl with bundle := keptBundle s t } }

/-- What an instruction's execution leaves: memory as it was, and no bundle at the issue stage (R144). -/
def executed (s t : State) : State :=
  { t with mem := s.mem, badLines := s.badLines, ctl := { t.ctl with bundle := none } }

/-- What a step of a home or of the host leaves: memory changed by its effects and by nothing else. -/
def commit (s : State) (r : State × List MemEffect) : State :=
  { r.1 with mem := memApply s.mem r.2, ctl := { r.1.ctl with bundle := keptBundle s r.1 } }

/-- Core, sheaf and block of a strand key. -/
def coreOf (k : Nat) : Nat := k / 4096
/-- The sheaf key of a strand key. -/
def sheafOf (k : Nat) : Nat := k / 64
/-- The block key of a strand key. -/
def blockOf (s : State) (k : Nat) : Nat := (sheafAt s (sheafOf k)).block

/-- The launch key of a block. -/
def Block.launchKey (b : Block) : Nat := 2 ^ 32 * b.part + b.launch
/-- The launch key of a gang. -/
def Gang.launchKey (g : Gang) : Nat := 2 ^ 32 * g.part + g.launch
/-- The launch of a block. -/
def launchOf (s : State) (b : Block) : Launch := launchAt s b.launchKey
/-- The width of a sheaf. -/
def Sheaf.width (f : Sheaf) : Nat := 2 ^ f.log2w
/-- The key of the strand of a sheaf with an index. -/
def strandKey (sheafKey sidx : Nat) : Nat := 64 * sheafKey + sidx
/-- The keys of a sheaf's strands, in ascending `%sidx`. -/
def sheafStrands (s : State) (sheafKey : Nat) : List Nat :=
  (List.range (sheafAt s sheafKey).width).map (strandKey sheafKey)
/-- The sheaf keys of a block, in ascending `%sheaf`. -/
def blockSheaves (s : State) (b : Nat) : List Nat := (blockAt s b).sheafSlots.map (64 * (b / 4) + ·)
/-- The keys of a block's strands, in ascending `%sheaf`, then ascending lane. -/
def blockStrands (s : State) (b : Nat) : List Nat := (blockSheaves s b).flatMap (sheafStrands s)
/-- The keys of a gang's resident blocks. -/
def gangBlocks (s : State) (g : Nat) : List Nat := (s.blocks.filter fun p => p.2.gang == g).map (·.1)

/-! ## Locations, RAS log, events (R14, R86, R99, R100, R125) -/

/-- The location of an event or of a RAS entry; 0xFF and 0xFFFF name no unit (R100). -/
structure Loc where
  die : Nat
  tract : Nat
  quad : Nat
  core : Nat
  deriving DecidableEq, Repr

/-- No unit. -/
def noLoc : Loc := ⟨0xFF, 0xFF, 0xFFFF, 0xFFFF⟩
/-- A core (R14). -/
def locCore (c : Nat) : Loc := ⟨c / 256, c / 128, c / 4, c⟩
/-- A quad. -/
def locQuad (q : Nat) : Loc := ⟨q / 64, q / 32, q, 0xFFFF⟩
/-- A tract. -/
def locTract (t : Nat) : Loc := ⟨t / 2, t, 0xFFFF, 0xFFFF⟩
/-- A die. -/
def locDie (d : Nat) : Loc := ⟨d, 0xFF, 0xFFFF, 0xFFFF⟩

/-! ### Agents (R47) -/

/-- The number of a core. -/
def agentCore (c : Nat) : Nat := c
/-- The number of a quad's matrix engine. -/
def agentMatrix (q : Nat) : Nat := 2048 + q
/-- The number of a core's copy engine. -/
def agentCopy (c : Nat) : Nat := 4096 + c
/-- The number of an Ethernet port. -/
def agentPort (n : Nat) : Nat := 6144 + n
/-- The number of a service quad, 0 to 3. -/
def agentService (i : Nat) : Nat := 6160 + i

/-- The agent that a RAS entry of a class at a location is about (R47): the copy or matrix engine of an ENGINE entry (R92), else the
core; of a unit larger than a core, the service quad 0 that logs it (log 55). -/
def rasAgent (cls : RasClass) (loc : Loc) : Option Nat :=
  if cls == .engine then (if loc.core < Config.cores then some (agentCopy loc.core) else some (agentMatrix loc.quad))
  else if loc.core < Config.cores then some (agentCore loc.core) else some (agentService 0)

/-- The code of a RAS class (R125). -/
def RasClass.code (c : RasClass) : Nat := c.ctorIdx + 1

/-- The state of a link (R20). -/
def linkState (s : State) (n : Nat) : LinkState := (tget s.module.links n Link.reset).state

/-- An I/O die reaches the mesh: it is not fenced (R28), and one of its two links is not Down (R21). -/
def ioReach (s : State) (io : Nat) : Bool :=
  !(dieAt s (8 + io)).fenced && (linkState s (10 + 2 * io) != .down || linkState s (11 + 2 * io) != .down)

/-- An I/O die's ports are split (R24, R100). -/
def ioSplit (s : State) (io : Nat) : Bool :=
  (if s.module.running = 0 then s.module.slotA else s.module.slotB).split.getLsbD io

/-- The ports, each with its I/O die (R23, R24): numbered 0 to 7, or where a die's are split by halves, port n of an unsplit die
then 2n (DEDUCED, log 19). -/
def portList (s : State) : List (Nat × Nat) :=
  if !ioSplit s 0 && !ioSplit s 1 then (List.range 8).map fun n => (n, n / 4)
  else ((List.range 16).map fun n => (n, n / 8)).filter fun p => p.1 % 2 == 0 || ioSplit s p.2

/-- A port carries traffic (R21, R25). -/
def portUsable (s : State) (p : Nat × Nat) : Bool :=
  (tget s.module.ports p.1 Port.reset).state == .up && ioReach s p.2

/-- The host can be reached (R25): some port carries traffic. -/
def hostReach (s : State) : Bool := (portList s).any (portUsable s)

/-- The next step takes new free choices. -/
def nextChoices (s : State) : State := { s with ctl := { s.ctl with free := s.ctl.free + 1 } }

/-- The port that carries a message to the host (R23, R195): one that carries traffic, freely (log 19). -/
def hostPort (s : State) : Option Nat :=
  let ports := (portList s).filter (portUsable s)
  (ports[(Config.freeByte s.ctl.free).toNat % ports.length]?).map (·.1)

/-- A 64-bit free value (log 2). -/
def freeField (s : State) (i : Nat) : DWord :=
  BitVec.ofNat 64 (leNat ((List.range 8).map fun j => Config.freeByte (2 ^ 61 + 64 * s.ctl.free + 8 * i + j)))

/-- Change a port. -/
def modPort (s : State) (n : Nat) (f : Port → Port) : State :=
  modModule s fun m => { m with ports := tset m.ports n (f (tget m.ports n Port.reset)) }

/-- A port's frame count after at least so many more frames, and whatever else it has carried: it never falls (log 2). -/
def moreFrames (x : DWord) (least more : Nat) : DWord := BitVec.ofNat 64 (min (2 ^ 64 - 1) (x.toNat + least + more))

/-- A message of the host's traffic goes through a port, out of the module or into it: a frame at least, how many is free (R99). -/
def countFrames (s : State) (port : Option Nat) (out : Bool) : State :=
  match port with
  | some n =>
    let more := (freeField s 0).toNat
    nextChoices (modPort s n fun x =>
      if out then { x with sent := moreFrames x.sent 1 more } else { x with received := moreFrames x.received 1 more })
  | none => s

/-- A message from the host comes in through a port that carries traffic. -/
def hears (s : State) : State := countFrames s (hostPort s) false

/-- Send a message to the host, through a port that carries traffic. -/
def emit (s : State) (m : Sent) : State :=
  let t := countFrames s (hostPort s) true
  { t with sent := t.sent ++ [m] }

/-- Send one event to the slots of one endpoint whose mask has its bit, under the endpoint's next number. -/
def sendEvent (s : State) (endpoint code severity part : Nat) (loc : Loc) (detail : DWord) : State :=
  let slots := if endpoint = 0 then s.module.mgmtSlots else (partAt s endpoint).slots
  let seq := if endpoint = 0 then s.module.mgmtSeq else (partAt s endpoint).eventSeq
  let hit := slots.filter fun p => p.2.mask.getLsbD (code - 1)
  if hit.isEmpty || !hostReach s then s
  else
    let t := hit.foldl (fun u p => emit u (.event endpoint p.1 code severity part seq s.now loc.die loc.tract loc.quad loc.core detail)) s
    if endpoint = 0 then modModule t fun m => { m with mgmtSeq := (m.mgmtSeq + 1) % 2 ^ 32 }
    else modPart t endpoint fun p => { p with eventSeq := (p.eventSeq + 1) % 2 ^ 32 }

/-- Raise an event (R86): the management endpoint receives all, a partition its own and those module events whose
location lies in its tracts; an event located at a die or at the module lies in no tract (DESIGN CHOICE, log 56). -/
def raise (s : State) (code severity part : Nat) (loc : Loc) (detail : DWord) : State :=
  let t := sendEvent s 0 code severity part loc detail
  let owner := if part ≠ 0 then part else if loc.tract < Config.tracts then (tractAt s loc.tract).owner else 0
  if owner = 0 then t else sendEvent t owner code severity part loc detail

/-- A RAS event is raised for these classes (R86). -/
def RasClass.raises (c : RasClass) : Bool := c == .hbmLine || c == .channel || c == .directory || c == .budget

/-- A quad's SRAM and CONTROL errors, by DT, for its retirement (R141). -/
def countError (s : State) (cls : RasClass) (loc : Loc) : State :=
  if loc.quad < Config.quads then
    match cls with
    | .uncorrected => modQuad s loc.quad fun x => { x with uncorrected := x.uncorrected ++ [s.now] }
    | .control => modQuad s loc.quad fun x => { x with controls := x.controls ++ [s.now] }
    | _ => s
  else s

/-- Write one RAS log entry (R125), and raise its event where R86 gives one. -/
def logRas (s : State) (cls : RasClass) (injected : Bool) (loc : Loc) (d0 d1 : DWord) : State :=
  let e : RasEntry :=
    { dt := s.now, cls := cls, injected := injected, die := loc.die, tract := loc.tract, quad := loc.quad,
      core := loc.core, agent := rasAgent cls loc, detail := (d0, d1) }
  let i := s.module.ras.length
  let t := modModule (countError s cls loc) fun m => { m with ras := m.ras ++ [e] }
  if cls.raises && !injected then raise t 0x000C 1 0 loc (BitVec.ofNat 64 i) else t

/-! ## Gang kill (R134) -/

/-- A gang that can still be killed. -/
def GangState.live : GangState → Bool
  | .pending | .placed | .stopping _ | .saved => true
  | .killing _ | .retired | .killed => false

/-- The kill of a gang (R134, R135): its tick is that of the detection, and no member issues from then on (DESIGN CHOICE, log 62). A
kill by ABORT or partition RESET has no class and no RAS entry. -/
def killNow (s : State) (g : Nat) (cls : Option RasClass) (injected : Bool) (loc : Loc) : State :=
  let gg := gangAt s g
  let t := modGang s g fun x => { x with state := .killing s.now, cause := cls }
  match cls with
  | none => t
  | some c => logRas t c injected loc (BitVec.ofNat 64 (gg.launch + 2 ^ 32 * gg.first)) 0

/-- Kill a gang (R134): once, with the first cause. -/
def startKill (s : State) (g : Nat) (cls : Option RasClass) (injected : Bool) (loc : Loc) : State :=
  if (gangAt s g).state.live then killNow s g cls injected loc else s

/-- Kill the gang of a strand. -/
def killOf (s : State) (k : Nat) (cls : RasClass) : State :=
  startKill s (blockAt s (blockOf s k)).gang (some cls) false (locCore (coreOf k))

/-- A final kill counts in its launch (R85) and raises GANG_KILLED, but for one by ABORT or partition RESET. -/
def finalKill (s : State) (g : Nat) : State :=
  let x := gangAt s g
  let t := modLaunch (modGang s g fun y => { y with final := true }) x.launchKey fun l =>
    { l with droppedBlocks := l.droppedBlocks + (x.size - x.retiredMembers.length),
             killed := l.killed + (if x.cause.isSome then 1 else 0) }
  if x.cause.isSome then raise t 0x0002 2 x.part (locTract x.tract) (BitVec.ofNat 64 (x.launch + 2 ^ 32 * x.first)) else t

/-! ## Conditions (R143) -/

/-- A strand leaves a Waiting or Stalled condition: it is Running, or waits on the sheaf's pending request (R154). -/
def wake (s : State) (k : Nat) : State :=
  let c : Cond := if (sheafAt s (sheafOf k)).regx.isSome then .waiting (.regx false) else .running
  modStrand s k fun x => { x with cond := c }

/-- A strand takes a condition. -/
def setCond (s : State) (k : Nat) (c : Cond) : State := modStrand s k fun x => { x with cond := c }

/-- The strands of a core. -/
def coreStrands (s : State) (c : Nat) : List Nat :=
  (tkeys s.strands).filter fun k => coreOf k == c

/-- Wake every strand of a list that is in a condition. -/
def wakeWhere (s : State) (ks : List Nat) (p : Cond → Bool) : State :=
  ks.foldl (fun t k => if p (strandAt t k).cond then wake t k else t) s

/-- A strand advances by a length. -/
def advance (s : State) (len : Nat) (k : Nat) : State :=
  modStrand s k fun x => { x with pc := x.pc + BitVec.ofNat 64 len }

/-- The refill point of a launch, where it has one (R115). -/
def refillPoint (l : Launch) : Option DWord :=
  if l.record.refill = 0xFFFFFFFF then none else some (l.record.codeBase + l.record.refill.setWidth 64)

/-- A strand at rest (R270): Parked, Done, or at the refill point in any condition but that of a waiter at bar or gbar (R277). -/
def atRest (s : State) (k : Nat) : Bool :=
  let x := strandAt s k
  x.cond == .parked || x.cond == .done ||
    (x.cond != .waiting .bar && x.cond != .waiting .gbar && refillPoint (launchOf s (blockAt s (blockOf s k))) == some x.pc)

/-! ## Registers (R151 to R155) -/

/-- The vector register a carrel slot stands for (R153). -/
def Strand.slotReg (x : Strand) (i : Nat) : Nat := if i < 16 then x.x.toNat + i else x.y.toNat + (i - 16)

/-- A register of a strand that lies in the range a sheaf gave to a mapping names the partner's register (R155, R348); in its
resume code it has no mapping yet (R363), and in its handler v0 and v1 are the strand's own (R361). -/
def vHome (s : State) (k n : Nat) : Nat × Nat :=
  let sk := sheafOf k
  let hit := if (sheafAt s sk).phase = .resume || ((sheafAt s sk).phase = .handler && n < 2) then none
    else (blockAt s (sheafAt s sk).block).shared.find? fun m => m.a == sk && m.f ≤ n && n < m.f + m.n
  match hit with
  | some m => (strandKey m.b (k % 64), m.g + (n - m.f))
  | none => (k, n)

/-- A vector register and its poison (R152). -/
def readV (s : State) (k n : Nat) : Word × Bool :=
  let (j, r) := vHome s k n
  let x := strandAt s j
  (tget x.v r 0, x.vPoison.contains r)

/-- Whether a strand's carrel map covers a register (R153). -/
def Strand.mapped (x : Strand) (n : Nat) : Bool :=
  (x.x.toNat ≤ n && n < x.x.toNat + 16) || (x.y.toNat ≤ n && n < x.y.toNat + 16)

/-- KIND and UNIT of an armed error (R353). -/
def Block.armed (b : Block) : Option (Nat × Nat) :=
  let kind := (b.einj.extractLsb' 8 2).toNat
  if kind = 0 then none else some (kind, (b.einj.extractLsb' 0 4).toNat)

/-- An armed error of a unit strikes (R353): `%einj` is back to 0 (R391); answers the KIND that struck. -/
def strike (s : State) (b unit : Nat) : Option Nat × State :=
  match (blockAt s b).armed with
  | some (kind, u) =>
    if u = unit then (some kind, modBlock s b fun x => { x with einj := 0 }) else (none, s)
  | none => (none, s)

/-- Log what struck a SECDED structure (R129); a double-bit error poisons. -/
def logStrike (s : State) (b kind : Nat) : State :=
  logRas s (if kind = 1 then .corrected else .uncorrected) true (locCore (b / 4)) 0 0

/-- Write a vector register: its poison is what the value carries (R129, R132), or what an armed error leaves (R353). -/
def writeV (s : State) (k n : Nat) (v : Word) (poison : Bool) : State :=
  let (j, r) := vHome s k n
  let b := blockOf s k
  let unit := if (strandAt s k).mapped n then 1 else 0
  let (hit, t) := strike s b unit
  let t := match hit with | some kind => logStrike t b kind | none => t
  let p := poison || hit == some 2
  modStrand t j fun x =>
    { x with v := tset x.v r v, vPoison := if p then sinsert r x.vPoison else sremove r x.vPoison }

/-- A uniform register and its poison. -/
def readW (s : State) (sk n : Nat) : DWord × Bool :=
  let f := sheafAt s sk
  (tget f.w n 0, f.wPoison.contains n)

/-- Write a uniform register. -/
def writeW (s : State) (sk n : Nat) (v : DWord) (poison : Bool) : State :=
  modSheaf s sk fun f =>
    { f with w := tset f.w n v, wPoison := if poison then sinsert n f.wPoison else sremove n f.wPoison }

/-- A predicate; p7 reads true (R151). -/
def readP (s : State) (k n : Nat) : Bool := n == 7 || (strandAt s k).preds.getLsbD n

/-- Write a predicate; a write of p7 is discarded (R151). -/
def writeP (s : State) (k n : Nat) (v : Bool) : State :=
  if n ≥ 7 then s
  else modStrand s k fun x =>
    { x with preds := if v then x.preds ||| (1#8 <<< n) else x.preds &&& ~~~(1#8 <<< n) }

/-- The mask of a sheaf's strands for which a test holds. -/
def maskOf (s : State) (sk : Nat) (p : Nat → Bool) : DWord :=
  (sheafStrands s sk).foldl (fun m k => if p k then m ||| (1#64 <<< (k % 64)) else m) 0

/-- A mask register; m0 is the live mask (R151). -/
def readM (s : State) (sk n : Nat) : DWord :=
  if n = 0 then maskOf s sk fun k => (strandAt s k).cond != .done else tget (sheafAt s sk).masks n 0

/-- Write a mask register; bits from the width upward stay 0 (R151, R269). -/
def writeM (s : State) (sk n : Nat) (v : DWord) : State :=
  modSheaf s sk fun f => { f with masks := tset f.masks n (v &&& BitVec.ofNat 64 (2 ^ f.width - 1)) }

/-- Clear a strand's bit in m1 to m11 (R265). -/
def clearMaskBits (s : State) (k : Nat) : State :=
  modSheaf s (sheafOf k) fun f => { f with masks := f.masks.map fun p => (p.1, p.2 &&& ~~~(1#64 <<< (k % 64))) }

/-- Whether a strand's access to a vector register is outside the allocation (R152). -/
def outOfRange (s : State) (k n : Nat) : Bool := (sheafAt s (sheafOf k)).alloc ≤ n

/-- A strand becomes Done (R117, R265). -/
def makeDone (s : State) (k : Nat) : State :=
  setCond (clearMaskBits s k) k .done

/-! ## Physical addresses (R38 to R44) -/

/-- Device memory of a tract that is populated (R38). -/
def populated (pa : Nat) : Bool := pa / 2 ^ 41 == 0 && pa % Config.tractWindow < Config.tractBytes
/-- The tract of a device address (R38). -/
def tractOfPa (pa : Nat) : Nat := pa / Config.tractWindow % 16
/-- The host aperture (R38). -/
def isHostPa (pa : Nat) : Bool := pa / 2 ^ 47 % 2 == 1
/-- Device memory of a partition's tracts (R78). -/
def ownPa (s : State) (part pa : Nat) : Bool := populated pa && (partAt s part).tracts.contains (tractOfPa pa)

/-- The position of a line in its tract (R40). -/
def positionOf (line : Nat) : Nat :=
  let l := line % 2 ^ 31
  (List.range 7).foldl (fun p i => p ^^^ (l / 2 ^ (5 * i) % 32)) 0

/-- The slice that homes a line under the current map (R40, R64). -/
def homeSlice (s : State) (line : Nat) : Nat :=
  let t := tractOfPa (64 * line)
  let p := 32 * t + positionOf line
  tget s.module.map p p

/-- The raw row of a line, its pseudo-channel and its parity stack (R40). -/
def placeOf (line : Nat) : Nat × Nat × Nat :=
  let t := tractOfPa (64 * line)
  let l := line % 2 ^ 31
  let i := l % 7
  let k := 8 * (l / 7) + i + (if i ≥ t % 8 then 1 else 0)
  (k, (k % 256) ^^^ (k / 256 % 256), 8 * (t / 8) + k % 8)

/-- A line that two failed channels of one index have taken (R44): the line's channel failed on its stack and on another
stack of the group, or failed while its row's parity was not kept (R69). -/
def lineLost (s : State) (line : Nat) : Bool :=
  let t := tractOfPa (64 * line)
  let (_, ch, stack) := placeOf line
  (tractAt s t).failedChannels.contains ch &&
    ((tractAt s t).lost.contains (ch, stack) || (List.range 8).any fun i =>
      let u := 8 * (t / 8) + i
      u != t && (tractAt s u).failedChannels.contains ch)

/-- The poison bit of a line as a reader sees it (R44, R131); of a resident abacus line, that of its elements (R338, R339). -/
def lineBad (s : State) (line : Nat) : Bool :=
  lineLost s line || match (quadAt s (homeSlice s line)).resident.find? fun e => e.line == line with
    | some e => !e.poison.isEmpty
    | none => s.badLines.contains line

/-- The 64 bytes of a line. -/
def lineBytes (s : State) (line : Nat) : List Byte := (List.range 64).map fun i => memRead s.mem (64 * line + i)

/-- The home of an address lies on a fenced die (R69). -/
def homeFenced (s : State) (pa : Nat) : Bool :=
  !isHostPa pa && (dieAt s (homeSlice s (pa / 64) / 64)).fenced

/-- What a translation gives. -/
inductive Trans where
  | ok (pa : Nat) (leaf : Leaf)
  | prot (leaf : Option Leaf)
  | malformed (level pa : Nat)
  | page (leaf : Leaf)
  | fault
  | poison
  | fenced (leaf : Option Leaf)
  deriving DecidableEq, Repr

/-- The leaf that a translation found, where it found one. -/
def Trans.leaf : Trans → Option Leaf
  | .ok _ l | .page l => some l
  | .prot l | .fenced l => l
  | _ => none

/-- What a walk gives. -/
inductive Walk where
  | leaf (l : Leaf)
  | fault
  | malformed (level pa : Nat)
  | poison
  | fenced
  deriving DecidableEq, Repr

/-- A field of a page-table entry. -/
def bitsOf (e : DWord) (lo n : Nat) : Nat := e.toNat / 2 ^ lo % 2 ^ n

/-- One entry of a walk at a level with what lies below it: shift of the index and its bits; next is the size of the
table an entry of this level names, own the size of a page of this level (R87). -/
def walkFrom (s : State) (part va : Nat) : Nat → Nat → Walk
  | table, level =>
    let shift := 16 + (if level = 0 then 0 else 5 + 9 * (level - 1))
    let bits := if level = 3 then 13 else if level = 0 then 5 else 9
    let pa := table + 8 * (va / 2 ^ shift % 2 ^ bits)
    if homeFenced s pa then .fenced
    else if lineBad s (pa / 64) then .poison
    else
      let e : DWord := BitVec.ofNat 64 (leNat ((List.range 8).map fun i => memRead s.mem (pa + i)))
      let kind := bitsOf e 0 2
      let addr := bitsOf e 8 40 * 256
      if kind = 0 then .fault
      else if kind = 3 || bitsOf e 48 10 ≠ 0 || bitsOf e 2 6 ≠ 0 then .malformed level pa
      else if kind = 1 then
        match level with
        | 0 => .malformed 0 pa
        | l + 1 =>
          if addr % (if l = 0 then 256 else 4096) ≠ 0 || !ownPa s part addr then .malformed level pa
          else walkFrom s part va addr l
      else
        let cls := bitsOf e 61 3
        let size := 2 ^ shift
        if level = 3 || cls ≥ 5 || addr % size ≠ 0 || (cls == 4) != isHostPa addr then .malformed level pa
        else
          .leaf { cls := cls, fail := bitsOf e 60 1 == 1, w := bitsOf e 59 1 == 1, x := bitsOf e 58 1 == 1, base := addr,
                  size := size }
  termination_by structural _ level => level

/-- What a leaf gives an access: permission, then the address (R39, R78, R87, R306); PROT comes before PAGE. An Abacus page larger than
64 KiB gives PROT to every access (R338). -/
def applyLeaf (s : State) (part : Nat) (l : Leaf) (va : Nat) (acc : Access) : Trans :=
  let pa := l.base + va % l.size
  if (acc == .write && !l.w) || (acc == .fetch && !l.x) || (l.cls == 3 && l.size != 2 ^ 16) || (!isHostPa pa && !ownPa s part pa) then .prot (some l)
  else if l.fail then .page l
  else if homeFenced s pa then .fenced (some l)
  else .ok pa l

/-- The TLBs (R87, R89): that of a core's strands, its copy engine's own (R166), and that of a quad's matrix engine (R89); `none` is a
walk without one. -/
inductive Walker where
  | strands (core : Nat)
  | engine (core : Nat)
  | matrix (quad : Nat)
  | none
  deriving DecidableEq, Repr

/-- The entries of a TLB. -/
def Walker.entries (s : State) : Walker → List TlbEntry
  | .strands c => (coreAt s c).tlb
  | .engine c => (coreAt s c).engineTlb
  | .matrix q => (quadAt s q).tlb
  | .none => []

/-- A TLB entry that translates an address. -/
def tlbHit (tlb : List TlbEntry) (part ctx root va : Nat) : Option Leaf :=
  (tlb.find? fun e => e.part == part && e.ctx == ctx && e.root == root && e.va ≤ va && va < e.va + e.leaf.size).map (·.leaf)

/-- The leaf of an address: from a TLB, or by a walk (R87). -/
def leafOf (s : State) (w : Walker) (l : Launch) (va : Nat) : Walk :=
  match tlbHit (w.entries s) l.part l.record.ctx.toNat l.root va with
  | some x => .leaf x
  | none => walkFrom s l.part va l.root 3

/-- Translate a virtual address below 2^52 through a launch's context (R87, R88). -/
def translateBy (s : State) (w : Walker) (l : Launch) (va : Nat) (acc : Access) : Trans :=
  match leafOf s w l va with
  | .leaf x => applyLeaf s l.part x va acc
  | .fault => .fault
  | .malformed level pa => .malformed level pa
  | .poison => .poison
  | .fenced => .fenced none

/-- Translate for the strands of a core, or without a TLB. -/
def translate (s : State) (core : Option Nat) (l : Launch) (va : Nat) (acc : Access) : Trans :=
  translateBy s (match core with | some c => .strands c | none => .none) l va acc

/-- The TLB entry that keeps a leaf. -/
def entryOf (l : Launch) (va : Nat) (x : Leaf) : TlbEntry :=
  { part := l.part, ctx := l.record.ctx.toNat, root := l.root, va := va - va % x.size, leaf := x }

/-- Keep the leaf that a walk of a core's strands found. -/
def fillTlb (s : State) (c : Nat) (l : Launch) (va : Nat) : State :=
  match tlbHit (coreAt s c).tlb l.part l.record.ctx.toNat l.root va, walkFrom s l.part va l.root 3 with
  | none, .leaf x => modCore s c fun k => { k with tlb := entryOf l va x :: k.tlb }
  | _, _ => s

/-- Keep the leaf that a walk of a core's copy engine found (R166). -/
def fillEngineTlb (s : State) (c : Nat) (l : Launch) (va : Nat) : State :=
  match tlbHit (coreAt s c).engineTlb l.part l.record.ctx.toNat l.root va, walkFrom s l.part va l.root 3 with
  | none, .leaf x => modCore s c fun k => { k with engineTlb := entryOf l va x :: k.engineTlb }
  | _, _ => s

/-- Keep the leaf that a walk of a quad's matrix engine found (R89). -/
def fillMatrixTlb (s : State) (q : Nat) (l : Launch) (va : Nat) : State :=
  match tlbHit (quadAt s q).tlb l.part l.record.ctx.toNat l.root va, walkFrom s l.part va l.root 3 with
  | none, .leaf x => modQuad s q fun k => { k with tlb := entryOf l va x :: k.tlb }
  | _, _ => s

/-- A malformed entry makes one RAS entry of class WALK (R87). -/
def logWalk (s : State) (loc : Loc) (t : Trans) : State :=
  match t with
  | .malformed level pa => logRas s .walk false loc (BitVec.ofNat 64 level) (BitVec.ofNat 64 pa)
  | _ => s

/-! ## Routes (R18, R19, R21) -/

/-- The link between neighbours of a row (R18). -/
def rowLink (row c : Nat) : Nat := 3 * row + c
/-- The link of a column (R18). -/
def columnLink (c : Nat) : Nat := 6 + c
/-- The link of an I/O die, 8 or 9, in a row (R18). -/
def ioLink (io row : Nat) : Nat := 10 + 2 * (io - 8) + row

/-- The links of a row between two columns. -/
def rowPath (row a b : Nat) : List Nat := (List.range (max a b - min a b)).map fun i => rowLink row (min a b + i)
/-- The link of a column between two rows, none within a row. -/
def columnPath (c a b : Nat) : List Nat := if a = b then [] else [columnLink c]

/-- The route between an I/O die and a compute die that enters by the link in a row (R19, R21). -/
def ioPath (io d row : Nat) : List Nat :=
  ioLink io row :: rowPath row (if io = 8 then 0 else 3) (d % 4) ++ columnPath (d % 4) row (d / 4)

/-- The fixed route between two dies (R19): along the row, then along the column; an I/O die's enters the target's row. -/
def fixedRoute (x y : Nat) : List Nat :=
  if 8 ≤ x then ioPath x y (y / 4)
  else if 8 ≤ y then ioPath y x (x / 4)
  else rowPath (x / 4) (x % 4) (y % 4) ++ columnPath (y % 4) (x / 4) (y / 4)

/-- The route of the other dimension order, or by the I/O die's other link (R21). -/
def otherRoute (x y : Nat) : List Nat :=
  if 8 ≤ x then ioPath x y (1 - y / 4)
  else if 8 ≤ y then ioPath y x (1 - x / 4)
  else columnPath (x % 4) (x / 4) (y / 4) ++ rowPath (y / 4) (x % 4) (y % 4)

/-- A link is Down. -/
def linkIsDown (s : State) (n : Nat) : Bool := linkState s n == .down

/-- Traffic leaves the fixed route for a link that is Down (R21): a detour is installed, or it is one of an I/O die's. -/
def detoured (s : State) (n : Nat) : Bool := linkIsDown s n && (decide (10 ≤ n) || (tget s.module.links n Link.reset).detour)

/-- The route in force between two dies: the other order, where the fixed route crosses a link that traffic leaves (R21). -/
def routeNow (s : State) (x y : Nat) : List Nat := if (fixedRoute x y).any (detoured s) then otherRoute x y else fixedRoute x y

/-- Both routes between two dies are Down. -/
def cutOff (s : State) (x y : Nat) : Bool := (fixedRoute x y).any (linkIsDown s) && (otherRoute x y).any (linkIsDown s)

/-- The dies that a die is cut off from, fenced ones aside. -/
def cutFrom (s : State) (x : Nat) : List Nat := (List.range 8).filter fun y => !(dieAt s y).fenced && cutOff s x y

/-- The die that is fenced next for want of a route (R21): of the dies cut off from another, the one cut off from the most, then the
lowest (log 22). -/
def nextCut (s : State) : Option Nat :=
  ((List.range 8).filter fun x => !(dieAt s x).fenced && !(cutFrom s x).isEmpty).foldl (fun m x => match m with
    | some y => if (cutFrom s y).length < (cutFrom s x).length then some x else m
    | none => some x) none

/-! ## Reads that no message carries (R21) -/

/-- Some link is Down. -/
def anyDown (s : State) : Bool := s.module.links.any fun l => l.2.state == .down

/-- What a die reads of a line at its home is held: the route between them crosses a link that is Down, between two dies in
service. -/
def lineHeld (s : State) (die line : Nat) : Bool :=
  let h := homeSlice s line / 64
  anyDown s && !isHostPa (64 * line) && !(dieAt s die).fenced && !(dieAt s h).fenced && (routeNow s die h).any (linkIsDown s)

/-- The lines of the page-table entries that a walk reads, from a level on (see walkFrom). -/
def walkLines (s : State) (va : Nat) : Nat → Nat → List Nat
  | table, level =>
    let shift := 16 + (if level = 0 then 0 else 5 + 9 * (level - 1))
    let bits := if level = 3 then 13 else if level = 0 then 5 else 9
    let pa := table + 8 * (va / 2 ^ shift % 2 ^ bits)
    let e : DWord := BitVec.ofNat 64 (leNat ((List.range 8).map fun i => memRead s.mem (pa + i)))
    pa / 64 :: (if bitsOf e 0 2 = 1 then (match level with | 0 => [] | l + 1 => walkLines s va (bitsOf e 8 40 * 256) l) else [])
  termination_by structural _ level => level

/-- The translation of an address for a die waits: no TLB has it, and the walk reads an entry that is held. -/
def walkHeld (s : State) (die : Nat) (w : Walker) (l : Launch) (va : Nat) : Bool :=
  anyDown s && decide (va < Config.windowBase) && (tlbHit (w.entries s) l.part l.record.ctx.toNat l.root va).isNone &&
    (walkLines s va l.root 3).any (lineHeld s die)

/-- What a unit of a die reads itself at an address of a launch waits: its translation does, or the line. -/
def readHeld (s : State) (die : Nat) (w : Walker) (l : Launch) (va : Nat) : Bool :=
  walkHeld s die w l va || (anyDown s && match leafOf s w l va with
    | .leaf x => lineHeld s die ((x.base + va % x.size) / 64)
    | _ => false)

/-! ## Page faults (R88) -/

/-- The access code of a PAGE_FAULT event (R86). -/
def Access.code (a : Access) : Nat := a.ctorIdx

/-- The lowest free entry of the fault table, where there is one (R76). -/
def freeFault (p : Partition) : Option Nat := (List.range 256).find? fun i => (tfind p.faults i).isNone

/-- Raise PAGE_FAULT for an entry of the fault table (R86). -/
def faultEvent (s : State) (part id ctx va access : Nat) (loc : Loc) : State :=
  raise s 0x0001 0 part loc
    (BitVec.ofNat 64 (id + 2 ^ 8 * ctx + 2 ^ 14 * access + 2 ^ 16 * (va / 2 ^ 16 % 2 ^ 36)))

/-- Open or share a fault entry for a page (R88). -/
def openFault (s : State) (l : Launch) (va : Nat) (acc : Access) (loc : Loc) : State :=
  let p := partAt s l.part
  let page := va / 2 ^ 16
  let ctx := l.record.ctx.toNat
  if p.faults.any fun e => e.2.ctx == ctx && e.2.page == page then s
  else match freeFault p with
    | none => s
    | some id =>
      let t := modPart s l.part fun x =>
        { x with faults := tset x.faults id { ctx := ctx, page := page, root := l.root, access := acc.code } }
      faultEvent t l.part id ctx va acc.code loc

/-- A strand stalls on page faults (R88, R306). -/
def stallFault (s : State) (k : Nat) (vas : List Nat) (acc : Access) : State :=
  let l := launchOf s (blockAt s (blockOf s k))
  let t := vas.foldl (fun t va => openFault t l va acc (locCore (coreOf k))) s
  setCond t k (.stalled (.page vas acc))

/-! ## The store record (R162 to R165) -/

/-- The open entry of a block for a line (R163): one that waits to begin to drain is still open. An entry of a block that was in the
slot before is another block's. -/
def openEntry (s : State) (b line : Nat) : Option RecEntry :=
  (coreAt s (b / 4)).record.find? fun e => e.block == b && e.gang == (blockAt s b).gang && e.line == line && e.state == .opened

/-- Entries of the record that are not yet freed. -/
def recordCount (c : Core) : Nat := c.record.length

/-- A store of a block to a line needs a new entry and finds the record at its limit (R163). -/
def recordFull (s : State) (b line : Nat) : Bool :=
  (openEntry s b line).isNone && (blockAt s b).rlim ≤ recordCount (coreAt s (b / 4))

/-- Entries that have been asked to drain begin to, in sequence order, each once the loads before it have returned
(R164, R178). -/
def settleList : Bool → List RecEntry → List RecEntry
  | _, [] => []
  | blocked, e :: rest =>
    if e.state == .opened && e.due then
      if !blocked && e.loads.isEmpty then { e with state := .draining } :: settleList blocked rest
      else e :: settleList true rest
    else e :: settleList blocked rest

/-- Settle a core's record. -/
def settle (s : State) (c : Nat) : State := modCore s c fun k => { k with record := settleList false k.record }

/-- An entry, and every older open entry, is asked to drain (R164). -/
def drainUpTo (s : State) (c seq : Nat) : State :=
  settle (modCore s c fun k => { k with record := k.record.map fun e =>
    if e.seq ≤ seq && e.state == .opened then { e with due := true } else e }) c

/-- Every open entry of a block is asked to drain (R164), and with each the older open ones. -/
def drainBlock (s : State) (b : Nat) : State :=
  let c := b / 4
  match (coreAt s c).record.filter fun e => e.block == b && e.gang == (blockAt s b).gang && e.state == .opened with
  | [] => s
  | es => drainUpTo s c (es.foldl (fun m e => max m e.seq) 0)

/-- A store that finds the record full asks the oldest open entry to drain, unless one is draining: waits to leave the core or has
left it and is not freed (R164). -/
def drainOldest (s : State) (c : Nat) : State :=
  let k := coreAt s c
  if k.record.any fun e => e.state != .opened then s
  else match k.record.find? fun e => e.state == .opened with
    | some e => drainUpTo s c e.seq
    | none => s

/-- Poison granules that a store of bytes leaves: of 8 aligned bytes, set by poison, cleared by a whole clean granule
(R129). -/
def granules (old : List Nat) (off n : Nat) (poison : Bool) : List Nat :=
  (List.range 8).filter fun g =>
    let touched := off < 8 * g + 8 && 8 * g < off + n
    let whole := off ≤ 8 * g && 8 * g + 8 ≤ off + n
    if touched && poison then true else if whole then false else old.contains g

/-- Set bytes of a table from an offset on. -/
def setBytes (t : Tab Byte) (off : Nat) : List Byte → Tab Byte
  | [] => t
  | b :: bs => setBytes (tset t off b) (off + 1) bs

/-- Put bytes of one line of a page class into the record (R163, R171): merge into the block's open entry, or allocate one. The
record has room. The strand's loads that have not returned must do so before the entry begins to drain (R178). The entry takes the
replacement hint of its newest store (R307; DESIGN CHOICE, log 15). -/
def recPut (s : State) (b pa cls hint : Nat) (bytes : List Byte) (poison : Bool) (loads : List Nat) : State :=
  let c := b / 4
  let line := pa / 64
  let off := pa % 64
  let (hit, s) := strike s b 3
  let s := match hit with | some kind => logStrike s b kind | none => s
  let poison := poison || hit == some 2
  let blk := blockAt s b
  let seq := match openEntry s b line with
    | some e => e.seq
    | none => (coreAt s c).seq
  let s := match openEntry s b line with
    | some e =>
      modCore s c fun k => { k with record := k.record.map fun x =>
        if x.seq == e.seq then
          { x with cls := cls, data := setBytes x.data off bytes, poison := granules x.poison off bytes.length poison,
                   loads := x.loads ++ loads.filter fun i => !x.loads.contains i, hint := hint }
        else x }
    | none =>
      modCore s c fun k =>
        { k with record := k.record ++ [{ seq := k.seq, line := line, cls := cls, data := setBytes [] off bytes,
                                          poison := granules [] off bytes.length poison, block := b, gang := blk.gang,
                                          launch := blk.launch, part := blk.part, state := .opened, alloc := s.now,
                                          due := false, loads := loads, hint := hint }],
                 seq := k.seq + 1 }
  -- a full byte mask begins to drain (R164)
  let s := match openEntry s b line with
    | some e => if e.data.length = 64 then drainUpTo s c e.seq else s
    | none => s
  -- an armed address error is a control parity error of the entry (R353, R130)
  let (hit, s) := strike s b 4
  match hit with
  | some _ =>
    let s := startKill s blk.gang (some .control) true (locCore c)
    modCore s c fun k => { k with record := k.record.filter fun e => e.seq != seq }
  | none => s

/-- A byte of the record by physical address: the entry with the highest sequence number whose mask holds it (R165). -/
def recByte (c : Core) (pa : Nat) : Option (Byte × Bool) :=
  (c.record.filterMap fun e =>
    if e.line == pa / 64 then (tfind e.data (pa % 64)).map fun v => (v, e.poison.contains (pa % 64 / 8)) else none).getLast?

/-- A byte of the entries that have left the core and are not freed: what a reply brings may hold less, or what came after (R165,
R177). -/
def sentByte (c : Core) (pa : Nat) : Option (Byte × Bool) := recByte { c with record := c.record.filter fun e => e.state == .sent } pa

/-- An entry has been freed: stalled stores look again where the count is below the limit (R163); one that stays stalled triggers a
drain as before (R164). -/
def wakeRecord (s : State) (c : Nat) : State :=
  (coreStrands s c).foldl (fun t k =>
    if (strandAt t k).cond != .stalled .record then t
    else if recordCount (coreAt t c) < (blockAt t (blockOf t k)).rlim then wake t k
    else drainOldest t c) s

/-! ## Loads in the L1 (R48, R171, R174) -/

/-- A byte of an L1 copy that may be served now: a leased copy below its expiry, an NC copy while it is held; a privatised
grant serves its mask alone (R58). -/
def l1Byte (s : State) (c pa : Nat) : Option (Byte × Bool) :=
  match (coreAt s c).l1.find? fun e => e.line == pa / 64 with
  | none => none
  | some e =>
    let live := match e.expiry with | some x => decide (s.now < x) | none => true
    let covered := match e.mask with | some m => m.contains (pa % 64) | none => true
    if live && covered then some (e.bytes.getD (pa % 64) 0, e.poison) else none

/-- A load is served from an L1 copy, which is then its set's most recently used (R383). -/
def useL1 (s : State) (c line : Nat) : State :=
  modCore s c fun k =>
    { k with clock := k.clock + 1, l1 := k.l1.map fun e => if e.line == line then { e with used := k.clock + 1 } else e }

/-- A byte as a core sees it without the fabric: from the record, else from the L1 (R174); none where neither has it. -/
def nearByte (s : State) (c pa : Nat) (useL1 : Bool) : Option (Byte × Bool) :=
  match recByte (coreAt s c) pa with
  | some x => some x
  | none => if useL1 then l1Byte s c pa else none

/-- The data of some lines on its way to a core is not kept in the L1 when it comes (R51, R177, R187, R194). -/
def staleReads (s : State) (c : Nat) (p : Nat → Bool) : State :=
  let mark (r : ReadReq) : ReadReq := if r.core == c && p r.line then { r with stale := true } else r
  { s with net := s.net.map fun m => (m.1, match m.2 with
      | .read q r => .read q (mark r)
      | .data n r b po e k => .data n (mark r) b po e k
      | .retry (.read q r) since => .retry (.read q (mark r)) since
      | .remap (.read q r) ep => .remap (.read q (mark r)) ep
      | x => x) }

/-- Drop a core's L1 copies of some lines, and keep the data on its way from being kept (R187, R194, R383). -/
def dropL1 (s : State) (c : Nat) (p : Nat → Bool) : State :=
  staleReads (modCore s c fun k => { k with l1 := k.l1.filter fun e => !p e.line }) c p

/-! ## What a strand waits for (R149, R179, R183, R315) -/

/-- The loads and atomics of a strand that have not returned: its own, and those with U that its sheaf executes once for it too
(R149). -/
def loadsOf (s : State) (k : Nat) : List PendingLoad :=
  (strandAt s k).loads ++ ((sheafStrands s (sheafOf k)).filter (· != k)).flatMap fun j => (strandAt s j).loads.filter (·.riders.contains k)

/-- Their ids. -/
def loadIds (s : State) (k : Nat) : List Nat := (loadsOf s k).map (·.id)

/-- A fence that issued on a core is done (R179): nothing left to wait for, every entry of its block has begun to drain, and Now() is
past the largest completion time. -/
def fenceDone (s : State) (c : Nat) (w : FenceWait) : Bool :=
  w.entries.isEmpty && w.ops.isEmpty && w.loads.isEmpty && decide (w.horizon ≤ s.now) &&
    !(coreAt s c).record.any fun e => e.state == .opened && w.opening.contains e.seq

/-- A strand has a fence whose conditions do not hold yet, or an acquire load on its way (R183, R315). -/
def fenced (s : State) (k : Nat) : Bool :=
  (strandAt s k).fences.any (fun w => !fenceDone s (coreOf k) w) || (loadsOf s k).any (·.acquire)

/-! ## Return stack (R262) and trap entry (R356) -/

/-- The trap causes (R354), by their codes. -/
inductive Cause where
  | illegal | regrange | align | xrange | scope | tilestate | prot | page | orphan | soft | arith
  deriving DecidableEq, Repr

/-- The code of a cause in `%tcause` (R354). -/
def Cause.code (c : Cause) : Nat := c.ctorIdx + 1

/-- What a push of a return entry needs (R262): room on chip, a spill to an address, or what stops it. -/
inductive Spill where
  | room
  | store (pa cls : Nat)
  | trap (c : Cause)
  | malformed (level pa : Nat)
  | fault (va : Nat)
  | poison
  | fenced
  deriving DecidableEq, Repr

/-- The address check of a spill or a fill (R262, R306): a Coherent or NC page with W set. -/
def spillAddress (s : State) (k va : Nat) : Spill :=
  let l := launchOf s (blockAt s (blockOf s k))
  if va ≥ 2 ^ 52 || va ≥ Config.windowBase then .trap .prot
  else
    let tr := translate s (some (coreOf k)) l va .write
    if tr.leaf.any fun x => x.cls != 0 && x.cls != 1 then .trap .prot
    else match tr with
      | .ok pa leaf => .store pa leaf.cls
      | .prot _ => .trap .prot
      | .malformed level pa => .malformed level pa
      | .page _ => .trap .page
      | .fault => .fault va
      | .poison => .poison
      | .fenced _ => .fenced

/-- The checks of a push (R262), in the order of R355. -/
def spillPlan (s : State) (k : Nat) : Spill :=
  let x := strandAt s k
  let full := x.stack.length ≥ 4
  if full && x.csp != 0 && x.csp.toNat % 16 != 0 then .trap .align
  else if x.depth == 0xFFFFFFFF then .trap .prot
  else if !full then .room
  else if x.csp == 0 then .trap .prot
  else spillAddress s k x.csp.toNat

/-- The 16 bytes of a return entry in memory (R262). -/
def RetEntry.bytes (e : RetEntry) : List Byte :=
  leBytes 8 e.ret.toNat ++ leBytes 2 e.x.toNat ++ leBytes 2 e.y.toNat ++ leBytes 4 0

/-- The entry of 16 bytes. -/
def RetEntry.ofBytes (bs : List Byte) : RetEntry :=
  { ret := BitVec.ofNat 64 (leNat (bs.take 8)), x := BitVec.ofNat 16 (leNat ((bs.drop 8).take 2)),
    y := BitVec.ofNat 16 (leNat ((bs.drop 10).take 2)) }

/-- The first of the two dword stores of a spill, through the record (R262, R163). -/
def spillLow (s : State) (k pa cls : Nat) (e : RetEntry) : State :=
  recPut s (blockOf s k) pa cls 0 (e.bytes.take 8) false (loadIds s k)

/-- Both dword stores of a spill. -/
def spillEntry (s : State) (k pa cls : Nat) (e : RetEntry) : State :=
  recPut (spillLow s k pa cls e) (blockOf s k) (pa + 8) cls 0 (e.bytes.drop 8) false (loadIds s k)

/-- The push that a plan asks of a strand finds the record at its limit, for one of its two stores (R163, R262). -/
def pushFull (s : State) (k : Nat) (plan : Spill) : Bool :=
  match plan, (strandAt s k).stack with
  | .store pa cls, oldest :: _ =>
    recordFull s (blockOf s k) (pa / 64) || recordFull (spillLow s k pa cls oldest) (blockOf s k) (pa / 64)
  | _, _ => false

/-- Push a return entry (R262), spilling the oldest where the plan says so. -/
def pushEntry (s : State) (k : Nat) (ret : DWord) (plan : Spill) : State :=
  let x := strandAt s k
  let e : RetEntry := { ret := ret, x := x.x, y := x.y }
  match plan, x.stack with
  | .store pa cls, oldest :: rest =>
    modStrand (spillEntry s k pa cls oldest) k fun y => { y with stack := rest ++ [e], csp := y.csp + 16, depth := y.depth + 1 }
  | _, _ => modStrand s k fun y => { y with stack := y.stack ++ [e], depth := y.depth + 1 }

/-- The push that a strand would make spills, as a store that must wait: for a fence or an acquire load of the strand (R179, R183,
R262), or for the link that its address's walk crosses (R21). -/
def spillWaits (s : State) (k : Nat) : Bool :=
  decide (4 ≤ (strandAt s k).stack.length) && (fenced s k ||
    walkHeld s (coreOf k / 256) (.strands (coreOf k)) (launchOf s (blockAt s (blockOf s k))) (strandAt s k).csp.toNat)

/-- The trap entry of a strand stalls on its push: it completes later, as the same entry (R356). -/
def holdTrap (s : State) (k : Nat) (c : Cause) (trpc tdet : DWord) : State :=
  modStrand s k fun y => { y with trap := some (c.code, trpc, tdet) }

/-- Trap entry of one strand (R356). -/
def trapEntry (s : State) (k : Nat) (c : Cause) (trpc tdet : DWord) : State :=
  let s := modStrand s k fun y => { y with trap := none }
  let x := strandAt s k
  let b := blockOf s k
  let l := launchOf s (blockAt s b)
  if l.record.trapOff = 0xFFFFFFFF || x.trapDepth != 0 || (sheafAt s (sheafOf k)).phase != .normal then killOf s k .trap
  else if spillWaits s k then setCond (holdTrap s k c trpc tdet) k (.stalled .push)
  else match spillPlan s k with
    | .trap _ => killOf s k .trap
    | .malformed level pa => killOf (logWalk s (locCore (coreOf k)) (.malformed level pa)) k .trap
    | .poison => killOf s k .consumed
    | .fenced => killOf s k .fence
    | .fault va => stallFault (holdTrap s k c trpc tdet) k [va] .write
    | plan =>
      if pushFull s k plan then setCond (drainOldest (holdTrap s k c trpc tdet) (coreOf k)) k (.stalled .record)
      else
        let t := pushEntry s k trpc plan
        modStrand t k fun y =>
          { y with tcause := BitVec.ofNat 8 c.code, trpc := trpc, tdet := tdet, trapDepth := y.depth,
                   pc := l.record.codeBase + l.record.trapOff.setWidth 64 }

/-- The mask of the home lanes of some strands (R354). -/
def laneMask (s : State) (ks : List Nat) : DWord :=
  ks.foldl (fun m k => m ||| (1#64 <<< (strandAt s k).lane)) 0

/-! ## Completion of a block's operations (R179, R351) -/

/-- A block's completion horizon takes a completion time, and its fences see that an operation or an entry is done. -/
def fenceSees (s : State) (b c : Nat) (f : FenceWait → FenceWait) : State :=
  let t := modBlock s b fun x => { x with lct := max x.lct c }
  (blockStrands t b).foldl (fun u k => modStrand u k fun x => { x with fences := x.fences.map fun w =>
    let w' := f w
    if w' = w then w else { w' with horizon := max w.horizon c } }) t

/-- A launch takes a completion time (R85). -/
def launchSees (s : State) (key c : Nat) : State := modLaunch s key fun l => { l with horizon := max l.horizon c }

/-- A fence's wait as it stands when it issues (R179 to R181, R315): none for blk beyond the strand's loads; for the others the
block's own entries and operations. sys adds those that go to the host (R181); dev and quad wait for the completion times of none of
these (R402, log 14), but its open entries of the Host class too must begin to drain (R179). -/
def fenceWait (s : State) (k sc : Nat) : FenceWait :=
  let b := blockOf s k
  let blk := blockAt s b
  let loads := loadIds s k
  if sc = 1 then { entries := [], opening := [], ops := [], loads := loads, horizon := 0 }
  else
    let mine := (coreAt s (b / 4)).record.filter fun e => e.block == b && e.gang == blk.gang
    { entries := (mine.filter fun e => sc == 4 || e.cls != 4).map (·.seq), opening := (mine.filter fun e => e.state == .opened).map (·.seq),
      ops := (blk.ops.filter fun o =>
        (o.kind != .copy || o.sourceRead) && o.kind != .tail && (sc == 4 || o.kind != .host)).map (·.id),
      loads := loads, horizon := blk.lct }

/-- Issue a fence of a scope for a strand (R315): its block's open entries begin to drain, for the scopes above blk. -/
def startFence (s : State) (k sc : Nat) : State :=
  let w := fenceWait s k sc
  let t := if sc = 1 then s else drainBlock s (blockOf s k)
  modStrand t k fun x => { x with fences := x.fences ++ [w] }

end Sys2Proof.Machine
end

