-- ==== Sys2Proof/Machine/Flags.lean ====
section
/-! DEFINITION. The sticky arithmetic bits (R208, R209). -/

namespace Sys2Proof.Machine

/-- Set sticky bits of a strand (R208). -/
def setFlags (s : State) (k : Nat) (f : Flags) : State :=
  if f = 0 then s else modStrand s k fun x => { x with fstat := x.fstat ||| f }

/-- The bits that a strand would report (R209). -/
def Strand.reported (x : Strand) : Half := x.fstat &&& x.fmask

/-- A report clears the reported bits; masked bits stay (R209). -/
def clearReported (s : State) (k : Nat) : State :=
  modStrand s k fun x => { x with fstat := x.fstat &&& ~~~x.reported }

/-- The bits of `%fstat` and `%fmask` that are not reserved (R208). -/
def flagBits : Half := 0x00FF

end Sys2Proof.Machine
end

