-- ==== Sys2Proof/Machine/Operands.lean ====
section
/-! DEFINITION. The operand forms (R223 to R227, R280, R305, R352): reading, writing, the checks of an access, and the
special registers. -/

namespace Sys2Proof.Machine

/-! ## Special registers (R351 to R353) -/

/-- The size of a block's save area (R358). -/
def saveAreaSize (r : LaunchRecord) : Nat := 4096 + r.sheaves.toNat * (2048 + 2240 * 2 ^ r.log2w.toNat)

/-- Preemptible, restartable and tail enable (R83). -/
def preemptible (r : LaunchRecord) : Bool := r.flags.getLsbD 1
/-- The restartable flag (R83). -/
def restartable (r : LaunchRecord) : Bool := r.flags.getLsbD 0
/-- The tail-enable flag (R83). -/
def tailEnabled (r : LaunchRecord) : Bool := r.flags.getLsbD 2

/-- `%save` of a block (R351, R358). -/
def saveVa (l : Launch) (index : Nat) : Nat :=
  if preemptible l.record then l.record.save.toNat + index * saveAreaSize l.record else 0

/-- `%xbase` of a block (R158): the live bank's offset. -/
def Block.xbase (b : Block) : Nat := b.padBytes - 2 * b.xBytes + b.bank * b.xBytes

/-- The value of a special register (R351). -/
def readSpecial (s : State) (k : Nat) (i : BitVec 9) : Nat :=
  let x := strandAt s k
  let f := sheafAt s (sheafOf k)
  let b := blockAt s f.block
  let l := launchOf s b
  let c := coreOf k
  match i.toNat with
  | 0x000 => x.lane
  | 0x001 => x.sidx
  | 0x002 => f.idx
  | 0x003 => f.width
  | 0x004 => b.index
  | 0x005 => b.grank
  | 0x006 => c
  | 0x007 => c / 4
  | 0x008 => c / 128
  | 0x009 => c / 256
  | 0x010 => x.item.toNat
  | 0x011 => x.age.toNat
  | 0x012 => x.depth.toNat
  | 0x013 => x.csp.toNat
  | 0x014 => x.fstat.toNat
  | 0x015 => x.fmask.toNat
  | 0x016 => x.nbv.toNat
  | 0x017 => f.mxp.toNat
  | 0x018 => b.rlim
  | 0x019 => b.xbase
  | 0x01A => l.record.codeBase.toNat
  | 0x01B => saveVa l b.index
  | 0x01C => b.lct
  | 0x01D => s.now
  | 0x01E => b.einj.toNat
  | 0x020 => x.tcause.toNat
  | 0x021 => x.trpc.toNat
  | 0x022 => x.tdet.toNat
  | 0x023 => (quadAt s (c / 4)).wcyc
  | 0x024 => (quadAt s (c / 4)).rply
  | _ => 0

/-- A write of `%rlim` (R162, R351): a value outside 1 to 48 is ignored. A stalled store waits for an entry to be freed (R163). -/
def writeRlim (s : State) (b v : Nat) : State :=
  if 1 ≤ v && v ≤ Config.recordEntries then modBlock s b fun x => { x with rlim := v } else s

/-- The pairs of KIND and UNIT that have an effect (R353). -/
def einjValid (kind unit : Nat) : Bool :=
  match kind with
  | 1 | 2 => unit ≤ 6
  | 3 => unit == 4
  | _ => false

/-- A write of `%einj` with a KIND and a UNIT (R353): KIND 0 disarms, a pair with no effect is ignored. -/
def writeEinj (s : State) (b kind : Nat) (unit : BitVec 4) : State :=
  if kind = 0 || einjValid kind unit.toNat then
    modBlock s b fun x => { x with einj := BitVec.ofNat 32 (256 * kind + unit.toNat) }
  else s

/-- A write of a special register under its rule (R351, R352): a read-only one keeps its value. -/
def writeSpecial (s : State) (k : Nat) (i : BitVec 9) (v : DWord) : State :=
  let b := blockOf s k
  match i.toNat with
  | 0x013 => modStrand s k fun x => { x with csp := v }
  | 0x014 => modStrand s k fun x => { x with fstat := v.setWidth 16 &&& flagBits }
  | 0x015 => modStrand s k fun x => { x with fmask := v.setWidth 16 &&& flagBits }
  | 0x016 => if v.setWidth 8 = (1 : Byte) then modStrand s k fun x => { x with nbv := 1 } else s
  | 0x018 => writeRlim s b (v.extractLsb' 0 8).toNat
  | 0x01E => writeEinj s b (v.extractLsb' 8 2).toNat (v.extractLsb' 0 4)
  | _ => s

/-! ## Reading and writing operands (R223 to R227, R280) -/

/-- The vector registers an operand of a width names in a strand: a slot through the carrel map, a pair for 64 bits. -/
def vNames (s : State) (k w : Nat) : Operand → List Nat
  | .v i => if w = 64 then [i.toNat, i.toNat + 1] else [i.toNat]
  | .b i =>
    let n := (strandAt s k).slotReg i.toNat
    if w = 64 then [n, n + 1] else [n]
  | _ => []

/-- An operand's register lies beyond the allocation (R152). -/
def regRange (s : State) (k w : Nat) (o : Operand) : Bool := (vNames s k w o).any (outOfRange s k)

/-- The value of vector registers, low first, and whether one is poisoned. -/
def readVs (s : State) (k : Nat) (ns : List Nat) : Nat × Bool :=
  ns.foldr (fun n acc => ((readV s k n).1.toNat + 2 ^ 32 * acc.1, (readV s k n).2 || acc.2)) (0, false)

/-- An operand of a width, as bits, and its poison. -/
def readOperand (s : State) (k w : Nat) (o : Operand) : Nat × Bool :=
  match o with
  | .v _ | .b _ => ((readVs s k (vNames s k w o)).1 % 2 ^ w, (readVs s k (vNames s k w o)).2)
  | .w i => ((readW s (sheafOf k) i.toNat).1.toNat % 2 ^ w, (readW s (sheafOf k) i.toNat).2)
  | .p i => (if readP s k i.toNat then 1 else 0, false)
  | .m i => ((readM s (sheafOf k) i.toNat).toNat % 2 ^ w, false)
  | .lit x => (x.toNat % 2 ^ w, false)
  | .imm i => ((i.signExtend 64).toNat % 2 ^ w, false)
  | .special i => (readSpecial s k i % 2 ^ w, false)
  | .none | .t _ => (0, false)

/-- The poison of an operand of 64 bits as that of its two halves: a pair's registers each have their own (R129). -/
def halfPoison (s : State) (k : Nat) (w : Nat) (o : Operand) : Bool × Bool :=
  match vNames s k w o with
  | [lo, hi] => ((readV s k lo).2, (readV s k hi).2)
  | _ => ((readOperand s k w o).2, (readOperand s k w o).2)

/-- Bits of a width as a signed number. -/
def signedOf (x w : Nat) : Int := if x % 2 ^ w ≥ 2 ^ (w - 1) then (x % 2 ^ w : Nat) - (2 ^ w : Int) else (x % 2 ^ w : Nat)

/-- Bits of a type extended to a register of 32 or 64 bits (R200, R280). -/
def extendBits (x w : Nat) (signed : Bool) (target : Nat) : Nat :=
  if signed then (signedOf x w % (2 ^ target : Int)).toNat else x % 2 ^ w

/-- Write a vector register, a pair for 64 bits (R227, R280), with the poison of the low and of the high half (R129). -/
def writeVsP (s : State) (k : Nat) (ty : BitVec 4) (n bits : Nat) (poison : Bool × Bool) : State :=
  if tyWidth ty = 64 then
    writeV (writeV s k n (BitVec.ofNat 32 bits) poison.1) k (n + 1) (BitVec.ofNat 32 (bits / 2 ^ 32)) poison.2
  else writeV s k n (BitVec.ofNat 32 (extendBits bits (tyWidth ty) (tySigned ty) 32)) poison.1

/-- Write a vector register or pair whose halves share their poison. -/
def writeVs (s : State) (k : Nat) (ty : BitVec 4) (n bits : Nat) (poison : Bool) : State :=
  writeVsP s k ty n bits (poison, poison)

/-- Write a uniform register (R280). -/
def writeWs (s : State) (k : Nat) (ty : BitVec 4) (n bits : Nat) (poison : Bool) : State :=
  writeW s (sheafOf k) n (BitVec.ofNat 64 (extendBits bits (tyWidth ty) (tySigned ty) 64)) poison

/-- Write a destination: a v register or slot (a pair for 64 bits), a w register, or a predicate (R280). -/
def writeOperandP (s : State) (k : Nat) (ty : BitVec 4) (o : Operand) (bits : Nat) (poison : Bool × Bool) : State :=
  match o with
  | .v i => writeVsP s k ty i.toNat bits poison
  | .b i => writeVsP s k ty ((strandAt s k).slotReg i.toNat) bits poison
  | .w i => writeWs s k ty i.toNat bits (poison.1 || poison.2)
  | .p i => writeP s k i.toNat (bits % 2 == 1)
  | _ => s

/-- Write a destination whose halves share their poison. -/
def writeOperand (s : State) (k : Nat) (ty : BitVec 4) (o : Operand) (bits : Nat) (poison : Bool) : State :=
  writeOperandP s k ty o bits (poison, poison)

/-- An offset operand (R305): a register as i32, an imm9 sign-extended, a literal whole; none is 0. -/
def readOffset (s : State) (k : Nat) (o : Operand) : Int × Bool :=
  match o with
  | .none => (0, false)
  | .lit x => (x.toInt, false)
  | .imm i => (i.toInt, false)
  | o => (signedOf (readOperand s k 32 o).1 32, (readOperand s k 32 o).2)

/-- Where an access goes (R305). -/
inductive Target where
  | scratch (off : Int)
  | global (va : Nat)
  | prot (va : Nat)
  deriving DecidableEq, Repr

/-- The virtual address of a target. -/
def targetVa : Target → Nat
  | .scratch off => (off + Config.windowBase).toNat
  | .global va => va
  | .prot va => va

/-- The address of a memory operand and its poison (R305): scratchpad under MOD s, else a virtual address whose window
part is the scratchpad, but under MOD g. -/
def effectiveAddress (s : State) (k : Nat) (base offset : Operand) (space : Nat) : Target × Bool :=
  let (off, p1) := readOffset s k offset
  if space = 2 then
    let (a, p2) := readOperand s k 32 base
    (.scratch ((a : Int) + off), p1 || p2)
  else
    let (a, p2) := readOperand s k 64 base
    let va := (((a : Int) + off) % (2 ^ 64 : Int)).toNat
    let t : Target :=
      if Config.windowBase ≤ va && va < Config.windowEnd then
        (if space = 1 then .prot va else .scratch ((va : Int) - Config.windowBase))
      else if va ≥ 2 ^ 52 then .prot va else .global va
    (t, p1 || p2)

/-- The guard of an instruction in a strand (R222). -/
def guardHolds (s : State) (k : Nat) (g : Guard) : Bool := readP s k g.p.toNat != g.neg

/-! ## Tile descriptors (R324, R325) -/

/-- Element type of a tile descriptor. -/
def tileTy (d : DWord) : BitVec 4 := d.extractLsb' 50 4
/-- Columns. -/
def tileCols (d : DWord) : Nat := (d.extractLsb' 38 12).toNat + 1
/-- Rows. -/
def tileRows (d : DWord) : Nat := (d.extractLsb' 26 12).toNat + 1
/-- Scratchpad offset of the header. -/
def tileOff (d : DWord) : Nat := (d.extractLsb' 0 22).toNat
/-- Bytes of a row of elements (R324). -/
def pitchOf (cols : Nat) (ty : BitVec 4) : Nat := 64 * ((cols * tyWidth ty + 511) / 512)
/-- Bytes of a tile (R325). -/
def tileSize (d : DWord) : Nat := 64 + tileRows d * pitchOf (tileCols d) (tileTy d)
/-- The tile bound to a name of a block. -/
def tileAt (s : State) (b n : Nat) : Option Tile := tfind (blockAt s b).tiles n

/-! ## Scratchpad (R157) -/

/-- A byte of a block's scratchpad and the poison of its granule. -/
def readPad (s : State) (b off : Nat) : Byte × Bool :=
  let x := blockAt s b
  (tget x.pad off 0, x.padPoison.contains (off / 8))

/-- The granules of 8 bytes that an access touches. -/
def granulesOf (off n : Nat) : List Nat := (List.range ((off + n + 7) / 8 - off / 8)).map (off / 8 + ·)

/-- Granules of 8 bytes after a write of n bytes (R129). -/
def padGranules (old : List Nat) (off n : Nat) (poison : Bool) : List Nat :=
  (granulesOf off n).foldl (fun l g =>
    if poison then sinsert g l else if off ≤ 8 * g && 8 * g + 8 ≤ off + n then sremove g l else l) old

/-- A copy command of a block whose tile covers a granule. -/
def copyCovers (s : State) (b g : Nat) (c : CopyCmd) : Bool :=
  c.block == b && (tileAt s b c.tile).any fun t => tileOff t.desc ≤ 8 * g && 8 * g < tileOff t.desc + tileSize t.desc

/-- A running cpy may have written a granule, and nothing has settled yet whether it has (R161). -/
def unsettled (s : State) (b g : Nat) (c : CopyCmd) : Bool :=
  c.kind == .cpy && !c.image.isEmpty && !c.seen.contains g && copyCovers s b g c

/-- Change the queued and running copy commands of a block that cover a granule. -/
def modCopies (s : State) (b g : Nat) (f : CopyCmd → CopyCmd) : State :=
  modCore s (b / 4) fun k => { k with queue := k.queue.map fun c => if copyCovers s b g c then f c else c }

/-- A load of a granule that a cpy is filling settles, freely, whether the cpy has written it; it stays written (R161, R308). -/
def seeGranule (s : State) (b g : Nat) : State :=
  if (coreAt s (b / 4)).queue.any (unsettled s b g) then
    let (hit, t) := choose s
    if hit then modCopies t b g fun c => if c.kind == .cpy && !c.image.isEmpty then { c with seen := sinsert g c.seen } else c else t
  else s

/-- Settle the granules that a load touches. -/
def seePad (s : State) (b off n : Nat) : State := (granulesOf off n).foldl (fun t g => seeGranule t b g) s

/-- What a cpy of a block has written at an offset, in a granule that it is settled to have written (R161). -/
def fillingByte (s : State) (b off : Nat) : Option (Byte × Bool) :=
  (coreAt s (b / 4)).queue.findSome? fun c =>
    if c.kind == .cpy && c.block == b && c.seen.contains (off / 8) then
      (tfind c.image off).map fun v => (v, c.imagePoison.contains (off / 8))
    else none

/-- A byte as an ordinary load sees it: the content before a cpy that fills it, or what the cpy writes (R161). -/
def loadPadByte (s : State) (b off : Nat) : Byte × Bool := (fillingByte s b off).getD (readPad s b off)

/-- The bytes of a store that lie in a granule: where they begin, and the bytes. -/
def bytesIn (g off : Nat) (bytes : List Byte) : Nat × List Byte :=
  (max off (8 * g), (bytes.drop (8 * g - off)).take (8 * g + 8 - max off (8 * g)))

/-- What a store to a granule does to a copy command that covers it, hit saying that the engine has passed the granule. A cpy that
has not built its image yet lets the store stand; one that has written the granule has the store over it; else the store will be
overwritten (R161). A cpo or cpr that has read the granule keeps what it read (R389). -/
def storeInto (s : State) (b g off : Nat) (bytes : List Byte) (poison hit : Bool) (c : CopyCmd) : CopyCmd :=
  let (at', bs) := bytesIn g off bytes
  if c.kind == .cpy then
    if c.image.isEmpty then
      if hit || c.touched.any (· / 8 == g) then
        { c with touched := (List.range bs.length).foldl (fun l i => sinsert (at' + i) l) c.touched }
      else c
    else if hit || c.seen.contains g then
      { c with image := setBytes c.image at' bs, imagePoison := padGranules c.imagePoison at' bs.length poison,
               seen := sinsert g c.seen }
    else c
  else if hit && (tfind c.image (8 * g)).isNone then
    { c with image := setBytes c.image (8 * g) ((List.range 8).map fun i => (readPad s b (8 * g + i)).1),
             imagePoison := if (readPad s b (8 * g)).2 then sinsert g c.imagePoison else c.imagePoison }
  else c

/-- Which granules of a block's scratchpad, of some that stores write, the copy commands that cover them have passed: a free
choice of each (R161, R389). -/
def passedGranules (s : State) (b : Nat) (gs : List Nat) : List Nat × State :=
  gs.foldl (fun (r : List Nat × State) g =>
    if (coreAt r.2 (b / 4)).queue.any (copyCovers r.2 b g) then
      let (hit, t) := choose r.2
      (if hit then r.1 ++ [g] else r.1, t)
    else r) ([], s)

/-- A store to granules, of which copy commands have passed some, meets the commands that cover them (R161, R389). -/
def settleStore (passed : List Nat) (s : State) (b off : Nat) (bytes : List Byte) (poison : Bool) : State :=
  (granulesOf off bytes.length).foldl (fun t g =>
    if (coreAt t (b / 4)).queue.any (copyCovers t b g) then modCopies t b g (storeInto t b g off bytes poison (passed.contains g)) else t) s

/-- Bytes stored into a block's scratchpad (R157), of whose granules copy commands have passed some. -/
def putPadBy (passed : List Nat) (s : State) (b off : Nat) (bytes : List Byte) (poison : Bool) : State :=
  modBlock (settleStore passed s b off bytes poison) b fun x =>
    { x with pad := setBytes x.pad off bytes, padPoison := padGranules x.padPoison off bytes.length poison }

/-- Bytes stored into a block's scratchpad by one store (R157). -/
def putPad (s : State) (b off : Nat) (bytes : List Byte) (poison : Bool) : State :=
  let (passed, t) := passedGranules s b (granulesOf off bytes.length)
  putPadBy passed t b off bytes poison

/-- An armed error strikes a write of a block's scratchpad (R353): the poison that it leaves. -/
def strikePad (s : State) (b : Nat) : Bool × State :=
  let (hit, t) := strike s b 2
  (hit == some 2, match hit with | some kind => logStrike t b kind | none => t)

/-- Write bytes of a block's scratchpad, of whose granules copy commands have passed some; an armed error strikes it (R353). -/
def writePadBy (passed : List Nat) (s : State) (b off : Nat) (bytes : List Byte) (poison : Bool) : State :=
  putPadBy passed (strikePad s b).2 b off bytes (poison || (strikePad s b).1)

/-- Write bytes of a block's scratchpad by one store; an armed error strikes it (R353). -/
def writePad (s : State) (b off : Nat) (bytes : List Byte) (poison : Bool) : State :=
  putPad (strikePad s b).2 b off bytes (poison || (strikePad s b).1)

/-! ## What the checks of one participant find (R306, R355) -/

/-- The outcome of one participant's checks: the causes of its precise traps, poison it would consume, the page faults it
would stall on, a home on a fenced die, and a malformed entry for the RAS log. -/
structure Verdict where
  traps : List Cause
  poison : Bool
  faults : List Nat
  fenced : Bool
  walk : Option (Nat × Nat)
  deriving DecidableEq, Repr

/-- Nothing found. -/
def Verdict.ok : Verdict := { traps := [], poison := false, faults := [], fenced := false, walk := none }
/-- A precise trap. -/
def Verdict.trap (c : Cause) : Verdict := { Verdict.ok with traps := [c] }
/-- A trap where a test holds. -/
def Verdict.trapIf (b : Bool) (c : Cause) : Verdict := if b then Verdict.trap c else Verdict.ok
/-- Poison where a test holds. -/
def Verdict.poisonIf (b : Bool) : Verdict := { Verdict.ok with poison := b }
/-- Both. -/
def Verdict.and (x y : Verdict) : Verdict :=
  { traps := x.traps ++ y.traps, poison := x.poison || y.poison, faults := x.faults ++ y.faults,
    fenced := x.fenced || y.fenced, walk := x.walk.orElse fun _ => y.walk }
/-- The trap taken: the earliest in the order of R355, which is the order of the codes. -/
def Verdict.cause (v : Verdict) : Option Cause :=
  v.traps.foldl (fun acc c => match acc with
    | some d => if c.code < d.code then some c else some d
    | none => some c) none

/-- The verdict of a translation. -/
def Trans.verdict (va : Nat) : Trans → Verdict
  | .ok _ _ => Verdict.ok
  | .prot _ => Verdict.trap .prot
  | .malformed level pa => { Verdict.trap .prot with walk := some (level, pa) }
  | .page _ => Verdict.trap .page
  | .fault => { Verdict.ok with faults := [va] }
  | .poison => { Verdict.ok with poison := true }
  | .fenced _ => { Verdict.ok with fenced := true }

/-- The physical address and leaf of a translation that succeeded. -/
def Trans.place : Trans → Option (Nat × Leaf)
  | .ok pa l => some (pa, l)
  | _ => none

end Sys2Proof.Machine
end

