-- ==== Sys2Proof/Machine/Bundle.lean ====
section
/-! DEFINITION. How a bundle executes one instruction (R149, R260, R281, R306, R355): guard, checks of every participant,
then the effect or what stops it. -/

namespace Sys2Proof.Machine

/-- A list without repeats, in order of first appearance. -/
def nub : List Nat → List Nat
  | [] => []
  | x :: xs => x :: (nub xs).filter (· != x)

/-- Advance strands by a length. -/
def advanceAll (s : State) (len : Nat) (ks : List Nat) : State := ks.foldl (fun t k => advance t len k) s

/-- Each failing participant takes its own trap, with the lanes that took the same cause (R260, R354). -/
def takeTraps (s : State) (pc : DWord) (bad : List (Nat × Cause)) : State :=
  bad.foldl (fun t p =>
    trapEntry t p.1 p.2 pc (laneMask s ((bad.filter fun q => q.2 == p.2).map (·.1)))) s

/-- RAS entries of the malformed entries that the checks met (R87). -/
def logWalks (s : State) (core : Nat) (vs : List Verdict) : State :=
  vs.foldl (fun t v => match v.walk with
    | some (level, pa) => logWalk t (locCore core) (.malformed level pa)
    | none => t) s

/-- The participants of a bundle (R149). -/
def participants (s : State) (b : Bundle) (g : Guard) : List Nat := b.strands.filter fun k => guardHolds s k g

/-- The strands of a bundle whose guard is false. -/
def bystanders (s : State) (b : Bundle) (g : Guard) : List Nat := b.strands.filter fun k => !guardHolds s k g

/-- What the checks of all participants decide, in the order of R355: traps, then consumed poison, then page faults. -/
inductive Decision where
  | traps (bad : List (Nat × Cause))
  | consumed
  | fenced
  | faults (vas : List Nat)
  | go
  deriving DecidableEq, Repr

/-- Decide (R355). -/
def decideAll (ps : List Nat) (check : Nat → Verdict) : Decision :=
  let bad := ps.filterMap fun k => (check k).cause.map fun c => (k, c)
  if !bad.isEmpty then .traps bad
  else if ps.any fun k => (check k).poison then .consumed
  else if ps.any fun k => (check k).fenced then .fenced
  else
    let vas := nub (ps.flatMap fun k => (check k).faults)
    if vas.isEmpty then .go else .faults vas

/-- Act on a decision other than to go on; a page fault stalls every participant until every fault is served (R306). -/
def act (s : State) (b : Bundle) (len : Nat) (others ps : List Nat) (acc : Access) (d : Decision)
    (effect : State → State) : State :=
  match d with
  | .traps bad => takeTraps s b.pc bad
  | .consumed => startKill s (blockAt s b.block).gang (some .consumed) false (locCore b.core)
  | .fenced => startKill s (blockAt s b.block).gang (some .fence) false (locCore b.core)
  | .faults vas => ps.foldl (fun t k => stallFault t k vas acc) (advanceAll s len others)
  | .go => effect (advanceAll s len others)

/-- The state once the bundle has left the issue stage. -/
def issued (s : State) : State := { s with ctl := { s.ctl with bundle := none } }

/-- Execute one instruction in the bundle that issued: checks of every participant, then its effect on the participants
(R260, R306, R355). The effect advances them. -/
def runBundle (s : State) (g : Guard) (len : Nat) (acc : Access) (check : State → Nat → Verdict)
    (effect : State → Bundle → List Nat → State) : State :=
  match s.ctl.bundle with
  | none => s
  | some b =>
    let s := issued s
    let ps := participants s b g
    let s1 := logWalks s b.core (ps.map (check s))
    act s1 b len (bystanders s b g) ps acc (decideAll ps (check s)) fun t => effect t b ps

/-! ## Instructions of registers alone -/

/-- The operand positions. -/
def positions : List Pos := [.d, .a, .b, .c]

/-- The width at which a position names registers: 32 for an offset (R305). -/
def regWidth (stem : Stem) (x : Three) (p : Pos) : Nat :=
  if roleOf stem x.mod p = some .o then 32 else operandWidth stem x p

/-- A register operand beyond the allocation (R152); role n is a number, checked by its own instruction. -/
def rangeFails (stem : Stem) (x : Three) (s : State) (k : Nat) : Bool :=
  positions.any fun p => roleOf stem x.mod p != some .n && regRange s k (regWidth stem x p) (x.at p)

/-- The value at a position. -/
def valueAt (stem : Stem) (x : Three) (s : State) (k : Nat) (p : Pos) : Nat × Bool :=
  readOperand s k (operandWidth stem x p) (x.at p)

/-- Whether a source that the instruction reads is poisoned (R133). -/
def sourcePoison (stem : Stem) (x : Three) (s : State) (k : Nat) : Bool :=
  (valueAt stem x s k .a).2 || (valueAt stem x s k .b).2 || (valueAt stem x s k .c).2

/-- What an instruction of registers alone computes from A, B, C and the old D of one strand: the bits of its result and
its sticky bits. -/
abbrev LaneFn := Three → Nat → Nat → Nat → Nat → Nat × Flags

/-- The result of one strand, read before any register is written (R280). -/
def laneResult (stem : Stem) (x : Three) (fn : LaneFn) (s : State) (k : Nat) : Nat × Flags :=
  fn x (valueAt stem x s k .a).1 (valueAt stem x s k .b).1 (valueAt stem x s k .c).1 (valueAt stem x s k .d).1

/-- Sheaf by sheaf, the first participant of each (R149). -/
def sheafLeaders (ps : List Nat) : List Nat :=
  (nub (ps.map sheafOf)).filterMap fun f => ps.find? fun k => sheafOf k == f

/-- The participant of a sheaf with the lowest home lane, from which a sheaf-level instruction takes its operands (R149, R345). -/
def sheafLead (ps : List Nat) (k : Nat) : Nat := (ps.find? fun j => sheafOf j == sheafOf k).getD k

/-- Write the results: in each participant, or with U once for each sheaf, whose one execution also gives the sticky bits of each of
its participants (R149, R209, R223, R281). A source that is a strand's own special register has then the value of the participant with
the lowest home lane (R223 does not say whose: DESIGN CHOICE, log 65). -/
def writeResults (s : State) (x : Three) (dty : BitVec 4) (ps : List Nat) (result : Nat → Nat × Flags)
    (poison : Nat → Bool × Bool) : State :=
  let t :=
    if x.u then (sheafLeaders ps).foldl (fun t k => writeOperandP t k dty x.d (result k).1 (poison k)) s
    else ps.foldl (fun t k => writeOperandP t k dty x.d (result k).1 (poison k)) s
  ps.foldl (fun t k => setFlags t k (result (if x.u then sheafLead ps k else k)).2) t

/-- The checks of an instruction of registers alone (R281): REGRANGE, and poison unless it only moves. -/
def aluCheck (stem : Stem) (x : Three) (readsD moves : Bool) (s : State) (k : Nat) : Verdict :=
  (Verdict.trapIf (rangeFails stem x s k) .regrange).and
    (Verdict.poisonIf (!moves && (sourcePoison stem x s k || (readsD && (valueAt stem x s k .d).2))))

/-- An instruction of registers alone (R281): dty is the type its result is written in, readsD that it reads the old D,
moves that poison goes with the value of A, half by half, instead of being consumed (R132). -/
def alu (stem : Stem) (code : Code) (fn : LaneFn) (dty : Three → BitVec 4) (readsD moves : Bool) (s : State) : State :=
  let x := code.norm stem
  executed s (runBundle s x.g code.len .read (aluCheck stem x readsD moves) fun t _ ps =>
    advanceAll
      (writeResults t x (dty x) ps (laneResult stem x fn t) fun k =>
        if moves then halfPoison t k (operandWidth stem x .a) x.a else (false, false))
      code.len ps)

/-- The type field of an instruction. -/
def ownTy (x : Three) : BitVec 4 := x.ty

end Sys2Proof.Machine
end

