-- ==== Sys2Proof/Machine/Links.lean ====
section
/-! DEFINITION. The fabric between dies (R18 to R21, R45): message classes, the links that a message crosses, which messages wait at a
link that is Down, and the order in which a core's writes to one line arrive (R175). -/

namespace Sys2Proof.Machine

/-! ## Messages: classes and ends (R45, R46) -/

/-- The classes of fabric messages (R45). -/
inductive MsgClass where
  | req | snp | ack | data | ctl
  deriving DecidableEq, Repr

/-- The class of a message (R45). An exchange store and a loan return, which the table does not list, travel as requests (DESIGN
CHOICE, log 55). -/
def Msg.cls : Msg → MsgClass
  | .inval _ _ | .recall _ _ | .redirect _ _ _ | .unredirect _ _ _ => .snp
  | .ack _ _ _ => .ack
  | .data _ _ _ _ _ _ | .loanPush _ _ _ _ | .values _ _ _ _ | .element _ _ _ _ _ _ | .engineData _ _ _ _ _ => .data
  | .ctl _ _ | .retry _ _ | .remap _ _ | .refused _ => .ctl
  | _ => .req

/-- The core, or the service unit, that a completion time is for; its die. -/
def Notify.die : Notify → Option Nat
  | .entry core _ => some (core / 256)
  | .op b _ | .engine b _ => some (b / 1024)
  | .deliveries bs _ => bs.head?.map (· / 1024)
  | _ => none

/-- The I/O die of a port (R23). -/
def portDie (s : State) (n : Nat) : Option Nat := ((portList s).find? fun p => p.1 == n).map (8 + ·.2)

/-- The I/O die through which traffic between a port and the mesh passes now: the port's own, or that of another that carries
traffic where it does not (R21, R25). -/
def gateDie (s : State) (port : Option Nat) : Option Nat :=
  let up := (portList s).filter (portUsable s)
  ((up.find? fun p => some p.1 == port).orElse fun _ => up.head?).map (8 + ·.2)

/-- The port of a host access under way (R75). -/
def rmaPort (s : State) (tag : DWord) : Option Nat := (s.module.rma.find? fun r => r.tag == tag).map (·.port)

/-- The die that a request comes from (R47). -/
def Msg.requester (s : State) : Msg → Option Nat
  | .read _ r | .hostLoad _ r => some (r.core / 256)
  | .drain _ core _ _ | .engineRead _ _ core _ _ _ _ | .hostStore core _ => some (core / 256)
  | .atomic _ b _ _ _ _ _ | .hostOp b _ _ _ => some (b / 1024)
  | .red _ n _ _ _ | .abacus _ _ _ n _ _ _ | .engineWrite _ _ _ _ n _ _ => n.die
  | .rmaWrite _ _ _ tag _ | .rmaRead _ _ tag _ | .portAtomic _ _ _ _ _ _ tag _ => gateDie s (rmaPort s tag)
  | _ => none

/-- The dies between which a message goes, from being the die that sent it where its number tells (R19). A reply takes the route
of its request, in reverse: the dies are then the request's. -/
def msgDies (s : State) (o : Origin) (m : Msg) : Option (Nat × Nat) :=
  let home (line : Nat) : Nat := homeSlice s line / 64
  let ends (x y : Option Nat) : Option (Nat × Nat) := (o.die.orElse fun _ => x).bind fun d => y.map fun e => (d, e)
  let back (x y : Option Nat) : Option (Nat × Nat) := (ends x y).map fun p => (p.2, p.1)
  match m with
  | .read q _ | .drain q _ _ _ | .atomic q _ _ _ _ _ _ | .red q _ _ _ _ | .abacus q _ _ _ _ _ _ | .engineWrite q _ _ _ _ _ _
  | .engineRead q _ _ _ _ _ _ | .rmaWrite q _ _ _ _ | .rmaRead q _ _ _ | .portAtomic q _ _ _ _ _ _ _ =>
    ends (m.requester s) (some (q / 64))
  | .data _ r _ _ _ _ => back (some (home r.line)) (some (r.core / 256))
  | .inval line q | .recall line q | .redirect line _ q | .unredirect line _ q | .loanPush line q _ _ =>
    ends (some (home line)) (some (q / 64))
  | .ack line q _ => some (home line, q / 64)
  | .loanReturn line q _ => some (q / 64, home line)
  | .ctl (.host tag) _ => back none (gateDie s (rmaPort s tag))
  | .ctl n _ => back none n.die
  | .retry r _ | .remap r _ | .refused r => back none (r.requester s)
  | .values b _ _ _ => back none (some (b / 1024))
  | .element k _ _ _ _ _ => back none (some (coreOf k / 256))
  | .engineData core _ _ _ _ => back none (some (core / 256))
  | .parity line _ => ends (some (home line)) (some ((placeOf line).2.2 / 2))
  | .hostStore _ _ | .hostLoad _ _ | .hostOp _ _ _ _ => ends (m.requester s) (gateDie s o.port)
  | .xst _ _ _ _ => none

/-- A message of the host's traffic, which needs a port (R25). -/
def Msg.external : Msg → Bool
  | .hostStore _ _ | .hostLoad _ _ | .hostOp _ _ _ _ => true
  | _ => false

/-- Where a message of a number has come from; a message whose number tells nothing names its sender itself. -/
def originOf (s : State) (id : Nat) : Origin := (tfind s.origins id).getD { die := none, epoch := s.module.epoch, port := none }

/-- A message is held (R21, R25): its route crosses a link that is Down, between two dies in service, or no port carries traffic. -/
def heldBack (s : State) (id : Nat) (m : Msg) : Bool :=
  (m.external && !hostReach s) || match msgDies s (originOf s id) m with
    | some (x, y) => !(dieAt s x).fenced && !(dieAt s y).fenced && (routeNow s x y).any (linkIsDown s)
    | none => false

/-! ## The order of arrival (R175, R177) -/

/-- The request that a message is, or that it refuses, sends back or defers. -/
def Msg.inner : Msg → Msg
  | .retry m _ | .remap m _ | .refused m => m
  | m => m

/-- The core, line and sequence number of a drain, on its way or refused. -/
def Msg.drainOf (m : Msg) : Option (Nat × Nat × Nat) :=
  match m.inner with
  | .drain _ core e _ => some (core, e.line, e.seq)
  | _ => none

/-- The updates that strands have sent in a message. -/
def Msg.strandOps (m : Msg) : List LaneOp :=
  match m.inner with
  | .atomic _ _ ops _ _ _ none | .red _ (.op _ _) ops _ _ => ops
  | _ => []

/-- The line and quad of a redirect's install or removal. -/
def Msg.redirectOf : Msg → Option (Nat × Nat)
  | .redirect line _ q | .unredirect line _ q => some (line, q)
  | _ => none

/-- The request for a line that a message is, or answers. -/
def Msg.lineRead (m : Msg) : Option ReadReq :=
  match m.inner with
  | .read _ r | .data _ r _ _ _ _ => some r
  | _ => none

/-- Two loads read a byte in common. -/
def PendingLoad.meets (x y : PendingLoad) : Bool :=
  decide (x.pa < y.pa + tyWidth y.ty / 8) && decide (y.pa < x.pa + tyWidth x.ty / 8)

/-- A load of strand k and one of strand j are loads of one strand: of the same, or executed once for it with U (R149). -/
def sameStrand (k j : Nat) (x y : PendingLoad) : Bool := (k :: x.riders).any (j :: y.riders).contains

/-- An earlier request answers a load of the same strand that reads a byte in common (R177): loads of one strand to one byte
return in their order. -/
def loadFirst (s : State) (id : Nat) (m : Msg) (p : Nat × Msg) : Bool :=
  decide (p.1 < id) && match m.lineRead, p.2.lineRead with
    | some r, some r' => r.core == r'.core && r.line == r'.line && r.waiters.any fun w => r'.waiters.any fun v =>
        (strandAt s w.1).loads.any fun x => x.id == w.2 && (strandAt s v.1).loads.any fun y =>
          y.id == v.2 && sameStrand w.1 v.1 x y && x.meets y
    | _, _ => false

/-- Another message goes first (R175): a drain of the same core to the same line with a lower sequence number, or an earlier
reduction or atomic of the same strand to the same address; or an earlier change of a quad's redirects of the line. -/
def goesFirst (id : Nat) (m : Msg) (p : Nat × Msg) : Bool :=
  (match m.drainOf, p.2.drainOf with
    | some (c, l, n), some (c', l', n') => c == c' && l == l' && decide (n' < n)
    | _, _ => false) ||
    (decide (p.1 < id) && m.redirectOf.isSome && m.redirectOf == p.2.redirectOf) ||
    (decide (p.1 < id) && m.strandOps.any fun o => p.2.strandOps.any fun x => x.strand == o.strand && x.pa == o.pa)

/-- The record entry whose completion a message tells its core: a completion time, a refusal, the host's answer to a store. -/
def Msg.entryOf : Msg → Option (Nat × Nat)
  | .ctl (.entry core seq) _ => some (core, seq)
  | .refused (.drain _ core e _) => some (core, e.seq)
  | .hostStore core e => some (core, e.seq)
  | _ => none

/-- An older entry of a core's record that has left for the same line is not freed yet: the completion of a newer one waits, so that the
record gives no byte of an older entry in its place (DEDUCED, log 57: R165, R177). -/
def entryFirst (s : State) (m : Msg) : Bool :=
  match m.entryOf with
  | none => false
  | some (core, seq) => (coreAt s core).record.any fun e => e.seq == seq && (coreAt s core).record.any fun o =>
      o.line == e.line && o.state == .sent && decide (o.seq < seq)

/-- The message of a number, where it can arrive. -/
def arriving (s : State) (id : Nat) : Option Msg :=
  match tfind s.net id with
  | some m => if heldBack s id m || s.net.any (goesFirst id m) || s.net.any (loadFirst s id m) || entryFirst s m then none else some m
  | none => none

end Sys2Proof.Machine
end

