-- ==== Sys2Proof/Machine/Ready.lean ====
section
/-! DEFINITION. Which strands are ready (R116, R143, R266), how strands end (R265, R117), and the draw of items (R112 to R118). -/

namespace Sys2Proof.Machine

/-! ## Readiness -/

/-- A strand of the sheaf waits at `bar`, `gbar` or `waitm` (R116, R266). -/
def barrierWait (s : State) (sk : Nat) : Bool :=
  (sheafStrands s sk).any fun k => match (strandAt s k).cond with
    | .waiting .bar | .waiting .gbar | .waiting (.waitm _) => true
    | _ => false

/-- A strand stands at the refill point of its launch. -/
def atRefill (s : State) (k : Nat) : Bool :=
  refillPoint (launchOf s (blockAt s (blockOf s k))) == some (strandAt s k).pc

/-- A Running strand that is ready (R143, R266). -/
def runningReady (s : State) (k : Nat) : Bool :=
  (strandAt s k).cond == .running && !(atRefill s k && barrierWait s (sheafOf k))

/-- The refill threshold of a sheaf (R83, R116). -/
def refillThreshold (s : State) (sk : Nat) : Nat :=
  let f := sheafAt s sk
  let th := (launchOf s (blockAt s f.block)).record.threshold.toNat
  if th = 0 then f.width / 2 else th

/-- The Parked strands of a sheaf are ready (R116, R266). -/
def parkedReady (s : State) (sk : Nat) : Bool :=
  !barrierWait s sk &&
    (decide (refillThreshold s sk ≤ (sheafStrands s sk).countP fun k => (strandAt s k).cond == .parked)
      || !(sheafStrands s sk).any (runningReady s))

/-- A block's sheaves may issue: it is set up, not stopped, and its gang is not killed, from the tick of the kill's detection on (R110,
R135, R357; DESIGN CHOICE, log 62). -/
def blockIssues (s : State) (b : Nat) : Bool :=
  let x := blockAt s b
  x.ready && !x.stopped && (match (gangAt s x.gang).state with | .placed | .stopping _ => true | _ => false)

/-- A strand is ready (R143). -/
def isReady (s : State) (k : Nat) : Bool :=
  let sk := sheafOf k
  blockIssues s (sheafAt s sk).block && (sheafAt s sk).regx.isNone &&
    match (strandAt s k).cond with
    | .running => runningReady s k
    | .deferred => !(sheafStrands s sk).any (runningReady s) && !(atRefill s k && barrierWait s sk)
    | .parked => parkedReady s sk
    | _ => false

/-- A strand waits in an instruction of a length. -/
def waitAt (s : State) (k : Nat) (w : Wait) (len : Nat) : State :=
  modStrand s k fun x => { x with cond := .waiting w, waitLen := len }

/-! ## The end of strands -/

/-- The cause of a code. -/
def Cause.ofCode (n : Nat) : Option Cause :=
  [Cause.illegal, .regrange, .align, .xrange, .scope, .tilestate, .prot, .page, .orphan, .soft, .arith].find? fun c => c.code == n

/-- A strand of a lower depth than its trap depth has left its handler (R356). -/
def leaveHandler (s : State) (k : Nat) : State :=
  modStrand s k fun x => if x.depth < x.trapDepth then { x with trapDepth := 0 } else x

/-- A strand leaves the held bundles of its block (R148): it no longer stands in them. -/
def unreserve (s : State) (k : Nat) : State :=
  (blockSheaves s (blockOf s k)).foldl (fun t f => modSheaf t f fun y =>
    { y with held := y.held.bind fun b =>
        let ks := b.strands.filter (· != k)
        if ks.isEmpty then none else some { b with strands := ks } }) s

/-- Two strands stand at the instruction in which they came to wait in one bundle. -/
def waitTogether (s : State) (k j : Nat) : Bool :=
  (strandAt s k).mates.contains j && (strandAt s j).mates.contains k && (strandAt s j).pc == (strandAt s k).pc

/-- Strands that wait in shrd or shwr on a mapping take ORPHAN (R155, R349), each with the lanes of its own bundle that take it (R354).
One that has been woken and has not run its instruction again still waits. -/
def orphanWaiters (s : State) (ks : List Nat) : State :=
  ks.foldl (fun t k =>
    trapEntry (wake (unreserve t k) k) k .orphan (strandAt s k).pc (laneMask s (ks.filter (waitTogether s k)))) s

/-- A waiter of a mapping has not run its instruction yet, since its turn came: it stands at it. -/
def stillWaits (s : State) (w : SharedWait) : Bool := (strandAt s w.strand).pc == w.pc && (strandAt s w.strand).cond != .done

/-- The strands that wait for registers of a mapping. -/
def waitersOf (s : State) (m : SharedMap) : List Nat := (m.queue.filter (stillWaits s)).map (·.strand)

/-- The waiters of other sheaves on mappings that a retiring sheaf takes part in. -/
def partnerWaiters (s : State) (sk : Nat) : List Nat :=
  (blockAt s (sheafAt s sk).block).shared.flatMap fun m =>
    if m.a == sk || m.b == sk then (waitersOf s m).filter fun k => sheafOf k != sk else []

/-- A strand becomes Done: its mask bits are cleared, and its sheaf retires with its last strand (R117, R265, R155). -/
def finish (s : State) (k : Nat) : State :=
  let t := makeDone s k
  let sk := sheafOf k
  if (sheafStrands t sk).all fun j => (strandAt t j).cond == .done then orphanWaiters t (partnerWaiters t sk) else t

/-- The arithmetic-fault path (R209, R354): its bits are cleared once the trap is entered. -/
def arithEntry (s : State) (k : Nat) (pc : DWord) : State :=
  let x := strandAt s k
  let t := trapEntry s k .arith pc (x.reported.setWidth 64)
  if (strandAt t k).trapDepth = x.trapDepth then t else clearReported t k

/-- The trap entries of a core's strands whose push had stalled, now that they have room, their fault is served, or what they waited
for is done (R356). One of a block that is stopped waits: its frame records the strand as Running at its pc (R357). -/
def completeTraps (s : State) (c : Nat) : State :=
  (coreStrands s c).foldl (fun t k =>
    let x := strandAt t k
    if (blockAt t (blockOf t k)).stopped || !(x.cond == .running || (x.cond == .stalled .push && !spillWaits t k)) then t
    else match x.trap with
    | some (code, trpc, tdet) =>
      let u := if x.cond == .running then t else wake t k
      if (strandAt u k).cond != .running then u
      else match Cause.ofCode code with
        | some .arith => arithEntry u k trpc
        | some cause => trapEntry u k cause trpc tdet
        | none => u
    | none => t) s

/-- A strand reports arithmetic conditions at `bar`, `gbar`, `itend` and `exit` (R209). -/
def reports (s : State) (k : Nat) : Bool := (strandAt s k).reported != 0

/-! ## Draws (R112 to R118, R139) -/

/-- A strand that drew an item goes on with it (R113, R117), or waits on the sheaf's pending request (R154). -/
def startItem (s : State) (k item : Nat) (pc : DWord) (first : Bool) : State :=
  wake (modStrand s k fun x =>
    { x with item := BitVec.ofNat 64 item, age := if first then 0 else x.age + 1, depth := 0, stack := [], trapDepth := 0,
             pc := pc }) k

/-- Hand out one item of a block's own range, then of the tail ranges that a relaunch draws again (R114, R139). -/
def nextOwn (s : State) (b : Nat) : Option Nat × State :=
  let x := blockAt s b
  let r := (launchOf s x).record
  if x.next < x.last then (some x.next, modBlock s b fun y => { y with next := y.next + 1 })
  else match x.replay.dropWhile fun e => e.2 == 0 with
    | (start, n) :: rest =>
      (some (r.blocks.toNat * r.items.toNat + start),
        modBlock s b fun y => { y with replay := if n ≤ 1 then rest else (start + 1, n - 1) :: rest })
    | [] => (none, s)

/-- Items that a block hands out without its tail counter. -/
def ownLeft (b : Block) : Nat := (b.last - b.next) + (b.replay.map (·.2)).sum

/-- Serve a group from the block's own items: the strands still short, in order (R114). -/
def drawOwn (s : State) (b : Nat) (pc : DWord) (first : Bool) : List Nat → List Nat × State
  | [] => ([], s)
  | k :: ks =>
    match nextOwn s b with
    | (some item, t) => drawOwn (startItem t k item pc first) b pc first ks
    | (none, t) =>
      let (short, u) := drawOwn t b pc first ks
      (k :: short, u)

/-- A draw of a group needs the tail counter (R114). -/
def needsTail (s : State) (b n : Nat) : Bool :=
  let x := blockAt s b
  tailEnabled (launchOf s x).record && ownLeft x < n

/-- The check of the tail counter's address (R114): Coherent, and W. -/
def tailCheck (s : State) (b : Nat) : Verdict :=
  let l := launchOf s (blockAt s b)
  let va := l.record.tailCtr.toNat
  if va ≥ 2 ^ 52 || va ≥ Config.windowBase then Verdict.trap .prot
  else
    let tr := translate s (some (b / 4)) l va .write
    if tr.leaf.any fun x => x.cls != 0 then Verdict.trap .prot else tr.verdict va

/-- Send the tail atomic of a group that is short (R114): a dev-scope fetch-and-add with no fence. Its operation lasts until its
value is back and its completion time known, which the launch waits for (R85). -/
def sendTail (s : State) (b : Nat) (pc : DWord) (first : Bool) (short : List Nat) : State :=
  let l := launchOf s (blockAt s b)
  match translate s (some (b / 4)) l l.record.tailCtr.toNat .write with
  | .ok pa _ =>
    let (id, t) := fresh s
    let op : LaneOp :=
      { strand := short.headD 0, pa := pa, op := .add, ty := Ty.n64, value := BitVec.ofNat 64 short.length, expected := 0,
        poison := false }
    let t := post t (.atomic (homeSlice t (pa / 64)) b [op] id t.now 0 (some id))
    let t := modBlock t b fun x =>
      { x with draws := x.draws ++ [{ id := id, strands := short, pc := pc, first := first }],
               ops := x.ops ++ [{ id := id, kind := .tail, sourceRead := false, count := 1 }] }
    short.foldl (fun u k => setCond u k (.waiting .draw)) t
  | _ => s

/-- The draw procedure (R114) for a group in its order; strands that draw nothing become Done (R117). -/
def draw (s : State) (b : Nat) (pc : DWord) (first : Bool) (group : List Nat) : State :=
  let (short, t) := drawOwn s b pc first group
  if short.isEmpty then t
  else if tailEnabled (launchOf s (blockAt s b)).record then sendTail t b pc first short
  else short.foldl finish t

/-- Record a tail draw for a relaunch (R139): at most 16 ranges, clipped to T. -/
def recordTail (s : State) (b start n : Nat) : State :=
  modBlock s b fun x =>
    if x.tailRecord.length < 16 then { x with tailRecord := x.tailRecord ++ [(start, n)] } else { x with overflow := true }

/-- The tail atomic of a draw has returned n: the range that it took, clipped to T, is recorded, and the draw is over (R114, R139). -/
def drawOver (s : State) (b : Nat) (w : DrawWait) (n : Nat) : State :=
  recordTail (modBlock s b fun x => { x with draws := x.draws.filter fun d => d.id != w.id }) b n
    (min w.strands.length ((launchOf s (blockAt s b)).record.tail.toNat - n))

/-- The tail atomic of a draw has returned n (R114): the j-th short strand takes tail item n + j while it lies below T. -/
def tailReturned (s : State) (b : Nat) (w : DrawWait) (n : Nat) : State :=
  let r := (launchOf s (blockAt s b)).record
  let total := r.tail.toNat
  let base := r.blocks.toNat * r.items.toNat
  ((List.range w.strands.length).zip w.strands).foldl (fun t p =>
    if n + p.1 < total then startItem t p.2 (base + n + p.1) w.pc w.first else finish t p.2) (drawOver s b w n)

/-! ## Sheaf parts -/

/-- Insert a sheaf key in ascending `%sheaf`. -/
def insertSheaf (s : State) (f : Nat) : List Nat → List Nat
  | [] => [f]
  | g :: gs => if (sheafAt s f).idx ≤ (sheafAt s g).idx then f :: g :: gs else g :: insertSheaf s f gs

/-- The sheaves of some strands in ascending `%sheaf` (R260, R345). -/
def sheavesOf (s : State) (ps : List Nat) : List Nat := (nub (ps.map sheafOf)).foldr (insertSheaf s) []

/-- The part of a bundle's participants that belongs to a sheaf. -/
def partOf (ps : List Nat) (f : Nat) : List Nat := ps.filter fun k => sheafOf k == f

end Sys2Proof.Machine
end

