-- ==== Sys2Proof/Machine/RegFile.lean ====
section
/-! DEFINITION. Register growth, shared registers and special registers (R345 to R353). -/

namespace Sys2Proof.Machine

/-- The number of a count operand (role i), read as n32. -/
def countOperand (s : State) (k : Nat) (o : Operand) : Nat × Bool := readOperand s k 32 o

/-- Execute a sheaf-level instruction: its checks see the sheaf's lead participant (R345). -/
def sheafRun (stem : Stem) (code : Code) (check : Three → State → Nat → Verdict)
    (effect : Three → State → Bundle → List Nat → State) (s : State) : State :=
  let x := code.norm stem
  let ps := participants s (s.ctl.bundle.getD { core := 0, block := 0, pc := 0, strands := [] }) x.g
  executed s (runBundle s x.g code.len .read (fun t k => check x t (sheafLead ps k)) (effect x))

/-! ## regx and regf (R346, R347) -/

/-- The number of a predicate operand. -/
def predNumber : Operand → Nat
  | .p i => i.toNat
  | _ => 7

/-- Every Running or Deferred strand of a sheaf waits on its request (R154). -/
def holdForRegx (s : State) (f : Nat) : State :=
  (sheafStrands s f).foldl (fun t k => match (strandAt t k).cond with
    | .running => setCond t k (.waiting (.regx false))
    | .deferred => setCond t k (.waiting (.regx true))
    | _ => t) s

/-- regx of one sheaf (R346): at once where k is 0 or the sum exceeds 512, else a request at the end of the core's queue. -/
def regxSheaf (x : Three) (len : Nat) (s : State) (part : List Nat) (f : Nat) : State :=
  let n := (countOperand s (part.headD 0) x.a).1
  let answer (r : Bool) : State := advanceAll (part.foldl (fun t k => writeP t k (predNumber x.d) r) s) len part
  if n = 0 then answer true
  else if (sheafAt s f).alloc + 32 * n > 512 then answer false
  else
    let t := modSheaf s f fun y =>
      { y with regx := some { granules := n, pred := predNumber x.d, len := len, strands := part } }
    let t := modCore t (f / 64) fun c => { c with regxQueue := c.regxQueue ++ [f] }
    holdForRegx t f

/-- regx (R154, R346). -/
def regxRun (code : Code) (s : State) : State :=
  sheafRun .regx code
    (fun x t k => (Verdict.trapIf (rangeFails .regx x t k) .regrange).and (Verdict.poisonIf (countOperand t k x.a).2))
    (fun x t _ ps => (sheavesOf t ps).foldl (fun u f => regxSheaf x code.len u (partOf ps f) f) t) s

/-- A register of a range lies in a shared mapping of a sheaf (R155). -/
def rangeShared (s : State) (f lo hi : Nat) : Bool :=
  (blockAt s (sheafAt s f).block).shared.any fun m =>
    (m.a == f && decide (m.f < hi) && decide (lo < m.f + m.n)) || (m.b == f && decide (m.g < hi) && decide (lo < m.g + m.n))

/-- The check of regf (R347). -/
def regfCheck (x : Three) (s : State) (k : Nat) : Verdict :=
  let (n, p) := countOperand s k x.a
  let f := sheafOf k
  let a := (sheafAt s f).alloc
  (Verdict.trapIf (rangeFails .regf x s k || decide (a < 32 * n + 32) || rangeShared s f (a - 32 * n) a) .regrange).and
    (Verdict.poisonIf p)

/-- A sheaf's allocation falls; the values beyond it are lost (R347). -/
def shrink (s : State) (f alloc : Nat) : State :=
  (sheafStrands s f).foldl (fun t k => modStrand t k fun y =>
      { y with v := y.v.filter (fun p => decide (p.1 < alloc)), vPoison := y.vPoison.filter (decide <| · < alloc) })
    (modSheaf s f fun y => { y with alloc := alloc })

/-- regf (R347). -/
def regfRun (code : Code) (s : State) : State :=
  sheafRun .regf code regfCheck
    (fun x t _ ps =>
      advanceAll ((sheavesOf t ps).foldl (fun u f =>
        let n := (countOperand t ((partOf ps f).headD 0) x.a).1
        if n = 0 then u else shrink u f ((sheafAt u f).alloc - 32 * n)) t) code.len ps) s

/-! ## Shared registers (R348 to R350) -/

/-- The register that an operand of role n names exactly. -/
def regName : Operand → Nat
  | .v i => i.toNat
  | _ => 0

/-- The sheaf of a block with an index, if it lives: one of its strands is not Done. -/
def livePartner (s : State) (b idx : Nat) : Option Nat :=
  (blockSheaves s b).find? fun f =>
    (sheafAt s f).idx == idx && (sheafStrands s f).any fun k => (strandAt s k).cond != .done

/-- Mappings that a sheaf takes part in; none in its resume code (R363). -/
def mappingsOf (s : State) (f : Nat) : List SharedMap :=
  if (sheafAt s f).phase = .resume then [] else (blockAt s (sheafAt s f).block).shared.filter fun m => m.a == f || m.b == f

/-- The trap of a shmap: the first failing line of R348. -/
def shmapCause (x : Three) (s : State) (k : Nat) : Option Cause :=
  let f := sheafOf k
  let r := regName x.d
  let g := regName x.a
  let n := (countOperand s k x.b).1
  let partner := livePartner s (sheafAt s f).block (valueAt .shmap x s k .c).1
  let beyond (sk reg : Nat) : Bool := decide ((sheafAt s sk).alloc < reg + n)
  if beyond f r || (partner.any fun p => beyond p g) then some .regrange
  else match partner with
    | none => some .orphan
    | some p =>
      let me := sheafAt s f
      let other := sheafAt s p
      if n < 1 || 64 < n || p == f || me.log2w != other.log2w || me.offset != other.offset || me.context == other.context
          || 2 ≤ (mappingsOf s f).length || 2 ≤ (mappingsOf s p).length || rangeShared s f r (r + n)
          || rangeShared s p g (g + n) then some .prot
      else none

/-- The check of shmap. -/
def shmapCheck (x : Three) (s : State) (k : Nat) : Verdict :=
  let cause : Verdict := match shmapCause x s k with
    | some c => Verdict.trap c
    | none => Verdict.ok
  ((Verdict.trapIf (rangeFails .shmap x s k) .regrange).and cause).and
    (Verdict.poisonIf ((countOperand s k x.b).2 || (valueAt .shmap x s k .c).2))

/-- shmap of one sheaf (R348). -/
def shmapSheaf (x : Three) (s : State) (k : Nat) : State :=
  let b := blockOf s k
  match livePartner s b (valueAt .shmap x s k .c).1 with
  | some p =>
    modBlock s b fun y => { y with shared := y.shared ++
      [{ a := sheafOf k, f := regName x.d, b := p, g := regName x.a, n := (countOperand s k x.b).1, full := [], queue := [] }] }
  | none => s

/-- shmap (R348). -/
def shmapRun (code : Code) (s : State) : State :=
  sheafRun .shmap code shmapCheck
    (fun x t _ ps =>
      advanceAll ((sheavesOf t ps).foldl (fun u f => shmapSheaf x u ((partOf ps f).headD 0)) t) code.len ps) s

/-- The mapping that a sheaf names by its own first register (R349). -/
def mappingNamed (s : State) (f r : Nat) : Option SharedMap :=
  (mappingsOf s f).find? fun m => (m.a == f && m.f == r) || (m.b == f && m.g == r)

/-- Registers of a sheaf's strands read 0 again. -/
def clearRegs (s : State) (f lo n : Nat) : State :=
  (sheafStrands s f).foldl (fun t k => modStrand t k fun y =>
    { y with v := y.v.filter (fun p => decide (p.1 < lo) || decide (lo + n ≤ p.1)),
             vPoison := y.vPoison.filter fun i => decide (i < lo) || decide (lo + n ≤ i) }) s

/-- shunm of one sheaf (R349). -/
def shunmSheaf (x : Three) (s : State) (f : Nat) : State :=
  match mappingNamed s f (regName x.a) with
  | some m =>
    let t := modBlock s (sheafAt s f).block fun y => { y with shared := y.shared.filter (· != m) }
    orphanWaiters (clearRegs (clearRegs t m.a m.f m.n) m.b m.g m.n) (waitersOf s m)
  | none => s

/-- shunm (R349). -/
def shunmRun (code : Code) (s : State) : State :=
  sheafRun .shunm code
    (fun x t k => Verdict.trapIf (mappingNamed t (sheafOf k) (regName x.a)).isNone .prot)
    (fun x t _ ps => advanceAll ((sheavesOf t ps).foldl (shunmSheaf x) t) code.len ps) s

/-- The mapping of a register of a sheaf and its position in it (R350). -/
def mappingAt (s : State) (f r : Nat) : Option (SharedMap × Nat) :=
  (mappingsOf s f).findSome? fun m =>
    if m.a == f && m.f ≤ r && r < m.f + m.n then some (m, r - m.f)
    else if m.b == f && m.g ≤ r && r < m.g + m.n then some (m, r - m.g)
    else none

/-- Change one mapping of a block. -/
def modMapping (s : State) (b : Nat) (m : SharedMap) (g : SharedMap → SharedMap) : State :=
  modBlock s b fun y => { y with shared := y.shared.map fun o =>
    if o.a == m.a && o.f == m.f && o.b == m.b && o.g == m.g then g o else o }

/-- Of some waiters of a mapping, those for one register in the strands of a `%sidx` that still wait. -/
def waitersFor (s : State) (q : List SharedWait) (sidx pos : Nat) : List SharedWait :=
  q.filter fun w => w.pos == pos && w.strand % 64 == sidx && stillWaits s w

/-- A strand still comes before another in a mapping's queue for a bit (R350: served in the order of issue). -/
def earlierWaiter (s : State) (m : SharedMap) (sidx pos k : Nat) (read : Bool) : Bool :=
  (waitersFor s (m.queue.takeWhile fun w => w.strand != k) sidx pos).any fun w => w.read == read

/-- The bit has changed: the first waiter for its new value runs its instruction again (R350). -/
def wakeBit (s : State) (m : SharedMap) (sidx pos : Nat) (full : Bool) : State :=
  match (waitersFor s m.queue sidx pos).find? fun w => w.read == full with
  | some w => (match (strandAt s w.strand).cond with
    | .waiting (.shrd _) | .waiting (.shwr _) => wake s w.strand
    | _ => s)
  | none => s

/-- A strand joins a mapping's queue at its end, or keeps the place that it has. -/
def joinQueue (s : State) (q : List SharedWait) (w : SharedWait) : List SharedWait :=
  if q.any fun o => o.strand == w.strand && stillWaits s o then q else q.filter (fun o => o.strand != w.strand) ++ [w]

/-- shwr and shrd of one strand of a bundle with participants ps (R350): read names which. -/
def sharedStrand (stem : Stem) (x : Three) (len : Nat) (ps : List Nat) (s : State) (k : Nat) : State :=
  let read := stem == .shrd
  let r := regName (if read then x.a else x.d)
  let b := blockOf s k
  match mappingAt s (sheafOf k) r with
  | none => s
  | some (m, pos) =>
    let sidx := k % 64
    let full := m.full.contains (sidx, pos)
    if full != read || earlierWaiter s m sidx pos k read then
      let t := modStrand s k fun y => { y with cond := .waiting (if read then .shrd r else .shwr r), mates := ps }
      modMapping t b m fun o => { o with queue := joinQueue s o.queue { strand := k, pos := pos, pc := (strandAt s k).pc, read := read } }
    else
      let t :=
        if read then writeOperand s k Ty.b32 x.d (readV s k r).1.toNat (readV s k r).2
        else writeV s k r (BitVec.ofNat 32 (valueAt stem x s k .a).1) (valueAt stem x s k .a).2
      let t := modMapping t b m fun o =>
        { o with full := if read then o.full.filter (· != (sidx, pos)) else (sidx, pos) :: o.full,
                 queue := o.queue.filter fun w => w.strand != k }
      advance (wakeBit t m sidx pos (!read)) len k

/-- shwr and shrd (R350): a register outside every mapping takes PROT; poison moves with the value. -/
def sharedRun (stem : Stem) (code : Code) (s : State) : State :=
  let x := code.norm stem
  let r := regName (if stem == .shrd then x.a else x.d)
  executed s (runBundle s x.g code.len .read
    (fun t k => (Verdict.trapIf (rangeFails stem x t k || outOfRange t k r) .regrange).and
      (Verdict.trapIf (mappingAt t (sheafOf k) r).isNone .prot))
    fun t _ ps => ps.foldl (sharedStrand stem x code.len ps) t)

/-! ## Special registers (R352) -/

/-- The register that an operand of kind special names. -/
def specialIndex : Operand → BitVec 9
  | .special i => i
  | _ => 0x1FF

/-- csrr (R352): the register as it stood before the bundle, zero-extended. -/
def csrrRun (code : Code) (s : State) : State :=
  let x := code.norm .csrr
  executed s (runBundle s x.g code.len .read (fun t k => Verdict.trapIf (rangeFails .csrr x t k) .regrange) fun t _ ps =>
    let ty : BitVec 4 := if operandWidth .csrr x .d = 64 then Ty.b64 else Ty.b32
    advanceAll (ps.foldl (fun u k => writeOperand u k ty x.d (readSpecial t k (specialIndex x.a)) false) t) code.len ps)

/-- The new value that csrw, csrs and csrc write (R352). -/
def csrNew (stem : Stem) (cur a : DWord) : DWord :=
  match stem with
  | .csrs => cur ||| a
  | .csrc => cur &&& ~~~a
  | _ => a

/-- csrw, csrs and csrc (R352): in ascending home lane, each on the value that the lower lanes left. -/
def csrRun (stem : Stem) (code : Code) (s : State) : State :=
  let x := code.norm stem
  let i := specialIndex x.d
  executed s (runBundle s x.g code.len .read
    (fun t k => (Verdict.trapIf (rangeFails stem x t k) .regrange).and (Verdict.poisonIf (valueAt stem x t k .a).2))
    fun t _ ps =>
      advanceAll (ps.foldl (fun u k =>
        writeSpecial u k i
          (csrNew stem (BitVec.ofNat 64 (readSpecial u k i)) (BitVec.ofNat 64 (valueAt stem x t k .a).1))) t) code.len ps)

/-! ## The meanings -/

/-- One-word request to grow the sheaf's allocation (R346). -/
def execRegx (x : Short) (s : State) : Host.Outcome State Fault Refusal :=
  .next (regxRun (.short x) s)

/-- Allocation growth with a register or imm9 count (R346). -/
def execRegxW (x : Long) (s : State) : Host.Outcome State Fault Refusal :=
  .next (regxRun (.long x) s)

/-- One-word release of register granules (R347). -/
def execRegf (x : Short) (s : State) : Host.Outcome State Fault Refusal :=
  .next (regfRun (.short x) s)

/-- Register release with a register or imm9 count (R347). -/
def execRegfW (x : Long) (s : State) : Host.Outcome State Fault Refusal :=
  .next (regfRun (.long x) s)

/-- Maps registers onto a partner sheaf's; three-word only (R348). -/
def execShmap (x : Three) (s : State) : Host.Outcome State Fault Refusal :=
  .next (shmapRun (.long (.three x)) s)

/-- Ends a shared mapping for both sheaves; three-word only (R349). -/
def execShunm (x : Three) (s : State) : Host.Outcome State Fault Refusal :=
  .next (shunmRun (.long (.three x)) s)

/-- Waits for empty, writes a shared register and sets it full (R350). -/
def execShwr (x : Three) (s : State) : Host.Outcome State Fault Refusal :=
  .next (sharedRun .shwr (.long (.three x)) s)

/-- Waits for full, reads a shared register and sets it empty (R350). -/
def execShrd (x : Three) (s : State) : Host.Outcome State Fault Refusal :=
  .next (sharedRun .shrd (.long (.three x)) s)

/-- Reads a special register (R352). -/
def execCsrr (x : Three) (s : State) : Host.Outcome State Fault Refusal :=
  .next (csrrRun (.long (.three x)) s)

/-- Writes a special register (R352). -/
def execCsrw (x : Three) (s : State) : Host.Outcome State Fault Refusal :=
  .next (csrRun .csrw (.long (.three x)) s)

/-- Sets bits of a special register (R352). -/
def execCsrs (x : Three) (s : State) : Host.Outcome State Fault Refusal :=
  .next (csrRun .csrs (.long (.three x)) s)

/-- Clears bits of a special register (R352). -/
def execCsrc (x : Three) (s : State) : Host.Outcome State Fault Refusal :=
  .next (csrRun .csrc (.long (.three x)) s)

end Sys2Proof.Machine
end

