-- ==== Sys2Proof/Machine/Memory.lean ====
section
/-! DEFINITION. Loads, stores, exchange, record and L1 control, fences and atomics (R304 to R319): addresses and checks of
each participant, then what goes to the scratchpad, to the record and onto the fabric. -/

namespace Sys2Proof.Machine

/-! ## Checks (R305, R306, R172, R173) -/

/-- Bytes of an access (R306). -/
def accessBytes (ty : BitVec 4) : Nat := tyWidth ty / 8

/-- The address space field of a stem: MOD of ld and st, else the rule of MOD 0 (R305). -/
def spaceOf (stem : Stem) (x : Three) : Nat :=
  match stem with
  | .ld | .st => x.mod.toNat
  | _ => 0

/-- The offset operand of a stem: none for cas, whose B is a value (R318). -/
def offsetOperand (stem : Stem) (x : Three) : Operand := if stem = .cas then .none else x.b

/-- Where a participant's access goes, and the poison of its address (R305). -/
def memTarget (stem : Stem) (x : Three) (s : State) (k : Nat) : Target × Bool :=
  effectiveAddress s k x.a (offsetOperand stem x) (spaceOf stem x)

/-- The permission a stem needs. -/
def memAccess (stem : Stem) : Access :=
  match stem with
  | .ld | .pref | .rinv | .accr => .read
  | _ => .write

/-- An atomic or a red, which have a scope of execution (R172). -/
def isAtomic (stem : Stem) : Bool := stem = .atom || stem = .cas || stem = .red

/-- A scope accepts the scratchpad (R172). -/
def acceptsPad (sc : Nat) : Bool := sc ≤ 1

/-- A scope accepts a page class (R172): Host only for sys. -/
def acceptsClass (sc cls : Nat) : Bool := sc == 0 || sc == 4 || (2 ≤ sc && cls != 4)

/-- The launch of a strand. -/
def strandLaunch (s : State) (k : Nat) : Launch := launchOf s (blockAt s (blockOf s k))

/-- The translation of a global address for a stem. -/
def memTranslate (stem : Stem) (s : State) (k va : Nat) : Trans :=
  translate s (some (coreOf k)) (strandLaunch s k) va (memAccess stem)

/-- The checks of one participant of ld, st, atom, cas and red (R306), but for poisoned data. -/
def memCheck (stem : Stem) (x : Three) (s : State) (k : Nat) : Verdict :=
  let n := accessBytes x.ty
  let (target, poison) := memTarget stem x s k
  let sc := x.sc.toNat
  let place : Verdict :=
    match target with
    | .scratch off =>
      let size := (blockAt s (blockOf s k)).padBytes
      ((Verdict.trapIf (off % (n : Int) != 0) .align).and
        (Verdict.trapIf (decide (off < 0) || decide ((size : Int) < off + n)) .xrange)).and
        (Verdict.trapIf (isAtomic stem && !acceptsPad sc) .scope)
    | .prot va =>
      ((Verdict.trapIf (va % n != 0) .align).and (Verdict.trapIf (isAtomic stem && sc == 1) .scope)).and (Verdict.trap .prot)
    | .global va =>
      let tr := memTranslate stem s k va
      let cls : Verdict := match tr.leaf with
        | some leaf =>
          (Verdict.trapIf (leaf.cls == 3) .prot).and
            (Verdict.trapIf (isAtomic stem && leaf.cls != 3 && !acceptsClass sc leaf.cls) .scope)
        | none => Verdict.ok
      ((Verdict.trapIf (va % n != 0) .align).and (Verdict.trapIf (isAtomic stem && sc == 1) .scope)).and
        ((tr.verdict va).and cls)
  ((Verdict.trapIf (rangeFails stem x s k) .regrange).and place).and (Verdict.poisonIf poison)

/-- Keep the translations that participants' accesses walked for. -/
def noteWalks (stem : Stem) (x : Three) (s : State) (ps : List Nat) : State :=
  ps.foldl (fun t k => match (memTarget stem x t k).1 with
    | .global va => fillTlb t (coreOf k) (strandLaunch t k) va
    | _ => t) s

/-! ## Requests for lines (R48, R52, R174) -/

/-- The slice a read goes to first (R52): the near slice for a Coherent or RO line of another tract, else the home. -/
def readSlice (s : State) (core line cls : Nat) : Nat :=
  if (cls == 0 || cls == 2) && tractOfPa (64 * line) != core / 128 then core / 4 else homeSlice s line

/-- A load may join a request that its core has on its way: one not yet served, or data of a whole line whose lease still
runs. A prefetch, which no waiter names, joins no request of another gang that a fenced die could yet refuse (R69). -/
def joinable (now : Nat) (r : ReadReq) : Msg → Bool
  | .read _ q => q.core == r.core && q.line == r.line && q.cls == r.cls && !q.stale && !q.l2only && (q.gang == r.gang || !r.waiters.isEmpty)
  | .data none q _ _ (some e) none => q.core == r.core && q.line == r.line && !q.stale && decide (now < e)
  | _ => false

/-- The same message with more waiters. -/
def joined (ws : List (Nat × Nat)) : Msg → Msg
  | .read q r => .read q { r with waiters := r.waiters ++ ws }
  | .data n r b p e m => .data n { r with waiters := r.waiters ++ ws } b p e m
  | m => m

/-- Ask for a line: join a request on its way, or send one (R48). A load that comes behind another of its strand of the same byte
joins none: its own request follows the other's (R177). -/
def requestLine (s : State) (r : ReadReq) (behind : Bool) : State :=
  match (if r.l2only || behind then none else s.net.find? fun m => joinable s.now r m.2) with
  | some m => { s with net := tset s.net m.1 (joined r.waiters m.2) }
  | none => post s (.read (readSlice s r.core r.line r.cls) r)

/-- The request of a strand's block for a line. -/
def lineRequest (s : State) (k pa cls hint : Nat) (l2only : Bool) (waiters : List (Nat × Nat)) : ReadReq :=
  let l := strandLaunch s k
  { core := coreOf k, line := pa / 64, cls := cls, lease := l.lease, age := s.now, part := l.part, ctx := l.record.ctx.toNat, near := none,
    l2only := l2only, block := blockOf s k, gang := (blockAt s (blockOf s k)).gang, hint := hint, stale := false, waiters := waiters }

/-- Send a message to the host. -/
def postHost (s : State) (m : Msg) : State := postFrom (countFrames s (hostPort s) true) none (hostPort s) m

/-! ## Values that come back -/

/-- The destination of a load, resolved when it issues (R153). -/
def destOf (s : State) (k : Nat) (o : Operand) : Dest :=
  match o with
  | .v i => .v i.toNat
  | .b i => .v ((strandAt s k).slotReg i.toNat)
  | .w i => .w i.toNat
  | _ => .none

/-- Write a value that came back into its destination (R280, R308), with the poison of its two halves (R132). -/
def writeDestP (s : State) (k : Nat) (ty : BitVec 4) (d : Dest) (bits : Nat) (poison : Bool × Bool) : State :=
  match d with
  | .none => s
  | .v i => writeVsP s k ty i bits poison
  | .w i => writeWs s k ty i bits (poison.1 || poison.2)

/-- Write a value that came back whole. -/
def writeDest (s : State) (k : Nat) (ty : BitVec 4) (d : Dest) (bits : Nat) (poison : Bool) : State :=
  writeDestP s k ty d bits (poison, poison)

/-- The value of bytes that came with their poison, and the poison of its two halves: each register is poisoned by the granules or
lines that it is written from (R132). -/
def bytesValue (bs : List (Byte × Bool)) : Nat × Bool × Bool :=
  (leNat (bs.map (·.1)), (bs.take 4).any (·.2), (bs.drop 4).any (·.2))

/-- A strand waits for the reply of a load or an atomic. -/
def addPending (s : State) (k : Nat) (p : PendingLoad) : State :=
  modStrand s k fun x => { x with loads := x.loads ++ [p] }

/-- What the record and the L1 give of an access (R174). -/
def nearBytes (s : State) (c pa n : Nat) (useL1 : Bool) : List (Option (Byte × Bool)) :=
  (List.range n).map fun i => nearByte s c (pa + i) useL1

/-- A load of a strand of some bytes has not returned: one of the same byte comes behind it (R177). -/
def loadsBehind (s : State) (k pa n : Nat) : Bool :=
  (loadsOf s k).any fun y => decide (pa < y.pa + accessBytes y.ty) && decide (y.pa < pa + n)

/-- The record would give a load of a strand a byte that an earlier load of the strand still awaits, from an entry that may drain before
that load is answered (R177, R178): the later load waits. -/
def recordPasses (s : State) (k pa n : Nat) : Bool :=
  (List.range n).any fun i => (loadsOf s k).any fun y =>
    decide (y.pa ≤ pa + i) && decide (pa + i < y.pa + accessBytes y.ty) && (y.known.getD (pa + i - y.pa) none).isNone &&
      match ((coreAt s (coreOf k)).record.filter fun e => e.line == (pa + i) / 64 && (tfind e.data ((pa + i) % 64)).isSome).getLast? with
      | some e => !e.loads.contains y.id
      | none => false

/-- The L1's copy of a line is older than what the loads of a strand have returned of some bytes (R177). -/
def l1Older (s : State) (k pa n : Nat) : Bool :=
  (coreAt s (coreOf k)).l1.any fun e => e.line == pa / 64 && (List.range n).any fun i => decide (e.born < tget (strandAt s k).seen (pa + i) 0)

/-- The L1 may serve a load of a strand (R171, R174): no Host-class one, nor, since loads of one strand to one byte never go
backwards (R177), one behind another of the same byte, or from a copy older than what the strand has returned. -/
def l1Serves (s : State) (k pa n cls : Nat) : Bool := cls != 4 && !loadsBehind s k pa n && !l1Older s k pa n

/-- The loads of a strand have returned some bytes of a content (R177). -/
def noteSeen (s : State) (k born : Nat) (pas : List Nat) : State :=
  modStrand s k fun x => { x with seen := pas.foldl (fun t a => tset t a (max born (tget t a 0))) x.seen }

/-- The L1 serves some bytes of a load of some strands of a core (R177, R383). -/
def takeL1 (s : State) (c : Nat) (ks : List Nat) (pa n : Nat) : State :=
  let mine := ((List.range n).map (pa + ·)).filter fun a => (l1Byte s c a).isSome
  match (coreAt s c).l1.find? fun e => e.line == pa / 64 with
  | some e => if mine.isEmpty then s else useL1 (ks.foldl (fun t k => noteSeen t k e.born mine) s) c (pa / 64)
  | none => s

/-- Load from global memory (R308): at once where the record and the L1 hold every byte, else by a request; for a strand and, with U,
its riders, none of whose loads goes backwards (R177). -/
def loadGlobal (s0 s : State) (x : Three) (k : Nat) (riders : List Nat) (pa cls : Nat) : State :=
  let n := accessBytes x.ty
  let near := (k :: riders).all fun j => l1Serves s0 j pa n cls
  let known := nearBytes s0 (coreOf k) pa n near
  let dest := destOf s0 k x.d
  let s := if near then takeL1 s (coreOf k) (k :: riders) pa n else s
  if known.all Option.isSome then
    writeDestP s k x.ty dest (bytesValue (known.map fun b => b.getD (0, false))).1 (bytesValue (known.map fun b => b.getD (0, false))).2
  else
    let (id, t) := fresh s
    let t := addPending t k { id := id, pa := pa, dest := dest, ty := x.ty, known := known, acquire := x.ord == 1, riders := riders }
    let r := lineRequest t k pa cls x.ch.toNat false [(k, id)]
    if cls = 4 then postHost t (.hostLoad pa r) else requestLine t r ((k :: riders).any fun j => loadsBehind s0 j pa n)

/-- Load from the scratchpad as it was before the bundle (R157). -/
def loadPad (s0 s : State) (x : Three) (k off : Nat) : State :=
  let bs := (List.range (accessBytes x.ty)).map fun i => loadPadByte s0 (blockOf s0 k) (off + i)
  writeDestP s k x.ty (destOf s0 k x.d) (bytesValue bs).1 (bytesValue bs).2

/-- Settle what the scratchpad accesses of some participants see of tiles that are being filled (R161). -/
def seeTargets (stem : Stem) (x : Three) (s : State) (ps : List Nat) : State :=
  ps.foldl (fun t k => match (memTarget stem x s k).1 with
    | .scratch off => seePad t (blockOf s k) off.toNat (accessBytes x.ty)
    | _ => t) s

/-- The strands that execute: each participant, or with U the first of each sheaf (R149). -/
def executors (x : Three) (ps : List Nat) : List Nat := if x.u then sheafLeaders ps else ps

/-- The other strands of the sheaf for which a participant executes an instruction with U (R149). -/
def ridersOf (x : Three) (ps : List Nat) (k : Nat) : List Nat := if x.u then (partOf ps (sheafOf k)).filter (· != k) else []

/-- ld of one of some participants. -/
def loadStrand (x : Three) (ps : List Nat) (s0 s : State) (k : Nat) : State :=
  match (memTarget .ld x s0 k).1 with
  | .scratch off => loadPad s0 s x k off.toNat
  | .global va =>
    match memTranslate .ld s0 k va with
    | .ok pa leaf => loadGlobal s0 s x k (ridersOf x ps k) pa leaf.cls
    | _ => s
  | .prot _ => s

/-- ld (R308). -/
def ldRun (code : Code) (s : State) : State :=
  let x := code.norm .ld
  executed s (runBundle s x.g code.len .read (memCheck .ld x) fun t _ ps =>
    let t := seeTargets .ld x t (executors x ps)
    advanceAll ((executors x ps).foldl (loadStrand x ps t) (noteWalks .ld x t ps)) code.len ps)

/-! ## Stores (R309, R310) -/

/-- A store that one strand makes: where, the bytes, their poison, and the replacement hint (R307). -/
structure StoreOp where
  strand : Nat
  target : Target
  pa : Nat
  cls : Nat
  bytes : List Byte
  poison : Bool
  hint : Nat
  deriving DecidableEq, Repr

/-- The store of a strand. -/
def storeOp (x : Three) (s : State) (k : Nat) : StoreOp :=
  let (v, poison) := valueAt .st x s k .d
  let target := (memTarget .st x s k).1
  let place := match target with
    | .global va => (memTranslate .st s k va).place
    | _ => none
  { strand := k, target := target, pa := (place.map (·.1)).getD 0, cls := (place.map (·.2.cls)).getD 0,
    bytes := leBytes (accessBytes x.ty) v, poison := poison, hint := x.ch.toNat }

/-- A store needs a new entry and finds the record at the limit (R310). -/
def storeBlocked (s : State) (b : Nat) (o : StoreOp) : Bool :=
  match o.target with
  | .global _ => recordFull s b (o.pa / 64)
  | _ => false

/-- Make a store for some participants, whose earlier loads hold its entry (R178); passed, the granules that copy commands have
passed before the bundle's stores (R389). -/
def applyStore (passed : List Nat) (riders : List Nat) (s : State) (b : Nat) (o : StoreOp) : State :=
  match o.target with
  | .scratch off => writePadBy passed s b off.toNat o.bytes o.poison
  | .global _ => recPut s b o.pa o.cls o.hint o.bytes o.poison (nub (riders.flatMap (loadIds s)))
  | .prot _ => s

/-- Stores in ascending lane order (R309): who finds the record at its limit, and everyone above, is Stalled (R310).
riders names the participants that retire with a store. -/
def storeAll (passed : List Nat) (len : Nat) (riders : Nat → List Nat) (b : Nat) (s : State) : List StoreOp → State
  | [] => s
  | o :: rest =>
    if storeBlocked s b o then
      let t := drainOldest s (b / 4)
      (o :: rest).foldl (fun t p => (riders p.strand).foldl (fun u k => setCond u k (.stalled .record)) t) t
    else storeAll passed len riders b (advanceAll (applyStore passed (riders o.strand) s b o) len (riders o.strand)) rest

/-- The granules of a block's scratchpad that some stores write. -/
def storeGranules (os : List StoreOp) : List Nat :=
  nub (os.flatMap fun o => match o.target with
    | .scratch off => granulesOf off.toNat o.bytes.length
    | _ => [])

/-- st (R309): the fence of rel is a condition of issue (R183, R315). The copy commands find the scratchpad as it was before the
bundle or as it is after, granule by granule (R389). -/
def stRun (code : Code) (s : State) : State :=
  let x := code.norm .st
  executed s (runBundle s x.g code.len .write (memCheck .st x) fun t b ps =>
    let riders (k : Nat) : List Nat := if x.u then partOf ps (sheafOf k) else [k]
    let os := (executors x ps).map (storeOp x t)
    let (passed, u) := passedGranules (noteWalks .st x t ps) b.block (storeGranules os)
    storeAll passed code.len riders b.block u os)

/-! ## Prefetch, exchange, record and L1 (R311 to R314) -/

/-- The line a prefetch fetches; none where it is dropped (R311). -/
def prefLine (x : Three) (s : State) (k : Nat) : Option (Nat × Nat) :=
  if rangeFails .pref x s k then none
  else match (memTarget .pref x s k).1 with
    | .global va =>
      match memTranslate .pref s k va with
      | .ok pa leaf => if leaf.cls = 0 || leaf.cls = 2 then some (pa, leaf.cls) else none
      | _ => none
    | _ => none

/-- A prefetch meets a fenced die: its page table lies there, or the line that nothing else drops (R306, R69, R311). -/
def prefFenced : Trans → Bool
  | .fenced none => true
  | .fenced (some leaf) => leaf.cls = 0 || leaf.cls = 2
  | _ => false

/-- What a prefetch may consume or meet: a poisoned address, a poisoned entry of its walk (R133), a fenced die (R306, R69); it traps
on nothing. -/
def prefCheck (x : Three) (s : State) (k : Nat) : Verdict :=
  if rangeFails .pref x s k then Verdict.ok
  else
    let (target, poison) := memTarget .pref x s k
    match target with
    | .global va =>
      let tr := memTranslate .pref s k va
      { Verdict.poisonIf (poison || tr == .poison) with fenced := prefFenced tr }
    | _ => Verdict.poisonIf poison

/-- pref of one strand. -/
def prefStrand (x : Three) (s : State) (k : Nat) : State :=
  match prefLine x s k with
  | some (pa, cls) =>
    let held := (l1Byte s (coreOf k) pa).isSome
    if x.mod = 0 && held then s
    else requestLine s (lineRequest s k pa cls x.ch.toNat (x.mod = 1) []) false
  | none => s

/-- pref (R311). -/
def prefRun (code : Code) (s : State) : State :=
  let x := code.norm .pref
  executed s (runBundle s x.g code.len .read (prefCheck x) fun t _ ps =>
    advanceAll (ps.foldl (prefStrand x) t) code.len ps)

/-- The checks of xst (R312): ALIGN before XRANGE; rank and offset are consumed if poisoned. -/
def xstCheck (x : Three) (s : State) (k : Nat) : Verdict :=
  let n := accessBytes x.ty
  let b := blockAt s (blockOf s k)
  let (rank, p1) := valueAt .xst x s k .a
  let (off, p2) := valueAt .xst x s k .b
  ((Verdict.trapIf (rangeFails .xst x s k) .regrange).and (Verdict.trapIf (off % n != 0) .align)).and
    ((Verdict.trapIf (decide ((gangAt s b.gang).size ≤ rank) || b.xBytes == 0 || decide (b.xBytes < off + n)) .xrange).and
      (Verdict.poisonIf (p1 || p2)))

/-- The members that a bundle's exchange stores name. -/
def xstRanks (x : Three) (s : State) (ps : List Nat) : List Nat := nub (ps.map fun k => (valueAt .xst x s k .a).1)

/-- xst (R312): one message for each member named, its stores in ascending lane order. -/
def xstRun (code : Code) (s : State) : State :=
  let x := code.norm .xst
  executed s (runBundle s x.g code.len .write (xstCheck x) fun t b ps =>
    let blk := blockAt t b.block
    let u := (xstRanks x t ps).foldl (fun u rank =>
      let writes := (ps.filter fun k => (valueAt .xst x t k .a).1 == rank).map fun k =>
        ((valueAt .xst x t k .b).1, leBytes (accessBytes x.ty) (valueAt .xst x t k .d).1, (valueAt .xst x t k .d).2)
      post u (.xst blk.gang rank writes blk.grank)) t
    advanceAll u code.len ps)

/-- rdrain (R313). -/
def rdrainRun (code : Code) (s : State) : State :=
  let x := code.norm .rdrain
  executed s (runBundle s x.g code.len .read (fun _ _ => Verdict.ok) fun t b ps =>
    advanceAll (if ps.isEmpty then t else drainBlock t b.block) code.len ps)

/-- The range of an rinv: start and length, read as i32 (R314), and the poison of its operands. -/
def rinvRange (x : Three) (s : State) (k : Nat) : Nat × Int × Bool :=
  let (a, p1) := readOperand s k 64 x.a
  let (n, p2) := readOffset s k x.b
  (a, signedOf ((n % (2 ^ 32 : Int)).toNat) 32, p1 || p2)

/-- The pages of an rinv's range: the address and length of the part of each page, by virtual address. -/
def rinvPages (start len : Nat) : List (Nat × Nat) :=
  let first := start / 2 ^ 16
  ((List.range ((start + len - 1) / 2 ^ 16 - first + 1)).map fun i =>
    let lo := max start ((first + i) * 2 ^ 16)
    (lo, min (start + len) ((first + i + 1) * 2 ^ 16) - lo)).filter fun p => p.1 < Config.windowBase

/-- The physical pages of an rinv's range: the address and length of the part of each page that can hold a copy. A page whose home
lies on a fenced die can (R69). -/
def rinvParts (s : State) (k start len : Nat) : List (Nat × Nat) :=
  (rinvPages start len).filterMap fun p => match memTranslate .rinv s k p.1 with
    | .ok pa _ => some (pa, p.2)
    | .fenced (some leaf) => some (leaf.base + p.1 % leaf.size, p.2)
    | _ => none

/-- What an rinv may consume or meet: poisoned operands, a poisoned page-table entry (R133), and a page table on a fenced die
(R69). -/
def rinvCheck (x : Three) (s : State) (k : Nat) : Verdict :=
  let (start, len, poison) := rinvRange x s k
  let walks := if len ≤ 0 || len > 262144 then [] else (rinvPages start len.toNat).map fun p => memTranslate .rinv s k p.1
  ((Verdict.trapIf (rangeFails .rinv x s k) .regrange).and (Verdict.poisonIf (poison || walks.contains .poison))).and
    { Verdict.ok with fenced := walks.contains (.fenced none) }

/-- rinv of one strand (R314). -/
def rinvStrand (x : Three) (s : State) (k : Nat) : State :=
  let (start, len, _) := rinvRange x s k
  if len ≤ 0 then s
  else if len > 262144 then dropL1 s (coreOf k) fun _ => true
  else
    let parts := rinvParts s k start len.toNat
    dropL1 s (coreOf k) fun line =>
      parts.any fun p => decide (64 * line < p.1 + p.2) && decide (p.1 < 64 * line + 64)

/-- rinv (R314). -/
def rinvRun (code : Code) (s : State) : State :=
  let x := code.norm .rinv
  executed s (runBundle s x.g code.len .read (rinvCheck x) fun t _ ps => advanceAll (ps.foldl (rinvStrand x) t) code.len ps)

/-! ## Fences (R315, R316) -/

/-- The scope a fence names: SC 0 means dev (R179). -/
def fenceScope (sc : BitVec 3) : Nat := if sc = 0 then 3 else sc.toNat

/-- fence (R315). -/
def fenceRun (code : Code) (s : State) : State :=
  let x := code.norm .fence
  executed s (runBundle s x.g code.len .read (fun _ _ => Verdict.ok) fun t _ ps =>
    advanceAll (ps.foldl (fun u k => startFence u k (fenceScope x.sc)) t) code.len ps)

/-- The count that a waitc waits for: 17 to 255 behave as 16 (R316). -/
def waitcCount : Operand → Nat
  | .imm i => min i.toNat 16
  | _ => 0

/-- waitc (R316): it issues once the sheaf's count is low enough. -/
def waitcRun (code : Code) (s : State) : State :=
  let x := code.norm .waitc
  executed s (runBundle s x.g code.len .read (fun _ _ => Verdict.ok) fun t _ ps =>
    advanceAll t code.len (ps.filter fun k => decide ((sheafAt t (sheafOf k)).copies ≤ waitcCount x.a)))

/-! ## Atomics and reductions (R317 to R319) -/

/-- The operation of a stem and MOD (R317). -/
def atomOpOf (stem : Stem) (x : Three) : AtomOp :=
  if stem = .cas then .cas
  else match x.mod.toNat with
    | 1 => .add
    | 2 => .exch
    | 3 => .min
    | 4 => .max
    | 5 => .and
    | 6 => .or
    | _ => .xor

/-- The new value of a location (R317, R319): old and c as bits of the type, expected for cas. -/
def atomNew (op : AtomOp) (ty : BitVec 4) (old c expected : Nat) : Nat :=
  let w := tyWidth ty
  let less : Bool := if tySigned ty then decide (signedOf c w < signedOf old w) else decide (c < old)
  match op with
  | .add => if ty = Ty.f32 then (fAdd f32 .rn old c).1 else (old + c) % 2 ^ w
  | .exch => c % 2 ^ w
  | .min => if less then c else old
  | .max => if less then old else c
  | .and => old &&& c
  | .or => old ||| c
  | .xor => old ^^^ c
  | .cas => if old = expected then c else old

/-- The element update of one participant. -/
def laneOp (stem : Stem) (x : Three) (s : State) (k pa : Nat) : LaneOp :=
  let data : Pos := if stem = .red then .d else .c
  let (c, p1) := valueAt stem x s k data
  let (e, p2) := if stem = .cas then valueAt stem x s k .b else (0, false)
  { strand := k, pa := pa, op := atomOpOf stem x, ty := x.ty, value := BitVec.ofNat 64 c, expected := BitVec.ofNat 64 e,
    poison := p1 || p2 }

/-- The value of bytes with their poison, of a scratchpad location. -/
def padValue (s : State) (b off n : Nat) : Nat × Bool :=
  let bs := (List.range n).map fun i => readPad s b (off + i)
  (leNat (bs.map (·.1)), bs.any (·.2))

/-- The operand of a lane of a bundle is poisoned, or in an integer fetch-and-add, which the core combines, that of any lane at
the same scratchpad offset (R133, R186). -/
def combinedBad (stem : Stem) (x : Three) (s : State) (ps : List Nat) (k off : Nat) : Bool :=
  (laneOp stem x s k off).poison ||
    (atomOpOf stem x == .add && !tyFloat x.ty && ps.any fun j =>
      (memTarget stem x s j).1 == .scratch off && (laneOp stem x s j off).poison)

/-- An atomic or red of blk scope at the block's banks (R172, R185): applied in lane order; it poisons what it writes if
its operand or its target was poisoned. It is no scratchpad store that an armed error strikes (DESIGN CHOICE, log 39: R353). -/
def atomicPad (stem : Stem) (x : Three) (ps : List Nat) (s0 s : State) (k off : Nat) : State :=
  let n := accessBytes x.ty
  let b := blockOf s0 k
  let o := laneOp stem x s0 k off
  let bs := (List.range n).map fun i => loadPadByte s b (off + i)
  let old := leNat (bs.map (·.1))
  let bad := bs.any (·.2) || combinedBad stem x s0 ps k off
  let t := putPad s b off (leBytes n (atomNew o.op o.ty old o.value.toNat o.expected.toNat)) bad
  if stem = .red then t else writeDest t k x.ty (destOf s0 k x.d) old bad

/-- The physical place of a participant's global access. -/
def globalPlace (stem : Stem) (x : Three) (s : State) (k : Nat) : Option (Nat × Leaf) :=
  match (memTarget stem x s k).1 with
  | .global va => (memTranslate stem s k va).place
  | _ => none

/-- Send the lanes of a bundle that address one line (R184, R186, R188): one message, one completion time. A Host line
goes to the host, as a transport atomic. The core's copy of an NC line is dropped as the message leaves (R187 gives no moment: DESIGN
CHOICE, log 50). -/
def sendLine (stem : Stem) (x : Three) (s0 : State) (b : Nat) (ps : List Nat) (s : State) (line : Nat) : State :=
  let mine := ps.filterMap fun k => match globalPlace stem x s0 k with
    | some (pa, leaf) => if pa / 64 = line then some (k, pa, leaf.cls) else none
    | none => none
  match mine with
  | [] => s
  | (_, pa, cls) :: _ =>
    let (id, t) := fresh s
    let ops := mine.map fun m => laneOp stem x s0 m.1 m.2.1
    let t := modBlock t b fun y =>
      { y with ops := y.ops ++ [{ id := id, kind := if cls = 4 then .host else if stem = .red then .red else .atomic, sourceRead := true, count := 1 }] }
    let t := if cls = 1 && stem != .red then dropL1 t (b / 4) (· == line) else t
    let t := if stem = .red then t else mine.foldl (fun u m => addPending u m.1
      { id := id, pa := m.2.1, dest := destOf s0 m.1 x.d, ty := x.ty, known := [], acquire := false }) t
    if cls = 4 then postHost t (.hostOp b ops id (stem != .red))
    else if stem = .red then post t (.red (homeSlice t (pa / 64)) (.op b id) ops t.now cls)
    else post t (.atomic (homeSlice t (pa / 64)) b ops id t.now cls none)

/-- The scope of execution of a participant (R172). -/
def scopeOf (x : Three) (s : State) (stem : Stem) (k : Nat) : Nat :=
  if x.sc != 0 then x.sc.toNat
  else match (memTarget stem x s k).1 with
    | .scratch _ => 1
    | .global va => match memTranslate stem s k va with
      | .ok _ leaf => if leaf.cls = 4 then 4 else 3
      | _ => 3
    | .prot _ => 3

/-- atom, cas and red (R318, R319): scratchpad lanes at once in lane order, the others line by line; atom and cas close with
a fence of their scope. -/
def atomicRun (stem : Stem) (code : Code) (s : State) : State :=
  let x := code.norm stem
  executed s (runBundle s x.g code.len .write (memCheck stem x) fun t b ps =>
    let t := seeTargets stem x t ps
    let u := ps.foldl (fun u k => match (memTarget stem x t k).1 with
      | .scratch off => atomicPad stem x ps t u k off.toNat
      | _ => u) (noteWalks stem x t ps)
    let lines := nub (ps.filterMap fun k => (globalPlace stem x t k).map fun p => p.1 / 64)
    let u := lines.foldl (sendLine stem x t b.block ps) u
    let u := if stem = .red then u else ps.foldl (fun v k => startFence v k (scopeOf x t stem k)) u
    advanceAll u code.len ps)

/-! ## The meanings -/

/-- One-word generic or global b32 load (R308). -/
def execLd (x : Short) (s : State) : Host.Outcome State Fault Refusal :=
  .next (ldRun (.short x) s)

/-- Load with scratchpad space, other type, acquire, scope or hint (R308). -/
def execLdW (x : Long) (s : State) : Host.Outcome State Fault Refusal :=
  .next (ldRun (.long x) s)

/-- One-word generic or global b32 store through the record (R309). -/
def execSt (x : Short) (s : State) : Host.Outcome State Fault Refusal :=
  .next (stRun (.short x) s)

/-- Store with scratchpad space, other type, release, scope or hint (R309). -/
def execStW (x : Long) (s : State) : Host.Outcome State Fault Refusal :=
  .next (stRun (.long x) s)

/-- One-word prefetch into L1 or a slice (R311). -/
def execPref (x : Short) (s : State) : Host.Outcome State Fault Refusal :=
  .next (prefRun (.short x) s)

/-- Prefetch with a hint or imm9 offset (R311). -/
def execPrefW (x : Long) (s : State) : Host.Outcome State Fault Refusal :=
  .next (prefRun (.long x) s)

/-- One-word b32 exchange store to a member's shadow bank (R312). -/
def execXst (x : Short) (s : State) : Host.Outcome State Fault Refusal :=
  .next (xstRun (.short x) s)

/-- Exchange store of b64 or with other operand kinds (R312). -/
def execXstW (x : Long) (s : State) : Host.Outcome State Fault Refusal :=
  .next (xstRun (.long x) s)

/-- Starts every open record entry of the block draining (R313). -/
def execRdrain (x : Code) (s : State) : Host.Outcome State Fault Refusal :=
  .next (rdrainRun x s)

/-- One-word drop of the core's L1 copies over a range (R314). -/
def execRinv (x : Short) (s : State) : Host.Outcome State Fault Refusal :=
  .next (rinvRun (.short x) s)

/-- L1 invalidate with imm9 or literal length (R314). -/
def execRinvW (x : Long) (s : State) : Host.Outcome State Fault Refusal :=
  .next (rinvRun (.long x) s)

/-- One-word fence of default (dev) scope (R315). -/
def execFence (x : Short) (s : State) : Host.Outcome State Fault Refusal :=
  .next (fenceRun (.short x) s)

/-- Fence of scope blk, quad, dev or sys (R315). -/
def execFenceW (x : Long) (s : State) : Host.Outcome State Fault Refusal :=
  .next (fenceRun (.long x) s)

/-- One-word wait for the sheaf's copy count to fall to at most 0 to 31 (R316). -/
def execWaitc (x : Short) (s : State) : Host.Outcome State Fault Refusal :=
  .next (waitcRun (.short x) s)

/-- Copy wait with count 32 to 255 (R316). -/
def execWaitcW (x : Long) (s : State) : Host.Outcome State Fault Refusal :=
  .next (waitcRun (.long x) s)

/-- Returning atomic between leading and trailing fences; three-word only (R318). -/
def execAtom (x : Three) (s : State) : Host.Outcome State Fault Refusal :=
  .next (atomicRun .atom (.long (.three x)) s)

/-- Compare-and-swap between fences; three-word only (R318). -/
def execCas (x : Three) (s : State) : Host.Outcome State Fault Refusal :=
  .next (atomicRun .cas (.long (.three x)) s)

/-- One-word i32 add reduction sent without fences (R319). -/
def execRed (x : Short) (s : State) : Host.Outcome State Fault Refusal :=
  .next (atomicRun .red (.short x) s)

/-- Reduction with other operation, type or scope (R319). -/
def execRedW (x : Long) (s : State) : Host.Outcome State Fault Refusal :=
  .next (atomicRun .red (.long x) s)

end Sys2Proof.Machine
end

