-- ==== Sys2Proof/Machine/Slice.lean ====
section
/-! DEFINITION. The slices (R48 to R63, R70 to R73): horizons, ways, directory, fan-outs, admission of requests, and line
writes with their parity deltas. -/

namespace Sys2Proof.Machine

/-! ## Ways (R70 to R72) -/

/-- The ways of a 16-bit mask. -/
def waysOf (mask : Nat) : List Nat := (List.range 16).filter fun i => mask.testBit i

/-- The cache-mode ways of a slice with some ways in abacus mode: the lowest ones (log 15). -/
def cacheMask (abacus : Nat) : Nat := 2 ^ (16 - abacus) - 1

/-- The cache-way mask of a context (R70, R94), none while the slice's arrays are gated (R73). -/
def wayMask (s : State) (q part ctx : Nat) : Nat :=
  if (quadAt s q).gated then 0 else tget (partAt s part).masks ctx (cacheMask (partAt s part).ways)

/-- The abacus allowance of a context (R70, R94). -/
def allowance (s : State) (part ctx : Nat) : Nat := tget (partAt s part).allowances ctx (partAt s part).ways

/-- Lines of one way of a slice of 8 MiB in 16 ways (R142), which is also its number of sets. -/
def sliceSets : Nat := 8192

/-- The set of a line (log 15). -/
def setOf (line : Nat) : Nat := line % sliceSets

/-- What a slice's ways hold of a line. -/
def slotOf (s : State) (q line : Nat) : Option SliceCopy := (quadAt s q).copies.find? fun c => c.line == line

/-! ## Horizons (R48, R49) -/

/-- Hret of a position that a slice took over, until DT passes it (R65). -/
def takenOver (s : State) (q line : Nat) : Nat :=
  (((quadAt s q).takeover.filter fun p => p.1 == 32 * tractOfPa (64 * line) + positionOf line && decide (s.now < p.2)).map (·.2)).foldl
    max 0

/-- The horizon of a line at a slice (R49, R65). Of a line with no recorded grant it is Hfloor, also where a way holds the line
and Hfloor rises later (DESIGN CHOICE, log 15). -/
def horizonOf (s : State) (q line : Nat) : Nat :=
  max (tget (quadAt s q).horizons line (quadAt s q).hfloor) (takenOver s q line)

/-- The horizon table holds 4,096 entries, in sets of 8, of lines that no way holds (R49). A set with one more gives up the one with
the smallest horizon (log 15), folded into Hfloor. -/
def capHorizons (line : Nat) (x : Quad) : Quad :=
  let loose := x.horizons.filter fun p => p.1 % 512 == line % 512 && !(x.copies.any fun c => c.line == p.1)
  if loose.length ≤ 8 then x
  else match loose.foldl (fun (m : Option (Nat × Nat)) p => match m with
      | some n => if p.2 < n.2 then some p else m
      | none => some p) none with
    | some p => { x with horizons := terase x.horizons p.1, hfloor := max x.hfloor p.2 }
    | none => x

/-- Raise the horizon of a line at a slice. -/
def raiseHorizon (s : State) (q line h : Nat) : State :=
  let old := horizonOf s q line
  if h ≤ old then s
  else modQuad s q fun x => capHorizons line { x with horizons := tset x.horizons line h }

/-! ## Privatisation (R57 to R59) -/

/-- The largest horizon of a tracker. -/
def Tracker.top (t : Tracker) : Nat := t.cores.foldl (fun m c => max m c.2.2) t.hpre

/-- Privatisation ends (R59): H takes every tracked horizon. -/
def endTracker (s : State) (line : Nat) : State :=
  match (homeAt s line).tracker with
  | some t => modHome (raiseHorizon s (homeSlice s line) line t.top) line fun h => { h with tracker := none }
  | none => s

/-- Another tracked core's mask holds one of some bytes. -/
def Tracker.clash (t : Tracker) (core : Nat) (bytes : List Nat) : Bool :=
  t.cores.any fun c => c.1 != core && bytes.any fun i => c.2.1.contains i

/-- A core's access joins the tracker, where privatisation goes on (R57, R59). -/
def Tracker.join (t : Tracker) (core : Nat) (bytes : List Nat) : Option Tracker :=
  if t.clash core bytes then none
  else if t.cores.any fun c => c.1 == core then
    some { t with cores := t.cores.map fun c =>
      if c.1 == core then (c.1, c.2.1 ++ bytes.filter (fun i => !c.2.1.contains i), c.2.2) else c }
  else if t.cores.length < 4 then some { t with cores := t.cores ++ [(core, bytes, 0)] }
  else none

/-- An access by a core to a privatised line: it joins, or privatisation ends (R59). -/
def touchTracker (s : State) (line core : Nat) (bytes : List Nat) : State :=
  match (homeAt s line).tracker with
  | none => s
  | some t => match t.join core bytes with
    | some u => modHome s line fun h => { h with tracker := some u }
    | none => endTracker s line

/-- Trackers in use at a slice. -/
def trackersUsed (s : State) (q : Nat) : Nat :=
  s.homes.countP fun p => p.2.tracker.isSome && homeSlice s p.1 == q

/-- Another core holds an unexpired lease on a line: in its L1, or on its way (R57). -/
def leasedElsewhere (s : State) (line core : Nat) : Bool :=
  (s.cores.any fun p => p.1 != core && p.2.l1.any fun e => e.line == line && e.expiry.any fun x => decide (s.now < x)) ||
    s.net.any fun p => match p.2 with
      | .data _ r _ _ (some x) _ => r.line == line && r.core != core && decide (s.now < x)
      | _ => false

/-- A drain of bytes by a core privatises the line where R57 says so. -/
def startTracker (s : State) (line core : Nat) (bytes : List Nat) : State :=
  let h := homeAt s line
  let q := homeSlice s line
  if h.tracker.isNone && h.dir == .empty && leasedElsewhere s line core && decide (trackersUsed s q < 256) then
    modHome s line fun x => { x with tracker := some { hpre := horizonOf s q line, cores := [(core, bytes, 0)] } }
  else s

/-- Hall of a write by a core at the home before any acknowledgement (R50, R58). -/
def hallOf (s : State) (line core : Nat) (bytes : List Nat) : Nat :=
  match (homeAt s line).tracker with
  | some t => (t.cores.filter fun c => c.1 != core && bytes.any fun i => c.2.1.contains i).foldl (fun m c => max m c.2.2) t.hpre
  | none => horizonOf s (homeSlice s line) line

/-! ## Filling and leaving ways -/

/-- A recall removes the redirect entries of a line on a helper's die, before the helper acknowledges it; those on their way are not
installed (R62). -/
def dropRedirects (s : State) (helper line : Nat) : State :=
  dropMsgs { s with quads := s.quads.map fun p =>
      if p.1 / 64 == helper / 64 then (p.1, { p.2 with redirects := p.2.redirects.filter fun r => r.1 != line }) else p }
    fun _ m => match m with
      | .redirect l _ q | .unredirect l _ q => l == line && q / 64 == helper / 64
      | _ => false

/-- A helper sends a message about its redirect entries to every quad of its die. -/
def tellDie (s : State) (helper : Nat) (m : Nat → Msg) : State :=
  (List.range 64).foldl (fun u i => postFrom u (some (helper / 64)) none (m (helper / 64 * 64 + i))) s

/-- What follows when a line leaves a way (R52, R59, R61): a homed line ends its privatisation; of a loan the redirect entries are
to go, and it is returned. -/
def leaveWay (s : State) (q : Nat) (c : SliceCopy) : State :=
  let t := modQuad s q fun x => capHorizons c.line { x with copies := x.copies.filter fun e => e.line != c.line }
  match c.kind with
  | .homed => endTracker t c.line
  | .near => t
  | .loan => post (tellDie t q fun i => .unredirect c.line q i) (.loanReturn c.line q (horizonOf s q c.line))

/-- The way a fill takes in a set (R70): a free way of the mask, else the least recently used one; of the lines there a stream
line goes first, and a keep line for a keep fill alone (R307). None where no line may go. -/
def victimWay (x : Quad) (set : Nat) (ways : List Nat) (hint : Nat) : Option (Nat × Option SliceCopy) :=
  let mine := x.copies.filter fun c => setOf c.line == set
  let here (w : Nat) : Option SliceCopy := mine.find? fun c => c.way == w
  match ways.find? fun w => (here w).isNone with
  | some w => some (w, none)
  | none =>
    let held := ways.filterMap fun w => (here w).map fun c => (w, c)
    let free := held.filter fun p => hint == 2 || p.2.hint != 2
    let first := free.filter fun p => p.2.hint == 1
    (if first.isEmpty then free else first).foldl (fun (m : Option (Nat × Option SliceCopy)) p => match m with
      | some (_, some d) => if p.2.used < d.used then some (p.1, some p.2) else m
      | _ => some (p.1, some p.2)) none

/-- What a copy that a slice holds becomes with a fill of the same line: it keeps its way and the hint it was installed with (DEDUCED,
log 15), and a loan stays a loan, which a near copy's bytes only repeat (R61). -/
def SliceCopy.refill (old c : SliceCopy) : SliceCopy :=
  if old.kind == .loan && c.kind == .near then { old with used := c.used } else { c with way := old.way, hint := old.hint }

/-- A fill into the ways of a mask (R70, R72): none with an empty mask. -/
def fillWay (s : State) (q mask : Nat) (c : SliceCopy) : State :=
  match slotOf s q c.line with
  | some old => modQuad s q fun x => { x with copies := x.copies.map fun e => if e.line == c.line then old.refill c else e }
  | none =>
    match victimWay (quadAt s q) (setOf c.line) (waysOf mask) c.hint with
    | none => s
    | some (w, v) =>
      let t := match v with | some d => leaveWay s q d | none => s
      modQuad t q fun x => { x with copies := { c with way := w } :: x.copies }

/-- A served line has been used. -/
def useWay (s : State) (q line : Nat) : State :=
  modQuad s q fun x => { x with copies := x.copies.map fun e => if e.line == line then { e with used := s.now } else e }

/-- For whom a home keeps a line, and with which replacement hint (R307). -/
structure Keeper where
  part : Nat
  ctx : Nat
  hint : Nat
  deriving DecidableEq, Repr

/-- The home keeps a line it served in its L2 (R72). The copy belongs to the context that used it last, also where that context's
mask lacks its way (DESIGN CHOICE, log 15). -/
def keepHomed (s : State) (q line : Nat) (k : Keeper) : State :=
  fillWay s q (wayMask s q k.part k.ctx)
    { line := line, kind := .homed, part := k.part, ctx := k.ctx, way := 0, used := s.now, bytes := [], poison := false, hint := k.hint }

/-- The home serves a line that it keeps for some access, or for none: then a copy that it has is used (log 15). -/
def serveWay (s : State) (q line : Nat) : Option Keeper → State
  | some k => keepHomed s q line k
  | none => useWay s q line

/-- A read's (R311). -/
def ReadReq.keeper (r : ReadReq) : Keeper := { part := r.part, ctx := r.ctx, hint := r.hint }

/-- A drained entry's: its launch, and the hint of its newest store (DESIGN CHOICE, log 15). -/
def RecEntry.keeper (s : State) (e : RecEntry) : Keeper :=
  { part := e.part, ctx := (launchAt s (2 ^ 32 * e.part + e.launch)).record.ctx.toNat, hint := e.hint }

/-! ## The directory (R53, R54) -/

/-- The slices that an entry's invalidations reach (R53). -/
def Directory.slices : Directory → List Nat
  | .empty => []
  | .exact qs => qs
  | .coarse ts => ts.flatMap fun t => (List.range 32).map (32 * t + ·)

/-- An entry with one more holder (R53). -/
def Directory.add (d : Directory) (q : Nat) : Directory :=
  match d with
  | .empty => .exact [q]
  | .exact qs =>
    if qs.contains q then d
    else if qs.length < 4 then .exact (qs ++ [q])
    else .coarse (nub ((qs ++ [q]).map (· / 32)))
  | .coarse ts => if ts.contains (q / 32) then d else .coarse (ts ++ [q / 32])

/-- The set of a line in a slice's directory of 16,384 entries in 8 ways (R53, log 15). -/
def directorySet (line : Nat) : Nat := line % 2048

/-! ## Completion times and fan-outs (R50, R53, R62, R68) -/

/-- The home of a line sends a completion time to whom it is for. -/
def sendC (s : State) (line : Nat) (n : Notify) (c : Nat) : State :=
  match n with
  | .nobody => s
  | n => postFrom s (some (homeSlice s line / 64)) none (.ctl n c)

/-- The home fixes a completion time and raises H (R50). -/
def fixC (s : State) (line tarr hall : Nat) (snp : Bool) (n : Notify) : State :=
  let tcol := if snp then s.now - tarr else 0
  sendC (raiseHorizon s (homeSlice s line) line hall) line n (max tarr hall + tcol + 1)

/-- Invalidate every holder of a line (R50), and recall every loan where it is written (R62; an entry that is given up or rebuilt
leaves the loans, R54, R67); then fix its completion time: at once where there is none to wait for. resume names a request that waits
for the directory entry (R54). Slices of a fenced die are not waited for (R68). -/
def fanOut (s : State) (line hall : Nat) (n : Notify) (resume : Option Nat) (recalls : Bool) : State :=
  let h := homeAt s line
  let reached (q : Nat) : Bool := !(dieAt s (q / 64)).fenced
  let near := h.dir.slices.filter reached
  let loans := if recalls then h.loans.filter reached else []
  let kept := if recalls then [] else h.loans
  let t := modQuad s (homeSlice s line) fun x => { x with directory := x.directory.filter (· != line) }
  let t := modHome t line fun x => { x with dir := .empty, loans := kept }
  if near.isEmpty && loans.isEmpty then fixC t line s.now hall false n
  else
    let t := near.foldl (fun t q => post t (.inval line q)) t
    let t := loans.foldl (fun t q => post t (.recall line q)) t
    modHome t line fun x =>
      { x with txn := some { tarr := s.now, missing := near ++ loans, hall := hall, snp := true,
                             deadline := s.now + Config.snpTicks, notify := n, resume := resume, holds := none } }

/-- The transaction of a line whose request waits for a directory entry (R54, R55). -/
def heldTxn (now id : Nat) : Txn :=
  { tarr := now, missing := [], hall := 0, snp := false, deadline := now, notify := .nobody, resume := none, holds := some id }

/-- The fan-out of a line has every acknowledgement (R50). A read of this line that waited for it is next (R55). -/
def endFanOut (s : State) (line : Nat) (x : Txn) : State :=
  let next : Option Txn := x.resume.bind fun id => match tfind s.net id with
    | some (.read _ r) => if r.line == line then some (heldTxn s.now id) else none
    | _ => none
  modHome (fixC s line x.tarr x.hall x.snp x.notify) line fun h => { h with txn := next }

/-- A request adds a near slice to a line's entry. A full set gives up its least recently used entry first: the request then
waits (R54) with its own line held for it (R55), and the answer is none. -/
def addHolder (s : State) (line near id : Nat) : Option State × State :=
  let q := homeSlice s line
  let x := quadAt s q
  let fresh := (homeAt s line).dir == .empty
  let here := x.directory.filter fun l => directorySet l == directorySet line
  match (if fresh && 8 ≤ here.length then here.find? fun l => (homeAt s l).txn.isNone else none) with
  | some victim =>
    (none, modHome (fanOut s victim (horizonOf s q victim) .nobody (some id) false) line fun h => { h with txn := some (heldTxn s.now id) })
  | none =>
    let t := modHome s line fun h => { h with dir := h.dir.add near }
    let t := modQuad t q fun y => { y with directory := y.directory.filter (· != line) ++ [line] }
    (some t, t)

/-! ## Line writes (R42 to R44) -/

/-- Send the parity delta of a line's row (R42): 64 bytes, and the change of the poison bit. -/
def sendDelta (s : State) (line : Nat) (delta : List Byte) : State := post s (.parity line delta)

/-! ### Abacus pages (R338, R339) -/

/-- Bytes of an Abacus page. -/
def abacusPage : Nat := 65536
/-- Element lines of a page. -/
def abacusLines : Nat := 992
/-- Page offset of the status area. -/
def statusArea : Nat := 0xF800

/-- The address of a line's status halfword (R338). -/
def statusAddr (line : Nat) : Nat :=
  let page := 64 * line / abacusPage * abacusPage
  page + statusArea + 2 * (line % 1024)

/-- The line that holds a line's status. -/
def statusLine (line : Nat) : Nat := statusAddr line / 64

/-- The resident entry of a line at its home. -/
def residentOf (s : State) (line : Nat) : Option Resident :=
  (quadAt s (homeSlice s line)).resident.find? fun e => e.line == line

/-- The line's poison bit as memory keeps it changes, and with it the parity of its row's bits (R42, R131), but on a line that
failed channels have taken (R44). -/
def setBad (s : State) (line : Nat) (bad : Bool) : State :=
  if lineLost s line || s.badLines.contains line == bad then s
  else sendDelta { s with badLines := if bad then sinsert line s.badLines else sremove line s.badLines } line (List.replicate 64 0 ++ [1])

/-- Bytes replace those of a resident abacus line (R338): its page takes them when it is spilled, an element that is replaced
whole by clean bytes is clean (R129), and clean bytes of all 64 clear the line's poison bit (R131). -/
def writeElements (s : State) (line : Nat) (data : Tab Byte) (poison : Bool) : State × List MemEffect :=
  let mine (i : Nat) : List Bool := (List.range 8).map fun j => (tfind data (8 * i + j)).isSome
  let t := modQuad s (homeSlice s line) fun x => { x with resident := x.resident.map fun e =>
    if e.line == line then
      { e with poison := (List.range 8).filter fun i =>
          if poison && (mine i).any id then true else if (mine i).all id then false else e.poison.contains i }
    else e }
  (if 64 ≤ data.length && !poison then setBad t line false else t, data.map fun p => .store (64 * line + p.1) [p.2])

/-- A slice keeps a byte of a line in an abacus way, and the stack an older one (R338, R339): the status of a resident line. -/
def keptByte (s : State) (line i : Nat) : Bool :=
  s.quads.any fun p => p.2.resident.any fun e => (statusAddr e.line) / 2 == (64 * line + i) / 2

/-- Write bytes of a line, by their offset, at its home (R42, R131): a poisoned write sets the line's poison, a clean write of
all 64 bytes clears it; a line that R44 has taken keeps its poison and discards the data. Those of an abacus line that a slice holds
change its copy (R338); the stack takes that when it is spilled. -/
def writeLine (s : State) (line : Nat) (data : Tab Byte) (poison : Bool) : State × List MemEffect :=
  if lineLost s line then (s, [])
  else if (residentOf s line).isSome then writeElements s line data poison
  else
    let old := lineBytes s line
    let bad := s.badLines.contains line
    let new := poison || (bad && data.length < 64)
    let delta := (old.zipIdx.map fun p => if keptByte s line p.2 then 0 else p.1 ^^^ ((tfind data p.2).getD p.1)) ++
      [if bad != new then (1 : Byte) else 0]
    let t := { s with badLines := if new then sinsert line s.badLines else sremove line s.badLines }
    (sendDelta t line delta, data.map fun p => .store (64 * line + p.1) [p.2])

/-! ## Colliding requests (R55, R56, R64, R66, R69) -/

/-- What a request at a slice is: slice, line, age, agent (R47), and the gang it comes from. -/
structure Request where
  slice : Nat
  line : Nat
  age : Nat
  agent : Nat
  gang : Option Nat
  deriving DecidableEq, Repr

/-- The agent behind a completion notice (R47). -/
def Notify.agent : Notify → Nat
  | .op b _ => agentCore (b / 4)
  | .engine b _ => agentCopy (b / 4)
  | .deliveries bs _ => agentMatrix (bs.headD 0 / 16)
  | .entry core _ => agentCore core
  | _ => agentPort 0

/-- The gang that an operation under way belongs to: its block's, or that of a block that has left its core. -/
def opGang (s : State) (b id : Nat) : Option Nat :=
  if (blockAt s b).ops.any fun o => o.id == id then some (blockAt s b).gang
  else (s.gangs.find? fun p => p.2.ops.any fun o => o.id == id).map (·.1)

/-- The gang that a notice's operation belongs to. -/
def Notify.gang (s : State) : Notify → Option Nat
  | .op b id | .engine b id => opGang s b id
  | .deliveries bs id => bs.head?.bind fun b => opGang s b id
  | _ => none

/-- The gang of a copy command on a core. -/
def copyGang (s : State) (core op : Nat) : Option Nat :=
  ((coreAt s core).queue.find? fun c => c.op == op).map fun c => (blockAt s c.block).gang

/-- The keeper of a line that the copy engine installs for a gang (R307; DESIGN CHOICE, log 15: the lines it reads and writes). -/
def gangKeeper (s : State) (g hint : Nat) : Keeper :=
  { part := (gangAt s g).part, ctx := (launchAt s (gangAt s g).launchKey).record.ctx.toNat, hint := hint }

/-- That of the source of a copy command on a core. -/
def copyKeeper (s : State) (core op : Nat) : Option Keeper :=
  ((coreAt s core).queue.find? fun c => c.op == op).map fun c => gangKeeper s (blockAt s c.block).gang c.hint

/-- The hint of an operation under way. -/
def opHint (s : State) (b id : Nat) : Nat :=
  match (blockAt s b).ops.find? fun o => o.id == id with
  | some o => o.hint
  | none => ((s.gangs.findSome? fun p => p.2.ops.find? fun o => o.id == id).map (·.hint)).getD 0

/-- That of what the copy engine writes or adds to at a home; what strands and the host send there installs no line. -/
def Notify.keeper (s : State) : Notify → Option Keeper
  | .engine b id => (opGang s b id).map fun g => gangKeeper s g (opHint s b id)
  | _ => none

/-- The request that a message is. -/
def requestOf (s : State) : Msg → Option Request
  | .read q r => some ⟨q, r.line, r.age, agentCore r.core, if r.waiters.isEmpty then none else some r.gang⟩
  | .drain q core e age => some ⟨q, e.line, age, agentCore core, some e.gang⟩
  | .atomic q b ops id age _ _ =>
    some ⟨q, (ops.headD ⟨0, 0, .add, 0, 0, 0, false⟩).pa / 64, age, agentCore (b / 4), opGang s b id⟩
  | .red q n ops age _ =>
    some ⟨q, (ops.headD ⟨0, 0, .add, 0, 0, 0, false⟩).pa / 64, age, n.agent, n.gang s⟩
  | .abacus q line _ n age _ _ => some ⟨q, line, age, n.agent, n.gang s⟩
  | .engineWrite q line _ _ n age _ => some ⟨q, line, age, n.agent, n.gang s⟩
  | .engineRead q line core op _ age _ => some ⟨q, line, age, agentCopy core, copyGang s core op⟩
  | .rmaWrite q line _ tag age => some ⟨q, line, age, agentPort ((rmaPort s tag).getD 0), none⟩
  | .rmaRead q line tag age => some ⟨q, line, age, agentPort ((rmaPort s tag).getD 0), none⟩
  | .portAtomic q pa _ _ _ _ tag age => some ⟨q, pa / 64, age, agentPort ((rmaPort s tag).getD 0), none⟩
  | _ => none

/-- The same message at another slice, the newer map's (R66). -/
def readdress (q : Nat) : Msg → Msg
  | .read _ r => .read q r
  | .drain _ core e age => .drain q core e age
  | .atomic _ b ops id age cls tail => .atomic q b ops id age cls tail
  | .red _ n ops age cls => .red q n ops age cls
  | .abacus _ line op n age p c => .abacus q line op n age p c
  | .engineWrite _ line d po n age cls => .engineWrite q line d po n age cls
  | .engineRead _ line core op v age cls => .engineRead q line core op v age cls
  | .rmaWrite _ line d tag age => .rmaWrite q line d tag age
  | .rmaRead _ line tag age => .rmaRead q line tag age
  | .portAtomic _ pa op ty v e tag age => .portAtomic q pa op ty v e tag age
  | m => m

/-- Older, by age and then agent number (R55). -/
def older (x y : Nat × Nat) : Bool := x.1 < y.1 || (x.1 == y.1 && x.2 < y.2)

/-- The oldest of some requests. -/
def oldest (l : List (Nat × Nat)) : Option (Nat × Nat) :=
  l.foldl (fun m x => match m with
    | some y => if older x y then some x else m
    | none => some x) none

/-- A refused request is recorded where R56 lets it be. -/
def recordRetry (x : Quad) (r : Nat × Nat) : Quad :=
  if x.retry.contains r then x
  else if x.retry.length < 16 then { x with retry := x.retry ++ [r] }
  else match x.retry.foldl (fun (m : Option (Nat × Nat)) y => match m with
      | some z => if older z y then some y else m
      | none => some y) none with
    | some y => if older r y then { x with retry := x.retry.filter (· != y) ++ [r] } else x
    | none => x

/-- Entries of a slice's queue (R56). -/
def queueEntries : Nat := 32

/-- Whether a request may take a queue entry now (R56): its reserved one, or one that none is reserved for. -/
def mayQueue (x : Quad) (r : Nat × Nat) : Bool :=
  (x.reserved.any fun e => e.1 == r.1 && e.2.1 == r.2) || decide (x.queueUsed + x.reserved.length < queueEntries)

/-- A request takes a queue entry: it leaves the retry table, and other entries reserved for it pass to the next oldest recorded
request, their 64 mesh cycles running on (DESIGN CHOICE, log 15). -/
def takeQueue (x : Quad) (r : Nat × Nat) : Quad :=
  let rest := x.retry.filter (· != r)
  let kept := match x.reserved.find? fun e => e.1 == r.1 && e.2.1 == r.2 with
    | some e => x.reserved.erase e
    | none => x.reserved
  let kept := match oldest rest with
    | some o => kept.map fun e => if e.1 == r.1 && e.2.1 == r.2 then (o.1, o.2, e.2.2) else e
    | none => []
  { x with queueUsed := x.queueUsed + 1, retry := rest, reserved := kept }

/-- A queue entry frees: it is reserved for the oldest recorded request (R56). -/
def freeQueue (x : Quad) (now : Nat) : Quad :=
  let y := { x with queueUsed := x.queueUsed - 1 }
  match oldest y.retry with
  | some o => { y with reserved := y.reserved ++ [(o.1, o.2, now)] }
  | none => y

/-- Transactions in progress at a slice (R56). -/
def transactions (s : State) (q : Nat) : Nat := s.homes.countP fun p => p.2.txn.isSome && homeSlice s p.1 == q

/-- A line is busy: a transaction in progress, requests in its queue, or no transaction entry free (R55, R56). -/
def homeBusy (s : State) (line : Nat) : Bool :=
  (homeAt s line).txn.isSome || !(homeAt s line).queue.isEmpty || decide (64 ≤ transactions s (homeSlice s line))

/-- A host request that a fenced die has refused receives an error once its other lines have answered (R69, R75). -/
def refuseHost (s : State) : Msg → State
  | .rmaWrite _ _ _ tag _ | .rmaRead _ _ tag _ | .portAtomic _ _ _ _ _ _ tag _ =>
    modModule s fun y => { y with rma := y.rma.map fun r =>
      if r.tag == tag then { r with lines := r.lines - 1, refused := true } else r }
  | _ => s

/-- The gangs that a request comes from: for a line, the one that sent it, a prefetch's too (R311), and those of the loads that wait
for it; of a delivery, those of its blocks (R69). -/
def requestGangs (s : State) (m : Msg) : List Nat :=
  let ofOps (bs : List Nat) (id : Nat) : List Nat :=
    (bs.filter fun b => (blockAt s b).ops.any fun o => o.id == id).map (fun b => (blockAt s b).gang) ++
      (s.gangs.filter fun p => p.2.ops.any fun o => o.id == id).map (·.1)
  match m with
  | .read _ r => nub (r.gang :: r.waiters.map fun w => (blockAt s (blockOf s w.1)).gang)
  | .red _ (.deliveries bs id) _ _ _ | .abacus _ _ _ (.deliveries bs id) _ _ _ => nub (ofOps bs id)
  | m => ((requestOf s m).bind (·.gang)).toList

/-- A request arrives at a slice (R55, R56, R64, R69): refused at a fenced die's port, which sends a fence answer (R45), sent back
where its sender's map, of an older epoch, names a slice that homes the line no more, queued or refused while the line is busy,
else served. A recorded request that finds its line free is served at once and leaves the retry table, and a queue entry reserved for it
stays so until its 64 mesh cycles have run out (DESIGN CHOICE, log 15). -/
def arrive (s : State) (id : Nat) (m : Msg) (r : Request) (serve : State → State × List MemEffect) : State × List MemEffect :=
  if (dieAt s (r.slice / 64)).fenced then (passOn s id r.slice (.refused m), [])
  else if homeSlice s r.line ≠ r.slice then (passOn s id r.slice (.remap m s.module.epoch), [])
  else if homeBusy s r.line then
    let x := quadAt s r.slice
    if mayQueue x (r.age, r.agent) then
      (modHome (modQuad s r.slice fun y => takeQueue y (r.age, r.agent)) r.line fun h => { h with queue := h.queue ++ [id] }, [])
    else (passOn (modQuad s r.slice fun y => recordRetry y (r.age, r.agent)) id r.slice (.retry m s.now), [])
  else serve (modQuad s r.slice fun y => { y with retry := y.retry.filter (· != (r.age, r.agent)) })

end Sys2Proof.Machine
end

