-- ==== Sys2Proof/Machine/Abacus.lean ====
section
/-! DEFINITION. Abacus lines (R338 to R343): the instructions that open, feed and read them, and what an operation does at a
line's home. -/

namespace Sys2Proof.Machine

/-! ## Pages (R338) -/

/-- The leaf of an abacus access: class Abacus, 64 KiB (R338). -/
def abacusLeaf (l : Leaf) : Bool := l.cls == 3 && l.size == abacusPage

/-- The status halfword of a line. -/
def statusOf (s : State) (line : Nat) : Nat :=
  leNat ((List.range 2).map fun i => memRead s.mem (statusAddr line + i))

/-- OPEN of a status. -/
def statusOpen (x : Nat) : Bool := x.testBit 15
/-- NV of a status. -/
def statusNv (x : Nat) : Bool := x.testBit 14
/-- SAT of a status. -/
def statusSat (x : Nat) : Bool := x.testBit 13
/-- G of a status. -/
def statusGrid (x : Nat) : Int := signedOf x 9

/-- A status word from its fields. -/
def statusWord (opened nv sat : Bool) (g : Int) : Nat :=
  (if opened then 2 ^ 15 else 0) + (if nv then 2 ^ 14 else 0) + (if sat then 2 ^ 13 else 0) + (g % 512).toNat

/-! ## The instructions (R340 to R342) -/

/-- The checks of acca, accz, accr and accc (R341, R342). -/
def accCheck (stem : Stem) (x : Three) (s : State) (k : Nat) : Verdict :=
  let n := if stem = .accz then 64 else 8
  let (target, poison) := memTarget stem x s k
  let place : Verdict :=
    match target with
    | .global va =>
      let tr := memTranslate stem s k va
      ((Verdict.trapIf (va % n != 0) .align).and (Verdict.trapIf (decide (statusArea ≤ va % abacusPage)) .prot)).and
        ((tr.verdict va).and (Verdict.trapIf (tr.leaf.any fun l => !abacusLeaf l) .prot))
    | .scratch off => (Verdict.trapIf (off % (n : Int) != 0) .align).and (Verdict.trap .prot)
    | .prot va => (Verdict.trapIf (va % n != 0) .align).and (Verdict.trap .prot)
  let data : Bool := stem == .acca && (valueAt .acca x s k .d).2
  ((Verdict.trapIf (rangeFails stem x s k) .regrange).and place).and (Verdict.poisonIf (poison || data))

/-- Send one abacus operation of a strand to its line, counted among its block's operations (R179, R188). -/
def sendAcc (s : State) (k : Nat) (pa : Nat) (op : AbacusOp) : State :=
  let b := blockOf s k
  let l := strandLaunch s k
  let (id, t) := fresh s
  let t := modBlock t b fun y =>
    { y with ops := y.ops ++ [{ id := id, kind := .abacus, sourceRead := true, count := 1 }] }
  post t (.abacus (homeSlice t (pa / 64)) (pa / 64) op (.op b id) t.now l.part l.record.ctx.toNat)

/-- acca and accz (R341). -/
def accAddRun (stem : Stem) (code : Code) (s : State) : State :=
  let x := code.norm stem
  executed s (runBundle s x.g code.len .write (accCheck stem x) fun t _ ps =>
    advanceAll (ps.foldl (fun u k => match globalPlace stem x t k with
      | some (pa, _) =>
        sendAcc u k pa (if stem = .accz then .zeroLine
          else .add (pa % 64) x.ty (BitVec.ofNat 64 (valueAt .acca x t k .d).1))
      | none => u) (noteWalks stem x t ps)) code.len ps)

/-- The request of one strand of accr or accc; the reply writes its destination (R342). -/
def accReadStrand (stem : Stem) (x : Three) (s0 s : State) (k : Nat) : State :=
  match globalPlace stem x s0 k with
  | none => s
  | some (pa, _) =>
    let b := blockOf s0 k
    let l := strandLaunch s0 k
    let (id, t) := fresh s
    let t := addPending t k
      { id := id, pa := pa, dest := destOf s0 k x.d, ty := x.ty, known := [], acquire := false }
    let t := if stem = .accc then modBlock t b fun y =>
        { y with ops := y.ops ++ [{ id := id, kind := .abacus, sourceRead := true, count := 1 }] }
      else t
    post t (.abacus (homeSlice t (pa / 64)) (pa / 64)
      (if stem = .accc then .collect (pa % 64) x.ty k else .read (pa % 64) x.ty k) (.op b id) t.now l.part
      l.record.ctx.toNat)

/-- accr and accc (R342): accc stands between two dev fences, the first a condition of issue. -/
def accReadRun (stem : Stem) (code : Code) (s : State) : State :=
  let x := code.norm stem
  executed s (runBundle s x.g code.len (if stem = .accc then .write else .read) (accCheck stem x) fun t _ ps =>
    let u := ps.foldl (accReadStrand stem x t) (noteWalks stem x t ps)
    let u := if stem = .accc then ps.foldl (fun v k => startFence v k 3) u else u
    advanceAll u code.len ps)

/-- The window of an acco (R340): address, length in bytes, grid, and the poison of its operands. -/
def accoArgs (x : Three) (s : State) (k : Nat) : Nat × Nat × Int × Bool :=
  let (va, p1) := valueAt .acco x s k .a
  let (n, p2) := valueAt .acco x s k .b
  let (g, p3) := valueAt .acco x s k .c
  (va, n, signedOf g 9, p1 || p2 || p3)

/-- The pages that a window touches, by their first address (R340). -/
def accoPages (va n : Nat) : List Nat :=
  if n = 0 then []
  else (List.range ((va % abacusPage / 64 + n / 64 - 1) / abacusLines + 1)).map fun i => (va / abacusPage + i) * abacusPage

/-- The element lines of a window, by their addresses in ascending order (R340). -/
def accoLines (va n : Nat) : List Nat :=
  (List.range (n / 64)).map fun i =>
    let j := va % abacusPage / 64 + i
    (va / abacusPage + j / abacusLines) * abacusPage + 64 * (j % abacusLines)

/-- The verdict of one page of a window. -/
def accoPageCheck (s : State) (k va : Nat) : Verdict :=
  if Config.windowBase ≤ va then Verdict.trap .prot
  else
    let tr := translate s (some (coreOf k)) (strandLaunch s k) va .write
    (tr.verdict va).and (Verdict.trapIf (tr.leaf.any fun l => !abacusLeaf l) .prot)

/-- The checks of acco (R340). -/
def accoCheck (x : Three) (s : State) (k : Nat) : Verdict :=
  let (va, n, _, poison) := accoArgs x s k
  let fields : Verdict :=
    (Verdict.trapIf (va % 64 != 0 || n % 64 != 0) .align).and
      (Verdict.trapIf (decide (2 ^ 22 < n) || decide (statusArea ≤ va % abacusPage) || decide (2 ^ 52 ≤ va)) .prot)
  let pages : Verdict :=
    if 2 ^ 22 < n then Verdict.ok else (accoPages va n).foldl (fun v p => v.and (accoPageCheck s k p)) Verdict.ok
  ((Verdict.trapIf (rangeFails .acco x s k) .regrange).and (fields.and pages)).and (Verdict.poisonIf poison)

/-- acco of one sheaf: one operation a line, all under one id (R340); s0 is the state that its checks saw. -/
def accoSheaf (x : Three) (s0 s : State) (k : Nat) : State :=
  let (va, n, g, _) := accoArgs x s0 k
  let b := blockOf s0 k
  let l := strandLaunch s0 k
  if n = 0 then s
  else
    let (id, t) := fresh s
    let t := modBlock t b fun y =>
      { y with ops := y.ops ++ [{ id := id, kind := .abacus, sourceRead := true, count := n / 64 }] }
    let t := (accoPages va n).foldl (fun u p => fillTlb u (coreOf k) l p) t
    (accoLines va n).foldl (fun u a => match translate s0 (some (coreOf k)) l a .write with
      | .ok pa _ => post u (.abacus (homeSlice u (pa / 64)) (pa / 64) (.opening g) (.op b id) u.now l.part l.record.ctx.toNat)
      | _ => u) t

/-- acco (R340). -/
def accoRun (code : Code) (s : State) : State :=
  let x := code.norm .acco
  let ps := participants s (s.ctl.bundle.getD { core := 0, block := 0, pc := 0, strands := [] }) x.g
  executed s (runBundle s x.g code.len .write (fun t k => accoCheck x t (sheafLead ps k)) fun t _ ps =>
    advanceAll ((sheavesOf t ps).foldl (fun u f => accoSheaf x t u ((partOf ps f).headD 0)) t) code.len ps)

/-! ## Residency (R339) -/

/-- The poisoned elements of a line as an operation meets them: all 8 where failed channels have taken its element line or its
status line (R44); else a resident line's own, or all 8 where its element line or its status line is poisoned. -/
def elementPoison (s : State) (line : Nat) : List Nat :=
  if lineLost s line || lineLost s (statusLine line) then List.range 8
  else match residentOf s line with
    | some e => e.poison
    | none => if s.badLines.contains line || s.badLines.contains (statusLine line) then List.range 8 else []

/-- The 64 element bytes and the status halfword of a line, as they stand. -/
def pageBytes (s : State) (line : Nat) : List Byte :=
  lineBytes s line ++ (List.range 2).map fun i => memRead s.mem (statusAddr line + i)

/-- The difference of two lists of bytes. -/
def xorBytes (xs ys : List Byte) : List Byte := xs.zipWith (· ^^^ ·) ys

/-- The parity delta of a status line, of one line's halfword. -/
def statusDelta (line : Nat) (old new : List Byte) : List Byte :=
  let off := statusAddr line % 64
  List.replicate off 0 ++ xorBytes old new ++ List.replicate (62 - off) 0 ++ [0]

/-- The parity delta of a write to a line (R42), which one that failed channels have taken discards (R44). -/
def sendWritten (s : State) (line : Nat) (delta : List Byte) : State := if lineLost s line then s else sendDelta s line delta

/-- Spill a resident line (R339): its elements and status go to the page as a line write; the element line is poisoned where an
element is, and clean where none is (R131). -/
def spillLine (s : State) (q : Nat) (e : Resident) : State :=
  let now := pageBytes s e.line
  let line := xorBytes (e.page.take 64) (now.take 64)
  let status := statusDelta e.line (e.page.drop 64) (now.drop 64)
  let t := modQuad s q fun x => { x with resident := x.resident.erase e }
  setBad (sendWritten (sendWritten t e.line (line ++ [0])) (statusLine e.line) status) e.line (!e.poison.isEmpty)

/-- A resident line is its context's most recently used (R339). -/
def useResident (x : Quad) (line : Nat) : Quad :=
  { x with resident := (x.resident.filter fun e => e.line != line) ++ x.resident.filter fun e => e.line == line }

/-- Make a line resident where its context's allowance has a way (R339): the least recently used resident line of the
context makes room. -/
def fillLine (s : State) (line part ctx : Nat) : State :=
  let q := homeSlice s line
  let room := sliceSets * allowance s part ctx
  if (residentOf s line).isSome || room = 0 then s
  else
    let mine := (quadAt s q).resident.filter fun e => e.part == part && e.ctx == ctx
    let t := if room ≤ mine.length then (match mine.head? with | some e => spillLine s q e | none => s) else s
    let e : Resident := { line := line, part := part, ctx := ctx, page := pageBytes t line, poison := elementPoison t line }
    modQuad t q fun x => { x with resident := x.resident ++ [e] }

/-! ## What an operation does to a line -/

/-- The 8 elements of a line. -/
def elementsOf (s : State) (line : Nat) : List DWord :=
  (List.range 8).map fun i => BitVec.ofNat 64 (leNat ((List.range 8).map fun j => memRead s.mem (64 * line + 8 * i + j)))

/-- A line's contents after an operation, and what it reads: elements, status, poisoned elements. -/
structure AbacusResult where
  elems : List DWord
  status : Nat
  poison : List Nat
  value : Nat
  flags : Half
  bad : Bool
  deriving DecidableEq, Repr

/-- The value of an addend's bits (R341). -/
def addendValue (ty : BitVec 4) (v : DWord) : FVal :=
  if tyFloat ty then (fmtOf ty).value (v.toNat % 2 ^ tyWidth ty)
  else
    let n : Int := if tySigned ty then signedOf v.toNat (tyWidth ty) else (v.toNat % 2 ^ tyWidth ty : Nat)
    FVal.ofFrac (.ofInt n) false

/-- Read element i of a line (R342). -/
def readElement (elems : List DWord) (status : Nat) (poison : List Nat) (i : Nat) (ty : BitVec 4) : Nat × Half × Bool :=
  let (v, fl) := axToType (elems.getD i 0) (statusGrid status) ty
  (v, fl ||| (if statusSat status then Flag.as else 0) ||| (if statusNv status then Flag.nv else 0), poison.contains i)

/-- An operation on a line's contents (R334, R339 to R342). -/
def abacusResult (op : AbacusOp) (elems : List DWord) (status : Nat) (poison : List Nat) : AbacusResult :=
  let same : AbacusResult := { elems := elems, status := status, poison := poison, value := 0, flags := 0, bad := false }
  let withFlags (nv sat : Bool) : Nat :=
    statusWord (statusOpen status) (statusNv status || nv) (statusSat status || sat) (statusGrid status)
  match op with
  | .opening g => { same with elems := List.replicate 8 0, status := statusWord true false false g, poison := [] }
  | .zeroLine =>
    { same with elems := List.replicate 8 0, status := statusWord (statusOpen status) false false (statusGrid status), poison := [] }
  | .add off ty v =>
    if statusOpen status then
      let (q, fl) := quant (addendValue ty v) (statusGrid status)
      { same with elems := elems.modify (off / 8) fun e => ax64Add e q, status := withFlags fl.nv fl.sat }
    else { same with status := withFlags true false }
  | .deliver parts g fl bad =>
    if statusOpen status && statusGrid status == g then
      { same with elems := elems.zipWith (· + ·) parts, status := withFlags (fl.any (·.1)) (fl.any (·.2)),
                  poison := if bad then List.range 8 else poison }
    else { same with status := withFlags true false }
  | .read off ty _ =>
    let (v, fl, bad) := readElement elems status poison (off / 8) ty
    { same with value := v, flags := fl, bad := bad }
  | .collect off ty _ =>
    let (v, fl, bad) := readElement elems status poison (off / 8) ty
    { same with elems := elems.set (off / 8) 0, poison := poison.filter (· != off / 8), value := v, flags := fl, bad := bad }

/-- An operation that writes all of a line, and so clears its poison bit (R131, R340, R341). -/
def AbacusOp.clears : AbacusOp → Bool
  | .opening _ | .zeroLine => true
  | _ => false

/-- An operation that only reads (R342). -/
def AbacusOp.reads : AbacusOp → Bool
  | .read _ _ _ => true
  | _ => false

/-- The element that an armed error strikes (R353), of a line with some status: the one that is written, the first of a whole line; none
where an addend finds the line not open, and so reaches no element (R339). -/
def AbacusOp.struck (status : Nat) : AbacusOp → Option Nat
  | .add off _ _ => if statusOpen status then some (off / 8) else none
  | .opening _ | .zeroLine | .deliver _ _ _ _ => some 0
  | _ => none

/-- The blocks whose `%einj` an operation can set off. -/
def Notify.blocks : Notify → List Nat
  | .op b _ | .engine b _ => [b]
  | .deliveries bs _ => bs
  | _ => []

/-- The operation a notice is about. -/
def Notify.opId : Notify → Nat
  | .op _ id | .engine _ id | .deliveries _ id => id
  | _ => 0

/-- An armed error strikes the element of a line that an operation writes (R353): of a block that the operation is still under way for. -/
def strikeElement (s : State) (line : Nat) (n : Notify) (op : AbacusOp) : Option Nat × State :=
  match op.struck (statusOf s line) with
  | none => (none, s)
  | some i =>
    match n.blocks.find? fun b => (blockAt s b).ops.any (fun o => o.id == n.opId) && (blockAt s b).armed.any fun a => a.2 == 6 with
    | none => (none, s)
    | some b =>
      match strike s b 6 with
      | (some kind, t) => (if kind = 2 then some i else none, logStrike t b kind)
      | (none, t) => (none, t)

/-- What an operation leaves in memory: its elements and status, where they change and no failed channels have taken them (R44). -/
def abacusEffects (s : State) (line : Nat) (r : AbacusResult) (status : Nat) (elems : List DWord) : List MemEffect :=
  (if r.elems = elems || lineLost s line then [] else [.store (64 * line) (r.elems.flatMap fun e => leBytes 8 e.toNat)]) ++
    (if r.status = status || lineLost s (statusLine line) then [] else [.store (statusAddr line) (leBytes 2 r.status)])

/-- An abacus operation at its home: the line's contents change at once, C is Tarr + 1, and a read goes back (R171, R342). -/
def serveAbacus (s : State) (id line : Nat) (op : AbacusOp) (n : Notify) (part ctx : Nat) : State × List MemEffect :=
  let s := fillLine s line part ctx
  let (hit, s) := strikeElement s line n op
  let elems := elementsOf s line
  let status := statusOf s line
  let r := abacusResult op elems status (elementPoison s line)
  let poison := match hit with | some i => sinsert i r.poison | none => r.poison
  let q := homeSlice s line
  let effects := abacusEffects s line r status elems
  let t := modQuad (takeOff s id) q fun x => useResident x line
  let t := if op.reads then t else match residentOf t line with
    | some _ =>
      let t := modQuad t q fun x => { x with resident := x.resident.map fun e => if e.line == line then { e with poison := poison } else e }
      if op.clears then setBad t line false else t
    | none =>
      let bad := !poison.isEmpty
      let t := if lineLost s line then t else { t with badLines := if bad then sinsert line t.badLines else sremove line t.badLines }
      let t := sendWritten t line (xorBytes (lineBytes s line) (r.elems.flatMap fun e => leBytes 8 e.toNat) ++
        [if bad != s.badLines.contains line then 1 else 0])
      if r.status = status then t else sendWritten t (statusLine line) (statusDelta line (leBytes 2 status) (leBytes 2 r.status))
  match op with
  | .read _ ty k => (postFrom t (some (q / 64)) none (.element k (BitVec.ofNat 64 r.value) ty r.flags r.bad (n.opId)), effects)
  | .collect _ ty k => 
    (sendC (postFrom t (some (q / 64)) none (.element k (BitVec.ofNat 64 r.value) ty r.flags r.bad (n.opId))) line n (t.now + 1), effects)
  | _ => (sendC t line n (t.now + 1), effects)

/-- An error of a resident line's elements (R128, R129): 7 one bit, corrected; 8 to 15 two bits of element 0 to 7, poisoned. -/
def strikeAbacus (s : State) (line hit : Nat) : State :=
  let q := homeSlice s line
  if hit < 7 || 15 < hit || (residentOf s line).isNone then s
  else if hit = 7 then logRas s .corrected false (locQuad q) 0 0
  else
    modQuad (logRas s .uncorrected false (locQuad q) 0 0) q fun x => { x with resident := x.resident.map fun e =>
      if e.line == line then { e with poison := sinsert (hit - 8) e.poison } else e }

/-- An abacus operation reaches its line's home (R341). The focus: the message; then an error of an element (see strikeAbacus). -/
def execAbacusOpAtHome (s : State) : Host.Outcome State Fault Refusal :=
  .next (commit s (
    match arriving s (s.arg 0) with
    | some (.abacus q line op n age part ctx) =>
      match requestOf s (.abacus q line op n age part ctx) with
      | some r => arrive s (s.arg 0) (.abacus q line op n age part ctx) r fun t =>
        serveAbacus (strikeAbacus t line (s.arg 1)) (s.arg 0) line op n part ctx
      | none => (s, [])
    | _ => (s, [])))

/-! ## The meanings -/

/-- Opens a window of abacus lines on a grid (R340). -/
def execAcco (x : Three) (s : State) : Host.Outcome State Fault Refusal :=
  .next (accoRun (.long (.three x)) s)

/-- One-word add of an f32 value to an abacus element (R341). -/
def execAcca (x : Short) (s : State) : Host.Outcome State Fault Refusal :=
  .next (accAddRun .acca (.short x) s)

/-- Abacus add of another type or with other operand kinds (R341). -/
def execAccaW (x : Long) (s : State) : Host.Outcome State Fault Refusal :=
  .next (accAddRun .acca (.long x) s)

/-- One-word zeroing of an abacus line (R341). -/
def execAccz (x : Short) (s : State) : Host.Outcome State Fault Refusal :=
  .next (accAddRun .accz (.short x) s)

/-- Abacus line zeroing with an imm9 or literal offset (R341). -/
def execAcczW (x : Long) (s : State) : Host.Outcome State Fault Refusal :=
  .next (accAddRun .accz (.long x) s)

/-- One-word read of an abacus element (R342). -/
def execAccr (x : Short) (s : State) : Host.Outcome State Fault Refusal :=
  .next (accReadRun .accr (.short x) s)

/-- Abacus element read of another type (R342). -/
def execAccrW (x : Long) (s : State) : Host.Outcome State Fault Refusal :=
  .next (accReadRun .accr (.long x) s)

/-- One-word collect of an abacus element (R342). -/
def execAccc (x : Short) (s : State) : Host.Outcome State Fault Refusal :=
  .next (accReadRun .accc (.short x) s)

/-- Abacus element collect of another type (R342). -/
def execAcccW (x : Long) (s : State) : Host.Outcome State Fault Refusal :=
  .next (accReadRun .accc (.long x) s)

end Sys2Proof.Machine
end

