-- ==== Sys2Proof/WellFormed.lean ====
section
/-! DEFINITION. Which instructions the hardware has: the checks of R237 and R238. -/

namespace Sys2Proof

/-- An instruction row is well formed when decoding accepts it (R237, R238); an event row has no encoding to check. -/
def Instr.wf (i : Instr) : Bool :=
  match i.view with
  | some (stem, c) => codeOk stem c
  | none => true

/-- Well-formed instructions. -/
def WellFormed (i : Instr) : Prop := i.wf = true

/-- A row that has an encoding. -/
def Instr.encodable (i : Instr) : Bool := i.view.isSome

end Sys2Proof
end

