-- ==== Sys2Proof/Decode.lean ====
section
/-! DEFINITION. Decoding of the bytes of one instruction (R219 to R227, R237), total and rejecting by name, and the
encoder from the same tables. -/

namespace Sys2Proof

/-- Why bytes are no instruction; each of these is ILLEGAL (R238), but for the first, which says that the list ends
before the unit does (the fetch of R220 gives the whole unit). -/
inductive Reject where
  | truncated
  | unassigned
  | reservedGuard
  | uniformNotPermitted
  | noBaseForm
  | reservedBit31
  | reservedKind
  | literalCount
  | noSuchForm
  | fieldCheck
  deriving DecidableEq, Repr

/-- Word 0 by its fields ('The forms to the bit'): S, B, A, D, OP, GN, G, U, L; the three-word forms hold the kinds in
B, A and D. -/
structure Word0 where
  s : BitVec 1
  b : BitVec 5
  a : BitVec 5
  d : BitVec 5
  op : BitVec 9
  gn : BitVec 1
  g : BitVec 3
  u : BitVec 1
  l : BitVec 2
  deriving DecidableEq, Repr

/-- The 32 bits of word 0. -/
def Word0.bits (x : Word0) : Word := x.s ++ x.b ++ x.a ++ x.d ++ x.op ++ x.gn ++ x.g ++ x.u ++ x.l

/-- The fields of word 0. -/
def Word0.ofBits (w : Word) : Word0 :=
  { s := w.extractLsb' 31 1, b := w.extractLsb' 26 5, a := w.extractLsb' 21 5, d := w.extractLsb' 16 5,
    op := w.extractLsb' 7 9, gn := w.extractLsb' 6 1, g := w.extractLsb' 3 3, u := w.extractLsb' 2 1,
    l := w.extractLsb' 0 2 }

/-- Word 1 of the three-word forms: KC, XB, XA, XD. -/
structure Word1 where
  kc : BitVec 5
  xb : BitVec 9
  xa : BitVec 9
  xd : BitVec 9
  deriving DecidableEq, Repr

/-- The 32 bits of word 1. -/
def Word1.bits (x : Word1) : Word := x.kc ++ x.xb ++ x.xa ++ x.xd

/-- The fields of word 1. -/
def Word1.ofBits (w : Word) : Word1 :=
  { kc := w.extractLsb' 27 5, xb := w.extractLsb' 18 9, xa := w.extractLsb' 9 9, xd := w.extractLsb' 0 9 }

/-- Word 2 of the three-word forms: MOD, CH, ORD, SC, RM, TY, XC. -/
structure Word2 where
  mod : BitVec 9
  ch : BitVec 2
  ord : BitVec 2
  sc : BitVec 3
  rm : BitVec 3
  ty : BitVec 4
  xc : BitVec 9
  deriving DecidableEq, Repr

/-- The 32 bits of word 2. -/
def Word2.bits (x : Word2) : Word := x.mod ++ x.ch ++ x.ord ++ x.sc ++ x.rm ++ x.ty ++ x.xc

/-- The fields of word 2. -/
def Word2.ofBits (w : Word) : Word2 :=
  { mod := w.extractLsb' 23 9, ch := w.extractLsb' 21 2, ord := w.extractLsb' 19 2, sc := w.extractLsb' 16 3,
    rm := w.extractLsb' 13 3, ty := w.extractLsb' 9 4, xc := w.extractLsb' 0 9 }

/-- A word as four little-endian bytes (R4). -/
def wordBytes (w : Word) : List Byte :=
  [w.extractLsb' 0 8, w.extractLsb' 8 8, w.extractLsb' 16 8, w.extractLsb' 24 8]

/-- A literal as eight little-endian bytes (R4). -/
def dwordBytes (x : DWord) : List Byte :=
  wordBytes (x.extractLsb' 0 32) ++ wordBytes (x.extractLsb' 32 32)

/-- The first word of a list of bytes and the rest. -/
def takeWord : List Byte → Option (Word × List Byte)
  | b0 :: b1 :: b2 :: b3 :: rest => some (b3 ++ b2 ++ b1 ++ b0, rest)
  | _ => none

/-- The first dword of a list of bytes and the rest. -/
def takeDword (bs : List Byte) : Option (DWord × List Byte) :=
  match takeWord bs with
  | some (lo, bs1) =>
    match takeWord bs1 with
    | some (hi, bs2) => some (hi ++ lo, bs2)
    | none => none
  | none => none

/-- The kind code of an operand (R225). -/
def Operand.kind : Operand → BitVec 5
  | .none => 0
  | .v _ => 1
  | .b _ => 2
  | .w _ => 3
  | .p _ => 4
  | .m _ => 5
  | .t _ => 6
  | .lit _ => 7
  | .imm _ => 8
  | .special _ => 9

/-- The index field of an operand (R225); 0 for none and for a literal. -/
def Operand.index : Operand → BitVec 9
  | .none | .lit _ => 0
  | .v i | .b i | .w i | .p i | .m i | .t i | .imm i | .special i => i

/-- An operand is the literal. -/
def Operand.isLit : Operand → Bool
  | .lit _ => true
  | _ => false

/-- The operand of a kind code, an index and the literal; none for a reserved kind, and for a non-zero index with
kind 0 or 7 (R225, R238). -/
def Operand.ofKind (k : BitVec 5) (x : BitVec 9) (lit : DWord) : Option Operand :=
  match k.toNat with
  | 0 => if x = 0 then some .none else Option.none
  | 1 => some (.v x)
  | 2 => some (.b x)
  | 3 => some (.w x)
  | 4 => some (.p x)
  | 5 => some (.m x)
  | 6 => some (.t x)
  | 7 => if x = 0 then some (.lit lit) else Option.none
  | 8 => some (.imm x)
  | 9 => some (.special x)
  | _ => Option.none

/-- A bit as a Bool. -/
def bitOf (b : BitVec 1) : Bool := b == 1

/-- A Bool as a bit. -/
def ofBit (b : Bool) : BitVec 1 := if b then 1 else 0

/-- The one-word fields of word 0. -/
def Word0.short (w : Word0) : Short :=
  { g := ⟨w.g, bitOf w.gn⟩, u := bitOf w.u, s := bitOf w.s, b := w.b, a := w.a, d := w.d }

/-- Word 0 of a one-word or literal form. -/
def Short.word0 (x : Short) (op : BitVec 9) (l : BitVec 2) : Word0 :=
  { s := ofBit x.s, b := x.b, a := x.a, d := x.d, op := op, gn := ofBit x.g.neg, g := x.g.p, u := ofBit x.u, l := l }

/-- The three-word form of its words and its literal (R237). -/
def threeOf (w : Word0) (w1 : Word1) (w2 : Word2) (lit : DWord) : Option Three :=
  match Operand.ofKind w.d w1.xd lit, Operand.ofKind w.a w1.xa lit, Operand.ofKind w.b w1.xb lit,
    Operand.ofKind w1.kc w2.xc lit with
  | some d, some a, some b, some c =>
    some { g := ⟨w.g, bitOf w.gn⟩, u := bitOf w.u, d := d, a := a, b := b, c := c, mod := w2.mod, ch := w2.ch,
           ord := w2.ord, sc := w2.sc, rm := w2.rm, ty := w2.ty }
  | _, _, _, _ => none

/-- The operands of a three-word form in the order of its words. -/
def Three.operands (x : Three) : List Operand := [x.d, x.a, x.b, x.c]

/-- The code of word 0 and of the bytes after it, and what follows (R237): the form by L, then its fields. -/
def decodeCode (stem : Stem) (w : Word0) (bs : List Byte) : Except Reject (Code × List Byte) :=
  match w.l.toNat with
  | 0 => if (opRow stem).base then .ok (.short w.short, bs) else .error .noBaseForm
  | 2 =>
    match takeDword bs with
    | none => .error .truncated
    | some (v, rest) => if (opRow stem).base then .ok (.long (.lit w.short v), rest) else .error .noBaseForm
  | l =>
    match takeWord bs with
    | none => .error .truncated
    | some (b1, rest1) =>
      match takeWord rest1 with
      | none => .error .truncated
      | some (b2, rest2) =>
        match (if l = 3 then takeDword rest2 else some (0, rest2)) with
        | none => .error .truncated
        | some (v, rest) =>
          if w.s = 1 then .error .reservedBit31
          else match threeOf w (Word1.ofBits b1) (Word2.ofBits b2) v with
            | none => .error .reservedKind
            | some x =>
              if x.operands.countP Operand.isLit = (if l = 3 then 1 else 0) then .ok (.long (.three x), rest)
              else .error .literalCount

/-- The instruction at the head of a list of bytes and what follows it (R237). -/
def decode (bs : List Byte) : Except Reject (Instr × List Byte) :=
  match takeWord bs with
  | none => .error .truncated
  | some (bits, rest) =>
    let w := Word0.ofBits bits
    match stemOf w.op with
    | none => .error .unassigned
    | some stem =>
      if w.g = 7 ∧ w.gn = 1 then .error .reservedGuard
      else if w.u = 1 ∧ !(opRow stem).u then .error .uniformNotPermitted
      else match decodeCode stem w rest with
        | .error e => .error e
        | .ok (code, rest') =>
          match Instr.ofCode stem code with
          | none => .error .noSuchForm
          | some i => if codeOk stem code then .ok (i, rest') else .error .fieldCheck

/-- The length of the unit that begins with word 0, from its bits 1:0 alone (R219, R220). -/
def unitLength (w : Word) : Nat :=
  match (w.extractLsb' 0 2).toNat with
  | 0 => 4
  | 1 => 12
  | 2 => 12
  | _ => 20

/-- The bytes of a code of a stem (R219 to R226). -/
def encodeCode (stem : Stem) : Code → List Byte
  | .short x => wordBytes (x.word0 (opRow stem).op 0).bits
  | .long (.lit x v) => wordBytes (x.word0 (opRow stem).op 2).bits ++ dwordBytes v
  | .long (.three x) =>
    let lit := x.operands.findSome? fun o => match o with | .lit v => some v | _ => none
    let w0 : Word0 :=
      { s := 0, b := x.b.kind, a := x.a.kind, d := x.d.kind, op := (opRow stem).op, gn := ofBit x.g.neg, g := x.g.p,
        u := ofBit x.u, l := if lit.isSome then 3 else 1 }
    let w1 : Word1 := { kc := x.c.kind, xb := x.b.index, xa := x.a.index, xd := x.d.index }
    let w2 : Word2 :=
      { mod := x.mod, ch := x.ch, ord := x.ord, sc := x.sc, rm := x.rm, ty := x.ty, xc := x.c.index }
    wordBytes w0.bits ++ wordBytes w1.bits ++ wordBytes w2.bits ++
      (match lit with | some v => dwordBytes v | none => [])

/-- The bytes of an instruction; an event row has no words. -/
def encode (i : Instr) : List Byte :=
  match i.view with
  | some (stem, code) => encodeCode stem code
  | none => []

/-- The words of a list of bytes, little-endian, a last incomplete one left out. -/
def wordsOf : List Byte → List Word
  | b0 :: b1 :: b2 :: b3 :: rest => (b3 ++ b2 ++ b1 ++ b0 : Word) :: wordsOf rest
  | _ => []

/-- The longest instruction in bytes (R219). -/
def maxUnit : Nat := 20

/-- The bytes of a number, little-endian, padded with 0 to the longest instruction (R4, R219). -/
def tableBytes (nbits w : Nat) : List Byte :=
  (List.range maxUnit).map fun k => if 8 * k < nbits then BitVec.ofNat 8 (w / 2 ^ (8 * k)) else 0

/-- What the decoder reads from the bits w, bit 0 the least significant of the first word; every bit above nbits is 0. -/
def decodeTableWord (nbits w : Nat) : Option Instr :=
  match decode (tableBytes nbits (w % 2 ^ nbits)) with
  | .ok (i, _) => some i
  | .error _ => none

end Sys2Proof
end

