-- ==== Sys2Proof/Machine/Fetch.lean ====
section
/-! DEFINITION. Instruction fetch (R220): the unit at a bundle's pc, its faults, and decoding (R237, R238). -/

namespace Sys2Proof.Machine

/-- Bytes of an instruction unit that lie in one 64 KiB page: address, count, translation. -/
structure FetchPart where
  va : Nat
  n : Nat
  tr : Trans
  deriving DecidableEq, Repr

/-- The translation of a fetch: nothing at or above the scratchpad window is fetched (R305, log 17). -/
def fetchTranslate (s : State) (core : Nat) (l : Launch) (va : Nat) : Trans :=
  if Config.windowBase ≤ va then .prot none else translate s (some core) l va .fetch

/-- The parts of n bytes from an address on. -/
def fetchParts (s : State) (core : Nat) (l : Launch) (va n : Nat) : List FetchPart :=
  let room := 65536 - va % 65536
  if n ≤ room then [{ va := va, n := n, tr := fetchTranslate s core l va }]
  else [{ va := va, n := room, tr := fetchTranslate s core l va },
        { va := va + room, n := n - room, tr := fetchTranslate s core l (va + room) }]

/-- A byte that a fetch reads at its home; what the host holds is free (log 2). -/
def fetchByte (s : State) (pa cls : Nat) : Byte := if cls = 4 then Config.freeByte pa else memRead s.mem pa

/-- The bytes of a part, where its page may be fetched from. -/
def FetchPart.bytes (s : State) (p : FetchPart) : List Byte :=
  match p.tr with
  | .ok pa leaf => (List.range p.n).map fun i => fetchByte s (pa + i) leaf.cls
  | _ => []

/-- The verdict of a part: its page, and a poisoned line, which a fetch consumes (R133). -/
def FetchPart.verdict (s : State) (p : FetchPart) : Verdict :=
  match p.tr with
  | .ok pa leaf =>
    Verdict.poisonIf (leaf.cls != 4 && ((List.range p.n).any fun i => lineBad s ((pa + i) / 64)))
  | t => t.verdict p.va

/-- The verdict and the bytes of some parts. -/
def fetchAll (s : State) (ps : List FetchPart) : Verdict × List Byte :=
  (ps.foldl (fun v p => v.and (p.verdict s)) Verdict.ok, ps.flatMap (FetchPart.bytes s))

/-- The instruction unit at a pc (R220): word 0 gives the length, and every byte of the unit must be fetched. R4 and R262 give a
pc that is not a multiple of 4, which a ret can fill from memory, no effect of its own: the unit is then the bytes from that pc on
(DESIGN CHOICE, log 17). -/
def fetchUnit (s : State) (core : Nat) (l : Launch) (pc : Nat) : Verdict × List Byte :=
  let first := fetchAll s (fetchParts s core l pc 4)
  match takeWord first.2 with
  | none => first
  | some (w, _) => if unitLength w = 4 then first else fetchAll s (fetchParts s core l pc (unitLength w))

/-- Lines of device memory that a unit lies in, where it may be fetched. -/
def codeLines (s : State) (core : Nat) (l : Launch) (pc n : Nat) : List Nat :=
  nub ((fetchParts s core l pc n).flatMap fun p => match p.tr with
    | .ok pa leaf => if leaf.cls = 4 then [] else (List.range p.n).map fun i => (pa + i) / 64
    | _ => [])

/-- The instruction cache holds a line that a fetch has used, and drops the least recently used one beyond its 64 KiB (R142, log
43). -/
def useCode (s : State) (c line : Nat) : State :=
  modCore s c fun k =>
    let kept := k.icache.filter fun e => e.line != line
    let kept := if kept.length < Config.icacheLines then kept else
      match kept.foldl (fun (m : Option CodeLine) e => match m with
        | some x => if e.used < x.used then some e else m
        | none => some e) none with
      | some old => kept.filter fun e => e.line != old.line
      | none => kept
    { k with clock := k.clock + 1, icache := { line := line, used := k.clock + 1 } :: kept }

/-- The lines of the unit at a pc have been fetched. -/
def fetchedCode (s : State) (c : Nat) (l : Launch) (pc : Nat) : State :=
  (codeLines s c l pc (fetchUnit s c l pc).2.length).foldl (fun t n => useCode t c n) s

/-- What a bundle's fetch leads to: the state after a fault, a trap or a kill, or an instruction to execute. -/
inductive Fetched where
  | stop (s : State)
  | run (i : Instr)

/-- Parked strands of a bundle that traps go on as Running ones. -/
def unpark (s : State) (ks : List Nat) : State :=
  ks.foldl (fun t k => if (strandAt t k).cond == .parked then setCond t k .running else t) s

/-- A page fault of the fetch stalls every strand of the bundle (R220); a Parked one is Parked again once it is served. -/
def stallFetch (s : State) (b : Bundle) (vas : List Nat) : State :=
  b.strands.foldl (fun t k =>
    if (strandAt s k).cond == .parked then setCond (stallFault t k vas .fetch) k (.stalled (.draw vas .fetch))
    else stallFault t k vas .fetch) s

/-- ILLEGAL acts on every strand of the bundle, whatever its guard (R238); its detail is word 0 (R354). -/
def illegalTrap (s : State) (b : Bundle) (bytes : List Byte) : State :=
  b.strands.foldl (fun t k => trapEntry t k .illegal b.pc (BitVec.ofNat 64 (leNat (bytes.take 4)))) (unpark s b.strands)

/-- Fetch and decode the instruction of a bundle (R220, R237). -/
def fetchInstr (s : State) (b : Bundle) : Fetched :=
  let l := launchOf s (blockAt s b.block)
  let (v, bytes) := fetchUnit s b.core l b.pc.toNat
  match decideAll b.strands (fun _ => v) with
  | .go =>
    match decode bytes with
    | .ok (i, _) => .run i
    | .error _ => .stop (executed s (illegalTrap (issued s) b bytes))
  | .faults vas => .stop (executed s (stallFetch (issued s) b vas))
  | d => .stop (executed s (act (unpark (logWalks (issued s) b.core [v]) b.strands) b 0 [] b.strands .fetch d id))

/-- The instruction that a bundle would execute, where its fetch and decoding succeed. -/
def peek (s : State) (b : Bundle) : Option (Stem × Code) :=
  let (v, bytes) := fetchUnit s b.core (launchOf s (blockAt s b.block)) b.pc.toNat
  match decideAll b.strands (fun _ => v), decode bytes with
  | .go, .ok (i, _) => i.view
  | _, _ => none

end Sys2Proof.Machine
end

