-- ==== Sys2Proof/Machine/Tiles.lean ====
section
/-! DEFINITION. Tiles and copy commands (R159 to R161, R166, R323 to R331): descriptors, elements, the issue of the
instructions, and what the copy engine does with a command. -/

namespace Sys2Proof.Machine

/-! ## Descriptors (R324, R325) -/

/-- The element types of tiles. -/
def tileTypes : List (BitVec 4) := [Ty.i32, Ty.f32, Ty.f16, Ty.bf16, Ty.k8, Ty.o4]

/-- The checks of a descriptor (R325). -/
def descCheck (s : State) (b : Nat) (d : DWord) : Verdict :=
  let reserved := d.extractLsb' 54 10 != 0 || d.extractLsb' 22 4 != 0
  (Verdict.trapIf (reserved || !tileTypes.contains (tileTy d) || (tileTy d == Ty.o4 && tileCols d % 2 == 1)) .tilestate).and
    ((Verdict.trapIf (tileOff d % 64 != 0) .align).and
      (Verdict.trapIf (decide ((blockAt s b).padBytes < tileOff d + tileSize d)) .xrange))

/-- The number of a tile operand. -/
def tileNumber : Operand → Nat
  | .t i => i.toNat
  | _ => 0

/-- Change a bound tile. -/
def modTile (s : State) (b n : Nat) (f : Tile → Tile) : State := modBlock s b fun y => { y with tiles := tmod y.tiles n f }

/-- A tile leaves Filling or Draining: its waiters run their instructions again. -/
def wakeTile (s : State) (b n : Nat) : State :=
  wakeWhere s (blockStrands s b) fun c => c == .waiting (.tile n)

/-- Entries of the core's tile table that are bound (R159). -/
def boundTiles (s : State) (core : Nat) : Nat :=
  ((s.blocks.filter fun p => p.1 / 4 == core).map fun p => p.2.tiles.length).sum

/-- A tile in Filling or Draining makes the instruction wait (R160). -/
def tileBusy (s : State) (b n : Nat) : Bool :=
  match tileAt s b n with
  | some t => t.state == .filling || t.state == .draining
  | none => false

/-- A participant of a sheaf other than the one with the lowest `%sheaf` that names its tile (R323). -/
def notLowestSheaf (s : State) (ps : List Nat) (k : Nat) : Bool :=
  match (sheavesOf s ps).head? with
  | some f => f != sheafOf k
  | none => false

/-- The participants of the bundle that stands to execute. -/
def currentPs (s : State) (g : Guard) : List Nat := participants s (s.ctl.bundle.getD { core := 0, block := 0, pc := 0, strands := [] }) g

/-- Make every participant wait for a tile, with no part of the instruction taking effect (R323). -/
def waitTile (s : State) (ps : List Nat) (n : Nat) : State := ps.foldl (fun t k => setCond t k (.waiting (.tile n))) s

/-! ## tdef, tfree, tmark, tstat (R326) -/

/-- The checks of tdef. -/
def tdefCheck (ps : List Nat) (x : Three) (s : State) (k : Nat) : Verdict :=
  let b := blockOf s k
  let d := valueAt .tdef x s k .b
  ((descCheck s b (BitVec.ofNat 64 d.1)).and
    (Verdict.trapIf ((tileAt s b (tileNumber x.a)).isSome || notLowestSheaf s ps k) .tilestate)).and (Verdict.poisonIf d.2)

/-- tdef of one sheaf (R326). -/
def tdefSheaf (x : Three) (s : State) (part : List Nat) (f : Nat) : State :=
  let b := (sheafAt s f).block
  let free := boundTiles s (f / 64) < Config.tileEntries
  let d := BitVec.ofNat 64 (valueAt .tdef x s (part.headD 0) .b).1
  let t := if free then modBlock s b fun y =>
      { y with tiles := tset y.tiles (tileNumber x.a) { desc := d, state := .empty, f := false, p := false, ec := 0 } }
    else s
  part.foldl (fun t k => writeP t k (predNumber x.d) free) t

/-- tdef (R326). -/
def tdefRun (code : Code) (s : State) : State :=
  let ps := currentPs s (code.norm .tdef).g
  sheafRun .tdef code (tdefCheck ps)
    (fun x t _ ps => advanceAll ((sheavesOf t ps).foldl (fun u f => tdefSheaf x u (partOf ps f) f) t) code.len ps) s

/-- The checks of an instruction that names a bound tile: the lowest sheaf alone may name it (R323). -/
def boundCheck (ps : List Nat) (x : Three) (s : State) (k : Nat) : Verdict :=
  Verdict.trapIf ((tileAt s (blockOf s k) (tileNumber x.a)).isNone || notLowestSheaf s ps k) .tilestate

/-- tfree (R326). -/
def tfreeRun (code : Code) (s : State) : State :=
  let ps := currentPs s (code.norm .tfree).g
  sheafRun .tfree code (boundCheck ps)
    (fun x t b ps =>
      let n := tileNumber x.a
      if tileBusy t b.block n then waitTile t ps n
      else if ps.isEmpty then t
      else advanceAll (modBlock t b.block fun y => { y with tiles := terase y.tiles n }) code.len ps) s

/-- Bytes 0x00 to 0x0F of the header of a descriptor (R324). -/
def headerBytes (d : DWord) : List Byte :=
  leBytes 2 (tileRows d) ++ leBytes 2 (tileCols d) ++ [(tileTy d).setWidth 8] ++ List.replicate 11 0

/-- tmark of one sheaf (R326): the header but for the book, status cleared, Ready. -/
def tmarkTile (s : State) (b n : Nat) : State :=
  match tileAt s b n with
  | some t =>
    let off := tileOff t.desc
    let u := writePad (writePad s b off (headerBytes t.desc) false) b (off + 0x20) (List.replicate 32 0) false
    modTile u b n fun t => { t with state := .ready, f := false, p := false, ec := 0 }
  | none => s

/-- tmark (R326). -/
def tmarkRun (code : Code) (s : State) : State :=
  let ps := currentPs s (code.norm .tmark).g
  sheafRun .tmark code (boundCheck ps)
    (fun x t b ps =>
      let n := tileNumber x.a
      if tileBusy t b.block n then waitTile t ps n
      else if ps.isEmpty then t
      else advanceAll (tmarkTile t b.block n) code.len ps) s

/-- The code of a tile state (R326). -/
def TileState.code : TileState → Nat
  | .empty => 0
  | .filling => 1
  | .ready => 2
  | .draining => 3

/-- The status word (R326). -/
def tileStatus : Option Tile → Nat
  | none => 0
  | some t => t.state.code + 4 + (if t.p then 8 else 0) + (if t.f then 16 else 0) + 32 * t.ec

/-- tstat (R326): it writes each participant, whose own destination is checked (R323). -/
def tstatRun (code : Code) (s : State) : State :=
  let x := code.norm .tstat
  executed s (runBundle s x.g code.len .read (fun t k => Verdict.trapIf (rangeFails .tstat x t k) .regrange) fun t b ps =>
    advanceAll (ps.foldl (fun u k =>
      writeOperand u k Ty.b32 x.d (tileStatus (tileAt t b.block (tileNumber x.a))) false) t) code.len ps)

/-! ## Stored formats (R327, R328) -/

/-- STRIDE of a format descriptor. -/
def fmtStride (f : DWord) : Nat := (f.extractLsb' 32 32).toNat
/-- TRN. -/
def fmtTrn (f : DWord) : Bool := f.getLsbD 8
/-- STY. -/
def fmtSty (f : DWord) : BitVec 4 := f.extractLsb' 4 4
/-- FMT. -/
def fmtKind (f : DWord) : Nat := (f.extractLsb' 0 4).toNat

/-- Bytes of a stored element. -/
def styBytes (f : DWord) : Nat := tyWidth (fmtSty f) / 8

/-- A floating type of tiles: o4 too. -/
def floatTile (ty : BitVec 4) : Bool := tyFloat ty || ty == Ty.o4

/-- The checks of a format against a command and its tile (R327, R328, R330). -/
def formatCheck (kind : CopyKind) (ty : BitVec 4) (desc f : DWord) (va : Nat) : Verdict :=
  let t := tileTy desc
  let sty := fmtSty f
  let z := styBytes f
  let denseTypes : List (BitVec 4) := [Ty.f32, Ty.f16, Ty.bf16, Ty.k8, Ty.i8, Ty.i32]
  let styOk := match fmtKind f with
    | 0 => sty == 0 && fmtStride f == 0 && !fmtTrn f
    | 1 => denseTypes.contains sty
    | 2 => (sty == Ty.k8 || sty == Ty.i8) && !fmtTrn f && tileCols desc % 32 == 0 && kind == .cpy
    | _ => false
  let convertOk := fmtKind f == 0 || (match kind with
    | .cpy => t != Ty.i32 || sty == Ty.i32 || sty == Ty.i8
    | _ => if t == Ty.i32 then sty == Ty.i32 || sty == Ty.i8 else floatTile t && tyFloat sty)
  let cprOk := kind != .cpr || (fmtKind f == 1 && t == ty && sty == ty)
  let misaligned := match fmtKind f with
    | 0 => va % 64 != 0
    | 1 => z != 0 && (va % z != 0 || fmtStride f % z != 0)
    | 2 => va % 4 != 0 || fmtStride f % 4 != 0
    | _ => false
  (Verdict.trapIf (f.extractLsb' 9 23 != 0 || !styOk || !convertOk || !cprOk) .tilestate).and
    (Verdict.trapIf misaligned .align)

/-- The stem of a copy command. -/
def copyKind (stem : Stem) : CopyKind :=
  match stem with
  | .cpy => .cpy
  | .cpo => .cpo
  | _ => .cpr

/-- The address of a copy command, which must be global (R305). -/
def copyVa (stem : Stem) (x : Three) (s : State) (k : Nat) : Option Nat × Bool :=
  match memTarget stem x s k with
  | (.global va, p) => (some va, p)
  | (_, p) => (none, p)

/-- The checks of cpy, cpo and cpr at issue (R330). -/
def copyCheck (stem : Stem) (ps : List Nat) (x : Three) (s : State) (k : Nat) : Verdict :=
  let b := blockOf s k
  let (va, p1) := copyVa stem x s k
  let (f, p2) := valueAt stem x s k .c
  let tile : Verdict := match tileAt s b (tileNumber x.d) with
    | none => Verdict.trap .tilestate
    | some t =>
      (formatCheck (copyKind stem) x.ty t.desc (BitVec.ofNat 64 f) (targetVa (memTarget stem x s k).1)).and
        (Verdict.trapIf (stem != .cpy && t.state == .empty) .tilestate)
  let shared := notLowestSheaf s ps k
  (((Verdict.trapIf (rangeFails stem x s k) .regrange).and tile).and
    ((Verdict.trapIf shared .tilestate).and (Verdict.trapIf va.isNone .prot))).and (Verdict.poisonIf (p1 || p2))

/-- Enter a command of a sheaf into the queue (R166, R330). Its CH goes with what the engine reads and writes at the homes: those are
the lines that it installs (R307; DESIGN CHOICE, log 15: the manual does not name them). -/
def enqueueCopy (stem : Stem) (x : Three) (s : State) (k : Nat) : State :=
  let f := sheafOf k
  let b := (sheafAt s f).block
  let n := tileNumber x.d
  let (id, t) := fresh s
  let cmd : CopyCmd :=
    { kind := copyKind stem, block := b, sheaf := f, tile := n, va := ((copyVa stem x s k).1).getD 0,
      fmt := BitVec.ofNat 64 (valueAt stem x s k .c).1, ty := x.ty, hint := x.ch.toNat, op := id, started := false, lines := [],
      awaited := 0, image := [], imagePoison := [], seen := [], touched := [], places := [], poison := false, fault := none, ec := 0 }
  let t := modTile t b n fun y =>
    { y with state := if stem == .cpy then .filling else .draining, f := false, p := false, ec := 0 }
  let t := modSheaf t f fun y => { y with copies := y.copies + 1 }
  let t := if stem == .cpy then t else modBlock t b fun y =>
    { y with ops := y.ops ++ [{ id := id, kind := .copy, sourceRead := false, count := 0, hint := x.ch.toNat }] }
  modCore t (b / 4) fun c => { c with queue := c.queue ++ [cmd] }

/-- cpy, cpo and cpr (R330): a busy tile waits, a full queue stalls, else the command enters the queue. -/
def copyRun (stem : Stem) (code : Code) (s : State) : State :=
  let ps := currentPs s (code.norm stem).g
  sheafRun stem code (copyCheck stem ps)
    (fun x t b ps =>
      let n := tileNumber x.d
      let fs := sheavesOf t ps
      if tileBusy t b.block n then waitTile t ps n
      else if (coreAt t b.core).queue.length + fs.length > Config.copyQueue then
        ps.foldl (fun u k => setCond u k (.stalled .copyQueue)) t
      else advanceAll (fs.foldl (fun u f => enqueueCopy stem x u ((partOf ps f).headD 0)) t) code.len ps) s

/-! ## Elements -/

/-- A value with the poison of what it was built from. -/
structure Elem where
  value : FVal
  bits : Nat
  poison : Bool
  deriving DecidableEq, Repr

/-- Bytes of a block's scratchpad as a number, and the poison of their granules. -/
def padNumber (s : State) (b off n : Nat) : Nat × Bool := padValue s b off n

/-- The outlier book of a tile (R324). -/
def bookOf (s : State) (b : Nat) (d : DWord) : Nat → Nat := fun i => (readPad s b (tileOff d + 0x10 + i)).1.toNat

/-- Element (r, c) of a tile in the scratchpad (R203, R324). -/
def tileElem (s : State) (b : Nat) (d : DWord) (r c : Nat) : Elem :=
  let ty := tileTy d
  let row := tileOff d + 0x40 + r * pitchOf (tileCols d) ty
  if ty == Ty.o4 then
    let (byte, p) := padNumber s b (row + c / 2) 1
    let v := o4Value (bookOf s b d) (c % 2 == 0) (byte % 16) (byte / 16 % 16)
    let pb := (readPad s b (tileOff d + 0x10 + (if byte % 16 == 8 then byte / 16 % 16 else byte % 16))).2
    { value := v, bits := 0, poison := p || ((byte % 16 == 8 || byte / 16 % 16 == 8) && pb) }
  else
    let n := tyWidth ty / 8
    let (bits, p) := padNumber s b (row + c * n) n
    let v := if ty == Ty.i32 then FVal.ofFrac (.ofInt (signedOf bits 32)) false else (fmtOf ty).value bits
    { value := v, bits := bits, poison := p }

/-- The coordinates of a tile's elements in row-major order. -/
def coordsOf (rows cols : Nat) : List (Nat × Nat) :=
  (List.range rows).flatMap fun r => (List.range cols).map fun c => (r, c)

/-- The address of a stored element (R327), dense or scaled. -/
def storedVa (cmd : CopyCmd) (r c : Nat) : Nat :=
  let f := cmd.fmt
  match fmtKind f with
  | 2 => cmd.va + r * fmtStride f + c / 32 * 36 + c % 32
  | _ => if fmtTrn f then cmd.va + c * fmtStride f + r * styBytes f else cmd.va + r * fmtStride f + c * styBytes f

/-- The address of the scale of an element's group (R327). -/
def scaleVa (cmd : CopyCmd) (r c : Nat) : Nat := cmd.va + r * fmtStride cmd.fmt + c / 32 * 36 + 32

/-- The bytes of memory that a command reads or writes, as pairs of first address and length. -/
def copyRanges (cmd : CopyCmd) (d : DWord) : List (Nat × Nat) :=
  match fmtKind cmd.fmt with
  | 0 => [(cmd.va, tileSize d)]
  | 2 => (List.range (tileRows d)).map fun r => (cmd.va + r * fmtStride cmd.fmt, tileCols d / 32 * 36)
  | _ =>
    if fmtTrn cmd.fmt then
      (List.range (tileCols d)).map fun c => (cmd.va + c * fmtStride cmd.fmt, tileRows d * styBytes cmd.fmt)
    else (List.range (tileRows d)).map fun r => (cmd.va + r * fmtStride cmd.fmt, tileCols d * styBytes cmd.fmt)

/-- Insert a number in ascending order, once. -/
def ninsert (k : Nat) : List Nat → List Nat
  | [] => [k]
  | j :: js => if k < j then k :: j :: js else if k = j then j :: js else j :: ninsert k js

/-- The virtual lines of a command in ascending order. -/
def copyLines (cmd : CopyCmd) (d : DWord) : List Nat :=
  (copyRanges cmd d).foldl (fun ls p =>
    (List.range ((p.1 + p.2 + 63) / 64 - p.1 / 64)).foldl (fun ls i => ninsert (p.1 / 64 + i) ls) ls) []

/-- The launch of a command's block. -/
def copyLaunch (s : State) (cmd : CopyCmd) : Launch := launchOf s (blockAt s cmd.block)

/-- The translation of a virtual line for a command (R331), through the copy engine's own TLB (R166), but not of the window, which
is never walked (R305). -/
def copyTranslate (s : State) (cmd : CopyCmd) (line : Nat) : Trans :=
  if Config.windowBase ≤ 64 * line then .prot none
  else
    let tr := translateBy s (.engine (cmd.block / 4)) (copyLaunch s cmd) (64 * line) (if cmd.kind == .cpy then .engine else .write)
    if tr.leaf.any fun x => x.cls == 3 || x.cls == 4 then .prot none else tr

/-- The first virtual line of a command that does not translate, with what it met. -/
def copyObstacle (s : State) (cmd : CopyCmd) (lines : List Nat) : Option (Nat × Trans) :=
  lines.findSome? fun line => match copyTranslate s cmd line with
    | .ok _ _ => none
    | tr => some (line, tr)

/-- Lines of a command as the engine translates them now: virtual line, physical address, class. -/
def placesOf (s : State) (cmd : CopyCmd) (lines : List Nat) : List (Nat × Nat × Nat) :=
  lines.filterMap fun line => match copyTranslate s cmd line with
    | .ok pa leaf => some (line, pa, leaf.cls)
    | _ => none

/-- A byte of a command's source, of the lines that its homes have sent (R190). -/
def sourceByte (cmd : CopyCmd) (va : Nat) : Byte × Bool :=
  match cmd.lines.find? fun l => l.1 == va / 64 with
  | some l => (l.2.1.getD (va % 64) 0, l.2.2)
  | none => (0, false)

/-- A number in a command's source. -/
def sourceNumber (cmd : CopyCmd) (va n : Nat) : Nat × Bool :=
  let bs := (List.range n).map fun i => sourceByte cmd (va + i)
  (leNat (bs.map (·.1)), bs.any (·.2))

/-- The value that bits of a stored type stand for. -/
def storedValue (ty : BitVec 4) (bits : Nat) : FVal :=
  if tyFloat ty then (fmtOf ty).value bits else FVal.ofFrac (.ofInt (signedOf bits (tyWidth ty))) false

/-- A stored element, times its group's scale where scaled, exactly (R328). -/
def sourceElem (cmd : CopyCmd) (r c : Nat) : Elem :=
  let sty := fmtSty cmd.fmt
  let (bits, p) := sourceNumber cmd (storedVa cmd r c) (styBytes cmd.fmt)
  if fmtKind cmd.fmt = 2 then
    let (sc, p2) := sourceNumber cmd (scaleVa cmd r c) 4
    { value := ((storedValue sty bits).mul (f32.value sc)).1, bits := bits, poison := p || p2 }
  else { value := storedValue sty bits, bits := bits, poison := p }

/-! ## Building o4 (R329) -/

/-- What an o4 element is: a number from −7 to 7, or an outlier with a K8 code. -/
inductive O4 where
  | small (n : Int)
  | outlier (code : Nat)
  deriving DecidableEq, Repr

/-- Classify a value (R329). -/
def o4Of (v : FVal) : O4 :=
  match v with
  | .zero _ => .small 0
  | .fin x =>
    let n := roundInt x .rn
    if -7 ≤ n && n ≤ 7 then .small n else .outlier (roundF v k8Fmt .rn).1
  | _ => .outlier (roundF v k8Fmt .rn).1

/-- The book positions in the order they are assigned. -/
def bookOrder : List Nat := [0, 1, 2, 3, 4, 5, 6, 7, 9, 10, 11, 12, 13, 14, 15]

/-- The book entry nearest to a code (R329): NaN only to NaN, else index 0; ties to the lowest index. -/
def nearestEntry (book : List (Nat × Nat)) (code : Nat) : Nat :=
  match k8Fmt.value code with
  | .nan => 0
  | v =>
    let dist (c : Nat) : Option Frac := match k8Fmt.value c with
      | .nan => none
      | w => some (v.frac.sub w.frac).abs
    ((book.foldl (fun (best : Option (Nat × Frac)) e =>
      match dist e.2, best with
      | some x, some (_, y) => if x.lt y then some (e.1, x) else best
      | some x, none => some (e.1, x)
      | none, _ => best) none).map (·.1)).getD 0

/-- The index of an outlier's code in the book, entering it while there is room (R329). -/
def bookIndex (book : List (Nat × Nat)) (code : Nat) : Nat × List (Nat × Nat) :=
  match book.find? fun e => e.2 == code with
  | some e => (e.1, book)
  | none =>
    if h : book.length < bookOrder.length then
      (bookOrder[book.length], book ++ [(bookOrder[book.length], code)])
    else (nearestEntry book code, book)

/-- The four bits of a small value: sign and magnitude. -/
def o4Bits (n : Int) : Nat := if n < 0 then 8 + n.natAbs else n.natAbs

/-- The byte of a pair (R329). Of two outliers the odd one is lost, and its code enters the book all the same (DESIGN CHOICE, log 66). -/
def o4Pair (book : List (Nat × Nat)) (even odd : O4) : Nat × List (Nat × Nat) :=
  match even, odd with
  | .small a, .small b => (o4Bits a + 16 * o4Bits b, book)
  | .outlier c, .small _ => let (i, bk) := bookIndex book c; (8 + 16 * i, bk)
  | .outlier c, .outlier e =>
    let (i, bk) := bookIndex book c
    (8 + 16 * i, (bookIndex bk e).2)
  | .small _, .outlier c => let (i, bk) := bookIndex book c; (i + 16 * 8, bk)

/-- The bytes of a list of o4 values, pair by pair, and the book after them. -/
def o4Bytes (book : List (Nat × Nat)) : List O4 → List Byte × List (Nat × Nat)
  | a :: b :: rest =>
    let (x, bk) := o4Pair book a b
    let (bs, bk') := o4Bytes bk rest
    (BitVec.ofNat 8 x :: bs, bk')
  | _ => ([], book)

/-- The rows of an o4 tile, one book for all. -/
def o4Rows (book : List (Nat × Nat)) : List (List O4) → List (List Byte) × List (Nat × Nat)
  | [] => ([], book)
  | r :: rs =>
    let (bs, bk) := o4Bytes book r
    let (rest, bk') := o4Rows bk rs
    (bs :: rest, bk')

/-! ## What cpy builds (R324, R328, R330) -/

/-- Bytes filled up with zeros to a length. -/
def padTo (n : Nat) (bs : List Byte) : List Byte := bs ++ List.replicate (n - bs.length) 0

/-- The bits of an element in a tile of a type other than o4. -/
def elemBits (ty : BitVec 4) (e : Elem) : Nat :=
  if ty == Ty.i32 then intBitsOf e.value else (roundF e.value (fmtOf ty) .rn).1
where
  /-- An exact value as a 32-bit integer. Of one that a scale has made no integer, or put out of range, its floor modulo 2^32 (DESIGN
  CHOICE, log 66: R328 says only that it is exact). -/
  intBitsOf (v : FVal) : Nat := (v.frac.num / (v.frac.den : Int) % (2 ^ 32 : Int)).toNat

/-- The image of a tile from stored data that is not canonical: its bytes, and per byte the poison of its element; of a book
entry, that of the elements that it stands for. -/
def builtImage (cmd : CopyCmd) (d : DWord) : List Byte × List Bool :=
  let ty := tileTy d
  let cols := tileCols d
  let pitch := pitchOf cols ty
  let elems := (List.range (tileRows d)).map fun r => (List.range cols).map fun c => sourceElem cmd r c
  let (rows, book) :=
    if ty == Ty.o4 then o4Rows [] (elems.map fun row => row.map fun e => o4Of e.value)
    else (elems.map fun row => row.flatMap fun e => leBytes (tyWidth ty / 8) (elemBits ty e), [])
  let bookBytes := (List.range 16).map fun i => BitVec.ofNat 8 ((book.find? fun e => e.1 == i).map (·.2) |>.getD 0)
  let header := headerBytes d ++ bookBytes ++ List.replicate 32 0
  let rowPoison (row : List Elem) : List Bool := (List.range pitch).map fun i =>
    row.zipIdx.any fun p => p.1.poison && decide (p.2 * tyWidth ty / 8 ≤ i) && decide (8 * i < (p.2 + 1) * tyWidth ty)
  let entryPoison (i : Nat) : Bool := elems.flatten.any fun e => e.poison && match o4Of e.value with
    | .outlier c => ty == Ty.o4 && (bookIndex book c).1 == i
    | _ => false
  (header ++ (rows.map (padTo pitch)).flatten,
    List.replicate 16 false ++ (List.range 16).map entryPoison ++ List.replicate 32 false ++ (elems.map rowPoison).flatten)

/-- The image that cpy copies unchanged from a canonical source. -/
def canonicalImage (cmd : CopyCmd) (d : DWord) : List Byte × List Bool :=
  let bs := (List.range (tileSize d)).map fun i => sourceByte cmd (cmd.va + i)
  (bs.map (·.1), bs.map (·.2))

/-- A canonical header that does not agree with a descriptor (R331). -/
def headerMismatch (bs : List Byte) (d : DWord) : Bool :=
  bs.take 5 != (headerBytes d).take 5 || (bs.drop 5).take 11 != List.replicate 11 0
    || (bs.drop 0x20).take 32 != List.replicate 32 0

/-- The image of a cpy. -/
def copyImage (cmd : CopyCmd) (d : DWord) : List Byte × List Bool :=
  if fmtKind cmd.fmt = 0 then canonicalImage cmd d else builtImage cmd d

/-! ## What cpo and cpr write (R328, R330) -/

/-- The bits that cpo stores for an element. -/
def outBits (sty ty : BitVec 4) (e : Elem) : Nat :=
  if ty == Ty.i32 then
    (if sty == Ty.i8 then ((satInt (signedOf e.bits 32) Ty.i8).1 % (2 ^ 8 : Int)).toNat else e.bits)
  else (roundF e.value (fmtOf sty) .rn).1

/-- The bytes that cpo writes, by virtual address, the last element standing, and the addresses built from poison. Elements go in the
order of the tile's rows, with TRN too (DESIGN CHOICE, log 66: R330 says only 'ascending element order'). -/
def outBytes (s : State) (cmd : CopyCmd) (d : DWord) : Tab Byte × List Nat :=
  if fmtKind cmd.fmt = 0 then
    let bs := (List.range (tileSize d)).map fun i => readPad s cmd.block (tileOff d + i)
    (setBytes [] cmd.va (bs.map (·.1)), bs.zipIdx.filterMap fun p => if p.1.2 then some (cmd.va + p.2) else none)
  else
    let sty := fmtSty cmd.fmt
    let z := styBytes cmd.fmt
    (coordsOf (tileRows d) (tileCols d)).foldl (fun acc p =>
      let e := tileElem s cmd.block d p.1 p.2
      let va := storedVa cmd p.1 p.2
      (setBytes acc.1 va (leBytes z (outBits sty (tileTy d) e)), if e.poison then va :: acc.2 else acc.2)) ([], [])

/-- The elements that cpr adds, in ascending stored address: address, bits, poison. -/
def outElems (s : State) (cmd : CopyCmd) (d : DWord) : List (Nat × Nat × Bool) :=
  let es := (coordsOf (tileRows d) (tileCols d)).map fun p =>
    let e := tileElem s cmd.block d p.1 p.2
    (storedVa cmd p.1 p.2, e.bits, e.poison)
  es.foldl (fun acc e => acc.takeWhile (fun x => decide (x.1 ≤ e.1)) ++ e :: acc.dropWhile (fun x => decide (x.1 ≤ e.1))) []

/-- The scratchpad as a cpo or cpr reads it: of granules that it had read before a store to them, what it read (R389). -/
def engineView (s : State) (cmd : CopyCmd) : State :=
  modBlock s cmd.block fun y =>
    { y with pad := cmd.image.foldl (fun t p => tset t p.1 p.2) y.pad,
             padPoison := (nub (cmd.image.map fun p => p.1 / 8)).foldl (fun l g =>
               if cmd.imagePoison.contains g then sinsert g l else sremove g l) y.padPoison }

/-- What cpo writes of one line at its home (R190), and whether it is built from poison. -/
def outLine (s : State) (cmd : CopyCmd) (bytes : Tab Byte) (bad : List Nat) (place : Nat × Nat × Nat) : Option (Msg × Bool) :=
  let (line, pa, cls) := place
  let mine := bytes.filter fun p => p.1 / 64 == line
  let poison := bad.any fun a => a / 64 == line
  if mine.isEmpty then none
  else some (.engineWrite (homeSlice s (pa / 64)) (pa / 64) (mine.map fun p => (p.1 % 64, p.2)) poison (.engine cmd.block cmd.op) s.now cls,
             poison)

/-- What cpr adds to one line: one message, in ascending address (R189, R330), and whether it is built from poison. -/
def addLine (s : State) (cmd : CopyCmd) (es : List (Nat × Nat × Bool)) (place : Nat × Nat × Nat) : Option (Msg × Bool) :=
  let (line, pa, cls) := place
  let ops := (es.filter fun e => e.1 / 64 == line).map fun e =>
    ({ strand := 0, pa := pa + e.1 % 64, op := .add, ty := cmd.ty, value := BitVec.ofNat 64 e.2.1, expected := 0,
       poison := e.2.2 } : LaneOp)
  if ops.isEmpty then none
  else some (.red (homeSlice s (pa / 64)) (.engine cmd.block cmd.op) ops s.now cls, ops.any (·.poison))

/-- The messages of a cpo or cpr for the lines that it translated at its start (R331), each with its poison. -/
def outMessages (s : State) (cmd : CopyCmd) (d : DWord) : List (Msg × Bool) :=
  let v := engineView s cmd
  match cmd.kind with
  | .cpy => []
  | .cpo => cmd.places.filterMap (outLine v cmd (outBytes v cmd d).1 (outBytes v cmd d).2)
  | .cpr => cmd.places.filterMap (addLine v cmd (outElems v cmd d))

/-- A message of the engine as it leaves, at its line's home and with its age (R55). -/
def launchWrite (s : State) : Msg → Msg
  | .engineWrite _ line data po n _ cls => .engineWrite (homeSlice s line) line data po n s.now cls
  | .red _ n ops _ cls => .red (homeSlice s (opsLineOf ops)) n ops s.now cls
  | m => m
where
  /-- The line of some updates. -/
  opsLineOf (ops : List LaneOp) : Nat := (ops.headD ⟨0, 0, .add, 0, 0, 0, false⟩).pa / 64

/-- What a command writes waits to leave the engine, line by line (R166); its completion times are to come (R191). -/
def queueWrites (s : State) (core : Nat) (cmd : CopyCmd) (ms : List Msg) : State :=
  let t := modBlock s cmd.block fun y => { y with ops := y.ops.map fun o =>
    if o.id == cmd.op then { o with count := o.count + ms.length } else o }
  modCore t core fun c => { c with writes := c.writes ++ ms.map fun m => (cmd.block, cmd.op, m) }

/-- The engine sends its next line (R166). -/
def sendWrite (s : State) (core : Nat) : State :=
  match (coreAt s core).writes with
  | [] => s
  | w :: rest => post (modCore s core fun c => { c with writes := rest }) (launchWrite s w.2.2)

/-! ## The engine's steps (R166, R191, R331) -/

/-- Set fields of the command at the head of a core's queue. -/
def modHead (s : State) (core : Nat) (f : CopyCmd → CopyCmd) : State :=
  modCore s core fun c => { c with queue := match c.queue with
    | cmd :: rest => f cmd :: rest
    | [] => [] }

/-- Kill the gang of a command and drop it (R133, R69). -/
def killCopy (s : State) (core : Nat) (cmd : CopyCmd) (cls : RasClass) : State :=
  modCore (startKill s (blockAt s cmd.block).gang (some cls) false (locCore core)) core fun c => { c with queue := c.queue.drop 1 }

/-- The descriptor of a command's tile. -/
def cmdDesc (s : State) (cmd : CopyCmd) : DWord := ((tileAt s cmd.block cmd.tile).map (·.desc)).getD 0

/-- A canonical cpy whose header has not come yet: it is read and judged before any other line (R324, R331). -/
def headerFirst (cmd : CopyCmd) : Bool := cmd.kind == .cpy && fmtKind cmd.fmt = 0 && cmd.lines.isEmpty

/-- The virtual lines that a command goes to next: of a canonical cpy its header's alone, then the others. -/
def nextLines (s : State) (cmd : CopyCmd) : List Nat :=
  let lines := copyLines cmd (cmdDesc s cmd)
  if headerFirst cmd then lines.take 1 else lines.drop cmd.lines.length

/-- A cpy's header has come and does not agree with its tile (R331). -/
def headerFails (s : State) (cmd : CopyCmd) : Bool :=
  cmd.kind == .cpy && fmtKind cmd.fmt = 0 && !cmd.lines.isEmpty && headerMismatch (copyImage cmd (cmdDesc s cmd)).1 (cmdDesc s cmd)

/-- Begin on lines that translate: a cpy asks the homes for them (R190), a cpo or cpr keeps where they are. -/
def askLines (s : State) (core : Nat) (cmd : CopyCmd) (places : List (Nat × Nat × Nat)) : State :=
  if cmd.kind == .cpy then
    let t := places.foldl (fun u p =>
      post u (.engineRead (homeSlice u (p.2.1 / 64)) (p.2.1 / 64) core cmd.op p.1 u.now p.2.2)) s
    modHead t core fun c => { c with started := !headerFirst cmd, awaited := places.length }
  else modHead s core fun c => { c with started := true, places := places }

/-- The lines that the engine has translated stay in its TLB (R166). -/
def noteEngineWalks (s : State) (core : Nat) (cmd : CopyCmd) (lines : List Nat) : State :=
  lines.foldl (fun t line => fillEngineTlb t core (copyLaunch s cmd) (64 * line)) s

/-- The engine starts the command at the head of its queue (R166), or goes on with it once its header has come: it translates
every line, once, and stalls on a page fault, or waits for a link (R21); a cpy asks the homes for its source. A command that meets a line
that it may not access, or a header that does not agree, ends there, after the lines before it (R331). -/
def startCopy (s : State) (core : Nat) : State :=
  match (coreAt s core).queue with
  | [] => s
  | cmd :: _ =>
    let lines := nextLines s cmd
    if cmd.started || cmd.fault.isSome || cmd.awaited != 0 ||
        lines.any fun l => walkHeld s (core / 256) (.engine core) (copyLaunch s cmd) (64 * l) then s
    else if headerFails s cmd then modHead s core fun c => { c with started := true, ec := 3 }
    else
      let before := lines.takeWhile fun l => (copyTranslate s cmd l).place.isSome
      let t := noteEngineWalks s core cmd before
      let ask (u : State) : State := askLines u core cmd (placesOf s cmd before)
      let stop (u : State) (ec : Nat) : State := modHead (ask u) core fun c => { c with started := true, ec := ec }
      match copyObstacle s cmd lines with
      | none => ask t
      | some (line, .fault) =>
        modHead (openFault t (copyLaunch s cmd) (64 * line) .engine (locCore core)) core fun c => { c with fault := some (64 * line) }
      | some (_, .poison) => killCopy t core cmd .consumed
      | some (_, .fenced _) => killCopy t core cmd .fence
      | some (_, .page _) => stop t 2
      | some (_, tr) => stop (logWalk t (locCore core) tr) 1

/-- The command leaves the queue, its sheaf's count falls, and whoever waits for the queue or its tile looks again. -/
def popCopy (s : State) (core : Nat) (cmd : CopyCmd) : State :=
  let t := modCore s core fun c => { c with queue := c.queue.drop 1 }
  let t := modSheaf t cmd.sheaf fun f => { f with copies := f.copies - 1 }
  wakeWhere (wakeTile t cmd.block cmd.tile) (coreStrands t core) fun c => c == .stalled .copyQueue

/-- A copy's operation has its source read; one that wrote nothing is done. -/
def sourceRead (s : State) (cmd : CopyCmd) : State :=
  modBlock s cmd.block fun y => { y with ops := (y.ops.map fun o =>
    if o.id == cmd.op then { o with sourceRead := true } else o).filter fun o => !(o.id == cmd.op && o.count == 0) }

/-- A cpy whose source has come settles what it will write (R324): bytes that a store has put there meanwhile may stand (R161). -/
def buildCopy (s : State) (core : Nat) (cmd : CopyCmd) : State :=
  let d := cmdDesc s cmd
  let (bs, bad) := copyImage cmd d
  let gs := nub (bad.zipIdx.filterMap fun p => if p.1 then some ((tileOff d + p.2) / 8) else none)
  let stood := nub (cmd.touched.map (· / 8))
  modHead s core fun c =>
    { c with image := cmd.touched.foldl (fun t a => tset t a (readPad s cmd.block a).1) (setBytes [] (tileOff d) bs),
             imagePoison := nub (gs ++ stood.filter fun g => (readPad s cmd.block (8 * g)).2),
             seen := stood, poison := !gs.isEmpty }

/-- A cpy writes its image into the scratchpad (R161). An armed error strikes the fill (R353). -/
def writeImage (s : State) (cmd : CopyCmd) : State :=
  let (hit, s) := strike s cmd.block 2
  let s := match hit with | some kind => logStrike s cmd.block kind | none => s
  let first := (cmd.image.headD (0, 0)).1 / 8
  modBlock s cmd.block fun y =>
    { y with
      pad := cmd.image.foldl (fun t p => tset t p.1 p.2) y.pad,
      padPoison := (nub (cmd.image.map fun p => p.1 / 8)).foldl (fun l g =>
        if cmd.imagePoison.contains g || (hit == some 2 && g == first) then sinsert g l else sremove g l) y.padPoison }

/-- The engine has read a command's source (R191). A cpy with its image built writes it, and the tile becomes Ready; a cpo or cpr
has read the tile, which becomes Ready, and its lines wait to leave. The count falls. -/
def finishCopy (s : State) (core : Nat) : State :=
  match (coreAt s core).queue with
  | [] => s
  | cmd :: _ =>
    if !cmd.started || cmd.ec != 0 || cmd.awaited != 0 then s
    else
      let d := cmdDesc s cmd
      match cmd.kind with
      | .cpy =>
        if cmd.image.isEmpty then buildCopy s core cmd
        else popCopy (modTile (writeImage s cmd) cmd.block cmd.tile fun y => { y with state := .ready, p := cmd.poison }) core cmd
      | _ =>
        let ms := outMessages s cmd d
        popCopy (sourceRead (queueWrites (modTile s cmd.block cmd.tile fun y =>
          { y with state := .ready, p := ms.any (·.2) }) core cmd (ms.map (·.1))) cmd) core cmd

/-- A command that met PROT, PAGE or a header mismatch ends at the failing line (R331): lines before it stand, and poison that
they came from is marked. -/
def faultCopy (s : State) (core : Nat) : State :=
  match (coreAt s core).queue with
  | [] => s
  | cmd :: _ =>
    if !cmd.started || cmd.ec == 0 || cmd.awaited != 0 then s
    else
      let d := cmdDesc s cmd
      let ms := outMessages s cmd d
      let poison := if cmd.kind == .cpy then cmd.lines.any (·.2.2) else ms.any (·.2)
      popCopy (sourceRead (queueWrites (modTile s cmd.block cmd.tile fun y =>
        { y with state := if cmd.kind == .cpy then .empty else .ready, f := true, p := poison, ec := cmd.ec }) core cmd (ms.map (·.1))) cmd) core cmd

/-- A step of the engine's reading and writing: what names which, 0 the command at the head where its source is there, else the
next line that waits to leave. -/
def copyStep (s : State) (core what : Nat) : State := if what = 0 then finishCopy s core else sendWrite s core

/-- The engine starts a command (R166). The focus: core. -/
def execCopyCommandStart (s : State) : Host.Outcome State Fault Refusal := .next (quiet s (startCopy s (s.arg 0)))

/-- The engine has read a command's source (R191), or sends a line of one (see copyStep). The focus: core, what. -/
def execCopySourceReadDone (s : State) : Host.Outcome State Fault Refusal := .next (quiet s (copyStep s (s.arg 0) (s.arg 1)))

/-- A command ends on an engine fault (R331). The focus: core. -/
def execCopyEngineFault (s : State) : Host.Outcome State Fault Refusal := .next (quiet s (faultCopy s (s.arg 0)))

/-! ## The meanings -/

/-- Binds a tile name to a free table entry from a descriptor (R326). -/
def execTdef (x : Code) (s : State) : Host.Outcome State Fault Refusal :=
  .next (tdefRun x s)

/-- Unbinds a tile name and frees its entry (R326). -/
def execTfree (x : Code) (s : State) : Host.Outcome State Fault Refusal :=
  .next (tfreeRun x s)

/-- One-word read of a tile's status word (R326). -/
def execTstat (x : Short) (s : State) : Host.Outcome State Fault Refusal :=
  .next (tstatRun (.short x) s)

/-- Tile status into a v register (R326). -/
def execTstatW (x : Long) (s : State) : Host.Outcome State Fault Refusal :=
  .next (tstatRun (.long x) s)

/-- Writes a tile's header and declares it Ready (R326). -/
def execTmark (x : Code) (s : State) : Host.Outcome State Fault Refusal :=
  .next (tmarkRun x s)

/-- Queues a copy that fills a tile from stored data (R330). -/
def execCpy (x : Three) (s : State) : Host.Outcome State Fault Refusal :=
  .next (copyRun .cpy (.long (.three x)) s)

/-- Queues a copy that writes a tile out to memory (R330). -/
def execCpo (x : Three) (s : State) : Host.Outcome State Fault Refusal :=
  .next (copyRun .cpo (.long (.three x)) s)

/-- Queues a copy that reduce-adds a tile into memory (R330). -/
def execCpr (x : Three) (s : State) : Host.Outcome State Fault Refusal :=
  .next (copyRun .cpr (.long (.three x)) s)

end Sys2Proof.Machine
end

