-- ==== Sys2Proof/Machine/Matrix.lean ====
section
/-! DEFINITION. The matrix engine (R167 to R169, R332 to R337): ensembles, rendezvous latches, the reservation table, passes
and their deliveries. -/

namespace Sys2Proof.Machine

/-! ## Ensembles (R332) -/

/-- N of an ensemble register. -/
def ensCount (e : DWord) : Nat := (e.extractLsb' 48 4).toNat
/-- Entry k. -/
def ensEntry (e : DWord) (k : Nat) : Nat := (e.extractLsb' (8 * k) 8).toNat
/-- The listed entries. -/
def ensEntries (e : DWord) : List Nat := (List.range (ensCount e)).map (ensEntry e)
/-- The sheaf keys that an ensemble of a quad lists. -/
def ensSheaves (q : Nat) (e : DWord) : List Nat := (ensEntries e).map fun x => 64 * (4 * q + x / 64) + x % 64
/-- The quad of a sheaf. -/
def sheafQuad (f : Nat) : Nat := f / 256

/-- An ensemble register that mxe accepts (R332). -/
def ensValid (e : DWord) : Bool :=
  2 ≤ ensCount e && ensCount e ≤ 6 && e.extractLsb' 52 12 == 0 && (nub (ensEntries e)).length == ensCount e &&
    (List.range 6).all fun k => k < ensCount e || ensEntry e k == 0

/-- mxe or mxp while a sheaf's request is pending: every participant waits (R332, R337). -/
def waitRequest (s : State) (ps : List Nat) : State := ps.foldl (fun t k => setCond t k (.waiting .request)) s

/-- A sheaf of the bundle has a request pending. -/
def requestPending (s : State) (ps : List Nat) : Bool := ps.any fun k => (sheafAt s (sheafOf k)).pendingMma

/-- mxe (R332). -/
def mxeRun (code : Code) (s : State) : State :=
  sheafRun .mxe code
    (fun x t k =>
      let (v, p) := valueAt .mxe x t k .a
      (Verdict.trapIf (!ensValid (BitVec.ofNat 64 v)) .tilestate).and (Verdict.poisonIf p))
    (fun x t _ ps =>
      if requestPending t ps then waitRequest t ps
      else advanceAll ((sheavesOf t ps).foldl (fun u f =>
        modSheaf u f fun y => { y with ens := BitVec.ofNat 64 (valueAt .mxe x t ((partOf ps f).headD 0) .a).1 }) t) code.len ps) s

/-- mxp (R337). -/
def mxpRun (code : Code) (s : State) : State :=
  sheafRun .mxp code
    (fun x t k =>
      let (v, p) := valueAt .mxp x t k .a
      ((Verdict.trapIf (rangeFails .mxp x t k) .regrange).and (Verdict.trapIf (v % 16 != 0) .align)).and (Verdict.poisonIf p))
    (fun x t _ ps =>
      if requestPending t ps then waitRequest t ps
      else advanceAll ((sheavesOf t ps).foldl (fun u f =>
        modSheaf u f fun y => { y with mxp := BitVec.ofNat 32 (valueAt .mxp x t ((partOf ps f).headD 0) .a).1 }) t) code.len ps) s

/-! ## Issue of mma (R333) -/

/-- K of the descriptor operand. -/
def mmaK (c : DWord) : Nat := (c.extractLsb' 32 13).toNat
/-- STRIDE of the descriptor operand. -/
def mmaStride (c : DWord) : Nat := (c.extractLsb' 0 32).toNat

/-- Bytes of C: 32 rows of 64 elements. -/
def mmaCBytes : Nat := 16384

/-- The translation of C (R333, R338). -/
def mmaPlaceC (s : State) (k va : Nat) : Trans :=
  if va ≥ 2 ^ 52 || Config.windowBase ≤ va then .prot none
  else translate s (some (coreOf k)) (strandLaunch s k) va .write

/-- The checks of mma for a sheaf (R333). Reserved bits, K or STRIDE of C that are not as they must be take TILESTATE, an address of A or
C that is not aligned takes ALIGN (DESIGN CHOICE, log 66: R333 names no trap for them). -/
def mmaCheck (x : Three) (s : State) (k : Nat) : Verdict :=
  let f := sheafOf k
  let y := sheafAt s f
  let (b, p1) := valueAt .mma x s k .a
  let (c, p2) := valueAt .mma x s k .b
  let (d, p3) := valueAt .mma x s k .c
  let d := BitVec.ofNat 64 d
  let kk := mmaK d
  let stride := mmaStride d
  let fields := d.extractLsb' 45 19 != 0 || kk % 16 != 0 || kk < 16 || 4096 < kk || stride % 64 != 0 || stride < pitchOf 64 x.ty
  let panel := match tileAt s y.block (tileNumber x.d) with
    | none => false
    | some t =>
      tileRows t.desc == 32 && kk ≤ tileCols t.desc && tileTy t.desc == x.ty && (y.pendingMma || t.state != .empty)
  let listed := (ensSheaves (sheafQuad f) y.ens).contains f
  let tr := mmaPlaceC s k c
  let place : Verdict :=
    ((tr.verdict c).and (Verdict.trapIf (tr.leaf.any fun l => !abacusLeaf l) .prot)).and
      (Verdict.trapIf (decide (statusArea < c % abacusPage + mmaCBytes)) .prot)
  ((Verdict.trapIf (!listed || fields || !panel) .tilestate).and (Verdict.trapIf (b % 64 != 0 || c % 512 != 0) .align)).and
    (place.and (Verdict.poisonIf (p1 || p2 || p3)))

/-- The arrival of a sheaf, by its lead participant, with a number of its own. -/
def arrivalOf (x : Three) (s : State) (k : Nat) : Arrival :=
  let f := sheafOf k
  let y := sheafAt s f
  let d := BitVec.ofNat 64 (valueAt .mma x s k .c).1
  let c := (valueAt .mma x s k .b).1
  { sheaf := f, ens := y.ens, tile := tileNumber x.d, tileDesc := ((tileAt s y.block (tileNumber x.d)).map (·.desc)).getD 0,
    ty := x.ty, b := (valueAt .mma x s k .a).1, c := (((mmaPlaceC s k c).place).map (·.1)).getD 0, k := mmaK d,
    stride := mmaStride d, mxp := y.mxp.toNat, prio := (launchOf s (blockAt s y.block)).record.prio.toNat, id := s.ctl.nextId }

/-- The strands of a sheaf that wait at their mma. -/
def mmaWaiters (s : State) (f : Nat) : List Nat :=
  (sheafStrands s f).filter fun k => (strandAt s k).cond == .waiting .mma

/-- A sheaf's request ends: its tile is Ready, its waiters act, and whoever waited for the request looks again. -/
def endRequest (act : State → Nat → State) (s : State) (a : Arrival) : State :=
  let b := (sheafAt s a.sheaf).block
  let t := modSheaf s a.sheaf fun y => { y with pendingMma := false }
  let t := wakeTile (modTile t b a.tile fun y => { y with state := .ready }) b a.tile
  let ws := mmaWaiters t a.sheaf
  let t := ws.foldl (fun u k => act (wake u k) k) t
  wakeWhere t (blockStrands t b) fun c => c == .waiting .request

/-- A waiter retires past its mma (R334). -/
def retireMma (s : State) (k : Nat) : State := advance s (strandAt s k).waitLen k

/-- The waiters of some arrivals take a precise trap at their mma, each with the lanes of its own bundle that take it (R354). -/
def trapMma (c : Cause) (s : State) (arrivals : List Arrival) : State :=
  let waiters := arrivals.flatMap fun a => mmaWaiters s a.sheaf
  arrivals.foldl (endRequest fun u k =>
    trapEntry u k c (strandAt u k).pc (laneMask u (waiters.filter (strandAt u k).mates.contains))) s

/-- A participant of a bundle waits at its mma. -/
def waitMma (len : Nat) (ps : List Nat) (s : State) (k : Nat) : State := modStrand (waitAt s k .mma len) k fun x => { x with mates := ps }

/-- Strands that found no latch look again. -/
def wakeLatch (s : State) (q : Nat) : State :=
  wakeWhere s ((tkeys s.strands).filter fun k => coreOf k / 4 == q) fun c => c == .stalled .latch

/-- Free a latch by the ensemble register it was taken for. -/
def freeLatch (s : State) (q : Nat) (l : Latch) : State :=
  wakeLatch (modQuad s q fun x => { x with latches := x.latches.erase l }) q

/-- A latch has every sheaf that its first arrival lists. -/
def Latch.full (q : Nat) (l : Latch) : Bool := (ensSheaves q l.ens).all fun f => l.arrivals.any fun a => a.sheaf == f

/-- The arrivals agree (R333). -/
def arrivalsAgree (l : Latch) : Bool :=
  match l.arrivals with
  | [] => true
  | a :: rest => rest.all fun b =>
    b.ens == a.ens && b.ty == a.ty && b.b == a.b && b.stride == a.stride && b.k == a.k && b.mxp == a.mxp

/-- A joint request is finished (R334, R337): %mxp 0, tiles Ready, waiters retire. -/
def finishRequest (s : State) (members : List Arrival) : State :=
  members.foldl (fun t a => endRequest retireMma (modSheaf t a.sheaf fun y => { y with mxp := 0 }) a) s

/-- A full latch compares its arrivals (R333); one that is past its end completes at once (R337). -/
def judgeLatch (s : State) (q : Nat) (l : Latch) : State :=
  if !l.full q then s
  else if !arrivalsAgree l then trapMma .tilestate (freeLatch s q l) l.arrivals
  else if l.arrivals.any fun a => a.k ≤ a.mxp then finishRequest (freeLatch s q l) l.arrivals
  else s

/-- A sheaf arrives at its ensemble's latch (R167, R333); none where no latch is free. -/
def arriveLatch (s : State) (a : Arrival) : Option State :=
  let q := sheafQuad a.sheaf
  let ls := (quadAt s q).latches
  let mine := (ls.find? fun l => l.ens == a.ens && (ensSheaves q l.ens).contains a.sheaf).orElse fun _ =>
    ls.find? fun l => (ensSheaves q l.ens).contains a.sheaf
  match mine with
  | some l =>
    let l' := { l with arrivals := l.arrivals ++ [a] }
    some (judgeLatch (modQuad s q fun x => { x with latches := x.latches.map fun o => if o == l then l' else o }) q l')
  | none =>
    if ls.length < Config.latches then
      some (modQuad s q fun x => { x with latches := x.latches ++ [{ ens := a.ens, arrivals := [a] }] })
    else none

/-- mma of one sheaf: it joins its pending request, or arrives. -/
def mmaSheaf (x : Three) (len : Nat) (ps : List Nat) (s : Option State) (f : Nat) : Option State :=
  s.bind fun t =>
    let part := partOf ps f
    if (sheafAt t f).pendingMma then some (part.foldl (waitMma len ps) t)
    else
      let a := arrivalOf x t (part.headD 0)
      let b := (sheafAt t f).block
      let u := modSheaf (fresh t).2 f fun y => { y with pendingMma := true }
      let u := modTile u b a.tile fun y => { y with state := .draining, f := false, p := false, ec := 0 }
      arriveLatch (part.foldl (waitMma len ps) u) a

/-- mma (R333). -/
def mmaRun (code : Code) (s : State) : State :=
  sheafRun .mma code mmaCheck
    (fun x t b ps =>
      let fs := sheavesOf t ps
      let new := fs.filter fun f => !(sheafAt t f).pendingMma
      if !new.isEmpty && tileBusy t b.block (tileNumber x.d) then waitTile t ps (tileNumber x.d)
      else match fs.foldl (mmaSheaf x code.len ps) (some t) with
        | some u => u
        | none => ps.foldl (fun u k => setCond u k (.stalled .latch)) t) s

/-! ## The reservation table (R168) -/

/-- The complete request in a latch enters the table if an entry is free (R167). -/
def enterTable (s : State) (q i : Nat) : State :=
  let x := quadAt s q
  match x.latches[i]? with
  | some l =>
    if l.full q && arrivalsAgree l && x.table.length < Config.latches then
      let e : TableEntry :=
        { members := l.arrivals, row := (l.arrivals.headD Arrival.blank).mxp, entered := s.now,
          granted := s.now, aged := 0, checked := false }
      freeLatch (modQuad s q fun y => { y with table := y.table ++ [e] }) q l
    else s
  | none => s

/-- Effective priority (R168): its launch priorities' highest, plus 1 for every 4,096 ticks since its last grant, up to 7. -/
def TableEntry.priority (e : TableEntry) (now : Nat) : Nat :=
  min 7 (e.members.foldl (fun m a => max m a.prio) 0 + max e.aged ((now - e.granted) / 4096))

/-- The core of the sheaf that an entry's ensemble lists first. -/
def TableEntry.firstCore (q : Nat) (e : TableEntry) : Nat :=
  ((e.members.head?.bind fun a => (ensSheaves q a.ens).head?).getD 0) / 64

/-- An entry goes before another (R168): the higher priority, then the earlier tick of entry, then the lower agent number of the
first listed core. -/
def TableEntry.before (q now : Nat) (e d : TableEntry) : Bool :=
  d.priority now < e.priority now || (d.priority now == e.priority now &&
    (e.entered < d.entered || (e.entered == d.entered && agentCore (e.firstCore q) < agentCore (d.firstCore q))))

/-- A gang is being stopped (R357). -/
def stopping (s : State) (g : Nat) : Bool := match (gangAt s g).state with | .stopping _ => true | _ => false

/-- A request lists a sheaf of a gang that is being stopped: it gets no further pass (R336). -/
def leaving (s : State) (members : List Arrival) : Bool :=
  members.any fun a => stopping s (blockAt s (sheafAt s a.sheaf).block).gang

/-- The entry that the arbiter grants (R168), of those that stay. -/
def granted (s : State) (q : Nat) : Option TableEntry :=
  ((quadAt s q).table.filter fun e => !leaving s e.members).foldl (fun m e => match m with
    | some d => if e.before q s.now d then some e else m
    | none => some e) none

/-- The key by which a pass knows its entry. -/
def TableEntry.key (e : TableEntry) : Nat := (e.members.map (·.sheaf)).headD 0

/-- The launch through which the engine translates B: the first listed member's (log 16). -/
def entryLaunch (s : State) (e : TableEntry) : Launch := launchOf s (blockAt s (sheafAt s e.key).block)

/-- The first arrival of an entry. -/
def TableEntry.first (e : TableEntry) : Arrival := e.members.headD Arrival.blank

/-- The quad whose matrix engine serves an entry: the one of its members (R168). -/
def TableEntry.quad (e : TableEntry) : Nat := e.first.sheaf / 256

/-- The translation of a line of B (R334): engine reads, of class Coherent, NC or RO (log 16), and not of the window, which is never
walked (R305). -/
def translateB (s : State) (e : TableEntry) (va : Nat) : Trans :=
  if Config.windowBase ≤ va then .prot none
  else
    let tr := translateBy s (.matrix e.quad) (entryLaunch s e) va .engine
    if tr.leaf.any fun l => l.cls == 3 || l.cls == 4 then .prot none else tr

/-- A byte of B at its home, and its line's poison (R190). -/
def byteB (s : State) (e : TableEntry) (va : Nat) : Byte × Bool :=
  match translateB s e va with
  | .ok pa _ => (memRead s.mem pa, lineBad s (pa / 64))
  | _ => (0, false)

/-- A number in B. -/
def numberB (s : State) (e : TableEntry) (va n : Nat) : Nat := leNat ((List.range n).map fun i => (byteB s e (va + i)).1)

/-- B's header does not agree with the request (R333, R324). -/
def mismatchB (s : State) (e : TableEntry) : Bool :=
  let a := e.first
  let zero (lo n : Nat) : Bool := (List.range n).all fun i => (byteB s e (a.b + lo + i)).1 == 0
  numberB s e a.b 2 < a.k || numberB s e (a.b + 2) 2 != 64 || numberB s e (a.b + 4) 1 != a.ty.toNat || !zero 5 11 || !zero 32 32

/-- How B fails a request. -/
inductive Failure where
  | fault (va : Nat)
  | trap (c : Cause)
  | walk (level pa : Nat)
  | poison
  | fenced
  deriving DecidableEq, Repr

/-- The failure of a translation. -/
def Trans.failure (va : Nat) : Trans → Option Failure
  | .ok _ _ => none
  | .prot _ => some (.trap .prot)
  | .malformed level pa => some (.walk level pa)
  | .page _ => some (.trap .page)
  | .fault => some (.fault va)
  | .poison => some .poison
  | .fenced _ => some .fenced

/-- Remove an entry from the table, and its pass. -/
def dropEntry (s : State) (q : Nat) (e : TableEntry) : State :=
  modQuad s q fun x => { x with table := x.table.filter fun o => o.key != e.key,
                                pass := if x.pass.any fun p => p.entry == e.key then none else x.pass }

/-- The gangs with a sheaf in a request. -/
def memberGangs (s : State) (members : List Arrival) : List Nat :=
  nub (members.map fun a => (blockAt s (sheafAt s a.sheaf).block).gang)

/-- A request ends on a failure of B, with its rows before f delivered (R335). -/
def failRequest (s : State) (q : Nat) (e : TableEntry) (f : Nat) (why : Failure) : State :=
  let t := dropEntry s q e
  let t := e.members.foldl (fun u a => modSheaf u a.sheaf fun y => { y with mxp := BitVec.ofNat 32 f }) t
  match why with
  | .fault va =>
    let t := openFault t (entryLaunch s e) va .engine (locQuad q)
    e.members.foldl (endRequest fun u k => setCond u k (.stalled (.page [va] .engine))) t
  | .trap c => trapMma c t e.members
  | .walk level pa => trapMma .prot (logWalk t (locQuad q) (.malformed level pa)) e.members
  | .poison => (memberGangs s e.members).foldl (fun u g => startKill u g (some .consumed) false (locQuad q)) t
  | .fenced => (memberGangs s e.members).foldl (fun u g => startKill u g (some .fence) false (locQuad q)) t

/-- A quad's cycle lies within its allowance (R30). -/
def Quad.allows (x : Quad) : Bool := decide (x.cycle < 4 * (x.level + 1))

/-- The cycle of a quad of the machine lies within its allowance. -/
def allowed (s : State) (q : Nat) : Bool := (quadAt s q).allows

/-- What a pass would read at its start waits for a link (R21): B's header, where it is to be read, or the status of a member's C.
-/
def grantHeld (s : State) (q : Nat) (e : TableEntry) : Bool :=
  anyDown s && ((!e.checked && readHeld s (q / 64) (.matrix e.quad) (entryLaunch s e) e.first.b) ||
    e.members.any fun a => lineHeld s (q / 64) (statusLine (a.c / 64)))

/-- What the engine has translated of B stays in its TLB (R89). -/
def noteMatrixWalks (s : State) (e : TableEntry) (vas : List Nat) : State :=
  vas.foldl (fun t va => fillMatrixTlb t e.quad (entryLaunch s e) va) s

/-- The arbiter grants a pass (R168, R334): B's header is read before the first one, and the grids are read at the homes. -/
def grantPass (s : State) (q : Nat) : State :=
  match granted s q with
  | none => s
  | some e =>
    if (quadAt s q).pass.isSome || !allowed s q || grantHeld s q e then s
    else
      let header : Option Failure :=
        if e.checked then none
        else match (translateB s e e.first.b).failure e.first.b with
          | some f => some f
          | none => if mismatchB s e then some (.trap .tilestate) else none
      match header with
      | some f => failRequest s q e e.row f
      | none =>
        let e' := { e with granted := s.now, aged := 0, checked := true }
        modQuad (noteMatrixWalks s e (if e.checked then [] else [e.first.b])) q fun x =>
          { x with table := x.table.map (fun o => if o.key == e.key then e' else o),
                   pass := some { entry := e.key, row := e.row, stop := min (e.row + 256) e.first.k,
                                  grids := e.members.map fun a => statusGrid (statusOf s (a.c / 64)) } }

/-! ## Passes (R334, R335, R212) -/

/-- Element (k, n) of B; poison of B's header line counts for every element (R132). -/
def elemB (s : State) (e : TableEntry) (k n : Nat) : Elem :=
  let a := e.first
  let row := a.b + 64 + k * a.stride
  if a.ty == Ty.o4 then
    let (byte, p) := byteB s e (row + n / 2)
    let book : Nat → Nat := fun i => (byteB s e (a.b + 16 + i)).1.toNat
    { value := o4Value book (n % 2 == 0) (byte.toNat % 16) (byte.toNat / 16), bits := 0, poison := p || (byteB s e a.b).2 }
  else
    let z := tyWidth a.ty / 8
    let bs := (List.range z).map fun i => byteB s e (row + n * z + i)
    { value := (fmtOf a.ty).value (leNat (bs.map (·.1))), bits := 0, poison := bs.any (·.2) || (byteB s e a.b).2 }

/-- One slice of 16 products, rounded once and quantised (R212). -/
def sliceTerm (as bs : List FVal) (g : Int) : Int × LineFlags :=
  let sum := (exactSum (as.zipWith (fun x y => (x.mul y).1) bs) .rn).1
  quant (f32.value (roundF sum f32 .rn).1) g

/-- Cut a list into slices of 16. -/
def slices16 (n : Nat) (l : List FVal) : List (List FVal) := (List.range n).map fun j => (l.drop (16 * j)).take 16

/-- The partial of one element: its slices' terms added, and their flags (R212). -/
def partialOf (arow bcol : List FVal) (g : Int) : DWord × Bool × Bool :=
  let n := arow.length / 16
  ((slices16 n arow).zip (slices16 n bcol)).foldl (fun (acc : DWord × Bool × Bool) p =>
    let (q, fl) := sliceTerm p.1 p.2 g
    (ax64Add acc.1 q, acc.2.1 || fl.nv, acc.2.2 || fl.sat)) (0, false, false)

/-- Rows a to b − 1 of one member's panel as the 32 rows of A, with their poison. -/
def panelA (s : State) (m : Arrival) (a b : Nat) : List (List Elem) :=
  (List.range 32).map fun i => (List.range (b - a)).map fun k => tileElem s (sheafAt s m.sheaf).block m.tileDesc i (a + k)

/-- Rows a to b − 1 of B, column by column. -/
def panelB (s : State) (e : TableEntry) (a b : Nat) : List (List Elem) :=
  (List.range 64).map fun n => (List.range (b - a)).map fun k => elemB s e (a + k) n

/-- The deliveries of one member: one message for each line of C (R192, R334), as old as it is sent (R55). -/
def deliverMember (bcols : List (List Elem)) (bad : Bool) (rows : List (List Elem)) (g : Int) (blocks : List Nat)
    (id : Nat) (s : State) (m : Arrival) : State :=
  let l := launchOf s (blockAt s (sheafAt s m.sheaf).block)
  (List.range 32).foldl (fun t i =>
    let arow := (rows.getD i []).map (·.value)
    (List.range 8).foldl (fun u j =>
      let cells := (List.range 8).map fun n => partialOf arow ((bcols.getD (8 * j + n) []).map (·.value)) g
      let line := (m.c + 512 * i + 64 * j) / 64
      post u (.abacus (homeSlice u line) line (.deliver (cells.map (·.1)) g (cells.map (·.2)) bad) (.deliveries blocks id)
        u.now l.part l.record.ctx.toNat)) t) s

/-- A SHOOT that waits for an arrival of a request waits for what is delivered for it (R89). -/
def shootsAwait (e : TableEntry) (blocks : List Nat) (id : Nat) (s : State) : State :=
  let add (w : Waiting) : Waiting :=
    if e.members.any fun m => w.mmas.contains m.id then { w with ops := w.ops ++ blocks.map fun b => (b, id) } else w
  modPart s (blockAt s (blocks.headD 0)).part fun p => { p with waiting := p.waiting.map add }

/-- Deliver rows a to b − 1 of a request once (R334): every block with a listed sheaf counts the deliveries (R192). -/
def deliver (s : State) (e : TableEntry) (grids : List Int) (a b : Nat) : State :=
  if b ≤ a then s
  else
    let blocks := nub (e.members.map fun m => (sheafAt s m.sheaf).block)
    let bcols := panelB s e a b
    let panels := e.members.map fun m => panelA s m a b
    let bad := (bcols.any fun c => c.any (·.poison)) || panels.any fun p => p.any fun r => r.any (·.poison)
    let (id, t) := fresh s
    let t := blocks.foldl (fun u k => modBlock u k fun y =>
      { y with ops := y.ops ++ [{ id := id, kind := .delivery, sourceRead := true, count := 256 * e.members.length }] }) (shootsAwait e blocks id t)
    let t := ((e.members.zip panels).zip grids).foldl (fun u p =>
      deliverMember bcols bad p.1.2 p.2 blocks id u p.1.1) t
    e.members.foldl (fun u m =>
      if bad then modTile u (sheafAt u m.sheaf).block m.tile fun y => { y with p := true } else u) t

/-- The lines of row k of B, by address. -/
def rowLines (e : TableEntry) (k : Nat) : List Nat :=
  (List.range (pitchOf 64 e.first.ty / 64)).map fun i => e.first.b + 64 + k * e.first.stride + 64 * i

/-- The lines of rows a to b − 1 of B, by address. -/
def passLines (e : TableEntry) (a b : Nat) : List Nat := (List.range (b - a)).flatMap fun i => rowLines e (a + i)

/-- The first row of a pass that B fails, with the failure. -/
def failingRow (s : State) (e : TableEntry) (p : Pass) : Option (Nat × Failure) :=
  (List.range (p.stop - p.row)).findSome? fun i =>
    (rowLines e (p.row + i)).findSome? fun va => ((translateB s e va).failure va).map fun f => (p.row + i, f)

/-- The entry of a pass in progress. -/
def passEntry (s : State) (q : Nat) : Option (Pass × TableEntry) :=
  (quadAt s q).pass.bind fun p => ((quadAt s q).table.find? fun e => e.key == p.entry).map fun e => (p, e)

/-- A row of a pass in progress, or B's header, waits for a link (R21). -/
def passHeld (s : State) (q : Nat) (e : TableEntry) (p : Pass) : Bool :=
  anyDown s && (e.first.b :: passLines e p.row p.stop).any
    (readHeld s (q / 64) (.matrix e.quad) (entryLaunch s e))

/-- A pass ends and delivers; at K the request is finished (R334). -/
def endPass (s : State) (q : Nat) : State :=
  match passEntry s q with
  | none => s
  | some (p, e) =>
    if (failingRow s e p).isSome || passHeld s q e p then s
    else
      let t := noteMatrixWalks (deliver s e p.grids p.row p.stop) e (passLines e p.row p.stop)
      if p.stop = e.first.k then finishRequest (dropEntry t q e) e.members
      else modQuad t q fun x =>
        { x with pass := none, table := x.table.map fun o => if o.key == e.key then { o with row := p.stop } else o }

/-- A failure kills the gangs of a request, which then goes no further (R69, R133). -/
def Failure.kills : Failure → Bool
  | .poison | .fenced => true
  | .fault _ | .trap _ | .walk _ _ => false

/-- B fails in the middle of a pass: the complete slices are delivered (R335), but where the failure kills (R133, R136). -/
def faultPass (s : State) (q : Nat) : State :=
  match passEntry s q with
  | none => s
  | some (p, e) =>
    if passHeld s q e p then s else match failingRow s e p with
    | none => s
    | some (row, why) =>
      let f := if why.kills then p.row else p.row + (row - p.row) / 16 * 16
      failRequest (noteMatrixWalks (deliver s e p.grids p.row f) e (passLines e p.row row)) q e f why

/-- Every 4,096 ticks without a grant raise an entry's effective priority (R168). -/
def ageEntry (s : State) (q i : Nat) : State :=
  modQuad s q fun x => { x with table := x.table.modify i fun e =>
    if e.granted + 4096 * (e.aged + 1) ≤ s.now && e.aged < 7 then { e with aged := e.aged + 1 } else e }

/-! ## Requests of killed and pre-empted gangs (R136, R137, R336) -/

/-- The requests of a quad, in latches and in the table: their arrivals, the first undelivered row, and how to drop them. -/
def dropRequests (s : State) (q : Nat) (hit : List Nat → Bool) : List (List Arrival × Option Nat) × State :=
  let x := quadAt s q
  let inLatch := x.latches.filter fun l => hit (ensSheaves q l.ens ++ l.arrivals.map (·.sheaf))
  let inTable := x.table.filter fun e => hit (e.members.map (·.sheaf))
  (inLatch.map (fun l => (l.arrivals, none)) ++ inTable.map (fun e => (e.members, some e.row)),
    inTable.foldl (fun t e => dropEntry t q e) (inLatch.foldl (fun t l => freeLatch t q l) s))

/-- A gang is killed: requests that list a member are released, and the waiters of surviving gangs take ORPHAN (R137). -/
def orphanRequests (s : State) (q : Nat) (mine : Nat → Bool) : State :=
  let (reqs, t) := dropRequests s q fun fs => fs.any mine
  reqs.foldl (fun u r => trapMma .orphan u (r.1.filter fun a => !mine a.sheaf)) t

/-- A gang is pre-empted (R336): requests that list a member leave their latch or entry, %mxp takes the first undelivered row,
and every waiter is ready at its mma again. One whose pass is in progress leaves after it. -/
def withdrawRequests (s : State) (q : Nat) (mine : Nat → Bool) : State :=
  let busy : List Nat := match passEntry s q with
    | some (_, e) => e.members.map (·.sheaf)
    | none => []
  let (reqs, t) := dropRequests s q fun fs => fs.any mine && !fs.any busy.contains
  reqs.foldl (fun u r =>
    r.1.foldl (fun v a =>
      let w := match r.2 with | some row => modSheaf v a.sheaf (fun y => { y with mxp := BitVec.ofNat 32 row }) | none => v
      endRequest (fun z _ => z) w a) u) t

/-- The requests of a block that is being stopped leave the matrix engine, where they had waited for a pass to end. -/
def leaveEngine (s : State) (b : Nat) : State :=
  let fs := blockSheaves s b
  if (blockAt s b).stopped && stopping s (blockAt s b).gang && fs.any fun f => (sheafAt s f).pendingMma then withdrawRequests s (b / 16) fs.contains else s

/-! ## The meanings -/

/-- Loads the sheaf's ensemble register (R332). -/
def execMxe (x : Code) (s : State) : Host.Outcome State Fault Refusal := .next (mxeRun x s)

/-- Joint matrix product of an ensemble into abacus lines (R333). -/
def execMma (x : Three) (s : State) : Host.Outcome State Fault Refusal := .next (mmaRun (.long (.three x)) s)

/-- One-word set of the row-progress register (R337). -/
def execMxp (x : Short) (s : State) : Host.Outcome State Fault Refusal := .next (mxpRun (.short x) s)

/-- Row-progress register from a register or an imm9 (R337). -/
def execMxpW (x : Long) (s : State) : Host.Outcome State Fault Refusal := .next (mxpRun (.long x) s)

/-- A complete request enters the table (R167). The focus: quad, latch. -/
def execTableEntry (s : State) : Host.Outcome State Fault Refusal := .next (quiet s (enterTable s (s.arg 0) (s.arg 1)))

/-- The arbiter grants a pass (R168). The focus: quad. -/
def execPassGrant (s : State) : Host.Outcome State Fault Refusal := .next (quiet s (grantPass s (s.arg 0)))

/-- An entry's priority rises with its time in the table (R168). The focus: quad, entry. -/
def execPriorityAging (s : State) : Host.Outcome State Fault Refusal := .next (quiet s (ageEntry s (s.arg 0) (s.arg 1)))

/-- A pass ends and delivers its partials (R334). The focus: quad. -/
def execPassEnd (s : State) : Host.Outcome State Fault Refusal := .next (quiet s (endPass s (s.arg 0)))

/-- A pass ends on a failure of B (R335). The focus: quad. -/
def execPassFault (s : State) : Host.Outcome State Fault Refusal := .next (quiet s (faultPass s (s.arg 0)))

end Sys2Proof.Machine
end

