-- ==== Sys2Proof/Machine/Gangs.lean ====
section
/-! DEFINITION. Gangs on their cores: placement (R101 to R111), entry state, retirement and release of resources (R105),
the treatment of a killed gang (R134 to R140), and the batches of the global dispatcher (R103, R104). -/

namespace Sys2Proof.Machine

/-! ## Live units -/

/-- A quad that can run gangs: not retired, its die not fenced (R68, R141). Quads of a fenced die are in no window and no reservation,
and their cores count in the credit all the same (DESIGN CHOICE, log 63: R102 and R106 do not say whether they are live). -/
def liveQuad (s : State) (q : Nat) : Bool := !(quadAt s q).retired && !(dieAt s (q / 64)).fenced

/-- The live quads of a tract. -/
def liveQuads (s : State) (t : Nat) : List Nat := ((List.range 32).map (32 * t + ·)).filter (liveQuad s)

/-! ## Placement on a core (R107, R110, R119) -/

/-- The shape of a member block to place: sheaf widths log 2, and per sheaf its allocation and, when resumed, its lane
offset. -/
structure Need where
  log2w : Nat
  sheaves : List (Nat × Option Nat)
  padGranules : Nat
  deriving DecidableEq, Repr

/-- What a launch record asks for each block (R83). -/
def needOf (r : LaunchRecord) : Need :=
  { log2w := r.log2w.toNat, sheaves := List.replicate r.sheaves.toNat (r.regs.toNat, none), padGranules := r.xpad.toNat / 16 }

/-! ### Frames (R119, R156, R358 to R363) -/

/-- The address of a sheaf's area in its block's save area (R358). -/
def sheafArea (l : Launch) (index j : Nat) : Nat := saveVa l index + 0x1000 + j * (2048 + 2240 * 2 ^ l.record.log2w.toNat)

/-- The address of a sheaf's vector region (R358). -/
def vectorRegion (l : Launch) (index j : Nat) : Nat := sheafArea l index j + 0x800 + 192 * 2 ^ l.record.log2w.toNat

/-- The block's index in its launch, of a strand. -/
def indexOf (s : State) (k : Nat) : Nat := (blockAt s (blockOf s k)).index
/-- The address of the record of a strand's sheaf. -/
def sheafRecordVa (s : State) (k : Nat) : Nat := sheafArea (strandLaunch s k) (indexOf s k) (sheafAt s (sheafOf k)).idx
/-- The address of a strand's record. -/
def strandRecordVa (s : State) (k : Nat) : Nat := sheafRecordVa s k + 0x800 + 192 * (k % 64)
/-- The address of a strand's vector row. -/
def rowVa (s : State) (k : Nat) : Nat :=
  vectorRegion (strandLaunch s k) (indexOf s k) (sheafAt s (sheafOf k)).idx + 4 * (sheafAt s (sheafOf k)).alloc * (k % 64)

/-- The translation of a frame's address for the hardware's own access (R357, R358): Coherent or NC. -/
def translateFrame (s : State) (w : Walker) (l : Launch) (va : Nat) (acc : Access) : Trans :=
  if Config.windowBase ≤ va then .prot none
  else
    let tr := translateBy s w l va acc
    if tr.leaf.any fun x => x.cls != 0 && x.cls != 1 then .prot tr.leaf else tr

/-- A line of a frame as the hardware reads it at its home when it places a resumed block (R363, log 41). -/
def frameLine (s : State) (l : Launch) (va : Nat) : Verdict × List Byte :=
  match translateFrame s .none l (va / 64 * 64) .read with
  | .ok pa _ => (Verdict.poisonIf (lineBad s (pa / 64)), lineBytes s (pa / 64))
  | tr => (tr.verdict va, List.replicate 64 0)

/-- n bytes of one line of a frame, as a number. -/
def frameField (s : State) (l : Launch) (va n : Nat) : Nat := leNat (((frameLine s l va).2.drop (va % 64)).take n)

/-- The recorded allocation of a sheaf (R119, R359): the frame's, where a die can read it, else as the dispatcher kept it (log
41). -/
def framedAlloc (s : State) (die : Nat) (l : Launch) (index : Nat) (x : ShapeSheaf) : Nat :=
  if (frameLine s l (sheafArea l index x.idx)).1 = Verdict.ok && !readHeld s die .none l (sheafArea l index x.idx) then frameField s l (sheafArea l index x.idx + 4) 2 else x.alloc

/-- What a resumed block asks (R119): recorded allocations and offsets. -/
def needOfShape (s : State) (die : Nat) (l : Launch) (h : Shape) : Need :=
  { needOf l.record with sheaves := h.sheaves.map fun x => (framedAlloc s die l h.index x, some x.offset) }

/-- The block keys of a core. -/
def coreBlocks (s : State) (c : Nat) : List Nat := (tkeys s.blocks).filter fun b => b / 4 == c

/-- The sheaf keys of a core. -/
def coreSheaves (s : State) (c : Nat) : List Nat := (tkeys s.sheaves).filter fun f => f / 64 == c

/-- A placed sheaf: slot, context, offset, log2 of width, allocation. -/
structure Seat where
  slot : Nat
  context : Nat
  offset : Nat
  log2w : Nat
  alloc : Nat
  deriving DecidableEq, Repr

/-- The seats taken on a core. -/
def coreSeats (s : State) (c : Nat) : List Seat :=
  (coreSheaves s c).map fun f =>
    let x := sheafAt s f
    { slot := x.slot, context := x.context, offset := x.offset, log2w := x.log2w, alloc := x.alloc }

/-- Two runs of lanes meet. -/
def lanesMeet (a b : Seat) : Bool := a.offset < b.offset + 2 ^ b.log2w && b.offset < a.offset + 2 ^ a.log2w

/-- The first free placement of a sheaf (R110): contexts 0 to 7, and in each the offsets in ascending order; only the recorded
one of a resumed sheaf (R119). -/
def findSeat (seats : List Seat) (log2w alloc : Nat) (offset : Option Nat) : Option Seat :=
  match (List.range 64).find? fun i => seats.all fun x => x.slot != i with
  | none => none
  | some slot =>
    let w := 2 ^ log2w
    let offsets := match offset with
      | some o => [o]
      | none => (List.range (64 / w)).map (w * ·)
    (List.range 8).findSome? fun ctx => offsets.findSome? fun o =>
      let seat : Seat := { slot := slot, context := ctx, offset := o, log2w := log2w, alloc := alloc }
      if seats.any fun x => x.context == ctx && lanesMeet x seat then none else some seat

/-- Seat the sheaves of a block one after another. -/
def findSeats (log2w : Nat) : List Seat → List (Nat × Option Nat) → Option (List Seat)
  | _, [] => some []
  | seats, (alloc, offset) :: rest =>
    match findSeat seats log2w alloc offset with
    | none => none
    | some x => (findSeats log2w (seats ++ [x]) rest).map (x :: ·)

/-- Registers taken of a lane's pool. -/
def laneUsed (seats : List Seat) (lane : Nat) : Nat :=
  ((seats.filter fun x => x.offset ≤ lane && lane < x.offset + 2 ^ x.log2w).map (·.alloc)).sum

/-- Scratchpad granules that a core's blocks hold, as runs. -/
def padRuns (s : State) (c : Nat) : List (Nat × Nat) :=
  (coreBlocks s c).map fun b => ((blockAt s b).padBase / 16384, (blockAt s b).padBytes / 16384)

/-- The lowest free run of granules (R110). -/
def findPad (runs : List (Nat × Nat)) (n : Nat) : Option Nat :=
  if n = 0 then some 0
  else (List.range (Config.padGranules + 1 - n)).find? fun i =>
    runs.all fun r => r.2 == 0 || i + n ≤ r.1 || r.1 + r.2 ≤ i

/-- Where a block would go on a core, if it fits (R107): block slot, seats, first granule. -/
def fits (s : State) (c : Nat) (need : Need) : Option (Nat × List Seat × Nat) :=
  let taken := coreSeats s c
  match (List.range 4).find? fun i => (tfind s.blocks (4 * c + i)).isNone, findSeats need.log2w taken need.sheaves,
      findPad (padRuns s c) need.padGranules with
  | some slot, some seats, some pad =>
    if (List.range 64).all fun lane => laneUsed (taken ++ seats) lane ≤ Config.lanePool then some (slot, seats, pad) else none
  | _, _, _ => none

/-! ## Windows (R106, R108, R109, R119) -/

/-- The needs of a gang's members by rank, none for a member that has retired before a stop (R119). -/
def gangNeeds (s : State) (g : Gang) : List (Option Need) :=
  let l := launchAt s g.launchKey
  (List.range g.size).map fun k =>
    if g.retiredMembers.contains k then none
    else match g.shapes.find? fun h => h.index == g.first + k with
      | some h => some (needOfShape s (g.tract / 2) l h)
      | none => some (needOf l.record)

/-- The windows of G cores whose quads are live, in one mesh row of a tract (R106). -/
def windows (s : State) (t size : Nat) : List Nat :=
  let live := liveQuads s t
  ((List.range (129 - size)).map (128 * t + ·)).filter fun f =>
    f / 32 == (f + size - 1) / 32 && (List.range ((f + size - 1) / 4 + 1 - f / 4)).all fun i => live.contains (f / 4 + i)

/-- Resident blocks on some cores. -/
def residents (s : State) (lo hi : Nat) : Nat := s.blocks.countP fun p => lo ≤ p.1 / 4 && p.1 / 4 < hi

/-- The order of windows (R108): residents on the quads touched, then on the cores named, then the first core. -/
def windowRank (s : State) (size f : Nat) : Nat × Nat × Nat :=
  (residents s (f / 4 * 4) ((f + size - 1) / 4 * 4 + 4), residents s f (f + size), f)

/-- Before, in the order of windows. -/
def rankLt (x y : Nat × Nat × Nat) : Bool :=
  x.1 < y.1 || (x.1 == y.1 && (x.2.1 < y.2.1 || (x.2.1 == y.2.1 && x.2.2 < y.2.2)))

/-- The first window in the order of R108 that meets a test. -/
def firstWindow (s : State) (t size : Nat) (p : Nat → Bool) : Option Nat :=
  ((windows s t size).filter p).foldl (fun m f => match m with
    | some g => if rankLt (windowRank s size f) (windowRank s size g) then some f else m
    | none => some f) none

/-- Every core of a window can take its member (R106). -/
def feasible (s : State) (needs : List (Option Need)) (f : Nat) : Bool :=
  needs.zipIdx.all fun p => match p.1 with
    | some n => (fits s (f + p.2) n).isSome
    | none => true

/-! ## Putting a gang on its cores (R108, R110, R119) -/

/-- The sheaf that takes a seat. -/
def newSheaf (s : State) (b idx : Nat) (x : Seat) : Sheaf :=
  { Sheaf.blank with block := b, idx := idx, slot := x.slot, context := x.context, offset := x.offset, log2w := x.log2w,
                     alloc := x.alloc, placed := s.now }

/-- Put a member block on a core (R110): slot, seats, scratchpad. Its sheaves issue once it is set up. -/
def placeMember (s : State) (g k f : Nat) (need : Need) : State :=
  let x := gangAt s g
  let c := f + k
  match fits s c need with
  | none => s
  | some (slot, seats, pad) =>
    let r := (launchAt s x.launchKey).record
    let b := 4 * c + slot
    let index := x.first + k
    let shape := x.shapes.find? fun h => h.index == index
    let own := index * r.items.toNat
    let record := (x.replays.find? fun e => e.1 == index).map (·.2) |>.getD []
    let blk : Block :=
      { Block.blank with
        part := x.part, launch := x.launch, gang := g, index := index, grank := k, sheafSlots := seats.map (·.slot),
        padBase := 16384 * pad, padBytes := 1024 * r.xpad.toNat, xBytes := 1024 * r.xwin.toNat,
        next := (shape.map (·.next)).getD own, last := own + r.items.toNat,
        tailRecord := (shape.map (·.tailRecord)).getD record, overflow := (shape.map (·.overflow)).getD false,
        replay := (shape.map (·.replay)).getD record }
    let t := { s with blocks := tset s.blocks b blk }
    let idxOf (j : Nat) : Nat := ((shape.bind fun h => h.sheaves[j]?).map (·.idx)).getD j
    let t := modGang t g fun y => { y with moved := y.moved ++ (match shape with
      | some h => (h.sheaves.zip seats).map fun p => (p.1.key, 64 * c + p.2.slot)
      | none => []) }
    seats.zipIdx.foldl (fun u p =>
      { u with sheaves := tset u.sheaves (64 * c + p.1.slot) (newSheaf u b (idxOf p.2) p.1) }) t

/-- Place a gang whole in a window (R108). -/
def placeGang (s : State) (g f : Nat) : State :=
  let needs := gangNeeds s (gangAt s g)
  let t := needs.zipIdx.foldl (fun u p => match p.1 with
    | some n => placeMember u g p.2 f n
    | none => u) s
  modGang t g fun x => { x with state := .placed, firstCore := f, passes := 0 }

/-- A gang of a tract's pending list that may be considered (R108): its launch is not suspended, no earlier gang of its
launch is still pending. -/
def mayPlace (s : State) (before : List Nat) (g : Nat) : Bool :=
  !(launchAt s (gangAt s g).launchKey).suspended && !before.any fun h => (gangAt s h).launchKey == (gangAt s g).launchKey

/-- The window of a gang in its tract, outside another gang's reservation (R108, R109). -/
def windowFor (s : State) (t g : Nat) : Option Nat :=
  let x := gangAt s g
  let needs := gangNeeds s x
  let clear (f : Nat) : Bool := match (tractAt s t).reservation with
    | some (h, r) => h == g || f + x.size ≤ r || r + (gangAt s h).size ≤ f
    | none => true
  firstWindow s t x.size fun f => clear f && feasible s needs f

/-- The scan of a pending list (R108): the first gang that can be placed, those before it, and its window. -/
def scan (s : State) (t : Nat) : List Nat → List Nat → Option (Nat × List Nat × Nat)
  | _, [] => none
  | before, g :: rest =>
    if (gangAt s g).state == .pending && mayPlace s before g then
      match windowFor s t g with
      | some f => some (g, before, f)
      | none => scan s t (before ++ [g]) rest
    else scan s t (before ++ [g]) rest

/-- A pending gang with 64 passes reserves a window where none is reserved (R109). -/
def reserve (s : State) (t : Nat) : State :=
  let x := tractAt s t
  if x.reservation.isSome then s
  else match x.pending.find? fun g => 64 ≤ (gangAt s g).passes with
    | some g => match firstWindow s t (gangAt s g).size fun _ => true with
      | some f => modTract s t fun y => { y with reservation := some (g, f) }
      | none => s
    | none => s

/-- A gang leaves its tract's queues; a batch with nothing left frees its entry (R104). A reservation ends with the gang that holds it,
also where that is killed (DESIGN CHOICE, log 63). -/
def leaveTract (s : State) (t g : Nat) : State :=
  modTract s t fun x =>
    let bs := x.batches.map fun b => { b with gangs := b.gangs.filter (· != g) }
    let done := bs.countP fun b => b.gangs.isEmpty
    { x with pending := x.pending.filter (· != g), batches := bs.filter fun b => !b.gangs.isEmpty,
             freedEntries := x.freedEntries + done,
             reservation := if x.reservation.any fun r => r.1 == g then none else x.reservation }

/-- The die dispatcher places one gang of a tract, at most one every 4 mesh cycles (R108, R109); a pending gang that no live window
can take is killed finally (R141). Each placement scans the list from its head, whatever has made room (DESIGN CHOICE, log 63). -/
def placeNext (s : State) (t : Nat) : State :=
  match (tractAt s t).pending.find? fun g =>
      (gangAt s g).state == .pending && (partAt s (gangAt s g).part).tracts.all fun u => (windows s u (gangAt s g).size).isEmpty with
  | some g => startKill (modGang s g fun x => { x with final := true }) g (some .retire) false (locTract t)
  | none =>
    match if s.now < (tractAt s t).placeAt then none else scan s t [] (tractAt s t).pending with
    | none => reserve s t
    | some (g, before, f) =>
      let u := placeGang s g f
      let u := before.foldl (fun v h => modGang v h fun x => { x with passes := x.passes + 1 }) u
      reserve (modTract (leaveTract u t g) t fun x => { x with placeAt := s.now + 2 }) t

/-! ## Entry state (R111, R363) -/

/-- A strand at entry (R111). Bits of the launch record's fault mask that `%fmask` reserves (R208) are dropped here, and make no LAUNCH
MALFORMED (DESIGN CHOICE, log 61: R83 gives that field no limit). -/
def entryStrand (r : LaunchRecord) (lane sidx : Nat) : Strand :=
  { Strand.blank with lane := lane, sidx := sidx, pc := r.entry, cond := .running, fmask := r.fmask &&& flagBits, nbv := r.nbv }

/-- A sheaf at entry (R111). -/
def setupSheaf (s : State) (f : Nat) (r : LaunchRecord) : State :=
  let x := sheafAt s f
  let t := modSheaf s f fun y => { y with w := if r.params = 0 then [] else [(0, r.params)] }
  (List.range x.width).foldl (fun u i =>
    { u with strands := tset u.strands (strandKey f i) (entryStrand r (x.offset + i) i) }) t

/-- The state in which a strand enters handler or resume code (R361, R363): the pc, depth 0, carrel map (0, 16), v0:v1 its row
of the vector region, predicates and fault registers clear, and no trap entry pending. -/
def enterSave (l : Launch) (index j alloc : Nat) (pc : DWord) (x : Strand) : Strand :=
  let row := vectorRegion l index j + 4 * alloc * x.sidx
  { x with pc := pc, depth := 0, stack := [], trapDepth := 0, x := 0, y := 16,
           v := tset (tset x.v 0 (BitVec.ofNat 32 row)) 1 (BitVec.ofNat 32 (row / 2 ^ 32)),
           vPoison := x.vPoison.filter fun i => i != 0 && i != 1, preds := 0, fstat := 0, fmask := 0, cond := .running, led := none,
           trap := none }

/-- The uniform registers w62 and w63 of handler and resume code (R361). -/
def enterUniform (l : Launch) (index j : Nat) (f : Sheaf) : Sheaf :=
  { f with w := tset (tset f.w 62 (BitVec.ofNat 64 (vectorRegion l index j))) 63 (BitVec.ofNat 64 (sheafArea l index j)),
           wPoison := f.wPoison.filter fun i => i != 62 && i != 63, backedge := 0, held := none }

/-- The address of a strand's record (R358). -/
def recordVa (l : Launch) (index j i : Nat) : Nat := sheafArea l index j + 0x800 + 192 * i

/-- The strands of a sheaf that are recorded as Done (R360), by `%sidx`. -/
def framedDone (s : State) (l : Launch) (index j width : Nat) : List Nat :=
  (List.range width).filter fun i => frameField s l (recordVa l index j i + 0x35) 1 == 6

/-- The descriptor of a tile in the tile region (R156, R358): its bits, its bound byte, and what stands in its other bytes. -/
def framedTile (s : State) (l : Launch) (index n : Nat) : DWord × Nat × Nat :=
  let va := saveVa l index + 0x40 + 32 * n
  (BitVec.ofNat 64 (frameField s l va 8), frameField s l (va + 8) 1, frameField s l (va + 9) 23)

/-- The tiles that a resume binds, each Empty (R160, R363). -/
def framedTiles (s : State) (l : Launch) (index : Nat) : Tab Tile :=
  (List.range 32).filterMap fun n =>
    let e := framedTile s l index n
    if e.2.1 = 1 then some (n, { desc := e.1, state := .empty, f := false, p := false, ec := 0 }) else none

/-- A descriptor of the tile region that no stop writes (R156, R364, log 51): of a tile that could not be bound, or bytes that are
not 0. -/
def tileIllegal (s : State) (b : Nat) (l : Launch) (index n : Nat) : Bool :=
  let e := framedTile s l index n
  e.2.2 != 0 || decide (1 < e.2.1) || (if e.2.1 = 1 then (descCheck s b e.1).cause.isSome else e.1 != 0)

/-- The lines of the frame of a resumed block that the hardware reads, by an address in each: its tile region and its strand
records. -/
def resumeLines (s : State) (b : Nat) (l : Launch) : List Nat :=
  let index := (blockAt s b).index
  ((List.range 16).map fun i => saveVa l index + 0x40 + 64 * i) ++ (blockSheaves s b).flatMap fun f =>
    (List.range (sheafAt s f).width).map (recordVa l index (sheafAt s f).idx)

/-- What the hardware meets where it reads the frame of a resumed block. -/
def resumeVerdict (s : State) (b : Nat) (l : Launch) : Verdict :=
  (resumeLines s b l).foldl (fun v va => v.and (frameLine s l va).1) Verdict.ok

/-- What the hardware's access to a block's frame comes to where it cannot go on (R133, R357, R364; log 51): a page fault is
opened and stalls the block until it is served (R88), all else kills the gang. -/
def frameStops (s : State) (b : Nat) (acc : Access) (v : Verdict) : Option State :=
  let kill (t : State) (cls : RasClass) : Option State := some (startKill t (blockAt s b).gang (some cls) false (locCore (b / 4)))
  match v.cause, v.faults with
  | some _, _ =>
    kill (match v.walk with | some (level, pa) => logWalk s (locCore (b / 4)) (.malformed level pa) | none => s) .trap
  | none, va :: _ =>
    if v.poison then kill s .consumed else if v.fenced then kill s .fence
    else some (modBlock (openFault s (launchOf s (blockAt s b)) va acc (locCore (b / 4))) b fun x => { x with fault := some (va, acc) })
  | none, [] => if v.poison then kill s .consumed else if v.fenced then kill s .fence else none

/-- A resumed sheaf enters the resume code (R363); its Done strands are Done. No load of it goes behind what its gang has seen (R199,
R401). -/
def resumeSheaf (s : State) (l : Launch) (index f : Nat) : State :=
  let x := sheafAt s f
  let done := framedDone s l index x.idx x.width
  let seen := (gangAt s (blockAt s x.block).gang).seen
  let pc := l.record.codeBase + l.record.resume.setWidth 64
  let t := modSheaf s f fun y => enterUniform l index x.idx { y with phase := .resume }
  (List.range x.width).foldl (fun u i =>
    let e := { Strand.blank with lane := x.offset + i, sidx := i, nbv := l.record.nbv, seen := seen }
    let e := if done.contains i then e else enterSave l index x.idx x.alloc pc e
    { u with strands := tset u.strands (strandKey f i) e }) t

/-- The first draw of a block (R113): by its strands as one group, or none without a refill point. -/
def firstDraw (s : State) (b : Nat) : State :=
  let x := blockAt s b
  let r := (launchOf s x).record
  let group := (blockStrands s b).filter fun k => (strandAt s k).cond != .done
  match refillPoint (launchOf s x) with
  | none => group.foldl (fun t k => modStrand t k fun y => { y with item := BitVec.ofNat 64 (x.index * r.items.toNat) }) s
  | some _ => draw s b r.entry true group

/-- A core sets up a block that resumes from its frame (R363). -/
def setupResumed (s : State) (b : Nat) (l : Launch) : State :=
  let x := blockAt s b
  match frameStops s b .read (resumeVerdict s b l) with
  | some t => t
  | none =>
    if (List.range 32).any (tileIllegal s b l x.index) then startKill s x.gang (some .control) false (locCore (b / 4))
    else
      let t := (blockSheaves s b).foldl (fun u f => resumeSheaf u l x.index f) s
      let undrawn := (gangAt s x.gang).shapes.any fun o => o.index == x.index && o.undrawn
      let t := modBlock t b fun y => { y with ready := true, tiles := framedTiles s l x.index, undrawn := undrawn }
      modGang t x.gang fun y => { y with shapes := y.shapes.filter fun o => o.index != x.index }

/-- The set-up of a block waits for a link (R21): what it reads of a frame, or the walk for its draw's tail counter, is held. -/
def setupHeld (s : State) (b : Nat) : Bool :=
  let x := blockAt s b
  let l := launchOf s x
  if !x.ready && (gangAt s x.gang).shapes.any fun h => h.index == x.index then
    anyDown s && (resumeLines s b l).any (readHeld s (b / 1024) .none l)
  else tailEnabled l.record && walkHeld s (b / 1024) (.strands (b / 4)) l l.record.tailCtr.toNat

/-- The draw of placement (R113, R114): a page fault of the tail counter stalls the whole group until it is served (R88), PROT and
PAGE trap every strand at the entry instruction. After such a trap no strand has drawn: their item stays 0, the block's next item is
as it was, and the draw is not made again (DESIGN CHOICE, log 64). -/
def placementDraw (s : State) (b : Nat) : State :=
  let x := blockAt s b
  let l := launchOf s x
  let group := (blockStrands s b).filter fun k => (strandAt s k).cond != .done
  let t := modBlock s b fun y => { y with undrawn := false }
  if (refillPoint l).isSome && needsTail t b group.length then
    let v := tailCheck t b
    match v.cause, v.faults with
    | some c, _ =>
      let t := match v.walk with | some (level, pa) => logWalk t (locCore (b / 4)) (.malformed level pa) | none => t
      group.foldl (fun u k => trapEntry u k c l.record.entry (laneMask t group)) t
    | none, va :: _ => modBlock (group.foldl (fun u k => stallFault u k [va] .write) t) b fun y => { y with undrawn := true }
    | none, [] =>
      if v.poison then startKill t x.gang (some .consumed) false (locCore (b / 4))
      else if v.fenced then startKill t x.gang (some .fence) false (locCore (b / 4))
      else firstDraw t b
  else firstDraw t b

/-- Every strand of a block waits for its draw of placement, whose page fault is served. -/
def drawServed (s : State) (b : Nat) : Bool :=
  (blockStrands s b).all fun k => match (strandAt s k).cond with
    | .stalled (.page [] _) | .done => true
    | _ => false

/-- A stalled draw of placement is made again (R88, R114), where the block's sheaves may issue. -/
def retryDraw (s : State) (b : Nat) : State :=
  if (blockAt s b).undrawn && blockIssues s b && drawServed s b then
    placementDraw ((blockStrands s b).foldl (fun u k => if (strandAt u k).cond == .done then u else setCond u k .running) s) b
  else s

/-- A core sets up a placed block (R110 to R113, R363), whose strands then draw. One that resumes is set up unless its gang is being
stopped again: its frame is kept then. -/
def setupBlock (s : State) (b : Nat) : State :=
  let x := blockAt s b
  if (tfind s.blocks b).isNone || setupHeld s b || x.fault.isSome then s
  else if x.ready then retryDraw s b
  else
    let l := launchOf s x
    match (gangAt s x.gang).shapes.find? fun h => h.index == x.index with
    | some _ => if x.stopped then s else setupResumed s b l
    | none =>
      let t := (blockSheaves s b).foldl (fun u f => setupSheaf u f l.record) s
      placementDraw (modBlock t b fun y => { y with ready := true }) b

/-! ## Leaving a core (R105, R136) -/

/-- Members of a gang that are to be placed (R103). -/
def liveMembers (g : Gang) : Nat := g.size - g.retiredMembers.length

/-- A block's operations that outlive it pass to its gang (R85, R138): but for a copy that has sent nothing. -/
def lasting (x : Block) : List OpRef := x.ops.filter fun o => !(o.kind == .copy && o.count == 0)

/-- Gathered returns become credit, but for the slots that a retired quad took with it (R141). -/
def giveCredit (x : Tract) : Tract :=
  { x with credit := x.credit + (x.returns - x.owed), owed := x.owed - x.returns, returns := 0 }

/-- A slot return joins a tract's accumulator, which holds 16: a full one is sent first (R104, R105). -/
def addReturn (now : Nat) (x : Tract) : Tract :=
  let y := if Config.returnDepth ≤ x.returns then giveCredit x else x
  { y with returns := y.returns + 1, returnsSince := if y.returns = 0 then now else y.returnsSince }

/-- Some slot returns join it one by one. -/
def addReturns (now : Nat) : Nat → Tract → Tract
  | 0, x => x
  | n + 1, x => addReturns now n (addReturn now x)

/-- A freed block slot joins its tract's accumulator, but for a retired quad's (R105, R141). -/
def returnSlot (s : State) (c : Nat) : State :=
  if (quadAt s (c / 4)).retired then s else modTract s (c / 128) (addReturn s.now)

/-- A block leaves its core: its slot, sheaves, strands, registers, scratchpad and tiles are free (R105). -/
def freeBlock (s : State) (b : Nat) : State :=
  let x := blockAt s b
  let fs := blockSheaves s b
  let t := modGang s x.gang fun g =>
    { g with ops := g.ops ++ lasting x, horizon := max g.horizon x.lct, draws := g.draws ++ x.draws.map fun d => (d.id, x.index, d.strands.length) }
  let t :=
    { t with strands := t.strands.filter (fun p => !fs.contains (sheafOf p.1)), sheaves := t.sheaves.filter (fun p => !fs.contains p.1),
             blocks := terase t.blocks b }
  returnSlot (modCore t (b / 4) fun k => { k with regxQueue := k.regxQueue.filter fun f => !fs.contains f }) (b / 4)

/-- A block's sheaf is listed in an ensemble that holds a latch or a table entry (R105). -/
def listed (s : State) (b : Nat) : Bool :=
  let x := quadAt s (b / 16)
  let fs := blockSheaves s b
  (x.latches.any fun l => (ensSheaves (b / 16) l.ens).any fs.contains) ||
    x.table.any fun e => e.members.any fun a => fs.contains a.sheaf

/-- Every strand of a block is Done. -/
def blockDone (s : State) (b : Nat) : Bool := (blockStrands s b).all fun k => (strandAt s k).cond == .done

/-- A block retires (R105): its record entries begin to drain (R164). One whose frame is written goes on from its frame. -/
def retireBlock (s : State) (b : Nat) : State :=
  let x := blockAt s b
  let busy := ((coreAt s (b / 4)).queue.any fun c => c.block == b) || (coreAt s (b / 4)).writes.any fun w => w.1 == b
  let live := match (gangAt s x.gang).state with | .placed | .stopping _ => true | _ => false
  let framed := (gangAt s x.gang).shapes.any fun h => h.index == x.index
  if !x.ready || !blockDone s b || busy || listed s b || !live || framed || (tfind s.blocks b).isNone then s
  else
    let t := freeBlock (drainBlock s b) b
    let t := modGang t x.gang fun g =>
      let left := g.retiredMembers ++ [x.grank]
      { g with retiredMembers := left, final := g.final || x.overflow,
               replays := (g.replays.filter fun e => e.1 != x.index) ++ [(x.index, x.tailRecord)],
               state := if left.length = g.size then .retired else g.state }
    modLaunch t x.launchKey fun l => { l with retiredBlocks := l.retiredBlocks + 1 }

/-! ## Kill (R134 to R140) -/

/-- The causes after which a restartable gang is relaunched (R138). -/
def RasClass.relaunches (c : RasClass) : Bool :=
  c == .consumed || c == .control || c == .fence || c == .engine || c == .retire

/-- A gang that R138 relaunches. -/
def relaunchable (s : State) (g : Nat) : Bool :=
  let x := gangAt s g
  restartable (launchAt s x.launchKey).record && (x.cause.map RasClass.relaunches).getD false && x.relaunches < 2 && !x.final &&
    !(launchAt s x.launchKey).aborted &&
    !((gangBlocks s g).any fun b => (blockAt s b).overflow) && !(x.shapes.any (·.overflow))

/-- The lines that a killed block's copy engine has still to send are never sent: its running command ends at this line boundary
(R136). -/
def dropWrites (s : State) (b : Nat) : State :=
  let gone := (coreAt s (b / 4)).writes.filter fun w => w.1 == b
  let t := modCore s (b / 4) fun k => { k with writes := k.writes.filter fun w => w.1 != b }
  modBlock t b fun x => { x with ops := x.ops.map fun o => { o with count := o.count - gone.countP fun w => w.2.1 == o.id } }

/-- Slots promised to a gang that is not placed return by R105 (R102). -/
def returnPromised (s : State) (g : Nat) : State :=
  let x := gangAt s g
  if (tractAt s x.tract).pending.contains g then
    modTract s x.tract (addReturns s.now (liveMembers x))
  else s

/-- A core discards the entries of a killed gang that have not left it (R136), also those of members that have retired. -/
def discardEntries (s : State) (g c : Nat) : State :=
  if (coreAt s c).record.any fun e => e.gang == g && e.state != .sent then
    wakeRecord (settle (modCore s c fun k => { k with record := k.record.filter fun e => !(e.gang == g && e.state != .sent) }) c) c
  else s

/-- A gang has asked for what a message reads. -/
def readsFor (s : State) (g : Nat) (m : Msg) : Bool :=
  let of (k : Nat) : Bool := (tfind s.strands k).isSome && (blockAt s (blockOf s k)).gang == g
  match m.inner with
  | .read _ r | .hostLoad _ r => r.gang == g || r.waiters.any fun w => of w.1
  | .engineRead _ _ core op _ _ _ => copyGang s core op == some g
  | .abacus _ _ (.read _ _ k) _ _ _ _ | .abacus _ _ (.collect _ _ k) _ _ _ _ => of k
  | _ => false

/-- The reads of a gang that have left its cores and have not executed. -/
def readsOf (s : State) (g : Nat) : List Nat := (s.net.filter fun p => readsFor s g p.2).map (·.1)

/-- The members of a killed gang stop, and their state is treated by R136. -/
def treatKill (s : State) (g : Nat) : State :=
  let bs := gangBlocks s g
  let mine (f : Nat) : Bool := bs.contains (sheafAt s f).block && (tfind s.sheaves f).isSome
  let final := !relaunchable s g
  let reads := readsOf s g
  let t := (tkeys s.cores).foldl (fun u c => discardEntries u g c) s
  let t := bs.foldl (fun u b =>
    let v := dropWrites (modCore u (b / 4) fun k => { k with queue := k.queue.filter fun c => c.block != b }) b
    settle (wakeWhere v (coreStrands v (b / 4)) fun c => c == .stalled .copyQueue) (b / 4)) t
  let t := (nub (bs.map (· / 16))).foldl (fun u q => orphanRequests u q mine) t
  let t := dropMsgs t fun _ m => match m with | .xst h _ _ _ => h == g | _ => false
  let t := bs.foldl (fun u b => modBlock u b fun x => { x with stopped := true, tiles := [], shared := [] }) t
  let t := modGang t g fun x =>
    { x with final := final, reads := nub (x.reads ++ reads),
             replays := (x.replays.filter fun e => !(bs.any fun b => (blockAt s b).index == e.1)) ++
               bs.map (fun b => ((blockAt s b).index, (blockAt s b).tailRecord)) ++
               x.shapes.map (fun h => (h.index, h.tailRecord)),
             shapes := [] }
  let t := reserve (leaveTract (returnPromised t g) (gangAt s g).tract g) (gangAt s g).tract
  modLaunch t (gangAt s g).launchKey fun l => { l with resumed := l.resumed.filter (· != g) }

/-- The members have stopped and been treated. -/
def killTreated (s : State) (g : Nat) : Bool := (gangBlocks s g).all fun b => (blockAt s b).stopped && (blockAt s b).tiles.isEmpty

/-- The resources of a killed gang are released (R135). -/
def releaseKilled (s : State) (g : Nat) : State :=
  let t := (gangBlocks s g).foldl freeBlock s
  let t := modGang t g fun y => { y with state := .killed }
  if (gangAt s g).final then finalKill t g else t

/-- A gang kill takes effect (R135). -/
def killGang (s : State) (g : Nat) : State :=
  match (gangAt s g).state with
  | .killing _ => treatKill s g
  | _ => s

/-- Every member of a killed gang has stopped, at Tk + 1,000 at the latest: its resources are released (R135). -/
def finishKill (s : State) (g : Nat) : State :=
  match (gangAt s g).state with
  | .killing tk =>
    if killTreated s g || tk + Config.killTicks ≤ s.now then releaseKilled (treatKill s g) g else s
  | _ => s

/-- Insert a gang into a launch's list in ascending block order (R103). -/
def insertGang (s : State) (g : Nat) : List Nat → List Nat
  | [] => [g]
  | h :: hs => if (gangAt s g).first ≤ (gangAt s h).first then g :: h :: hs else h :: insertGang s g hs

/-- A message still asks a unit for something. -/
def stillAsks (s : State) (m : Msg) : Bool :=
  match m.inner with
  | .hostLoad _ _ => true
  | m => (requestOf s m).isSome

/-- Nothing of a killed gang is still under way (R138): its entries drained or discarded, its messages executed. -/
def settled (s : State) (g : Nat) : Bool :=
  (gangAt s g).ops.isEmpty && (gangAt s g).draws.isEmpty && !(s.cores.any fun p => p.2.record.any fun e => e.gang == g) &&
    (gangAt s g).reads.all (fun id => !(tfind s.net id).any (stillAsks s)) &&
    !s.net.any fun p => match p.2.inner with
      | .drain _ _ e _ | .hostStore _ e => e.gang == g
      | _ => false

/-- A killed gang is relaunched (R138, R140): it ranks ahead of its launch's unsent gangs (R103). -/
def relaunch (s : State) (g : Nat) : State :=
  let x := gangAt s g
  if x.state != .killed || x.final || !settled s g then s
  else
    let t := modGang s g fun y =>
      { y with state := .pending, cause := none, relaunches := y.relaunches + 1, retiredMembers := [], passes := 0,
               horizon := 0, reads := [], seen := [] }
    let t := modLaunch t x.launchKey fun l =>
      { l with resumed := insertGang t g l.resumed, relaunched := l.relaunched + 1,
               retiredBlocks := l.retiredBlocks - x.retiredMembers.length }
    raise t 0x0003 1 x.part (locTract x.tract) (BitVec.ofNat 64 (x.launch + 2 ^ 32 * x.first))

/-! ## Batches (R101 to R105) -/

/-- The launches of a partition. -/
def partLaunches (s : State) (p : Nat) : List Nat := (tkeys s.launches).filter fun k => k / 2 ^ 32 == p

/-- Gangs of a launch that a batch may still carry. -/
def hasUnsent (l : Launch) : Bool :=
  !l.suspended && !l.aborted && (!l.resumed.isEmpty || l.nextBlock < l.record.blocks.toNat)

/-- The highest-ranked launch with gangs to send (R101, R103). -/
def nextLaunch (s : State) (p : Nat) : Option Nat :=
  ((partLaunches s p).filter fun k => hasUnsent (launchAt s k)).foldl (fun m k => match m with
    | some j =>
      let a := launchAt s k
      let b := launchAt s j
      if b.record.prio < a.record.prio || (a.record.prio == b.record.prio && a.order < b.order) then some k else m
    | none => some k) none

/-- The tract of a batch (R103): a free queue entry, the most credit, the lowest number; none of a fenced die (R68). -/
def batchTract (s : State) (p : Nat) : Option Nat :=
  ((partAt s p).tracts.filter fun t => 0 < (tractAt s t).batchFree && !(dieAt s (t / 2)).fenced).foldl (fun m t => match m with
    | some u =>
      let a := (tractAt s t).credit
      let b := (tractAt s u).credit
      if b < a || (a == b && t < u) then some t else m
    | none => some t) none

/-- The resumed and relaunched gangs that fit in n blocks. -/
def takeResumed (s : State) : Nat → List Nat → List Nat
  | _, [] => []
  | n, g :: gs => if liveMembers (gangAt s g) ≤ n then g :: takeResumed s (n - liveMembers (gangAt s g)) gs else []

/-- Make the gangs of the next blocks of a launch. -/
def newGangs (key size first : Nat) : Nat → State → List Nat × State
  | 0, s => ([], s)
  | n + 1, s =>
    let (id, t) := fresh s
    let g : Gang :=
      { Gang.blank with part := key / 2 ^ 32, launch := key % 2 ^ 32, first := first, size := size, state := .pending }
    let t := { t with gangs := tset t.gangs id g }
    let (gs, u) := newGangs key size (first + size) n t
    (id :: gs, u)

/-- A partition's next batch: its launch, its tract and the credit that its first gang needs (R103), where the dispatcher is able
to send for it. -/
def nextBatch (s : State) (p : Nat) : Option (Nat × Nat) :=
  match nextLaunch s p, batchTract s p with
  | some key, some t =>
    let l := launchAt s key
    let need := match l.resumed.head? with | some g => liveMembers (gangAt s g) | none => l.record.gang.toNat
    if (tractAt s t).credit < need then none else some (key, t)
  | _, _ => none

/-- The partition that the dispatcher serves next (R103): in rotation, of those that it is able to send for. -/
def nextServed (s : State) : Option Nat :=
  let able := (tkeys s.parts).filter fun p => (nextBatch s p).isSome
  match able.find? fun p => decide (s.module.lastPart < p) with
  | some p => some p
  | none => able.head?

/-- The global dispatcher forms a batch of a partition whose turn it is (R103). -/
def formBatch (s : State) (p : Nat) : State :=
  match nextBatch s p with
  | none => s
  | some (key, t) =>
    if nextServed s != some p || s.now < s.module.dispatchAt then s
    else
      let l := launchAt s key
      let size := l.record.gang.toNat
      let k := min 64 (tractAt s t).credit
      let old := takeResumed s k l.resumed
      let used := (old.map fun g => liveMembers (gangAt s g)).sum
      let fresh := if old.length = l.resumed.length then (min (k - used) (l.record.blocks.toNat - l.nextBlock)) / size else 0
      let (new, u) := newGangs key size l.nextBlock fresh s
      let gs := old ++ new
      let u := gs.foldl (fun v g => modGang v g fun x => { x with tract := t }) u
      let u := modLaunch u key fun x => { x with resumed := x.resumed.drop old.length, nextBlock := x.nextBlock + fresh * size }
      let u := modTract u t fun x =>
        { x with credit := x.credit - (used + fresh * size), batchFree := x.batchFree - 1, batches := x.batches ++ [{ gangs := gs }],
                 pending := x.pending ++ gs }
      modModule u fun m => { m with dispatchAt := s.now + 2, lastPart := p }

/-- The report of a freed batch-queue entry, with every slot return gathered (R104): sent and received in one step, so that returns
gathered since the entry was freed ride along (DESIGN CHOICE, log 63). -/
def reportFreed (s : State) (t : Nat) : State :=
  if (tractAt s t).freedEntries = 0 then s
  else modTract s t fun x =>
    { giveCredit x with batchFree := x.batchFree + x.freedEntries, freedEntries := 0 }

/-- Slot returns go to the global dispatcher after 16 of them or 256 ticks (R105). -/
def sendReturns (s : State) (t : Nat) : State :=
  let x := tractAt s t
  if x.returns = 0 || (x.returns < Config.returnDepth && s.now < x.returnsSince + 256) then s
  else modTract s t giveCredit

/-! ## Launch completion (R85) -/

/-- The status of a completion (R85). -/
def launchStatus (l : Launch) : Status := if l.aborted then .aborted else if 0 < l.killed then .killed else .done

/-- A gang is being killed, or waits for its relaunch (R135, R138). -/
def Gang.unfinished (g : Gang) : Bool := match g.state with
  | .killing _ => true
  | .killed => !g.final
  | _ => false

/-- A launch's blocks are done, its entries have drained and its operations are complete (R85). -/
def launchReady (s : State) (key : Nat) : Bool :=
  let l := launchAt s key
  l.retiredBlocks + l.droppedBlocks = l.record.blocks.toNat && decide (l.horizon ≤ s.now) &&
    !(s.cores.any fun p => p.2.record.any fun e => e.part == l.part && e.launch == l.id) &&
    !(s.net.any fun p => match p.2 with
      | .drain _ _ e _ | .hostStore _ e => e.part == l.part && e.launch == l.id
      | _ => false) &&
    !(s.gangs.any fun p => p.2.launchKey == key && (!p.2.ops.isEmpty || p.2.unfinished)) &&
    !(s.blocks.any fun p => p.2.launchKey == key)

/-- Send a completion, where its slot is registered; the launch and its gangs are forgotten (R85). -/
def sendCompletion (s : State) (key : Nat) (status : Status) (dt : Nat) : State :=
  let l := launchAt s key
  let slot := (l.record.endpoint.toNat) % 16
  match tfind (partAt s l.part).slots slot with
  | none => modLaunch s key fun x => { x with ready := some dt }
  | some _ =>
    let t := emit s (.completion l.part slot l.record.tag l.id status l.killed l.relaunched dt)
    { t with launches := terase t.launches key, gangs := t.gangs.filter fun p => p.2.launchKey != key }

/-- A launch completes (R85); a held completion goes out once its slot is registered. -/
def completeLaunch (s : State) (key : Nat) : State :=
  let l := launchAt s key
  if (tfind s.launches key).isNone || !hostReach s then s
  else match l.ready with
    | some dt => sendCompletion s key (launchStatus l) dt
    | none => if launchReady s key then sendCompletion s key (launchStatus l) s.now else s

/-! ## The meanings -/

/-- The global dispatcher forms a batch (R103). The focus: part. -/
def execBatchForm (s : State) : Host.Outcome State Fault Refusal := .next (quiet s (formBatch s (s.arg 0)))

/-- The report of a freed batch-queue entry arrives (R104). The focus: tract. -/
def execBatchQueueEntryFreed (s : State) : Host.Outcome State Fault Refusal := .next (quiet s (reportFreed s (s.arg 0)))

/-- Accumulated slot returns are sent (R105). The focus: tract. -/
def execSlotReturnSend (s : State) : Host.Outcome State Fault Refusal := .next (quiet s (sendReturns s (s.arg 0)))

/-- A gang is placed whole (R108). The focus: tract. -/
def execGangPlacement (s : State) : Host.Outcome State Fault Refusal := .next (quiet s (placeNext s (s.arg 0)))

/-- A placed block is set up (R110). The focus: core, slot. -/
def execBlockSetup (s : State) : Host.Outcome State Fault Refusal := .next (quiet s (setupBlock s (4 * s.arg 0 + s.arg 1)))

/-- A block retires (R105). The focus: core, slot. -/
def execBlockRetire (s : State) : Host.Outcome State Fault Refusal := .next (quiet s (retireBlock s (4 * s.arg 0 + s.arg 1)))

/-- A launch's completion is sent (R85). The focus: part, id. -/
def execLaunchCompletion (s : State) : Host.Outcome State Fault Refusal :=
  .next (quiet s (completeLaunch s (2 ^ 32 * s.arg 0 + s.arg 1)))

/-- A gang kill takes effect (R135). The focus: gang. -/
def execGangKill (s : State) : Host.Outcome State Fault Refusal := .next (quiet s (killGang s (s.arg 0)))

/-- The resources of a killed gang are released (R135). The focus: gang. -/
def execKillStopDeadline (s : State) : Host.Outcome State Fault Refusal := .next (quiet s (finishKill s (s.arg 0)))

/-- A killed gang is relaunched (R138). The focus: gang. -/
def execGangRelaunch (s : State) : Host.Outcome State Fault Refusal := .next (quiet s (relaunch s (s.arg 0)))

end Sys2Proof.Machine
end

