-- ==== Sys2Proof/Machine/Resume.lean ====
section
/-! DEFINITION. What a load of a strand returns that is served at once (R174, R177), and the reload of a strand, and of its sheaf once
every strand of it has reloaded or ended, at the end of resume code (R364). -/

namespace Sys2Proof.Machine

/-! ## Loads that are served at once (R174) -/

/-- The slice's copy that serves a load of a strand now (R52, R60, R72, R174): of a Coherent or RO line homed in another tract the
near slice's, else a helper's loan; none where the context's mask is empty, or where the strand has returned newer content (R177).
-/
def sliceSource (s : State) (k pa cls : Nat) : Option SliceCopy :=
  let q := coreOf k / 4
  let l := strandLaunch s k
  let line := pa / 64
  if readSlice s (coreOf k) line cls != q || tractOfPa pa == coreOf k / 128 || wayMask s q l.part l.record.ctx.toNat = 0 then none
  else
    let loan := if cls = 2 then ((quadAt s q).redirects.find? fun d => d.1 == line).bind fun d => slotOf s d.2 line else none
    ((slotOf s q line).orElse fun _ => loan).filter fun c => decide (tget (strandAt s k).seen pa 0 ≤ c.born)

/-- What the L1 serves of a byte to a load of a strand (R174, R177). -/
def l1Source (s : State) (k pa cls : Nat) : Option (Byte × Bool) :=
  if cls != 4 && !l1Older s k pa 1 then l1Byte s (coreOf k) pa else none

/-- A byte of memory as a load of a strand served now returns it: record, L1, near copy or loan, else the home (R174). -/
def loadByteNow (s : State) (k pa cls : Nat) : Byte × Bool :=
  match (recByte (coreAt s (coreOf k)) pa).orElse fun _ => l1Source s k pa cls with
  | some x => x
  | none => match sliceSource s k pa cls with
    | some c => (c.bytes.getD (pa % 64) 0, c.poison)
    | none => (memRead s.mem pa, lineBad s (pa / 64))

/-- How new the content is that such a load returns (R177; see L1Line). -/
def bornNow (s : State) (k pa cls : Nat) : Nat :=
  if (l1Source s k pa cls).isSome then (((coreAt s (coreOf k)).l1.find? fun e => e.line == pa / 64).map (·.born)).getD 0
  else match sliceSource s k pa cls with
    | some c => c.born
    | none => s.ctl.nextId

/-! ## The reload (R363, R364) -/

/-- The translation of an ordinary load of a frame: no Abacus or Host page (log 20). -/
def translateLoad (s : State) (k va : Nat) : Trans :=
  if Config.windowBase ≤ va then .prot none
  else
    let tr := translate s (some (coreOf k)) (strandLaunch s k) va .read
    if tr.leaf.any fun x => decide (3 ≤ x.cls) then .prot tr.leaf else tr

/-- Bytes of one line of the frame as loads of a strand return them, from lo up to hi. -/
def loadLine (s : State) (k lo hi : Nat) : List (Byte × Bool) :=
  match translateLoad s k lo with
  | .ok pa leaf => (List.range (hi - lo)).map fun i => loadByteNow s k (pa + i) leaf.cls
  | _ => List.replicate (hi - lo) (0, false)

/-- Bytes of the frame as loads of a strand return them, and whether one is poisoned. -/
def loadFrame (s : State) (k va n : Nat) : List Byte × Bool :=
  let bs := (List.range ((va + n + 63) / 64 - va / 64)).flatMap fun i =>
    loadLine s k (max va (64 * (va / 64 + i))) (min (va + n) (64 * (va / 64 + i) + 64))
  (bs.map (·.1), bs.any (·.2))

/-- A little-endian field of the frame. -/
def loadField (s : State) (k va n : Nat) : Nat := leNat (loadFrame s k va n).1

/-- A field of the frame is poisoned. -/
def fieldBad (s : State) (k va n : Nat) : Bool := (loadFrame s k va n).2

/-- Some bytes of the frame that are to be 0 are not. -/
def notZero (s : State) (k va n : Nat) : Bool := (loadFrame s k va n).1.any (· != 0)

/-- The verdict of the pages that some bytes of the frame lie in. -/
def loadVerdict (s : State) (k va n : Nat) : Verdict :=
  ((List.range ((va + n - 1) / 2 ^ 16 - va / 2 ^ 16 + 1)).map fun i => max va ((va / 2 ^ 16 + i) * 2 ^ 16)).foldl
    (fun v a => v.and ((translateLoad s k a).verdict a)) Verdict.ok

/-- The checks of tret (R364, R133): PROT outside resume code; every page that it reads; a poisoned control field, which counts before
the page faults of others (R355). -/
def tretCheck (s : State) (k : Nat) : Verdict :=
  if (sheafAt s (sheafOf k)).phase != .resume then Verdict.trap .prot
  else
    let r := strandRecordVa s k
    let pages := ((loadVerdict s k r 192).and (loadVerdict s k (rowVa s k) 8)).and
      ((loadVerdict s k (sheafRecordVa s k) 0x800).and (loadVerdict s k (saveVa (strandLaunch s k) (indexOf s k)) 0x1000))
    let bad := fieldBad s k r 128 || fieldBad s k (r + 0x88) 4
    pages.and (Verdict.poisonIf (pages.traps.isEmpty && bad))

/-- A strand record that tret does not take (R364): the gang is killed with class CONTROL. -/
def recordIllegal (s : State) (k : Nat) : Bool :=
  let r := strandRecordVa s k
  let n := (sheafAt s (sheafOf k)).alloc
  let count := loadField s k (r + 0x36) 1
  decide (6 < loadField s k (r + 0x35) 1) || loadField s k r 8 % 4 != 0 || decide (loadField s k (r + 0x28) 4 < count) || decide (4 < count) ||
    decide (n < loadField s k (r + 0x30) 2 + 16) || decide (n < loadField s k (r + 0x32) 2 + 16) ||
    decide (128 ≤ loadField s k (r + 0x34) 1) || loadField s k (r + 0x39) 1 != 0 || loadField s k (r + 0x3B) 1 != 0 || notZero s k (r + 0x8C) 52 ||
    (List.range (min count 4)).any fun i =>
      loadField s k (r + 0x40 + 16 * i) 8 % 4 != 0 || loadField s k (r + 0x4C + 16 * i) 4 != 0

/-- The condition that a code stands for (R360). A mask register above 11 counts modulo 12, and only condition 5 reads it (DESIGN CHOICE,
log 51: R364 says nothing of either). -/
def condOf (code mask : Nat) : Cond :=
  match code with
  | 1 => .deferred
  | 2 => .parked
  | 3 => .waiting .bar
  | 4 => .waiting .gbar
  | 5 => .waiting (.waitm (mask % 12))
  | 6 => .done
  | _ => .running

/-- A strand reloads its record, and v0 and v1 from its row (R364); it is Saved. -/
def reloadStrand (s : State) (k : Nat) : State :=
  let r := strandRecordVa s k
  let word (off n : Nat) : Nat := loadField s k (r + off) n
  let (v0, p0) := loadFrame s k (rowVa s k) 4
  let (v1, p1) := loadFrame s k (rowVa s k + 4) 4
  let stack := (List.range (min (word 0x36 1) 4)).map fun i => RetEntry.ofBytes (loadFrame s k (r + 0x40 + 16 * i) 16).1
  let t := modStrand s k fun x =>
    { x with pc := BitVec.ofNat 64 (word 0 8), item := BitVec.ofNat 64 (word 8 8), csp := BitVec.ofNat 64 (word 0x10 8),
             trpc := BitVec.ofNat 64 (word 0x18 8), tdet := BitVec.ofNat 64 (word 0x20 8), depth := BitVec.ofNat 32 (word 0x28 4),
             age := BitVec.ofNat 32 (word 0x2C 4), x := BitVec.ofNat 16 (word 0x30 2), y := BitVec.ofNat 16 (word 0x32 2),
             preds := BitVec.ofNat 8 (word 0x34 1), tcause := BitVec.ofNat 8 (word 0x37 1), fstat := BitVec.ofNat 16 (word 0x38 2),
             fmask := BitVec.ofNat 16 (word 0x3A 2), trapDepth := BitVec.ofNat 32 (word 0x3C 4), stack := stack, cond := .saved,
             recorded := some (condOf (word 0x35 1) (word 0x88 4)) }
  writeV (writeV t k 0 (BitVec.ofNat 32 (leNat v0)) p0) k 1 (BitVec.ofNat 32 (leNat v1)) p1

/-- A sheaf is the first of its block to finish its resume (R364). -/
def firstToFinish (s : State) (k : Nat) : Bool := (blockSheaves s (blockOf s k)).all fun f => (sheafAt s f).phase == .resume

/-- A reserved field of the block's own part of the frame is not 0 (R358, R364). -/
def blockAreaIllegal (s : State) (k : Nat) : Bool :=
  let va := saveVa (strandLaunch s k) (indexOf s k)
  notZero s k (va + 2) 6 || notZero s k (va + 0x10) 48 || notZero s k (va + 0x440) 0xBC0

/-- The shared-map region of a sheaf: its address and how many bytes of it hold mappings (R156). -/
def sharedRegion (s : State) (k : Nat) : Nat × Nat :=
  (sheafRecordVa s k + 0x300, min 2 (loadField s k (sheafRecordVa s k + 6) 1) * (8 + 8 * (sheafAt s (sheafOf k)).width))

/-- The sheaf's own part of the frame that tret does not take: a reserved field that is not 0, of the record or of the ensemble
register in it (R332, R359, R364), or a count of mappings above 2. -/
def sheafRecordIllegal (s : State) (k : Nat) : Bool :=
  let r := sheafRecordVa s k
  decide (2 < loadField s k (r + 6) 1) || loadField s k (r + 7) 1 != 0 || loadField s k (r + 8) 8 / 2 ^ 52 != 0 ||
    loadField s k (r + 0x14) 4 != 0 || notZero s k (r + 0x28) 88

/-- An entry of a recorded ensemble register, rewritten to where its sheaf is now (R332): a sheaf's ensemble lies in its own
quad, then and now. -/
def movedEntry (s : State) (k entry : Nat) : Nat :=
  let moved := (gangAt s (blockAt s (blockOf s k)).gang).moved
  let old := ((moved.find? fun p => p.2 == sheafOf k).map (·.1)).getD (sheafOf k)
  match moved.find? fun p => p.1 == old / 256 * 256 + entry with
  | some p => p.2 % 256
  | none => entry

/-- An ensemble register after a resume (R332). -/
def movedEns (s : State) (k : Nat) (e : DWord) : DWord :=
  BitVec.ofNat 64 (2 ^ 48 * (e.toNat / 2 ^ 48 % 16)) ||| BitVec.ofNat 64 (((List.range (min 6 (ensCount e))).map fun i => movedEntry s k (ensEntry e i) * 2 ^ (8 * i)).sum)

/-- The sheaf of a block with an index. -/
def sheafOfIdx (s : State) (b idx : Nat) : Option Nat := (blockSheaves s b).find? fun f => (sheafAt s f).idx == idx

/-- A sheaf takes one recorded mapping, unless its partner has brought it back already. One whose partner the block does not have is
dropped, and the recorded range is taken as it is (DESIGN CHOICE, log 51: R364 says nothing of either). -/
def reloadMap (s : State) (k va : Nat) : State :=
  let f := sheafOf k
  let b := blockOf s k
  let own := loadField s k va 2
  let other := loadField s k (va + 2) 2
  let n := loadField s k (va + 4) 2
  match sheafOfIdx s b (loadField s k (va + 6) 2) with
  | none => s
  | some p =>
    if (blockAt s b).shared.any fun m =>
        (m.a == p && m.f == other && m.b == f && m.g == own) || (m.a == f && m.f == own && m.b == p && m.g == other) then s
    else
      let full := (List.range (sheafAt s f).width).flatMap fun i =>
        ((List.range 64).filter fun j => (loadField s k (va + 8 + 8 * i) 8).testBit j).map fun j => (i, j)
      modBlock s b fun y => { y with shared := y.shared ++ [{ a := p, f := other, b := f, g := own, n := n, full := full, queue := [] }] }

/-- The length of the instruction that stands at a pc, 4 where it cannot be fetched: what a barrier's waiter will advance by. -/
def lengthAt (s : State) (k : Nat) : Nat :=
  let (_, bs) := fetchUnit s (coreOf k) (strandLaunch s k) (strandAt s k).pc.toNat
  if bs.length = 12 then 12 else 4

/-- A strand takes its recorded condition (R364), or where its block still has to draw at its placement it waits for that (R113,
R114). -/
def takeRecorded (s : State) (k : Nat) : State :=
  match (strandAt s k).recorded with
  | some c =>
    let c := if (blockAt s (blockOf s k)).undrawn then .stalled (.page [] .write) else c
    modStrand s k fun x => { x with cond := c, recorded := none, waitLen := lengthAt s k }
  | none => s

/-- The first sheaf of a block to finish reloads `%rlim` and the live bank (R364), whose byte counts modulo 2 (DESIGN CHOICE, log 51). -/
def reloadBlock (s : State) (k : Nat) : State :=
  let b := blockOf s k
  let va := saveVa (strandLaunch s k) (indexOf s k)
  if firstToFinish s k then
    writeRlim (modBlock s b fun y => { y with bank := loadField s k va 1 % 2 }) b (loadField s k (va + 1) 1)
  else s

/-- The rotation pointer takes the recorded sheaf's slot where the core holds no other block (R364). -/
def reloadRotation (s : State) (k : Nat) : State :=
  let b := blockOf s k
  match sheafOfIdx s b (loadField s k (sheafRecordVa s k + 1) 1) with
  | some f => if (coreBlocks s (coreOf k)).all (· == b) then modCore s (coreOf k) fun c => { c with rot := f % 64 } else s
  | none => s

/-- A sheaf whose strands have all reloaded goes on where it stopped (R364). -/
def finishResume (s : State) (k : Nat) : State :=
  let f := sheafOf k
  let r := sheafRecordVa s k
  let gang := (blockAt s (blockOf s k)).gang
  let waits := (sheafStrands s f).any fun j => (strandAt s j).cond != .done && (strandAt s j).recorded.isNone
  if waits then s
  else if fieldBad s k r 0x18 || fieldBad s k (r + 0x288) 88 || fieldBad s k (sharedRegion s k).1 (sharedRegion s k).2 ||
      (firstToFinish s k && fieldBad s k (saveVa (strandLaunch s k) (indexOf s k)) 2) then
    startKill s gang (some .consumed) false (locCore (coreOf k))
  else if sheafRecordIllegal s k || (firstToFinish s k && blockAreaIllegal s k) then startKill s gang (some .control) false (locCore (coreOf k))
  else
    let (w62, p62) := loadFrame s k (r + 0x80 + 8 * 62) 8
    let (w63, p63) := loadFrame s k (r + 0x80 + 8 * 63) 8
    let t := reloadRotation (reloadBlock s k) k
    let t := (List.range (loadField s k (r + 6) 1)).foldl
      (fun u i => reloadMap u k (r + 0x300 + i * (8 + 8 * (sheafAt s f).width))) t
    let t := modSheaf t f fun y =>
      { y with backedge := loadField s k r 1, ens := movedEns s k (BitVec.ofNat 64 (loadField s k (r + 8) 8)),
               mxp := BitVec.ofNat 32 (loadField s k (r + 0x10) 4), phase := .normal }
    let t := (List.range 11).foldl (fun u i => writeM u f (i + 1) (BitVec.ofNat 64 (loadField s k (r + 0x288 + 8 * i) 8))) t
    let t := writeW (writeW t f 62 (BitVec.ofNat 64 (leNat w62)) p62) f 63 (BitVec.ofNat 64 (leNat w63)) p63
    (sheafStrands t f).foldl takeRecorded t

/-- A sheaf in resume code whose every strand is Done or Saved goes on: also where the last one to come to this left it by exit,
itend or a draw (R364). The frame is read as loads of its first Saved strand. -/
def goOn (s : State) (f : Nat) : State :=
  let ks := sheafStrands s f
  if (sheafAt s f).phase == .resume && ks.all fun k => (strandAt s k).cond == .done || (strandAt s k).cond == .saved then
    match ks.find? fun k => (strandAt s k).cond == .saved with
    | some k => finishResume s k
    | none => s
  else s

/-- The sheaves of some strands that have ended go on. -/
def goOnAll (s : State) (ks : List Nat) : State := (sheavesOf s ks).foldl goOn s

end Sys2Proof.Machine
end

