-- ==== Sys2Proof/Machine/Control.lean ====
section
/-! DEFINITION. Control, items, masks, collectives and barriers (R261 to R276). -/

namespace Sys2Proof.Machine

/-- No check beyond decode. -/
def noCheck : State → Nat → Verdict := fun _ _ => Verdict.ok

/-- Execute an instruction of a bundle whose effect advances the participants itself; a page fault reports the access acc. -/
def controlAs (acc : Access) (stem : Stem) (code : Code) (check : Three → State → Nat → Verdict)
    (effect : Three → State → Bundle → List Nat → State) (s : State) : State :=
  let x := code.norm stem
  executed s (runBundle s x.g code.len acc (check x) (effect x))

/-- The same for an instruction that stores nothing. -/
def controlRun (stem : Stem) (code : Code) (check : Three → State → Nat → Verdict)
    (effect : Three → State → Bundle → List Nat → State) (s : State) : State := controlAs .read stem code check effect s

/-- nop (R268). -/
def nopRun (code : Code) (s : State) : State :=
  controlRun .nop code (fun _ => noCheck) (fun _ t _ ps => advanceAll t code.len ps) s

/-! ## Branches (R261) -/

/-- The lift counter of each sheaf that took a branch backward while a ready strand outside the bundle stood above it
(R146). -/
def countBackedges (b : Bundle) (taken : List (Nat × DWord)) (s : State) : State :=
  (nub (taken.map fun p => sheafOf p.1)).foldl (fun t f =>
    if (taken.any fun p => sheafOf p.1 == f && decide (p.2 ≤ b.pc)) && b.above.contains f then
      modSheaf t f fun y => { y with backedge := min 64 (y.backedge + 1) }
    else t) s

/-- The branch target of a strand: pc plus offset, or code base plus the operand read as n32. -/
def branchTarget (stem : Stem) (x : Three) (s : State) (b : Bundle) (k : Nat) : DWord :=
  match stem with
  | .bra | .call => b.pc + BitVec.ofNat 64 (valueAt stem x s k .b).1
  | _ => (launchOf s (blockAt s b.block)).record.codeBase + BitVec.ofNat 64 ((valueAt stem x s k .a).1 % 2 ^ 32)

/-- The checks of a branch through a register (R260, R261): REGRANGE, an offset that is not a multiple of 4, poison. -/
def indirectCheck (stem : Stem) (x : Three) (s : State) (k : Nat) : Verdict :=
  (Verdict.trapIf (rangeFails stem x s k) .regrange).and
    ((Verdict.trapIf ((valueAt stem x s k .a).1 % 4 != 0) .align).and (Verdict.poisonIf (valueAt stem x s k .a).2))

/-- Take the branch (R261): MOD yld defers. -/
def takeBranch (stem : Stem) (x : Three) (t : State) (b : Bundle) (ps : List Nat) : State :=
  let taken := ps.map fun k => (k, branchTarget stem x t b k)
  countBackedges b taken
    (taken.foldl (fun u p => modStrand u p.1 fun y =>
      { y with pc := p.2, cond := if x.mod = 1 then .deferred else y.cond }) t)

/-- bra. -/
def braRun (code : Code) (s : State) : State := controlRun .bra code (fun _ => noCheck) (takeBranch .bra) s

/-- brx. -/
def brxRun (code : Code) (s : State) : State := controlRun .brx code (indirectCheck .brx) (takeBranch .brx) s

/-! ## Calls and returns (R262) -/

/-- The verdict of a push's plan. -/
def Spill.verdict : Spill → Verdict
  | .room | .store _ _ => Verdict.ok
  | .trap c => Verdict.trap c
  | .malformed level pa => { Verdict.trap .prot with walk := some (level, pa) }
  | .fault va => { Verdict.ok with faults := [va] }
  | .poison => Verdict.poisonIf true
  | .fenced => { Verdict.ok with fenced := true }

/-- call and callx in ascending lane order; a spill that finds the record full leaves the strand Stalled (R163). -/
def callEffect (stem : Stem) (len : Nat) (x : Three) (t : State) (b : Bundle) (ps : List Nat) : State :=
  ps.foldl (fun u k =>
    let plan := spillPlan u k
    if pushFull u k plan then setCond (drainOldest u b.core) k (.stalled .record)
    else
      let target := branchTarget stem x t b k
      modStrand (pushEntry u k ((strandAt u k).pc + BitVec.ofNat 64 len) plan) k fun y => { y with pc := target }) t

/-- call. -/
def callRun (code : Code) (s : State) : State :=
  controlAs .write .call code (fun _ t k => (spillPlan t k).verdict) (callEffect .call code.len) s

/-- callx. -/
def callxRun (code : Code) (s : State) : State :=
  controlAs .write .callx code (fun x t k => (indirectCheck .callx x t k).and (spillPlan t k).verdict)
    (callEffect .callx code.len) s

/-- What a fill of a return entry reads from (R262). -/
def fillPlan (s : State) (k : Nat) : Spill :=
  let x := strandAt s k
  let empty := x.stack.isEmpty
  if empty && x.csp.toNat % 16 != 0 then .trap .align
  else if x.depth == 0 then .trap .prot
  else if !empty then .room
  else spillAddress s k (x.csp - 16).toNat

/-- The bytes of a fill and whether one is poisoned. -/
def fillBytes (s : State) (k pa cls : Nat) : List Byte × Bool :=
  let bs := (List.range 16).map fun i => loadByteNow s k (pa + i) cls
  (bs.map (·.1), bs.any (·.2))

/-- The bytes of a fill that the record does not hold have been returned to the strand (R177). -/
def noteFill (s : State) (k pa cls : Nat) : State :=
  noteSeen s k (bornNow s k pa cls) (((List.range 16).map (pa + ·)).filter fun a => (recByte (coreAt s (coreOf k)) a).isNone)

/-- The verdict of a ret: its plan, and a poisoned entry that it consumes (R133, R262). -/
def retCheck (s : State) (k : Nat) : Verdict :=
  match fillPlan s k with
  | .store pa cls => Verdict.poisonIf (fillBytes s k pa cls).2
  | p => p.verdict

/-- ret of one strand. -/
def retStrand (s : State) (k : Nat) : State :=
  let x := strandAt s k
  let go (t : State) (e : RetEntry) : State :=
    leaveHandler (modStrand t k fun y => { y with pc := e.ret, x := e.x, y := e.y, depth := y.depth - 1 }) k
  match x.stack.getLast? with
  | some e => go (modStrand s k fun y => { y with stack := y.stack.dropLast }) e
  | none =>
    match fillPlan s k with
    | .store pa cls =>
      go (modStrand (noteFill s k pa cls) k fun y => { y with csp := y.csp - 16 }) (RetEntry.ofBytes (fillBytes s k pa cls).1)
    | _ => s

/-- ret (R262). -/
def retRun (code : Code) (s : State) : State :=
  controlRun .ret code (fun _ => retCheck) (fun _ t _ ps => ps.foldl retStrand t) s

/-- yield (R263). -/
def yieldRun (code : Code) (s : State) : State :=
  controlRun .yield code (fun _ => noCheck)
    (fun _ t _ ps => ps.foldl (fun u k => setCond u k .deferred) (advanceAll t code.len ps)) s

/-! ## The carrel map and items (R264 to R267) -/

/-- The number that an operand of role n holds. -/
def regNumber : Operand → Nat
  | .v i => i.toNat
  | _ => 0

/-- The check of a map (R264). -/
def mapCheck (x : Three) (s : State) (k : Nat) : Verdict :=
  let n := (sheafAt s (sheafOf k)).alloc
  Verdict.trapIf (decide (n < regNumber x.a + 16) || decide (n < regNumber x.b + 16)) .regrange

/-- Set the map of strands. -/
def setMap (x : Three) (s : State) (ps : List Nat) : State :=
  ps.foldl (fun t k => modStrand t k fun y =>
    { y with x := BitVec.ofNat 16 (regNumber x.a), y := BitVec.ofNat 16 (regNumber x.b) }) s

/-- rgn (R264). -/
def rgnRun (code : Code) (s : State) : State :=
  controlRun .rgn code mapCheck (fun x t _ ps => advanceAll (setMap x t ps) code.len ps) s

/-- itend of one strand (R265). -/
def itendStrand (s : State) (k : Nat) : State :=
  match refillPoint (launchOf s (blockAt s (blockOf s k))) with
  | some l => modStrand (clearMaskBits s k) k fun y => { y with cond := .parked, pc := l, trapDepth := 0 }
  | none => finish (modStrand s k fun y => { y with trapDepth := 0 }) k

/-- itend and exit (R265): a strand that reports takes ARITH instead. What remains of its sheaf in resume code may go on (R364). -/
def endRun (stem : Stem) (code : Code) (one : State → Nat → State) (s : State) : State :=
  controlRun stem code (fun _ => noCheck)
    (fun _ t b ps => goOnAll (ps.foldl (fun u k => if reports u k then arithEntry u k b.pc else one u k) t) ps) s

/-- itend. -/
def itendRun (code : Code) (s : State) : State := endRun .itend code itendStrand s

/-- exit. -/
def exitRun (code : Code) (s : State) : State :=
  endRun .exit code (fun t k => finish (modStrand t k fun y => { y with trapDepth := 0 }) k) s

/-- The bundle stands at its launch's refill point. -/
def bundleAtRefill (s : State) : Bool :=
  match s.ctl.bundle with
  | some b => refillPoint (launchOf s (blockAt s b.block)) == some b.pc
  | none => false

/-- The Parked strands of a bundle, in ascending home lane. -/
def drawGroup (s : State) (b : Bundle) : List Nat := b.strands.filter fun k => (strandAt s k).cond == .parked

/-- The bundle of the issue stage, or none that runs. -/
def currentBundle (s : State) : Bundle := s.ctl.bundle.getD { core := 0, block := 0, pc := 0, strands := [] }

/-- rfl at the refill point (R267): every strand takes part whatever the guard; a page fault of the draw stalls the whole
bundle, its Parked strands as such; a Parked strand that traps enters its handler, and the others stay Parked (R260, log 17). -/
def rflAtRefill (code : Code) (s : State) : State :=
  let x := code.norm .rfl
  let b := currentBundle s
  let s := issued s
  let group := drawGroup s b
  let needs := !group.isEmpty && needsTail s b.block group.length
  let check (k : Nat) : Verdict := (mapCheck x s k).and (if needs then tailCheck s b.block else Verdict.ok)
  let s1 := if needs then logWalks s b.core [tailCheck s b.block] else s
  match decideAll b.strands check with
  | .faults vas =>
    b.strands.foldl (fun t k =>
      if (strandAt s k).cond == .parked then setCond (stallFault t k vas .write) k (.stalled (.draw vas .write))
      else stallFault t k vas .write) s1
  | .go =>
    let t := setMap x s1 b.strands
    let others := b.strands.filter fun k => !group.contains k
    goOnAll (draw (advanceAll t code.len others) b.block (b.pc + BitVec.ofNat 64 code.len) false group) group
  | .traps bad =>
    takeTraps (bad.foldl (fun t p => if (strandAt t p.1).cond == .parked then setCond t p.1 .running else t) s1) b.pc bad
  | d => act s1 b code.len [] b.strands .write d id

/-- rfl (R267): anywhere but at the refill point it is rgn. -/
def rflRun (code : Code) (s : State) : State :=
  if bundleAtRefill s then executed s (rflAtRefill code s)
  else controlRun .rfl code mapCheck (fun x t _ ps => advanceAll (setMap x t ps) code.len ps) s

/-! ## Software traps (R268) -/

/-- Every participant takes SOFT with a detail; it goes on past the instruction (R354). -/
def softRun (stem : Stem) (code : Code) (detail : Three → DWord) (s : State) : State :=
  controlRun stem code (fun _ => noCheck)
    (fun x t b ps => ps.foldl (fun u k => trapEntry u k .soft (b.pc + BitVec.ofNat 64 code.len) (detail x)) t) s

/-- The value of an immediate operand. -/
def immValue : Operand → Nat
  | .imm i => i.toNat
  | _ => 0

/-! ## Masks (R269, R270) -/

/-- The number of a mask operand. -/
def maskNumber : Operand → Nat
  | .m i => i.toNat
  | _ => 0

/-- join and leave (R269). -/
def joinRun (stem : Stem) (set : Bool) (code : Code) (s : State) : State :=
  controlRun stem code (fun _ => noCheck)
    (fun x t _ ps =>
      let n := maskNumber x.a
      advanceAll ((sheavesOf t ps).foldl (fun u f =>
        let bits := (partOf ps f).foldl (fun m k => m ||| (1#64 <<< (k % 64))) 0
        writeM u f n (if set then readM u f n ||| bits else readM u f n &&& ~~~bits)) t) code.len ps) s

/-- mfrp (R269). -/
def mfrpRun (code : Code) (s : State) : State :=
  controlRun .mfrp code (fun _ => noCheck)
    (fun x t _ ps =>
      advanceAll ((sheavesOf t ps).foldl (fun u f =>
        writeM u f (maskNumber x.d)
          ((partOf ps f).foldl (fun m k => if (valueAt .mfrp x t k .a).1 = 1 then m ||| (1#64 <<< (k % 64)) else m) 0)) t)
        code.len ps) s

/-- The four operations of mlog and plog (R269, R302). -/
def maskOp (mod : Nat) (a b : DWord) : DWord :=
  match mod with
  | 1 => a &&& b
  | 2 => a ||| b
  | 3 => a ^^^ b
  | _ => a &&& ~~~b

/-- mlog (R269). -/
def mlogRun (code : Code) (s : State) : State :=
  controlRun .mlog code (fun _ => noCheck)
    (fun x t _ ps =>
      advanceAll ((sheavesOf t ps).foldl (fun u f =>
        writeM u f (maskNumber x.d) (maskOp x.mod.toNat (readM t f (maskNumber x.a)) (readM t f (maskNumber x.b)))) t)
        code.len ps) s

/-- mmov (R269): a copy, fw from a uniform operand, tw to a uniform register. A poisoned source is consumed. -/
def mmovRun (code : Code) (s : State) : State :=
  controlRun .mmov code (fun x t k => Verdict.poisonIf (valueAt .mmov x t k .a).2)
    (fun x t _ ps =>
      advanceAll ((sheavesOf t ps).foldl (fun u f =>
        let v := BitVec.ofNat 64 (valueAt .mmov x t (strandKey f 0) .a).1
        match x.d with
        | .w i => writeW u f i.toNat v false
        | d => writeM u f (maskNumber d) v) t) code.len ps) s

/-- waitm (R270): a participant whose bit is clear advances, another waits. -/
def waitmRun (code : Code) (s : State) : State :=
  controlRun .waitm code (fun _ => noCheck)
    (fun x t _ ps =>
      let n := maskNumber x.a
      ps.foldl (fun u k =>
        if (readM t (sheafOf k) n).getLsbD (k % 64) then waitAt u k (.waitm n) code.len else advance u code.len k) t) s

/-! ## Collectives (R271 to R274) -/

/-- vote (R271). -/
def voteRun (code : Code) (s : State) : State :=
  controlRun .vote code (fun _ => noCheck)
    (fun x t _ ps =>
      advanceAll ((sheavesOf t ps).foldl (fun u f =>
        let part := partOf ps f
        let a := part.any fun k => (valueAt .vote x t k .a).1 = 1
        let l := part.all fun k => (valueAt .vote x t k .a).1 = 1
        let r := match x.mod.toNat with
          | 1 => a
          | 2 => l
          | _ => a == l
        part.foldl (fun v k => writeOperand v k Ty.b32 x.d (if r then 1 else 0) false) u) t) code.len ps) s

/-- The source index of a shuffle (R272). -/
def shflIndex (mod i k : Nat) : Option Nat :=
  match mod with
  | 1 => some k
  | 2 => if k ≤ i then some (i - k) else none
  | 3 => some (i + k)
  | _ => some (i ^^^ k)

/-- The value a participant of a shuffle takes, read before any is written, with the poison of its halves. -/
def shflValue (x : Three) (t : State) (ps : List Nat) (k : Nat) : Nat × Bool × Bool :=
  let take (j : Nat) : Nat × Bool × Bool := ((valueAt .shfl x t j .a).1, halfPoison t j (operandWidth .shfl x .a) x.a)
  let own := take k
  match shflIndex x.mod.toNat (k % 64) (valueAt .shfl x t k .b).1 with
  | some j =>
    let src := strandKey (sheafOf k) j
    if j < (sheafAt t (sheafOf k)).width && ps.contains src then take src else own
  | none => own

/-- shfl (R272): poison moves with the value; a poisoned index is consumed. -/
def shflRun (code : Code) (s : State) : State :=
  controlRun .shfl code
    (fun x t k => (Verdict.trapIf (rangeFails .shfl x t k) .regrange).and (Verdict.poisonIf (valueAt .shfl x t k .b).2))
    (fun x t _ ps =>
      advanceAll (ps.foldl (fun u k =>
        writeOperandP u k x.ty x.d (shflValue x t ps k).1 (shflValue x t ps k).2) t) code.len ps) s

/-- The operation of a node or step of sred and sscan (R213, R273). -/
def redOp (ty : BitVec 4) (mode : Mode) (op : Nat) (a b : Nat) : Nat × Flags :=
  let w := tyWidth ty
  let va : Int := if tySigned ty then signedOf a w else (a % 2 ^ w : Nat)
  let vb : Int := if tySigned ty then signedOf b w else (b % 2 ^ w : Nat)
  if tyFloat ty then
    match op with
    | 1 => fAdd (fmtOf ty) mode a b
    | 2 => fMinMax (fmtOf ty) false a b
    | _ => fMinMax (fmtOf ty) true a b
  else
    match op with
    | 1 => ((a + b) % 2 ^ w, 0)
    | 2 => (if vb < va then b else a, 0)
    | 3 => (if va < vb then b else a, 0)
    | 4 => (a &&& b, 0)
    | 5 => (a ||| b, 0)
    | _ => (a ^^^ b, 0)

/-- The identity of an operation (R213). -/
def redIdentity (ty : BitVec 4) (op : Nat) : Nat :=
  let w := tyWidth ty
  if tyFloat ty then
    match op with
    | 1 => (fmtOf ty).zero true
    | 2 => (fmtOf ty).inf false
    | _ => (fmtOf ty).inf true
  else
    match op with
    | 2 => if tySigned ty then 2 ^ (w - 1) - 1 else 2 ^ w - 1
    | 3 => if tySigned ty then 2 ^ (w - 1) else 0
    | 4 => 2 ^ w - 1
    | _ => 0

/-- One level of the tree (R213). -/
def redLevel (f : Nat → Nat → Nat × Flags) : List Nat → List Nat × Flags
  | a :: b :: rest => ((f a b).1 :: (redLevel f rest).1, (f a b).2 ||| (redLevel f rest).2)
  | xs => (xs, 0)

/-- SredTree (R213): as many levels as the width has bits. -/
def sredTree (f : Nat → Nat → Nat × Flags) : Nat → List Nat → Nat × Flags
  | 0, xs => (xs.headD 0, 0)
  | n + 1, xs =>
    let (ys, fl) := redLevel f xs
    let (r, fl') := sredTree f n ys
    (r, fl ||| fl')

/-- Scan (R214): the steps from a start, and every sticky bit. -/
def scanFrom (f : Nat → Nat → Nat × Flags) (acc : Nat) : List Nat → List Nat × Flags
  | [] => ([], 0)
  | x :: xs =>
    let (y, fl) := f acc x
    let (ys, fl') := scanFrom f y xs
    (y :: ys, fl ||| fl')

/-- The inclusive scan. -/
def scanInclusive (f : Nat → Nat → Nat × Flags) : List Nat → List Nat × Flags
  | [] => ([], 0)
  | x :: xs => let (ys, fl) := scanFrom f x xs; (x :: ys, fl)

/-- The exclusive scan. -/
def scanExclusive (f : Nat → Nat → Nat × Flags) (identity : Nat) (xs : List Nat) : List Nat × Flags :=
  let (ys, fl) := scanFrom f identity xs.dropLast
  (identity :: ys, fl)

/-- The values of a sheaf's strands by `%sidx`, the identity where a strand is no participant (R274). -/
def redInputs (stem : Stem) (x : Three) (t : State) (ps : List Nat) (f : Nat) (identity : Nat) : List Nat :=
  (sheafStrands t f).map fun k => if ps.contains k then (valueAt stem x t k .a).1 else identity

/-- What sred and sscan write for a sheaf: the value of each `%sidx`, and the sticky bits. -/
def collectiveResult (stem : Stem) (x : Three) (t : State) (ps : List Nat) (f : Nat) : List Nat × Flags :=
  let m := x.mod.toNat
  let op := if m > 8 then m - 8 else m
  let node := redOp x.ty (Mode.ofCode x.rm) op
  let identity := redIdentity x.ty op
  let xs := redInputs stem x t ps f identity
  let toW := match x.d with | .w _ => true | _ => false
  match stem with
  | .sred => let (r, fl) := sredTree node (sheafAt t f).log2w xs; (List.replicate xs.length r, fl)
  | _ =>
    if m > 8 && !toW then scanExclusive node identity xs
    else
      let (ys, fl) := scanInclusive node xs
      (if toW then List.replicate xs.length (ys.getLastD 0) else ys, fl)

/-- sred and sscan (R274). -/
def collectiveRun (stem : Stem) (code : Code) (s : State) : State :=
  controlRun stem code
    (fun x t k => (Verdict.trapIf (rangeFails stem x t k) .regrange).and (Verdict.poisonIf (valueAt stem x t k .a).2))
    (fun x t _ ps =>
      advanceAll ((sheavesOf t ps).foldl (fun u f =>
        let part := partOf ps f
        let (ys, fl) := collectiveResult stem x t ps f
        let v := match x.d with
          | .w _ => writeOperand u (strandKey f 0) x.ty x.d (ys.headD 0) false
          | _ => part.foldl (fun v k => writeOperand v k x.ty x.d (ys.getD (k % 64) 0) false) u
        part.foldl (fun v k => setFlags v k fl) v) t) code.len ps) s

/-! ## Barriers (R275, R276) -/

/-- bar and gbar: a strand that reports takes ARITH, every other waits. -/
def barrierRun (stem : Stem) (w : Wait) (code : Code) (s : State) : State :=
  controlRun stem code (fun _ => noCheck)
    (fun _ t b ps => ps.foldl (fun u k => if reports u k then arithEntry u k b.pc else waitAt u k w code.len) t) s

/-! ## The meanings -/

/-- One-word nop advances by its length (R268). -/
def execNop (x : Code) (s : State) : Host.Outcome State Fault Refusal :=
  .next (nopRun x s)

/-- One-word branch by a 15-bit byte offset, deferring on yld (R261). -/
def execBra (x : Short) (s : State) : Host.Outcome State Fault Refusal :=
  .next (braRun (.short x) s)

/-- Branch with the offset as literal or imm9 in a longer form (R261). -/
def execBraW (x : Long) (s : State) : Host.Outcome State Fault Refusal :=
  .next (braRun (.long x) s)

/-- One-word branch to code base plus a register offset (R261). -/
def execBrx (x : Short) (s : State) : Host.Outcome State Fault Refusal :=
  .next (brxRun (.short x) s)

/-- Register-offset branch in a longer form (R261). -/
def execBrxW (x : Long) (s : State) : Host.Outcome State Fault Refusal :=
  .next (brxRun (.long x) s)

/-- One-word call: pushes return address and map, spilling as needed, and branches (R262). -/
def execCall (x : Short) (s : State) : Host.Outcome State Fault Refusal :=
  .next (callRun (.short x) s)

/-- Call with the offset as literal or imm9 in a longer form (R262). -/
def execCallW (x : Long) (s : State) : Host.Outcome State Fault Refusal :=
  .next (callRun (.long x) s)

/-- One-word call to code base plus a register offset (R262). -/
def execCallx (x : Short) (s : State) : Host.Outcome State Fault Refusal :=
  .next (callxRun (.short x) s)

/-- Register-offset call in a longer form (R262). -/
def execCallxW (x : Long) (s : State) : Host.Outcome State Fault Refusal :=
  .next (callxRun (.long x) s)

/-- Pops or fills a return entry and restores pc, map and depth (R262). -/
def execRet (x : Code) (s : State) : Host.Outcome State Fault Refusal :=
  .next (retRun x s)

/-- Advances and makes the strand Deferred (R263). -/
def execYield (x : Code) (s : State) : Host.Outcome State Fault Refusal :=
  .next (yieldRun x s)

/-- One-word carrel map set with X and Y as multiples of 16 (R264). -/
def execRgn (x : Short) (s : State) : Host.Outcome State Fault Refusal :=
  .next (rgnRun (.short x) s)

/-- Carrel map set with multiples of 8 (R264). -/
def execRgnW (x : Long) (s : State) : Host.Outcome State Fault Refusal :=
  .next (rgnRun (.long x) s)

/-- Ends the strand's item, parking it at the refill point or making it Done (R265). -/
def execItend (x : Code) (s : State) : Host.Outcome State Fault Refusal :=
  .next (itendRun x s)

/-- At the refill point, sets maps and draws items for parked strands; elsewhere acts as rgn (R267). -/
def execRfl (x : Short) (s : State) : Host.Outcome State Fault Refusal :=
  .next (rflRun (.short x) s)

/-- Refill point instruction in three-word form (R267). -/
def execRflW (x : Long) (s : State) : Host.Outcome State Fault Refusal :=
  .next (rflRun (.long x) s)

/-- Makes the strand Done (R265). -/
def execExit (x : Code) (s : State) : Host.Outcome State Fault Refusal :=
  .next (exitRun x s)

/-- One-word software trap with code 0 to 31 (R268). -/
def execTrap (x : Short) (s : State) : Host.Outcome State Fault Refusal :=
  .next (softRun .trap (.short x) (fun y => BitVec.ofNat 64 (immValue y.a)) s)

/-- Software trap with code 32 to 255 (R268). -/
def execTrapW (x : Long) (s : State) : Host.Outcome State Fault Refusal :=
  .next (softRun .trap (.long x) (fun y => BitVec.ofNat 64 (immValue y.a)) s)

/-- Software trap with detail 256 (R268). -/
def execBkpt (x : Code) (s : State) : Host.Outcome State Fault Refusal :=
  .next (softRun .bkpt x (fun _ => 256) s)

/-- Sets each participant's bit in a mask register (R269). -/
def execJoin (x : Code) (s : State) : Host.Outcome State Fault Refusal :=
  .next (joinRun .join true x s)

/-- Clears each participant's bit in a mask register (R269). -/
def execLeave (x : Code) (s : State) : Host.Outcome State Fault Refusal :=
  .next (joinRun .leave false x s)

/-- Waits with the mask group until its release (R270). -/
def execWaitm (x : Code) (s : State) : Host.Outcome State Fault Refusal :=
  .next (waitmRun x s)

/-- One-word mask copy, or fw from a uniform register (R269). -/
def execMmov (x : Short) (s : State) : Host.Outcome State Fault Refusal :=
  .next (mmovRun (.short x) s)

/-- Mask move in three-word form, including tw to a uniform register (R269). -/
def execMmovW (x : Long) (s : State) : Host.Outcome State Fault Refusal :=
  .next (mmovRun (.long x) s)

/-- One-word mask and (R269). -/
def execMlog (x : Short) (s : State) : Host.Outcome State Fault Refusal :=
  .next (mlogRun (.short x) s)

/-- Mask or, xor or andn in three-word form (R269). -/
def execMlogW (x : Long) (s : State) : Host.Outcome State Fault Refusal :=
  .next (mlogRun (.long x) s)

/-- Sets a mask from participants' predicate values (R269). -/
def execMfrp (x : Code) (s : State) : Host.Outcome State Fault Refusal :=
  .next (mfrpRun x s)

/-- One-word vote.any over a sheaf part (R271). -/
def execVote (x : Short) (s : State) : Host.Outcome State Fault Refusal :=
  .next (voteRun (.short x) s)

/-- vote.all or vote.uni in three-word form (R271). -/
def execVoteW (x : Long) (s : State) : Host.Outcome State Fault Refusal :=
  .next (voteRun (.long x) s)

/-- One-word b32 index shuffle within a sheaf (R272). -/
def execShfl (x : Short) (s : State) : Host.Outcome State Fault Refusal :=
  .next (shflRun (.short x) s)

/-- Shuffle up, down or bfly, b64 or imm9 forms (R272). -/
def execShflW (x : Long) (s : State) : Host.Outcome State Fault Refusal :=
  .next (shflRun (.long x) s)

/-- One-word i32 add reduction over a sheaf part (R274). -/
def execSred (x : Short) (s : State) : Host.Outcome State Fault Refusal :=
  .next (collectiveRun .sred (.short x) s)

/-- Sheaf reduction with other operation, type, rounding or w destination (R274). -/
def execSredW (x : Long) (s : State) : Host.Outcome State Fault Refusal :=
  .next (collectiveRun .sred (.long x) s)

/-- One-word inclusive i32 add scan over a sheaf (R274). -/
def execSscan (x : Short) (s : State) : Host.Outcome State Fault Refusal :=
  .next (collectiveRun .sscan (.short x) s)

/-- Sheaf scan with other or exclusive operation, type or rounding (R274). -/
def execSscanW (x : Long) (s : State) : Host.Outcome State Fault Refusal :=
  .next (collectiveRun .sscan (.long x) s)

/-- Arrives at the block barrier and waits (R275). -/
def execBar (x : Code) (s : State) : Host.Outcome State Fault Refusal :=
  .next (barrierRun .bar .bar x s)

/-- Arrives at the gang barrier and waits (R276). -/
def execGbar (x : Code) (s : State) : Host.Outcome State Fault Refusal :=
  .next (barrierRun .gbar .gbar x s)

end Sys2Proof.Machine
end

