-- ==== Sys2Proof/Machine/Float.lean ====
section
/-! DEFINITION. Floating-point instructions and special functions (R292 to R299). -/

namespace Sys2Proof.Machine

/-- The rounding mode of an instruction (R204). -/
def modeOf (x : Three) : Mode := Mode.ofCode x.rm

/-- R292. -/
def faddFn : LaneFn := fun x a b _ _ => fAdd (fmtOf x.ty) (modeOf x) a b
/-- R292. -/
def fsubFn : LaneFn := fun x a b _ _ => fSub (fmtOf x.ty) (modeOf x) a b
/-- R292. -/
def fmulFn : LaneFn := fun x a b _ _ => fMul (fmtOf x.ty) (modeOf x) a b
/-- R292. -/
def ffmaFn : LaneFn := fun x a b c _ => fFma (fmtOf x.ty) (modeOf x) a b c
/-- R293. -/
def fminFn : LaneFn := fun x a b _ _ => fMinMax (fmtOf x.ty) false a b
/-- R293. -/
def fmaxFn : LaneFn := fun x a b _ _ => fMinMax (fmtOf x.ty) true a b
/-- R294. -/
def fcmpFn : LaneFn := fun x a b _ _ =>
  let (r, f) := fCmp (fmtOf x.ty) x.mod.toNat a b
  (if r then 1 else 0, f)
/-- R295: mask bits 31:10 are ignored. -/
def fclassFn : LaneFn := fun x a m _ _ => (if (m % 1024).testBit (fClassBit (fmtOf x.ty) a) then 1 else 0, 0)
/-- R296. -/
def frndFn : LaneFn := fun x a _ _ _ => fRound (fmtOf x.ty) (modeOf x) a
/-- R297: the exponent is read as i32. -/
def fsclFn : LaneFn := fun x a b _ _ => fScale (fmtOf x.ty) (modeOf x) a (signedOf b 32)
/-- R298. -/
def fdot2Fn : LaneFn := fun x a b c _ =>
  fDot2 (fmtOf x.ty) (modeOf x) (a % 2 ^ 16) (b % 2 ^ 16) (a / 2 ^ 16 % 2 ^ 16) (b / 2 ^ 16 % 2 ^ 16) c
/-- R299. -/
def sfuFn (fn : Sfu) : LaneFn := fun _ a _ _ _ => sfu fn a

/-- One-word f32 add in rn (R292). -/
def execFadd (x : Short) (s : State) : Host.Outcome State Fault Refusal :=
  .next (alu .fadd (.short x) faddFn ownTy false false s)

/-- Floating add with other type or rounding (R292). -/
def execFaddW (x : Long) (s : State) : Host.Outcome State Fault Refusal :=
  .next (alu .fadd (.long x) faddFn ownTy false false s)

/-- One-word f32 subtract in rn (R292). -/
def execFsub (x : Short) (s : State) : Host.Outcome State Fault Refusal :=
  .next (alu .fsub (.short x) fsubFn ownTy false false s)

/-- Floating subtract in a longer form (R292). -/
def execFsubW (x : Long) (s : State) : Host.Outcome State Fault Refusal :=
  .next (alu .fsub (.long x) fsubFn ownTy false false s)

/-- One-word f32 multiply in rn (R292). -/
def execFmul (x : Short) (s : State) : Host.Outcome State Fault Refusal :=
  .next (alu .fmul (.short x) fmulFn ownTy false false s)

/-- Floating multiply in a longer form (R292). -/
def execFmulW (x : Long) (s : State) : Host.Outcome State Fault Refusal :=
  .next (alu .fmul (.long x) fmulFn ownTy false false s)

/-- One-word f32 fused multiply-add with C equal to D (R292). -/
def execFfma (x : Short) (s : State) : Host.Outcome State Fault Refusal :=
  .next (alu .ffma (.short x) ffmaFn ownTy false false s)

/-- Fused multiply-add with a separate C (R292). -/
def execFfmaW (x : Long) (s : State) : Host.Outcome State Fault Refusal :=
  .next (alu .ffma (.long x) ffmaFn ownTy false false s)

/-- One-word f32 minimum (R293). -/
def execFmin (x : Short) (s : State) : Host.Outcome State Fault Refusal :=
  .next (alu .fmin (.short x) fminFn ownTy false false s)

/-- Floating minimum in a longer form (R293). -/
def execFminW (x : Long) (s : State) : Host.Outcome State Fault Refusal :=
  .next (alu .fmin (.long x) fminFn ownTy false false s)

/-- One-word f32 maximum (R293). -/
def execFmax (x : Short) (s : State) : Host.Outcome State Fault Refusal :=
  .next (alu .fmax (.short x) fmaxFn ownTy false false s)

/-- Floating maximum in a longer form (R293). -/
def execFmaxW (x : Long) (s : State) : Host.Outcome State Fault Refusal :=
  .next (alu .fmax (.long x) fmaxFn ownTy false false s)

/-- One-word f32 equality compare (R294). -/
def execFcmp (x : Short) (s : State) : Host.Outcome State Fault Refusal :=
  .next (alu .fcmp (.short x) fcmpFn ownTy false false s)

/-- Floating compare with other relation or type (R294). -/
def execFcmpW (x : Long) (s : State) : Host.Outcome State Fault Refusal :=
  .next (alu .fcmp (.long x) fcmpFn ownTy false false s)

/-- One-word f32 class test against a mask (R295). -/
def execFclass (x : Short) (s : State) : Host.Outcome State Fault Refusal :=
  .next (alu .fclass (.short x) fclassFn ownTy false false s)

/-- Class test in a longer form (R295). -/
def execFclassW (x : Long) (s : State) : Host.Outcome State Fault Refusal :=
  .next (alu .fclass (.long x) fclassFn ownTy false false s)

/-- One-word f32 round to integral in rn (R296). -/
def execFrnd (x : Short) (s : State) : Host.Outcome State Fault Refusal :=
  .next (alu .frnd (.short x) frndFn ownTy false false s)

/-- Round to integral with other type or mode (R296). -/
def execFrndW (x : Long) (s : State) : Host.Outcome State Fault Refusal :=
  .next (alu .frnd (.long x) frndFn ownTy false false s)

/-- One-word f32 scale by a power of two (R297). -/
def execFscl (x : Short) (s : State) : Host.Outcome State Fault Refusal :=
  .next (alu .fscl (.short x) fsclFn ownTy false false s)

/-- Scale in a longer form (R297). -/
def execFsclW (x : Long) (s : State) : Host.Outcome State Fault Refusal :=
  .next (alu .fscl (.long x) fsclFn ownTy false false s)

/-- One-word bf16 paired dot product with C equal to D (R298). -/
def execFdot2 (x : Short) (s : State) : Host.Outcome State Fault Refusal :=
  .next (alu .fdot2 (.short x) fdot2Fn (fun _ => Ty.f32) false false s)

/-- Paired dot product in a longer form (R298). -/
def execFdot2W (x : Long) (s : State) : Host.Outcome State Fault Refusal :=
  .next (alu .fdot2 (.long x) fdot2Fn (fun _ => Ty.f32) false false s)

/-- One-word f32 reciprocal (R299). -/
def execRcp (x : Short) (s : State) : Host.Outcome State Fault Refusal :=
  .next (alu .rcp (.short x) (sfuFn .rcp) ownTy false false s)

/-- Reciprocal in three-word form (R299). -/
def execRcpW (x : Long) (s : State) : Host.Outcome State Fault Refusal :=
  .next (alu .rcp (.long x) (sfuFn .rcp) ownTy false false s)

/-- One-word f32 reciprocal square root (R299). -/
def execRsq (x : Short) (s : State) : Host.Outcome State Fault Refusal :=
  .next (alu .rsq (.short x) (sfuFn .rsq) ownTy false false s)

/-- Reciprocal square root in three-word form (R299). -/
def execRsqW (x : Long) (s : State) : Host.Outcome State Fault Refusal :=
  .next (alu .rsq (.long x) (sfuFn .rsq) ownTy false false s)

/-- One-word f32 square root (R299). -/
def execSqrt (x : Short) (s : State) : Host.Outcome State Fault Refusal :=
  .next (alu .sqrt (.short x) (sfuFn .sqrt) ownTy false false s)

/-- Square root in three-word form (R299). -/
def execSqrtW (x : Long) (s : State) : Host.Outcome State Fault Refusal :=
  .next (alu .sqrt (.long x) (sfuFn .sqrt) ownTy false false s)

/-- One-word f32 base-2 exponential (R299). -/
def execEx2 (x : Short) (s : State) : Host.Outcome State Fault Refusal :=
  .next (alu .ex2 (.short x) (sfuFn .ex2) ownTy false false s)

/-- Exponential in three-word form (R299). -/
def execEx2W (x : Long) (s : State) : Host.Outcome State Fault Refusal :=
  .next (alu .ex2 (.long x) (sfuFn .ex2) ownTy false false s)

/-- One-word f32 base-2 logarithm (R299). -/
def execLg2 (x : Short) (s : State) : Host.Outcome State Fault Refusal :=
  .next (alu .lg2 (.short x) (sfuFn .lg2) ownTy false false s)

/-- Logarithm in three-word form (R299). -/
def execLg2W (x : Long) (s : State) : Host.Outcome State Fault Refusal :=
  .next (alu .lg2 (.long x) (sfuFn .lg2) ownTy false false s)

/-- One-word f32 sine (R299). -/
def execSin (x : Short) (s : State) : Host.Outcome State Fault Refusal :=
  .next (alu .sin (.short x) (sfuFn .sin) ownTy false false s)

/-- Sine in three-word form (R299). -/
def execSinW (x : Long) (s : State) : Host.Outcome State Fault Refusal :=
  .next (alu .sin (.long x) (sfuFn .sin) ownTy false false s)

/-- One-word f32 cosine (R299). -/
def execCos (x : Short) (s : State) : Host.Outcome State Fault Refusal :=
  .next (alu .cos (.short x) (sfuFn .cos) ownTy false false s)

/-- Cosine in three-word form (R299). -/
def execCosW (x : Long) (s : State) : Host.Outcome State Fault Refusal :=
  .next (alu .cos (.long x) (sfuFn .cos) ownTy false false s)

/-- One-word f32 hyperbolic tangent (R299). -/
def execTanh (x : Short) (s : State) : Host.Outcome State Fault Refusal :=
  .next (alu .tanh (.short x) (sfuFn .tanh) ownTy false false s)

/-- Hyperbolic tangent in three-word form (R299). -/
def execTanhW (x : Long) (s : State) : Host.Outcome State Fault Refusal :=
  .next (alu .tanh (.long x) (sfuFn .tanh) ownTy false false s)

end Sys2Proof.Machine
end

