-- ==== Sys2Proof/Machine/Integer.lean ====
section
/-! DEFINITION. Integer instructions (R282 to R291). -/

namespace Sys2Proof.Machine

/-- The exact value of bits of an integer or bit type (R200, R280). -/
def intVal (ty : BitVec 4) (a : Nat) : Int := if tySigned ty then signedOf a (tyWidth ty) else (a % 2 ^ tyWidth ty : Nat)

/-- The bits of an integer modulo 2^w. -/
def intBits (x : Int) (w : Nat) : Nat := (x % (2 ^ w : Int)).toNat

/-- Wrap, or clamp with MOD sat (R201, R282). -/
def narrow (x : Three) (r : Int) : Nat × Flags :=
  if x.mod = 1 then (intBits (satInt r x.ty).1 (tyWidth x.ty), (satInt r x.ty).2) else (intBits r (tyWidth x.ty), 0)

/-- R282. -/
def iaddFn : LaneFn := fun x a b _ _ => narrow x (intVal x.ty a + intVal x.ty b)
/-- R282. -/
def isubFn : LaneFn := fun x a b _ _ => narrow x (intVal x.ty a - intVal x.ty b)
/-- R282. -/
def imulFn : LaneFn := fun x a b _ _ => narrow x (intVal x.ty a * intVal x.ty b)
/-- R282. -/
def imadFn : LaneFn := fun x a b c _ => narrow x (intVal x.ty a * intVal x.ty b + intVal x.ty c)
/-- R283. -/
def imulhFn : LaneFn := fun x a b _ _ =>
  (intBits (intVal x.ty a * intVal x.ty b / (2 ^ tyWidth x.ty : Int)) (tyWidth x.ty), 0)

/-- Quotient and remainder (R284). -/
def divide (ty : BitVec 4) (a b : Int) : Int × Int × Flags :=
  let w := tyWidth ty
  if b = 0 then (if tySigned ty then -1 else 2 ^ w - 1, a, Flag.iz)
  else if tySigned ty && decide (a = -(2 ^ (w - 1) : Int)) && decide (b = -1) then (a, 0, 0)
  else (Int.tdiv a b, Int.tmod a b, 0)

/-- R284. -/
def idivFn : LaneFn := fun x a b _ _ =>
  let (q, _, f) := divide x.ty (intVal x.ty a) (intVal x.ty b)
  (intBits q (tyWidth x.ty), f)
/-- R284. -/
def iremFn : LaneFn := fun x a b _ _ =>
  let (_, r, f) := divide x.ty (intVal x.ty a) (intVal x.ty b)
  (intBits r (tyWidth x.ty), f)
/-- R285. -/
def iminFn : LaneFn := fun x a b _ _ => (if intVal x.ty b < intVal x.ty a then b else a, 0)
/-- R285. -/
def imaxFn : LaneFn := fun x a b _ _ => (if intVal x.ty a < intVal x.ty b then b else a, 0)
/-- R285. -/
def iabsFn : LaneFn := fun x a _ _ _ => narrow x ((intVal x.ty a).natAbs : Int)
/-- R286. -/
def andFn : LaneFn := fun _ a b _ _ => (a &&& b, 0)
/-- R286. -/
def orFn : LaneFn := fun _ a b _ _ => (a ||| b, 0)
/-- R286. -/
def xorFn : LaneFn := fun _ a b _ _ => (a ^^^ b, 0)
/-- R286. -/
def notFn : LaneFn := fun x a _ _ _ => (2 ^ tyWidth x.ty - 1 - a % 2 ^ tyWidth x.ty, 0)
/-- R286. -/
def shlFn : LaneFn := fun x a c _ _ => (if c < tyWidth x.ty then a * 2 ^ c % 2 ^ tyWidth x.ty else 0, 0)
/-- R286. -/
def shrFn : LaneFn := fun x a c _ _ => (if c < tyWidth x.ty then a / 2 ^ c else 0, 0)
/-- R286. -/
def sraFn : LaneFn := fun x a c _ _ =>
  (intBits (intVal x.ty a / (2 ^ min c (tyWidth x.ty) : Int)) (tyWidth x.ty), 0)
/-- R286. -/
def rotFn : LaneFn := fun x a c _ _ =>
  let w := tyWidth x.ty
  let n := c % w
  (a * 2 ^ n % 2 ^ w + a / 2 ^ (w - n), 0)
/-- R287. -/
def popcFn : LaneFn := fun x a _ _ _ => ((List.range (tyWidth x.ty)).countP (a.testBit ·), 0)
/-- R287. -/
def clzFn : LaneFn := fun x a _ _ _ => (if a = 0 then tyWidth x.ty else tyWidth x.ty - 1 - a.log2, 0)
/-- R287. -/
def brevFn : LaneFn := fun x a _ _ _ =>
  ((List.range (tyWidth x.ty)).foldl (fun r i => if a.testBit i then r + 2 ^ (tyWidth x.ty - 1 - i) else r) 0, 0)
/-- R288: bits at or above the width read as the sign for i types and as 0 for n types. -/
def bfxFn : LaneFn := fun x a ctl _ _ =>
  let w := tyWidth x.ty
  let p := ctl % 256
  let n := min (ctl / 256 % 256) w
  if n = 0 then (0, 0)
  else
    let f := intBits (intVal x.ty a / (2 ^ p : Int)) n
    (if tySigned x.ty then intBits (signedOf f n) w else f, 0)
/-- R288. -/
def bfiFn : LaneFn := fun x a ctl _ d =>
  let w := tyWidth x.ty
  let p := ctl % 256
  let n := min (ctl / 256 % 256) w
  ((List.range w).foldl (fun r i =>
    let bit := if p ≤ i && i < p + n then a.testBit (i - p) else d.testBit i
    if bit then r + 2 ^ i else r) 0, 0)
/-- R289. -/
def selFn : LaneFn := fun _ a b c _ => (if c % 2 = 1 then a else b, 0)
/-- R289. -/
def movFn : LaneFn := fun _ a _ _ _ => (a, 0)
/-- R289. -/
def moviFn : LaneFn := fun _ _ b _ _ => (b, 0)

/-- An integer comparison (R290): MOD 1 to 6 are eq, ne, lt, le, gt, ge. -/
def intCmp (mod : Nat) (a b : Int) : Bool :=
  match mod with
  | 1 => a == b
  | 2 => a != b
  | 3 => decide (a < b)
  | 4 => decide (a ≤ b)
  | 5 => decide (b < a)
  | _ => decide (b ≤ a)

/-- R290. -/
def icmpFn : LaneFn := fun x a b _ _ => (if intCmp x.mod.toNat (intVal x.ty a) (intVal x.ty b) then 1 else 0, 0)

/-- The address that lea forms (R291) and the poison of its operands. -/
def leaValue (x : Three) (s : State) (k : Nat) : Nat × Bool :=
  let (base, p1) := readOperand s k 64 x.a
  let (off, p2) := readOffset s k x.b
  (intBits ((base : Int) + off) 64, p1 || p2)

/-- lea (R291): REGRANGE and poison, nothing else. -/
def leaRun (code : Code) (s : State) : State :=
  let x := code.norm .lea
  executed s (runBundle s x.g code.len .read
    (fun t k => (Verdict.trapIf (rangeFails .lea x t k) .regrange).and (Verdict.poisonIf (leaValue x t k).2))
    fun t _ ps => advanceAll (writeResults t x Ty.b64 ps (fun k => ((leaValue x t k).1, 0)) fun _ => (false, false)) code.len ps)

/-- One-word i32 add, wrapping or saturating (R282). -/
def execIadd (x : Short) (s : State) : Host.Outcome State Fault Refusal :=
  .next (alu .iadd (.short x) iaddFn ownTy false false s)

/-- Integer add in literal or three-word form (R282). -/
def execIaddW (x : Long) (s : State) : Host.Outcome State Fault Refusal :=
  .next (alu .iadd (.long x) iaddFn ownTy false false s)

/-- One-word i32 subtract (R282). -/
def execIsub (x : Short) (s : State) : Host.Outcome State Fault Refusal :=
  .next (alu .isub (.short x) isubFn ownTy false false s)

/-- Integer subtract in a longer form (R282). -/
def execIsubW (x : Long) (s : State) : Host.Outcome State Fault Refusal :=
  .next (alu .isub (.long x) isubFn ownTy false false s)

/-- One-word i32 multiply (R282). -/
def execImul (x : Short) (s : State) : Host.Outcome State Fault Refusal :=
  .next (alu .imul (.short x) imulFn ownTy false false s)

/-- Integer multiply in a longer form (R282). -/
def execImulW (x : Long) (s : State) : Host.Outcome State Fault Refusal :=
  .next (alu .imul (.long x) imulFn ownTy false false s)

/-- One-word high half of an i32 product (R283). -/
def execImulh (x : Short) (s : State) : Host.Outcome State Fault Refusal :=
  .next (alu .imulh (.short x) imulhFn ownTy false false s)

/-- High product half in a longer form (R283). -/
def execImulhW (x : Long) (s : State) : Host.Outcome State Fault Refusal :=
  .next (alu .imulh (.long x) imulhFn ownTy false false s)

/-- One-word multiply-add with C equal to D (R282). -/
def execImad (x : Short) (s : State) : Host.Outcome State Fault Refusal :=
  .next (alu .imad (.short x) imadFn ownTy false false s)

/-- Multiply-add with a separate C operand (R282). -/
def execImadW (x : Long) (s : State) : Host.Outcome State Fault Refusal :=
  .next (alu .imad (.long x) imadFn ownTy false false s)

/-- One-word i32 divide truncating toward zero (R284). -/
def execIdiv (x : Short) (s : State) : Host.Outcome State Fault Refusal :=
  .next (alu .idiv (.short x) idivFn ownTy false false s)

/-- Integer divide in a longer form (R284). -/
def execIdivW (x : Long) (s : State) : Host.Outcome State Fault Refusal :=
  .next (alu .idiv (.long x) idivFn ownTy false false s)

/-- One-word i32 remainder (R284). -/
def execIrem (x : Short) (s : State) : Host.Outcome State Fault Refusal :=
  .next (alu .irem (.short x) iremFn ownTy false false s)

/-- Integer remainder in a longer form (R284). -/
def execIremW (x : Long) (s : State) : Host.Outcome State Fault Refusal :=
  .next (alu .irem (.long x) iremFn ownTy false false s)

/-- One-word i32 minimum (R285). -/
def execImin (x : Short) (s : State) : Host.Outcome State Fault Refusal :=
  .next (alu .imin (.short x) iminFn ownTy false false s)

/-- Integer minimum in a longer form (R285). -/
def execIminW (x : Long) (s : State) : Host.Outcome State Fault Refusal :=
  .next (alu .imin (.long x) iminFn ownTy false false s)

/-- One-word i32 maximum (R285). -/
def execImax (x : Short) (s : State) : Host.Outcome State Fault Refusal :=
  .next (alu .imax (.short x) imaxFn ownTy false false s)

/-- Integer maximum in a longer form (R285). -/
def execImaxW (x : Long) (s : State) : Host.Outcome State Fault Refusal :=
  .next (alu .imax (.long x) imaxFn ownTy false false s)

/-- One-word i32 absolute value (R285). -/
def execIabs (x : Short) (s : State) : Host.Outcome State Fault Refusal :=
  .next (alu .iabs (.short x) iabsFn ownTy false false s)

/-- Absolute value in a longer form (R285). -/
def execIabsW (x : Long) (s : State) : Host.Outcome State Fault Refusal :=
  .next (alu .iabs (.long x) iabsFn ownTy false false s)

/-- One-word b32 bitwise and (R286). -/
def execAnd (x : Short) (s : State) : Host.Outcome State Fault Refusal :=
  .next (alu .and (.short x) andFn ownTy false false s)

/-- Bitwise and in a longer form (R286). -/
def execAndW (x : Long) (s : State) : Host.Outcome State Fault Refusal :=
  .next (alu .and (.long x) andFn ownTy false false s)

/-- One-word b32 bitwise or (R286). -/
def execOr (x : Short) (s : State) : Host.Outcome State Fault Refusal :=
  .next (alu .or (.short x) orFn ownTy false false s)

/-- Bitwise or in a longer form (R286). -/
def execOrW (x : Long) (s : State) : Host.Outcome State Fault Refusal :=
  .next (alu .or (.long x) orFn ownTy false false s)

/-- One-word b32 bitwise xor (R286). -/
def execXor (x : Short) (s : State) : Host.Outcome State Fault Refusal :=
  .next (alu .xor (.short x) xorFn ownTy false false s)

/-- Bitwise xor in a longer form (R286). -/
def execXorW (x : Long) (s : State) : Host.Outcome State Fault Refusal :=
  .next (alu .xor (.long x) xorFn ownTy false false s)

/-- One-word b32 bitwise not (R286). -/
def execNot (x : Short) (s : State) : Host.Outcome State Fault Refusal :=
  .next (alu .not (.short x) notFn ownTy false false s)

/-- Bitwise not in a longer form (R286). -/
def execNotW (x : Long) (s : State) : Host.Outcome State Fault Refusal :=
  .next (alu .not (.long x) notFn ownTy false false s)

/-- One-word b32 shift left by a register count (R286). -/
def execShl (x : Short) (s : State) : Host.Outcome State Fault Refusal :=
  .next (alu .shl (.short x) shlFn ownTy false false s)

/-- Shift left with imm9 count or other type (R286). -/
def execShlW (x : Long) (s : State) : Host.Outcome State Fault Refusal :=
  .next (alu .shl (.long x) shlFn ownTy false false s)

/-- One-word b32 logical shift right (R286). -/
def execShr (x : Short) (s : State) : Host.Outcome State Fault Refusal :=
  .next (alu .shr (.short x) shrFn ownTy false false s)

/-- Logical shift right in a longer form (R286). -/
def execShrW (x : Long) (s : State) : Host.Outcome State Fault Refusal :=
  .next (alu .shr (.long x) shrFn ownTy false false s)

/-- One-word i32 arithmetic shift right (R286). -/
def execSra (x : Short) (s : State) : Host.Outcome State Fault Refusal :=
  .next (alu .sra (.short x) sraFn ownTy false false s)

/-- Arithmetic shift right in a longer form (R286). -/
def execSraW (x : Long) (s : State) : Host.Outcome State Fault Refusal :=
  .next (alu .sra (.long x) sraFn ownTy false false s)

/-- One-word b32 rotate left (R286). -/
def execRot (x : Short) (s : State) : Host.Outcome State Fault Refusal :=
  .next (alu .rot (.short x) rotFn ownTy false false s)

/-- Rotate in a longer form (R286). -/
def execRotW (x : Long) (s : State) : Host.Outcome State Fault Refusal :=
  .next (alu .rot (.long x) rotFn ownTy false false s)

/-- One-word b32 population count (R287). -/
def execPopc (x : Short) (s : State) : Host.Outcome State Fault Refusal :=
  .next (alu .popc (.short x) popcFn ownTy false false s)

/-- Population count in a longer form (R287). -/
def execPopcW (x : Long) (s : State) : Host.Outcome State Fault Refusal :=
  .next (alu .popc (.long x) popcFn ownTy false false s)

/-- One-word b32 leading-zero count (R287). -/
def execClz (x : Short) (s : State) : Host.Outcome State Fault Refusal :=
  .next (alu .clz (.short x) clzFn ownTy false false s)

/-- Leading-zero count in a longer form (R287). -/
def execClzW (x : Long) (s : State) : Host.Outcome State Fault Refusal :=
  .next (alu .clz (.long x) clzFn ownTy false false s)

/-- One-word b32 bit reversal (R287). -/
def execBrev (x : Short) (s : State) : Host.Outcome State Fault Refusal :=
  .next (alu .brev (.short x) brevFn ownTy false false s)

/-- Bit reversal in a longer form (R287). -/
def execBrevW (x : Long) (s : State) : Host.Outcome State Fault Refusal :=
  .next (alu .brev (.long x) brevFn ownTy false false s)

/-- One-word n32 bit-field extract (R288). -/
def execBfx (x : Short) (s : State) : Host.Outcome State Fault Refusal :=
  .next (alu .bfx (.short x) bfxFn ownTy false false s)

/-- Bit-field extract in a longer form (R288). -/
def execBfxW (x : Long) (s : State) : Host.Outcome State Fault Refusal :=
  .next (alu .bfx (.long x) bfxFn ownTy false false s)

/-- One-word b32 bit-field insert (R288). -/
def execBfi (x : Short) (s : State) : Host.Outcome State Fault Refusal :=
  .next (alu .bfi (.short x) bfiFn ownTy true false s)

/-- Bit-field insert in a longer form (R288). -/
def execBfiW (x : Long) (s : State) : Host.Outcome State Fault Refusal :=
  .next (alu .bfi (.long x) bfiFn ownTy true false s)

/-- Selects A or B by a predicate; three-word only (R289). -/
def execSel (x : Three) (s : State) : Host.Outcome State Fault Refusal :=
  .next (alu .sel (.long (.three x)) selFn ownTy false false s)

/-- One-word i32 equality compare into a predicate (R290). -/
def execIcmp (x : Short) (s : State) : Host.Outcome State Fault Refusal :=
  .next (alu .icmp (.short x) icmpFn ownTy false false s)

/-- Integer compare with other relation, type or imm9 (R290). -/
def execIcmpW (x : Long) (s : State) : Host.Outcome State Fault Refusal :=
  .next (alu .icmp (.long x) icmpFn ownTy false false s)

/-- One-word b32 move, poison moving with it (R289). -/
def execMov (x : Short) (s : State) : Host.Outcome State Fault Refusal :=
  .next (alu .mov (.short x) movFn ownTy false true s)

/-- Move in a longer form (R289). -/
def execMovW (x : Long) (s : State) : Host.Outcome State Fault Refusal :=
  .next (alu .mov (.long x) movFn ownTy false true s)

/-- One-word move of an immediate 0 to 31 (R289). -/
def execMovi (x : Short) (s : State) : Host.Outcome State Fault Refusal :=
  .next (alu .movi (.short x) moviFn ownTy false false s)

/-- Immediate move with literal or imm9 (R289). -/
def execMoviW (x : Long) (s : State) : Host.Outcome State Fault Refusal :=
  .next (alu .movi (.long x) moviFn ownTy false false s)

/-- One-word 64-bit address formation (R291). -/
def execLea (x : Short) (s : State) : Host.Outcome State Fault Refusal :=
  .next (leaRun (.short x) s)

/-- Address formation in a longer form (R291). -/
def execLeaW (x : Long) (s : State) : Host.Outcome State Fault Refusal :=
  .next (leaRun (.long x) s)

end Sys2Proof.Machine
end

