-- ==== Sys2Proof/Machine/Convert.lean ====
section
/-! DEFINITION. Conversions and predicates (R300 to R303). -/

namespace Sys2Proof.Machine

/-- The source type of a conversion (R233): its MOD. -/
def srcTy (x : Three) : BitVec 4 := x.mod.setWidth 4

/-- R300. -/
def fcvtFn : LaneFn := fun x a _ _ _ => fConvert (fmtOf (srcTy x)) (fmtOf x.ty) (modeOf x) a
/-- R300. -/
def f2iFn : LaneFn := fun x a _ _ _ =>
  let (n, f) := fToInt (fmtOf (srcTy x)) x.ty (modeOf x) a
  (intBits n (tyWidth x.ty), f)
/-- R300. -/
def i2fFn : LaneFn := fun x a _ _ _ => intToF (intVal (srcTy x) a) (fmtOf x.ty) (modeOf x)
/-- R301. -/
def packFn : LaneFn := fun x a b _ _ =>
  let (lo, f1) := fConvert f32 (fmtOf x.ty) (modeOf x) a
  let (hi, f2) := fConvert f32 (fmtOf x.ty) (modeOf x) b
  (lo + 2 ^ 16 * hi, f1 ||| f2)
/-- R301. -/
def unpkFn : LaneFn := fun x a _ _ _ =>
  fConvert (fmtOf x.ty) f32 .rn (if x.mod = 2 then a / 2 ^ 16 % 2 ^ 16 else a % 2 ^ 16)
/-- R302: and, or, xor, andn. -/
def plogFn : LaneFn := fun x a b _ _ =>
  let p := a % 2 == 1
  let q := b % 2 == 1
  let r := match x.mod.toNat with
    | 1 => p && q
    | 2 => p || q
    | 3 => p != q
    | _ => p && !q
  (if r then 1 else 0, 0)
/-- R302: a copy, frb (A is not 0) or tob (1 or 0). -/
def pmovFn : LaneFn := fun x a _ _ _ => if x.mod = 1 then (if a = 0 then 0 else 1, 0) else (a, 0)

/-- Float-to-float conversion; three-word only (R300). -/
def execFcvt (x : Three) (s : State) : Host.Outcome State Fault Refusal :=
  .next (alu .fcvt (.long (.three x)) fcvtFn ownTy false false s)

/-- Float-to-integer conversion; three-word only (R300). -/
def execF2i (x : Three) (s : State) : Host.Outcome State Fault Refusal :=
  .next (alu .f2i (.long (.three x)) f2iFn ownTy false false s)

/-- Integer-to-float conversion; three-word only (R300). -/
def execI2f (x : Three) (s : State) : Host.Outcome State Fault Refusal :=
  .next (alu .i2f (.long (.three x)) i2fFn ownTy false false s)

/-- One-word pack of two f32 values into bf16 halves (R301). -/
def execPack (x : Short) (s : State) : Host.Outcome State Fault Refusal :=
  .next (alu .pack (.short x) packFn (fun _ => Ty.b32) false false s)

/-- Pack with other type or rounding (R301). -/
def execPackW (x : Long) (s : State) : Host.Outcome State Fault Refusal :=
  .next (alu .pack (.long x) packFn (fun _ => Ty.b32) false false s)

/-- One-word widening of the low bf16 half to f32 (R301). -/
def execUnpk (x : Short) (s : State) : Host.Outcome State Fault Refusal :=
  .next (alu .unpk (.short x) unpkFn (fun _ => Ty.f32) false false s)

/-- Unpack of the high half or f16 (R301). -/
def execUnpkW (x : Long) (s : State) : Host.Outcome State Fault Refusal :=
  .next (alu .unpk (.long x) unpkFn (fun _ => Ty.f32) false false s)

/-- One-word predicate and (R302). -/
def execPlog (x : Short) (s : State) : Host.Outcome State Fault Refusal :=
  .next (alu .plog (.short x) plogFn ownTy false false s)

/-- Predicate or, xor or andn (R302). -/
def execPlogW (x : Long) (s : State) : Host.Outcome State Fault Refusal :=
  .next (alu .plog (.long x) plogFn ownTy false false s)

/-- One-word predicate copy or predicate from register (R302). -/
def execPmov (x : Short) (s : State) : Host.Outcome State Fault Refusal :=
  .next (alu .pmov (.short x) pmovFn (fun _ => Ty.b32) false false s)

/-- Predicate move including tob (R302). -/
def execPmovW (x : Long) (s : State) : Host.Outcome State Fault Refusal :=
  .next (alu .pmov (.long x) pmovFn (fun _ => Ty.b32) false false s)

end Sys2Proof.Machine
end

