-- ==== Sys2Proof/Machine/Home.lean ====
section
/-! DEFINITION. The homes and slices at work (R41 to R69, R171 to R190): reads and leases, drains, atomics, reductions, engine and
host writes, invalidations, loans, retries, completion times and replies. -/

namespace Sys2Proof.Machine

/-! ## Injected errors of a slice or stack (R41, R43, R67, R127) -/

/-- The largest lease length that launches of a slice's partition have used (R77, R127, log 15). -/
def largestLease (s : State) (q : Nat) : Nat := (partAt s (tractAt s (q / 32)).owner).leaseTop

/-- An error that strikes at a home: 1 a correctable HBM error, 2 an uncorrectable line (rebuilt from its row, so its contents
stand), 3 a parity error of the slice's copy (discarded), 4 a directory entry (then every slice is a holder), 5 a parity error of
the line's entry of the horizon table (folded into Hfloor as though it were the latest of leases), 6 of its redirect (lost). -/
def strikeHome (s : State) (q line hit : Nat) : State :=
  match hit with
  | 1 | 2 => logRas s .hbmLine false (locQuad q) (BitVec.ofNat 64 line) 0
  | 3 =>
    let t := modQuad s q fun x => capHorizons line { x with copies := x.copies.filter fun c => c.line != line }
    logRas (if (slotOf s q line).any fun c => c.kind == .homed then endTracker t line else t) .parity false (locQuad q) 0 0
  | 4 => modHome (logRas s .directory false (locQuad q) (BitVec.ofNat 64 line) 0) line fun h => { h with dir := .coarse (List.range 16) }
  | 5 =>
    let t := logRas s .parity false (locQuad q) 0 0
    if (slotOf s q line).isSome then t
    else modQuad t q fun x => { x with horizons := terase x.horizons line, hfloor := max x.hfloor (s.now + largestLease s q) }
  | 6 =>
    modQuad (logRas s .parity false (locQuad q) 0 0) q fun x => { x with redirects := x.redirects.filter fun d => d.1 != line }
  | _ => s

/-! ## Reads (R48, R52, R57 to R63, R72) -/

/-- Bytes of its line that a pending load reads. -/
def PendingLoad.offsets (p : PendingLoad) : List Nat := (List.range (tyWidth p.ty / 8)).map fun i => p.pa % 64 + i

/-- Bytes of a line that a request's loads read (R57). -/
def readBytes (s : State) (r : ReadReq) : List Nat :=
  nub (r.waiters.flatMap fun w => ((strandAt s w.1).loads.filter fun p => p.id == w.2).flatMap PendingLoad.offsets)

/-- A slice answers a request with a line, under the request's own message number. -/
def answerRead (s : State) (id q : Nat) (r : ReadReq) (bytes : List Byte) (poison : Bool) (expiry : Option Nat)
    (mask : Option (List Nat)) : State :=
  if r.l2only && r.near.isNone then takeOff s id
  else passOn s id q (.data r.near r bytes poison expiry mask)

/-- Cache ways that some context of a partition may fill at a slice (R60). -/
def anyWays (s : State) (q part : Nat) : Nat := (List.range 64).foldl (fun m ctx => m ||| wayMask s q part ctx) 0

/-- The lower-numbered tract of a partition on a die. -/
def tractOnDie (s : State) (part die : Nat) : Option Nat := [2 * die, 2 * die + 1].find? fun t => (partAt s part).tracts.contains t

/-- The slice that may hold a loan of a line on a die (R60). -/
def helperOn (s : State) (part line die : Nat) : Option Nat :=
  (tractOnDie s part die).bind fun t =>
    let p := 32 * t + positionOf line
    let q := tget s.module.map p p
    if anyWays s q part = 0 || (dieAt s die).fenced then none else some q

/-- Count one grant from a die in the hot filter (R60), which holds 64 lines in the order in which they entered; the oldest makes
room (log 15). -/
def countGrant (x : Quad) (line die : Nat) : Quad :=
  let bump (l : List (Nat × Nat)) : List (Nat × Nat) := tset l die (tget l die 0 + 1)
  if x.hot.any fun p => p.1 == line then { x with hot := x.hot.map fun p => if p.1 == line then (line, bump p.2) else p }
  else { x with hot := (if 64 ≤ x.hot.length then x.hot.drop 1 else x.hot) ++ [(line, bump [])] }

/-- The grants of a line that the hot filter has counted, by die. -/
def grantsOf (x : Quad) (line : Nat) : List (Nat × Nat) := ((x.hot.find? fun p => p.1 == line).map (·.2)).getD []

/-- Insert a die by descending count, then ascending number. -/
def insertDie (d : Nat × Nat) : List (Nat × Nat) → List (Nat × Nat)
  | [] => [d]
  | e :: es => if e.2 < d.2 || (e.2 == d.2 && d.1 < e.1) then d :: e :: es else e :: insertDie d es

/-- A hot RO line is lent to up to 4 other dies (R60). One that has a loan out is lent to no further die (DESIGN CHOICE, log 15). -/
def pushLoans (s : State) (q line part : Nat) : State :=
  let counts := grantsOf (quadAt s q) line
  let others := counts.filter fun c => c.1 != q / 64
  if (counts.map (·.2)).sum < 128 || others.length < 2 || !(homeAt s line).loans.isEmpty then s
  else
    let dies := ((others.filter fun c => (tractOnDie s part c.1).isSome).foldr insertDie []).take 4
    let helpers := dies.filterMap fun d => helperOn s part line d.1
    let t := helpers.foldl (fun u h => post u (.loanPush line h (lineBytes s line) (lineBad s line))) s
    modHome t line fun h => { h with loans := h.loans ++ helpers }

/-- A home counts a grant of an RO line, and lends a hot line (R60). -/
def noteGrant (s : State) (q : Nat) (r : ReadReq) : State :=
  if r.cls = 2 && !r.l2only then pushLoans (modQuad s q fun x => countGrant x r.line (r.core / 256)) q r.line r.part else s

/-- A read at its home (R48, R52, R57 to R60, R72). A prefetch into the slices alone takes no lease (R311). -/
def serveRead (s : State) (id q hit : Nat) (r : ReadReq) : State :=
  let line := r.line
  let s := strikeHome s q line hit
  let r := { r with born := s.ctl.nextId }
  let bytes := lineBytes s line
  let bad := lineBad s line
  let e := s.now + r.lease
  if hit = 4 then fanOut s line (horizonOf s q line) .nobody (some id) false
  else if r.cls = 1 then answerRead (keepHomed s q line r.keeper) id q r bytes bad none none
  else if r.near.isSome then
    let s := endTracker s line
    match addHolder s line (r.near.getD 0) id with
    | (none, t) => t
    | (some t, _) =>
      let t := if r.l2only then t else raiseHorizon t q line e
      answerRead (noteGrant (keepHomed t q line r.keeper) q r) id q r bytes bad (some e) none
  else if r.l2only then answerRead (keepHomed s q line r.keeper) id q r bytes bad none none
  else
    let s := touchTracker s line r.core (readBytes s r)
    match (homeAt s line).tracker with
    | some tr =>
      let mask := (tr.cores.find? fun c => c.1 == r.core).map (·.2.1) |>.getD []
      let t := modHome s line fun h => { h with tracker := some { tr with cores := tr.cores.map fun c =>
        if c.1 == r.core then (c.1, c.2.1, max c.2.2 e) else c } }
      answerRead (useWay t q line) id q r bytes bad (some e) (some mask)
    | none => answerRead (noteGrant (keepHomed (raiseHorizon s q line e) q line r.keeper) q r) id q r bytes bad (some e) none

/-- A slice grants a lease from its near copy or its loan (R48, R61). -/
def grantCopy (s : State) (id q : Nat) (r : ReadReq) (c : SliceCopy) : State :=
  let e := s.now + r.lease
  let t := if r.l2only then s else raiseHorizon s q r.line e
  answerRead (useWay t q r.line) id q { r with near := none, born := c.born } c.bytes c.poison (some e) none

/-- A read goes on to its home, which answers the requester itself. -/
def toHome (s : State) (id q : Nat) (r : ReadReq) : State := passOn s id q (.read (homeSlice s r.line) { r with near := none })

/-- A read at the near slice of its core (R52, R61): of a context with an empty mask to the home, which serves every access of it
(R72); else from its copy, else to a helper (of which the slice that holds nothing is none, R63), else to the home with a note. A
prefetch into the slices alone wants a near copy, which only the home gives (R311). -/
def nearRead (s : State) (id q : Nat) (r : ReadReq) : State :=
  if wayMask s q r.part r.ctx = 0 then toHome s id q r
  else match slotOf s q r.line with
  | some c => grantCopy s id q r c
  | none =>
    match (if r.cls = 2 && !r.l2only then (quadAt s q).redirects.find? fun d => d.1 == r.line else none) with
    | some d => if d.2 = q then toHome s id q r else passOn s id q (.read d.2 { r with near := none })
    | none => passOn (modQuad s q fun x => { x with notes := x.notes ++ [id] }) id q (.read (homeSlice s r.line) { r with near := some q })

/-- A read at a helper (R61, R63): from its loan, else to the home with its original age. -/
def helperRead (s : State) (id q : Nat) (r : ReadReq) : State :=
  match slotOf s q r.line with
  | some c => grantCopy s id q r c
  | none => toHome s id q r

/-- A line whose directory entry is lost has every slice for a holder (R67): the home invalidates them all and rebuilds the entry
empty. -/
def rebuildEntry (s : State) (line hit : Nat) : State :=
  if hit = 4 then fanOut s line (horizonOf s (homeSlice s line) line) .nobody none false else s

/-- A home answers the copy engine with a line as it stands (R190), and keeps it with the command's hint (R307). -/
def engineLine (s : State) (id q hit line core op vline : Nat) : State :=
  let t := serveWay (strikeHome s q line hit) q line (copyKeeper s core op)
  rebuildEntry (passOn t id q (.engineData core op vline (lineBytes t line) (lineBad t line))) line hit

/-- A line of an RMA read at its home (R75): what the range holds of it, and its poison (R133). -/
def hostLine (s : State) (id q hit line : Nat) (tag : DWord) : State :=
  let t := takeOff (useWay (strikeHome s q line hit) q line) id
  rebuildEntry (modModule t fun m => { m with rma := m.rma.map fun r =>
    if r.tag == tag then
      let mine := (List.range 64).filter fun i => r.range.any fun p => decide (p.1 ≤ 64 * line + i) && decide (64 * line + i < p.1 + p.2)
      { r with lines := r.lines - 1, got := mine.foldl (fun g i => tset g (64 * line + i) ((lineBytes t line).getD i 0)) r.got,
               poison := r.poison || lineBad t line }
    else r }) line hit

/-- A request for a directory entry whose place is still being freed waits (R54). -/
def awaitsEntry (s : State) (id : Nat) : Bool := s.homes.any fun h => h.2.txn.any fun x => x.resume == some id

/-! ## Drains, engine writes and host writes (R50, R57 to R59, R62, R75, R131, R171, R190) -/

/-- Invalidate and fix the completion time, or for NC and Abacus lines answer Tarr + 1 (R171), where a lost entry is rebuilt all the
same (R67). -/
def completeWrite (s : State) (line hit cls hall : Nat) (n : Notify) : State :=
  if cls = 1 || cls = 3 then rebuildEntry (sendC s line n (s.now + 1)) line hit else fanOut s line hall n none true

/-- The offsets that a write covers. -/
def offsetsOf (data : Tab Byte) : List Nat := data.map (·.1)

/-- A drained entry at its home (R50, R57), which keeps the line with the stores' hint (R307). One that ends a privatisation may begin
another at once, where R57 holds of it (DESIGN CHOICE, log 15). -/
def serveDrain (s : State) (id q hit core : Nat) (e : RecEntry) : State × List MemEffect :=
  let s := strikeHome s q e.line hit
  let bytes := offsetsOf e.data
  let s := if e.cls = 1 then s else touchTracker s e.line core bytes
  let s := if e.cls = 0 then startTracker s e.line core bytes else s
  let hall := hallOf s e.line core bytes
  let (t, es) := writeLine s e.line e.data (!e.poison.isEmpty)
  (completeWrite (keepHomed (takeOff t id) q e.line (e.keeper s)) e.line hit e.cls hall (.entry core e.seq), es)

/-- The entries of a page table of a partition that are not 0, by their address, where memory lists one of their bytes. -/
def listedEntries (s : State) (table bits : Nat) : List Nat :=
  nub ((s.mem.filter fun c => table ≤ c.1 && c.1 < table + 8 * 2 ^ bits).map fun c => c.1 / 8 * 8)

/-- A page table, or one below it, maps an address in a page of class Abacus (R87). -/
def mapsAbacus (s : State) (pa : Nat) : Nat → Nat → Bool
  | table, level =>
    let bits := if level = 3 then 13 else if level = 0 then 5 else 9
    (listedEntries s table bits).any fun a =>
      let e : DWord := BitVec.ofNat 64 (leNat ((List.range 8).map fun i => memRead s.mem (a + i)))
      let addr := bitsOf e 8 40 * 256
      let size := 2 ^ (16 + (if level = 0 then 0 else 5 + 9 * (level - 1)))
      if bitsOf e 0 2 = 1 then (match level with | 0 => false | l + 1 => mapsAbacus s pa addr l)
      else bitsOf e 0 2 = 2 && bitsOf e 61 3 = 3 && addr ≤ pa && pa < addr + size
  termination_by structural _ level => level

/-- The root of a context of a partition (R77). -/
def contextRoot (s : State) (part ctx : Nat) : Nat :=
  leNat ((List.range 8).map fun i => memRead s.mem ((partAt s part).ctxBase + 32 * ctx + i))

/-- A line lies in a page that some context of its partition maps in class Abacus (R171). -/
def abacusLine (s : State) (line : Nat) : Bool :=
  let part := (tractAt s (tractOfPa (64 * line))).owner
  (List.range (partAt s part).ctxCount).any fun ctx => mapsAbacus s (64 * line) (contextRoot s part ctx) 3

/-- A line that cpo writes, or that the host writes by RMA, at its home: privatisation ends first (R59, R75, R190); a resident
abacus line is written as one (R171, R338). -/
def serveWrite (s : State) (id q hit line cls : Nat) (data : Tab Byte) (poison : Bool) (n : Notify) : State × List MemEffect :=
  let s := endTracker (strikeHome s q line hit) line
  let hall := horizonOf s q line
  let held := (residentOf s line).isSome
  let (t, es) := writeLine s line data poison
  (completeWrite (serveWay (takeOff t id) q line (n.keeper s)) line hit (if held then 3 else cls) hall n, es)

/-! ## Atomics and reductions (R133, R184 to R189, R317 to R319) -/

/-- A location's bits: what earlier updates of the message left, else what the line held. -/
def overlayValue (base : Nat → Byte) (data : Tab Byte) (off n : Nat) : Nat :=
  leNat ((List.range n).map fun i => (tfind data (off + i)).getD (base (off + i)))

/-- What the updates of a message have done so far: bytes of the line, whether it is poisoned, the values found. -/
structure AtomRun where
  data : Tab Byte
  poison : Bool
  vals : List (Nat × DWord × Bool)
  deriving DecidableEq, Repr

/-- Apply one update (R185, R189): poison of its operand poisons the line, and what it returns from then on (R133). -/
def atomStep (base : Nat → Byte) (run : AtomRun) (o : LaneOp) : AtomRun :=
  let n := tyWidth o.ty / 8
  let off := o.pa % 64
  let old := overlayValue base run.data off n
  let new := atomNew o.op o.ty old o.value.toNat o.expected.toNat
  let bad := run.poison || o.poison
  { data := setBytes run.data off (leBytes n new), poison := bad, vals := run.vals ++ [(o.strand, BitVec.ofNat 64 old, bad)] }

/-- The updates of a message on a line that held some bytes. -/
def runOps (base : Nat → Byte) (poison : Bool) (ops : List LaneOp) : AtomRun :=
  ops.foldl (atomStep base) { data := [], poison := poison, vals := [] }

/-- An integer fetch-and-add that the core combined: a poisoned lane poisons every result at its address (R133, R186). -/
def combinePoison (ops : List LaneOp) (vals : List (Nat × DWord × Bool)) : List (Nat × DWord × Bool) :=
  vals.map fun v =>
    let mine := ops.find? fun o => o.strand == v.1
    let shared := ops.any fun o => o.poison && o.op == .add && o.ty != Ty.f32 && mine.any fun m => m.pa == o.pa
    (v.1, v.2.1, v.2.2 || shared)

/-- The updates of a message on one line, in lane order (R184, R185, R189), and the values found. -/
def applyOps (s : State) (q hit : Nat) (line : Nat) (ops : List LaneOp) : State × AtomRun × List MemEffect :=
  let s := strikeHome s q line hit
  let run := runOps (fun i => memRead s.mem (64 * line + i)) (lineBad s line) ops
  let (t, es) := writeLine s line run.data run.poison
  (useWay t q line, { run with vals := combinePoison ops run.vals }, es)

/-- The line of a message's updates. -/
def opsLine (ops : List LaneOp) : Nat := (ops.headD ⟨0, 0, .add, 0, 0, 0, false⟩).pa / 64

/-- The bytes that a message's updates touch. -/
def opsBytes (ops : List LaneOp) : List Nat :=
  nub (ops.flatMap fun o => (List.range (tyWidth o.ty / 8)).map fun i => o.pa % 64 + i)

/-- The access of an agent's update to a privatised line: a core's joins the tracker, or ends the privatisation; an engine's ends it
(R59; DEDUCED, log 42). -/
def touchByOps (s : State) (line cls : Nat) (n : Notify) (ops : List LaneOp) : State :=
  if cls = 1 then s
  else match n with
    | .op b _ => touchTracker s line (b / 4) (opsBytes ops)
    | _ => endTracker s line

/-- Hall of an update at the home before any acknowledgement (R50, R58): every lease that covers its bytes counts, the issuing core's too,
since an update at the home changes no L1 copy (DEDUCED, log 42). -/
def opsHall (s : State) (line : Nat) (ops : List LaneOp) : Nat := hallOf s line Config.cores (opsBytes ops)

/-- An atomic at its home (R184): values go back, the completion time is fixed by R50. -/
def serveAtomic (s : State) (id q hit b : Nat) (ops : List LaneOp) (op cls : Nat) (tail : Option Nat) : State × List MemEffect :=
  let line := opsLine ops
  let s := touchByOps s line cls (.op b op) ops
  let hall := opsHall s line ops
  let (t, run, es) := applyOps s q hit line ops
  (completeWrite (passOn t id q (.values b run.vals op tail)) line hit cls hall (.op b op), es)

/-- A reduction at its home (R188, R189). -/
def serveRed (s : State) (id q hit : Nat) (n : Notify) (ops : List LaneOp) (cls : Nat) : State × List MemEffect :=
  let line := opsLine ops
  let s := touchByOps s line cls n ops
  let hall := opsHall s line ops
  let (t, _, es) := applyOps s q hit line ops
  (completeWrite (serveWay (takeOff t id) q line (n.keeper s)) line hit cls hall n, es)

/-- Bytes that a transport atomic's completion returns. -/
def noteHostValue (s : State) (tag : DWord) (ty : BitVec 4) (v : DWord) : State :=
  modModule s fun m => { m with rma := m.rma.map fun r =>
    if r.tag == tag then { r with data := leBytes (tyWidth ty / 8) v.toNat } else r }

/-- A transport atomic at its home: a system-scope atomic (R75). A poisoned value (R133) goes back as it is, with success (DESIGN
CHOICE, log 25). -/
def servePortAtomic (s : State) (id q hit pa : Nat) (op : AtomOp) (ty : BitVec 4) (v e : DWord) (tag : DWord) : State × List MemEffect :=
  let s := endTracker s (pa / 64)
  let hall := horizonOf s q (pa / 64)
  let (t, run, es) := applyOps s q hit (pa / 64) [⟨0, pa, op, ty, v, e, false⟩]
  let t := noteHostValue (takeOff t id) tag ty ((run.vals.headD (0, 0, false)).2.1)
  (completeWrite t (pa / 64) hit 0 hall (.host tag), es)

/-! ## Serving a request -/

/-- Serve a request of any kind at its home, as it arrives or from the line's queue (R55). -/
def serve (hit id : Nat) (m : Msg) (s : State) : State × List MemEffect :=
  match m with
  | .read q r => (serveRead s id q hit r, [])
  | .drain q core e _ => serveDrain s id q hit core e
  | .atomic q b ops op _ cls tail => serveAtomic s id q hit b ops op cls tail
  | .red q n ops _ cls => serveRed s id q hit n ops cls
  | .abacus _ line op n _ part ctx => serveAbacus (strikeAbacus s line hit) id line op n part ctx
  | .engineWrite q line data poison n _ cls => serveWrite s id q hit line cls data poison n
  | .engineRead q line core op vline _ _ => (engineLine s id q hit line core op vline, [])
  | .rmaWrite q line data tag _ => serveWrite s id q hit line (if abacusLine s line then 3 else 0) data false (.host tag)
  | .rmaRead q line tag _ => (hostLine s id q hit line tag, [])
  | .portAtomic q pa op ty v e tag _ => servePortAtomic s id q hit pa op ty v e tag
  | _ => (s, [])

/-- A request message arrives at the slice that it names. -/
def arriveMsg (s : State) (hit id : Nat) (m : Msg) : State × List MemEffect :=
  match requestOf s m with
  | some r => arrive s id m r (serve hit id m)
  | none => (s, [])

/-- A read waits for a directory entry in its line's own transaction (R55). -/
def holdsLine (s : State) (id line : Nat) : Bool := (homeAt s line).txn.any fun x => x.holds == some id

/-- A read arrives at its home; one that has waited for a directory entry goes on in the transaction it has begun (R54, R55). -/
def homeRead (s : State) (id q hit : Nat) (r : ReadReq) : State :=
  if holdsLine s id r.line then
    let t := modHome s r.line fun h => { h with txn := none }
    if (dieAt t (q / 64)).fenced || homeSlice t r.line ≠ q then (arriveMsg t hit id (.read q r)).1 else serveRead t id q hit r
  else (arriveMsg s hit id (.read q r)).1

/-- A read arrives: at a home (the slice's own tract), at its core's near slice, or at a helper; a copy engine's or the host's, at
the home. -/
def readArrives (s : State) (id hit : Nat) : State :=
  match arriving s id with
  | some (.read q r) =>
    if awaitsEntry s id then s
    else if q / 32 == tractOfPa (64 * r.line) then homeRead s id q hit r
    else
      let s := if hit = 3 || hit = 5 || hit = 6 then strikeHome s q r.line hit else s
      if q == r.core / 4 then nearRead s id q r else helperRead s id q r
  | some (.engineRead q line core op v age cls) => (arriveMsg s hit id (.engineRead q line core op v age cls)).1
  | some (.rmaRead q line tag age) => (arriveMsg s hit id (.rmaRead q line tag age)).1
  | _ => s

/-- Data reaches a near slice (R52, R71): it is installed unless an invalidation came first, and goes on to the core. -/
def nearInstall (s : State) (id : Nat) : State :=
  match arriving s id with
  | some (.data (some q) r bytes poison expiry mask) =>
    let x := quadAt s q
    let t := modQuad s q fun y => { y with notes := y.notes.filter (· != id) }
    let t :=
      if x.notes.contains id then
        fillWay t q (wayMask t q r.part r.ctx)
          { line := r.line, kind := .near, part := r.part, ctx := r.ctx, way := 0, used := s.now, bytes := bytes, poison := poison,
            hint := r.hint, born := r.born }
      else t
    if r.l2only then takeOff t id
    else passOn t id q (.data none { r with near := none } bytes poison expiry mask)
  | _ => s

/-- A copy in the L1 reaches its expiry (R48). -/
def expireLease (s : State) (c line : Nat) : State :=
  if (coreAt s c).l1.any fun e => e.line == line && e.expiry.any fun x => decide (x ≤ s.now) then
    modCore s c fun k => { k with l1 := k.l1.filter fun e => !(e.line == line && e.expiry.any fun x => decide (x ≤ s.now)) }
  else s

/-! ## Invalidations, recalls, acknowledgements, loans (R50, R52, R53, R60 to R62) -/

/-- What a slice has forwarded a request of a line for is not installed (R52). -/
def dropNotes (s : State) (line q : Nat) : State :=
  let mine (i : Nat) : Bool := match tfind s.net i with
    | some m => m.lineRead.any fun r => r.line == line
    | none => false
  modQuad s q fun x => { x with notes := x.notes.filter fun i => !mine i }

/-- A slice drops its near copy of a line, and what it has forwarded a request for is not installed (R52, R53); its
horizon of the line. -/
def dropHolder (s : State) (line q : Nat) : State × Nat :=
  (modQuad (dropNotes s line q) q fun x =>
    capHorizons line { x with copies := x.copies.filter fun c => !(c.line == line && c.kind == .near) }, horizonOf s q line)

/-- A helper drops its loan of a line and the redirects of its die, and neither a push on its way nor a near copy that it has
asked for is installed (R52, R62); its horizon. -/
def dropLoan (s : State) (line q : Nat) : State × Nat :=
  let t := dropNotes s line q
  let t := modQuad t q fun x => capHorizons line { x with copies := x.copies.filter fun c => !(c.line == line && c.kind == .loan) }
  let t := dropRedirects t q line
  (dropMsgs t fun _ m => match m with | .loanPush l d _ _ => l == line && d == q | _ => false, horizonOf s q line)

/-- A redirect entry of a quad (R60): 32 of them, a new one replaces the oldest. -/
def addRedirect (x : Quad) (line helper : Nat) : Quad :=
  let kept := x.redirects.filter fun d => d.1 != line
  { x with redirects := (if 32 ≤ kept.length then kept.drop 1 else kept) ++ [(line, helper)] }

/-- An invalidation reaches a slice (R53): it drops its near copy and acknowledges with its horizon. A redirect's install or removal
reaches a quad's interface (R60, R61). -/
def invalArrives (s : State) (id : Nat) : State :=
  match arriving s id with
  | some (.inval line q) =>
    let (t, h) := dropHolder s line q
    post (takeOff t id) (.ack line q h)
  | some (.redirect line helper q) => modQuad (takeOff s id) q fun x => addRedirect x line helper
  | some (.unredirect line helper q) => modQuad (takeOff s id) q fun x => { x with redirects := x.redirects.filter (· != (line, helper)) }
  | _ => s

/-- A recall reaches a helper (R62): the loan goes, then it acknowledges. -/
def recallArrives (s : State) (id : Nat) : State :=
  match arriving s id with
  | some (.recall line q) =>
    let (t, h) := dropLoan s line q
    post (takeOff t id) (.ack line q h)
  | _ => s

/-- An acknowledgement reaches the home (R50): the last one of a fan-out fixes C and raises H. -/
def ackArrives (s : State) (id : Nat) : State :=
  match arriving s id with
  | some (.ack line q h) =>
    let s := takeOff s id
    match (homeAt s line).txn with
    | none => raiseHorizon s (homeSlice s line) line h
    | some x =>
      let y : Txn := { x with missing := x.missing.erase q, hall := max x.hall h }
      if !x.missing.contains q then raiseHorizon s (homeSlice s line) line h
      else if y.missing.isEmpty then endFanOut s line y
      else modHome s line fun g => { g with txn := some y }
  | _ => s

/-- A helper has a loan of a line, or one is on its way there, apart from the one that a message returns. -/
def laterLoan (s : State) (id line q : Nat) : Bool :=
  (slotOf s q line).any (fun c => c.kind == .loan) || s.net.any fun p => p.1 != id && match p.2 with
    | .loanPush l d _ _ | .loanReturn l d _ => l == line && d == q
    | _ => false

/-- A loan return reaches the home (R61), which forgets the helper, but where it has lent the line to it again meanwhile. -/
def loanReturnArrives (s : State) (id : Nat) : State :=
  match arriving s id with
  | some (.loanReturn line q h) =>
    let t := raiseHorizon (takeOff s id) (homeSlice s line) line h
    if laterLoan s id line q then t else modHome t line fun g => { g with loans := g.loans.filter (· != q) }
  | _ => s

/-- A loan push reaches its helper (R60): the loan is installed, and a redirect goes to every quad of its die. Without a way, or where
every way that it may take holds a line that must stay (R307; DESIGN CHOICE, log 15), the loan goes back and no redirect is sent. -/
def loanArrives (s : State) (id : Nat) : State :=
  match arriving s id with
  | some (.loanPush line q bytes poison) =>
    let part := (tractAt s (tractOfPa (64 * line))).owner
    let t := fillWay (takeOff s id) q (anyWays s q part)
      { line := line, kind := .loan, part := part, ctx := 64, way := 0, used := s.now, bytes := bytes, poison := poison,
        born := id }
    if (slotOf t q line).any fun c => c.kind == .loan then tellDie t q fun i => .redirect line q i
    else post t (.loanReturn line q (horizonOf s q line))
  | _ => s

/-! ## Completion times (R50, R164, R179, R85) -/

/-- Count one completion time of an operation. -/
def countDown (id : Nat) (ops : List OpRef) : List OpRef :=
  (ops.map fun o => if o.id == id then { o with count := o.count - 1 } else o).filter fun o =>
    !(o.id == id && o.count == 0 && o.sourceRead)

/-- Fences of a block see a completion time of an operation; last says that it has no more to come (R179). -/
def fencesSeeOp (s : State) (b id c : Nat) (last : Bool) : State :=
  let t := modBlock s b fun x => { x with lct := max x.lct c }
  let see (w : FenceWait) : FenceWait :=
    if w.ops.contains id then { w with horizon := max w.horizon c, ops := if last then w.ops.filter (· != id) else w.ops } else w
  (blockStrands t b).foldl (fun u k => modStrand u k fun x => { x with fences := x.fences.map see }) t

/-- Waiting commands of a partition that a completion time is for see it (R89). -/
def waitersSee (s : State) (part c : Nat) (mine : Waiting → Bool) (f : Waiting → Waiting) : State :=
  let see (w : Waiting) : Waiting := if mine w then { f w with horizon := max w.horizon c } else w
  modPart s part fun p => { p with waiting := p.waiting.map see }

/-- A gang takes a completion time of a member that has left its core (R199). -/
def gangSees (s : State) (g c : Nat) : State := modGang s g fun x => { x with horizon := max x.horizon c }

/-- A block holds an operation that has no completion time yet. -/
def holdsOp (s : State) (b id : Nat) : Bool := (tfind s.blocks b).isSome && (blockAt s b).ops.any fun o => o.id == id

/-- A waiting command has seen the last completion time of an operation. -/
def Waiting.less (id : Nat) (last : Bool) (w : Waiting) : Waiting := { w with ops := if last then w.ops.filter fun o => o.2 != id else w.ops }

/-- A waiting command waits for an operation. -/
def Waiting.awaits (id : Nat) (w : Waiting) : Bool := w.ops.any fun o => o.2 == id

/-- An operation's completion time reaches the block that holds it. A tail draw's is for the launch and for no fence (R85, R114). -/
def blockCompletes (s : State) (b id c : Nat) : State :=
  let tail := (blockAt s b).ops.any fun o => o.id == id && o.kind == .tail
  let t := modBlock s b fun x => { x with ops := countDown id x.ops }
  let last := !((blockAt t b).ops.any fun o => o.id == id)
  let key := (blockAt s b).launchKey
  waitersSee (launchSees (if tail then t else fencesSeeOp t b id c last) key c) (key / 2 ^ 32) c (Waiting.awaits id) (Waiting.less id last)

/-- An operation's completion time reaches the gang that holds it for members that have left their cores (R199): of each of them one
completion time (R85). -/
def gangCompletes (s : State) (g id c : Nat) : State :=
  let x := gangAt s g
  let t := gangSees (modGang s g fun y => { y with ops := countDown id y.ops }) g c
  let last := !((gangAt t g).ops.any fun o => o.id == id)
  waitersSee (launchSees t x.launchKey c) x.part c (Waiting.awaits id) (Waiting.less id last)

/-- The gangs that hold an operation of members that have left their cores. -/
def gangsHolding (s : State) (id : Nat) : List Nat := (s.gangs.filter fun p => p.2.ops.any fun o => o.id == id).map (·.1)

/-- An operation's completion time reaches its block, or its gang where the block has left its core. -/
def opCompletes (s : State) (b id c : Nat) : State :=
  if holdsOp s b id then blockCompletes s b id c
  else match gangsHolding s id with
    | [] => s
    | g :: _ => gangCompletes s g id c

/-- A completion time of a pass's deliveries reaches every member block: those on their cores, and in their gangs those that have
left them (R85, R179). -/
def deliveriesComplete (s : State) (bs : List Nat) (id c : Nat) : State :=
  let t := (nub bs).foldl (fun t b => if holdsOp t b id then blockCompletes t b id c else t) s
  (gangsHolding s id).foldl (fun u g => gangCompletes u g id c) t

/-- What a gang has stored of an NC line is seen by its loads after a resume, of which an L1 copy elsewhere knows nothing (R177, R199;
log 57). -/
def noteStored (s : State) (e : RecEntry) : State :=
  if e.cls = 1 then
    modGang s e.gang fun x => { x with seen := (offsetsOf e.data).foldl (fun t i => tset t (64 * e.line + i) s.ctl.nextId) x.seen }
  else s

/-- A record entry's completion time frees it (R164): its block's horizon and fences, its launch and stalled stores see it. Data
that was read before the entry arrived is not kept in the L1 (R177). -/
def entryCompletes (s : State) (core seq c : Nat) : State :=
  match (coreAt s core).record.find? fun e => e.seq == seq with
  | none => s
  | some e =>
    let t := staleReads (modCore s core fun k => { k with record := k.record.filter fun o => o.seq != seq }) core (· == e.line)
    let t :=
      if (tfind t.blocks e.block).isSome && (blockAt t e.block).gang == e.gang then
        fenceSees t e.block c fun w => { w with entries := w.entries.filter (· != seq) }
      else gangSees t e.gang c
    let t := launchSees (noteStored t e) (2 ^ 32 * e.part + e.launch) c
    let t := waitersSee t e.part c (fun w => w.entries.contains (core, seq)) fun w => { w with entries := w.entries.filter (· != (core, seq)) }
    wakeRecord t core

/-- A completion time reaches whom it is for. -/
def completes (s : State) (n : Notify) (c : Nat) : State :=
  match n with
  | .entry core seq => entryCompletes s core seq c
  | .op b id | .engine b id => opCompletes s b id c
  | .deliveries bs id => deliveriesComplete s bs id c
  | .host tag => modModule s fun m => { m with rma := m.rma.map fun r =>
      if r.tag == tag then { r with lines := r.lines - 1, horizon := max r.horizon c } else r }
  | .nobody => s

/-- Whom the completion time of a request would have been for. -/
def Msg.awaited : Msg → Notify
  | .drain _ core e _ => .entry core e.seq
  | .atomic _ b _ op _ _ _ => .op b op
  | .red _ n _ _ _ | .engineWrite _ _ _ _ n _ _ => n
  | .abacus _ _ (.read _ _ _) _ _ _ _ => .nobody
  | .abacus _ _ _ n _ _ _ => n
  | _ => .nobody

/-- A tail draw's value is back: its operation ends with its completion time (R85, R114). -/
def drawBack (id : Nat) (ops : List OpRef) : List OpRef :=
  (ops.map fun o => if o.id == id then { o with sourceRead := true } else o).filter fun o => !(o.id == id && o.count == 0)

/-- A tail atomic that a fenced die has refused takes no range: its draw is over, in its block or in the gang of one that left (R69,
R114). -/
def drawRefused (s : State) : Msg → State
  | .atomic _ b _ _ _ _ (some id) =>
    let t := modBlock s b fun x => { x with draws := x.draws.filter (fun d => d.id != id), ops := drawBack id x.ops }
    { t with gangs := t.gangs.map fun p => (p.1, { p.2 with draws := p.2.draws.filter (fun d => d.1 != id), ops := drawBack id p.2.ops }) }
  | _ => s

/-- The answer to a refused request (R69): the gangs that it comes from are killed, or the host's access ends in an error. What
waited for its completion time waits no more: it counts as of now (DESIGN CHOICE, log 55). -/
def refusalArrives (s : State) (id : Nat) (m : Msg) : State :=
  let die := ((requestOf s m).map (·.slice)).getD 0 / 64
  let t := (requestGangs s m).foldl (fun u g => startKill u g (some .fence) false (locDie die)) (refuseHost (takeOff s id) m)
  completes (drawRefused t m) m.awaited s.now

/-- A completion time, or a fence answer, arrives (R45, R50). -/
def ctlArrives (s : State) (id : Nat) : State :=
  match arriving s id with
  | some (.ctl n c) => completes (takeOff s id) n c
  | some (.refused m) => refusalArrives s id m
  | _ => s

/-- The transport completion of a Host-class store arrives: C is this DT plus 1 (R171). -/
def hostStoreDone (s : State) (id : Nat) : State :=
  match arriving s id with
  | some (.hostStore core e) => entryCompletes (hears (takeOff s id)) core e.seq (s.now + 1)
  | _ => s

/-! ## Replies (R174, R177, R178, R184, R342) -/

/-- A load has returned: what waited for it goes on (R178, R179). -/
def loadDone (s : State) (k id : Nat) : State :=
  let ks := k :: ((strandAt s k).loads.filter fun p => p.id == id).flatMap (·.riders)
  let t := modStrand s k fun x => { x with loads := x.loads.filter fun p => p.id != id }
  let t := ks.foldl (fun u j => modStrand u j fun x =>
    { x with fences := x.fences.map fun w => { w with loads := w.loads.filter (· != id) } }) t
  let c := coreOf k
  let t := modCore t c fun y => { y with record := y.record.map fun e => { e with loads := e.loads.filter (· != id) } }
  let t := modPart t (blockAt s (blockOf s k)).part fun p => { p with waiting := p.waiting.map fun w =>
    { w with loads := w.loads.filter (· != (k, id)) } }
  settle t c

/-- The pending load of a strand with a number. -/
def pendingOf (s : State) (k id : Nat) : Option PendingLoad := (strandAt s k).loads.find? fun p => p.id == id

/-- A reply's value, with the poison of its halves, reaches its strand's destination. -/
def giveValueP (s : State) (k id : Nat) (v : Nat) (poison : Bool × Bool) : State :=
  match pendingOf s k id with
  | none => s
  | some p => loadDone (writeDestP s k p.ty p.dest v poison) k id

/-- A reply's value reaches its strand's destination. -/
def giveValue (s : State) (k id : Nat) (v : Nat) (poison : Bool) : State := giveValueP s k id v (poison, poison)

/-- The bytes that a load takes from its reply. -/
def PendingLoad.missing (p : PendingLoad) : List Nat := (p.known.zipIdx.filter fun x => x.1.isNone).map fun x => p.pa + x.2

/-- A reply is older than what the strands of a load that waits for it have returned of a byte (R177). -/
def replyOlder (s : State) (born : Nat) (w : Nat × Nat) : Bool :=
  (pendingOf s w.1 w.2).any fun p => p.missing.any fun a => (w.1 :: p.riders).any fun k => decide (born < tget (strandAt s k).seen a 0)

/-- What a load has now of some bytes beside what it had. -/
def PendingLoad.learn (p : PendingLoad) (f : Nat → Option (Byte × Bool)) : PendingLoad :=
  { p with known := p.known.zipIdx.map fun x => x.1.orElse fun _ => f (p.pa + x.2) }

/-- A load has returned bytes of entries that are not freed: the other loads of its strands that still await these bytes have them
from there too, since their replies may have been read before the entries drained (R177). -/
def shareSent (s : State) (k : Nat) (p : PendingLoad) (f : Nat → Option (Byte × Bool)) : State :=
  if p.missing.all fun a => (f a).isNone then s
  else
    let told (j : Nat) (y : PendingLoad) : PendingLoad :=
      if (j :: y.riders).any fun i => (k :: p.riders).contains i then y.learn fun a => if p.missing.contains a then f a else none else y
    (sheafStrands s (sheafOf k)).foldl (fun t j => modStrand t j fun x => { x with loads := x.loads.map (told j) }) s

/-- A line's bytes complete a load: what the record or the L1 gave at its issue comes first (R174), then what entries hold that have
left the core since and are not freed, since a later load finds these bytes in the record (R165, R177). -/
def giveLine (bytes : List Byte) (bad : Bool) (born : Nat) (s : State) (w : Nat × Nat) : State :=
  match pendingOf s w.1 w.2 with
  | none => s
  | some p =>
    let sent (a : Nat) : Option (Byte × Bool) := sentByte (coreAt s (coreOf w.1)) a
    let vs := p.known.zipIdx.map fun x => x.1.getD ((sent (p.pa + x.2)).getD (bytes.getD (p.pa % 64 + x.2) 0, bad))
    let t := (w.1 :: p.riders).foldl (fun u k => noteSeen u k born (p.missing.filter fun a => (sent a).isNone)) (shareSent s w.1 p sent)
    giveValueP t w.1 w.2 (bytesValue vs).1 (bytesValue vs).2

/-- The set of a line in the L1's 512 sets (R383, log 15). -/
def l1Set (line : Nat) : Nat := line % 512

/-- The least recently used of some copies. -/
def leastUsed (l : List L1Line) : Option L1Line :=
  l.foldl (fun m e => match m with
    | some d => if e.used < d.used then some e else m
    | none => some e) none

/-- Room for a fill in its set of 8 ways (R383): a stream copy goes first, a keep copy to a keep fill alone (R307), and of what may
go the least recently used. None where nothing may go. -/
def roomL1 (l : List L1Line) (line hint : Nat) : Option (List L1Line) :=
  let here := l.filter fun e => l1Set e.line == l1Set line
  if here.length < 8 then some l
  else
    let free := here.filter fun e => hint == 2 || e.hint != 2
    let first := free.filter fun e => e.hint == 1
    (leastUsed (if first.isEmpty then free else first)).map fun d => l.filter fun e => e.line != d.line

/-- The L1 of a core with a line in it (R48, R383), where it has room; a lease that has ended leaves first. -/
def filledL1 (s : State) (r : ReadReq) (bytes : List Byte) (poison : Bool) (expiry : Option Nat) (mask : Option (List Nat)) : Option (List L1Line) :=
  let k := coreAt s r.core
  let live := k.l1.filter fun e => e.line != r.line && !e.expiry.any fun x => decide (x ≤ s.now)
  if r.stale || expiry.any (fun x => decide (x ≤ s.now)) || k.record.any (fun e => e.line == r.line && e.state == .sent) then none
  else (roomL1 live r.line r.hint).map fun l =>
    { line := r.line, bytes := bytes, poison := poison, expiry := expiry, mask := mask, hint := r.hint, used := k.clock + 1,
      born := r.born } :: l

/-- A line fills the L1 (R48, R171), unless its data may be older than a store of the core (R177). An armed error of UNIT 5
strikes a fill for a load of its block: the line is discarded (R353), and the answer is true. -/
def fillL1 (s : State) (r : ReadReq) (bytes : List Byte) (poison : Bool) (expiry : Option Nat) (mask : Option (List Nat)) : Bool × State :=
  match filledL1 s r bytes poison expiry mask with
  | none => (false, s)
  | some l =>
    let (hit, t) := if r.waiters.isEmpty then (none, s) else strike s r.block 5
    if hit.isSome then
      (true, logRas (modCore t r.core fun k => { k with l1 := k.l1.filter fun e => e.line != r.line }) .parity true (locCore r.core) 0 0)
    else (false, modCore t r.core fun k => { k with clock := k.clock + 1, l1 := l })

/-- n bytes of a Host-class line, which the manual gives no value (R195, log 2). -/
def hostBytes (s : State) (n : Nat) : List Byte := (List.range n).map fun i => Config.freeByte (2 ^ 60 + 64 * s.ctl.free + i)

/-- A tail draw's atomic has returned (R114, R133, R139): to its block, which records its range also where it is poisoned and kills the
gang, or to the relaunch record of a block that left; a seventeenth range of a killed gang makes its kill final (R138). -/
def drawReturns (s : State) (b id n : Nat) (poison : Bool) : State :=
  if (tfind s.blocks b).isSome && (blockAt s b).draws.any fun d => d.id == id then
    let t := modBlock s b fun x => { x with ops := drawBack id x.ops }
    match (blockAt s b).draws.find? fun d => d.id == id with
    | some w =>
      if poison then startKill (drawOver t b w n) (blockAt s b).gang (some .consumed) false (locCore (b / 4)) else goOnAll (tailReturned t b w n) w.strands
    | none => t
  else
    match s.gangs.find? fun p => p.2.draws.any fun d => d.1 == id with
    | none => s
    | some (g, x) =>
      let (index, count) := ((x.draws.find? fun d => d.1 == id).map (·.2)).getD (0, 0)
      let total := (launchAt s x.launchKey).record.tail.toNat
      let old := (x.replays.find? fun e => e.1 == index).map (·.2) |>.getD []
      let full := decide (16 ≤ old.length)
      let s := if full && x.state == .killed && !x.final then finalKill s g else s
      modGang s g fun y =>
        { y with draws := y.draws.filter (fun d => d.1 != id), ops := drawBack id y.ops, final := y.final || full,
                 replays := (y.replays.filter fun e => e.1 != index) ++ [(index, old ++ [(n, min count (total - n))])] }

/-- Ask the home again for a line, under the same number, for some of the loads that wait for it. -/
def askAgain (s : State) (id : Nat) (r : ReadReq) (ws : List (Nat × Nat)) : State :=
  putMsg s id (some (r.core / 256)) none (.read (homeSlice s r.line) { r with near := none, age := s.now, waiters := ws })

/-- A reply's data reaches its core (R174): it fills the L1 and completes the loads that wait; a line that an armed error
discarded is asked for again (R127, R353). A load whose strand has returned newer content asks the home (DEDUCED, log 57: R177).
-/
def dataArrives (s : State) (id : Nat) (r : ReadReq) (bytes : List Byte) (poison : Bool) (expiry : Option Nat) (mask : Option (List Nat)) :
    State :=
  if r.l2only then s
  else match fillL1 s r bytes poison expiry mask with
    | (true, t) =>
      putMsg t id (some (r.core / 256)) none (.read (readSlice t r.core r.line r.cls) { r with near := none, age := t.now })
    | (false, t) =>
      let old := r.waiters.filter (replyOlder t r.born)
      let u := if old.isEmpty then t else askAgain t id r old
      (r.waiters.filter fun w => !replyOlder t r.born w).foldl (giveLine bytes poison r.born) u

/-- The host answers an atomic or a red (R172, R195): the lanes of one address chain as at a home (R185, R186), from a value that
the manual does not give (log 2). -/
def hostOpDone (s : State) (b : Nat) (ops : List LaneOp) (op : Nat) (returns : Bool) : State :=
  let run := runOps (fun i => (hostBytes s 64).getD i 0) false ops
  let t := if returns then (combinePoison ops run.vals).foldl (fun u v => giveValue u v.1 op v.2.1.toNat v.2.2) s else s
  nextChoices (opCompletes t b op (s.now + 1))

/-- A line of a cpy's source reaches its copy engine (R166, R190). -/
def engineDataArrives (s : State) (core op vline : Nat) (bytes : List Byte) (poison : Bool) : State :=
  modCore s core fun k => { k with queue := k.queue.map fun c =>
    if c.op == op then { c with lines := c.lines ++ [(vline, bytes, poison)], awaited := c.awaited - 1 } else c }

/-- A reply reaches its core (R174). -/
def replyArrives (s : State) (id : Nat) : State :=
  match arriving s id with
  | some (.data none r bytes poison expiry mask) => dataArrives (takeOff s id) id r bytes poison expiry mask
  | some (.values b vals op tail) =>
    let t := takeOff s id
    match tail with
    | some draw => drawReturns t b draw ((vals.headD (0, 0, false)).2.1).toNat ((vals.headD (0, 0, false)).2.2)
    | none => vals.foldl (fun u v => giveValue u v.1 op v.2.1.toNat v.2.2) t
  | some (.element k v _ flags poison op) =>
    let t := takeOff s id
    if (pendingOf t k op).isSome then setFlags (giveValue t k op v.toNat poison) k flags else t
  | some (.engineData core op vline bytes poison) => engineDataArrives (takeOff s id) core op vline bytes poison
  | some (.hostLoad _ r) => hears (nextChoices (r.waiters.foldl (giveLine (hostBytes s 64) false 0) (takeOff s id)))
  | some (.hostOp b ops op returns) => hears (hostOpDone (takeOff s id) b ops op returns)
  | _ => s

/-! ## Exchange stores (R158, R312) -/

/-- Exchange stores land in the member's shadow bank (R158); one to a member that is gone is dropped (R136). -/
def xstLands (s : State) (id : Nat) : State :=
  match arriving s id with
  | some (.xst g rank writes _) =>
    let t := takeOff s id
    match (gangBlocks s g).find? fun b => (blockAt s b).grank == rank with
    | none => t
    | some b =>
      let x := blockAt s b
      let base := x.padBytes - 2 * x.xBytes + (1 - x.bank) * x.xBytes
      writes.foldl (fun u w => putPad u b (base + w.1) w.2.1 w.2.2) t
  | _ => s

/-! ## Queues, retries, remaps, parity (R42, R55, R56, R66, R69) -/

/-- The queued request of a line that is served next (R55): the smallest age, then agent. -/
def nextQueued (s : State) (line : Nat) : Option Nat :=
  ((homeAt s line).queue.filterMap fun id => ((tfind s.net id).bind (requestOf s)).map fun r => (id, (r.age, r.agent))).foldl
    (fun (m : Option (Nat × (Nat × Nat))) x => match m with
      | some y => if older x.2 y.2 then some x else m
      | none => some x) none |>.map (·.1)

/-- The home serves the next queued request once the line is free (R55). -/
def serveQueued (s : State) (line hit : Nat) : State × List MemEffect :=
  let q := homeSlice s line
  if (homeAt s line).txn.isSome || 64 ≤ transactions s q then (s, [])
  else match nextQueued s line with
    | none => (s, [])
    | some id =>
      let t := modHome s line fun h => { h with queue := h.queue.filter (· != id) }
      let t := modQuad t q fun x => freeQueue x s.now
      match tfind s.net id with
      | some m => serve hit id m t
      | none => (t, [])

/-- 16 mesh cycles after a RETRY the request is sent again (R56): 8 ticks. -/
def resend (s : State) (id : Nat) : State :=
  match arriving s id with
  | some (.retry m since) =>
    if since + 8 ≤ s.now then
      putMsg s id none (portOf s id) (match requestOf s m with | some r => readdress (homeSlice s r.line) m | none => m)
    else s
  | _ => s

/-- A remap answer is followed (R66). -/
def followRemap (s : State) (id : Nat) : State :=
  match arriving s id with
  | some (.remap m _) =>
    putMsg s id none (portOf s id) (match requestOf s m with | some r => readdress (homeSlice s r.line) m | none => m)
  | _ => s

/-- Reserved queue entries are released after 64 mesh cycles (R56): 32 ticks. -/
def releaseReserved (s : State) (q : Nat) : State :=
  modQuad s q fun x => { x with reserved := x.reserved.filter fun e => decide (s.now < e.2.2 + 32) }

/-- The key of a byte of a row's parity; byte 64 is the parity of the poison bits. -/
def parityKey (stack row i : Nat) : Nat := (stack * 2 ^ 31 + row) * 128 + i

/-- Apply a delta to a row's parity, but on a fenced die's stacks (R42, R69). -/
def applyDelta (s : State) (line : Nat) (delta : List Byte) : State :=
  let (row, _, stack) := placeOf line
  if (dieAt s (stack / 2)).fenced then s
  else { s with parity := delta.zipIdx.foldl (fun m p =>
    memWrite m (parityKey stack row p.2) (memRead m (parityKey stack row p.2) ^^^ p.1)) s.parity }

/-- A parity delta reaches its controller (R42); hit 1 is a correctable error of the parity line (R41). -/
def deltaArrives (s : State) (id hit : Nat) : State :=
  match arriving s id with
  | some (.parity line delta) =>
    let t := applyDelta (takeOff s id) line delta
    if hit = 1 then logRas t .hbmLine false (locTract (placeOf line).2.2) (BitVec.ofNat 64 line) 0 else t
  | _ => s

/-! ## The meanings -/

/-- A read reaches a granting slice (R48), or a read of a copy engine or of the host its home (R75, R190). The focus: the message;
then an injected error (see strikeHome). -/
def execLeaseGrant (s : State) : Host.Outcome State Fault Refusal := .next (quiet s (readArrives s (s.arg 0) (s.arg 1)))

/-- Data reaches a near slice (R52). The focus: the message. -/
def execNearCopyInstall (s : State) : Host.Outcome State Fault Refusal := .next (quiet s (nearInstall s (s.arg 0)))

/-- A lease expires (R48). The focus: core, line. -/
def execLeaseExpiry (s : State) : Host.Outcome State Fault Refusal := .next (quiet s (expireLease s (s.arg 0) (s.arg 1)))

/-- The step of a message that some test accepts, at its home. -/
def homeStep (s : State) (accepts : Msg → Bool) : Host.Outcome State Fault Refusal :=
  .next (commit s (match arriving s (s.arg 0) with
    | some m => if accepts m then arriveMsg s (s.arg 1) (s.arg 0) m else (s, [])
    | none => (s, [])))

/-- A drained entry reaches its home (R50), or a host write resent after a retry. The focus: the message; an injected error. -/
def execDrainArrival (s : State) : Host.Outcome State Fault Refusal :=
  homeStep s fun m => match m with | .drain _ _ _ _ | .rmaWrite _ _ _ _ _ => true | _ => false

/-- An invalidation reaches a slice (R53), or a redirect's install or removal a quad (R60, R61). The focus: the message. -/
def execSnpInvalidation (s : State) : Host.Outcome State Fault Refusal := .next (quiet s (invalArrives s (s.arg 0)))

/-- A recall reaches a helper (R62). The focus: the message. -/
def execLoanRecall (s : State) : Host.Outcome State Fault Refusal := .next (quiet s (recallArrives s (s.arg 0)))

/-- An acknowledgement reaches the home (R50). The focus: the message. -/
def execAckArrival (s : State) : Host.Outcome State Fault Refusal := .next (quiet s (ackArrives s (s.arg 0)))

/-- A loan return reaches the home (R61). The focus: the message. -/
def execLoanReturn (s : State) : Host.Outcome State Fault Refusal := .next (quiet s (loanReturnArrives s (s.arg 0)))

/-- A loan push reaches a helper (R60). The focus: the message. -/
def execLoanInstall (s : State) : Host.Outcome State Fault Refusal := .next (quiet s (loanArrives s (s.arg 0)))

/-- A completion time, or a fence answer, reaches its core (R45, R50, R164). The focus: the message. -/
def execCompletionTimeArrival (s : State) : Host.Outcome State Fault Refusal := .next (quiet s (ctlArrives s (s.arg 0)))

/-- A queued request is served (R55). The focus: line; then an injected error. -/
def execQueuedRequestServe (s : State) : Host.Outcome State Fault Refusal := .next (commit s (serveQueued s (s.arg 0) (s.arg 1)))

/-- A request is resent after a RETRY (R56). The focus: the message. -/
def execRetryResend (s : State) : Host.Outcome State Fault Refusal := .next (quiet s (resend s (s.arg 0)))

/-- Reserved queue entries are released (R56). The focus: quad. -/
def execReservedQueueEntryTimeout (s : State) : Host.Outcome State Fault Refusal := .next (quiet s (releaseReserved s (s.arg 0)))

/-- A parity delta reaches its controller (R42). The focus: the message; an injected error. -/
def execParityDelta (s : State) : Host.Outcome State Fault Refusal := .next (quiet s (deltaArrives s (s.arg 0) (s.arg 1)))

/-- A requester follows a remap (R66). The focus: the message. -/
def execRemapResend (s : State) : Host.Outcome State Fault Refusal := .next (quiet s (followRemap s (s.arg 0)))

/-- An atomic reaches its home (R184). The focus: the message; an injected error. -/
def execAtomicAtHome (s : State) : Host.Outcome State Fault Refusal :=
  homeStep s fun m => match m with | .atomic _ _ _ _ _ _ _ | .portAtomic _ _ _ _ _ _ _ _ => true | _ => false

/-- A reduction reaches its home (R189). The focus: the message; an injected error. -/
def execReductionAtHome (s : State) : Host.Outcome State Fault Refusal :=
  homeStep s fun m => match m with | .red _ _ _ _ _ => true | _ => false

/-- A line that cpo writes reaches its home (R190). The focus: the message; an injected error. -/
def execEngineWriteAtHome (s : State) : Host.Outcome State Fault Refusal :=
  homeStep s fun m => match m with | .engineWrite _ _ _ _ _ _ _ => true | _ => false

/-- Exchange stores land (R158). The focus: the message. -/
def execXstLanding (s : State) : Host.Outcome State Fault Refusal := .next (quiet s (xstLands s (s.arg 0)))

/-- A reply reaches its core (R174). The focus: the message. -/
def execLoadReply (s : State) : Host.Outcome State Fault Refusal := .next (quiet s (replyArrives s (s.arg 0)))

/-- A Host-class store's transport completion arrives (R171). The focus: the message. -/
def execHostStoreTransportCompletion (s : State) : Host.Outcome State Fault Refusal := .next (quiet s (hostStoreDone s (s.arg 0)))

end Sys2Proof.Machine
end

