-- ==== Sys2Proof/Machine/Issue.lean ====
section
/-! DEFINITION. The issue stage (R144 to R150), the drains of the store record (R164), register grants (R154), releases of
barriers (R270, R275, R276), and the steps that write special registers or strike control state. -/

namespace Sys2Proof.Machine

/-! ## Keys (R145, R146) -/

/-- Depth and pc by which a strand is chosen; a Parked strand counts at depth 0 (R115). -/
def issueKey (s : State) (k : Nat) : Nat × Nat :=
  let x := strandAt s k
  (if x.cond == .parked then 0 else x.depth.toNat, x.pc.toNat)

/-- The smaller key: the deeper, then the lower pc (R145). -/
def keyLess (x y : Nat × Nat) : Bool := y.1 < x.1 || (x.1 == y.1 && x.2 < y.2)

/-- The lift's order: the higher pc, then the deeper (R146). -/
def liftLess (x y : Nat × Nat) : Bool := y.2 < x.2 || (x.2 == y.2 && y.1 < x.1)

/-- The first of some keys in an order. -/
def bestKey (less : Nat × Nat → Nat × Nat → Bool) (l : List (Nat × Nat)) : Option (Nat × Nat) :=
  l.foldl (fun m x => match m with
    | some y => if less x y then some x else m
    | none => some x) none

/-- Strands that held bundles of a block have reserved (R148). -/
def reservedStrands (s : State) (b : Nat) : List Nat :=
  (blockSheaves s b).flatMap fun f => match (sheafAt s f).held with
    | some h => h.strands
    | none => []

/-- Insert a strand in ascending home lane, unless its lane is taken. -/
def insertLane (s : State) (k : Nat) : List Nat → List Nat
  | [] => [k]
  | j :: js =>
    if (strandAt s k).lane < (strandAt s j).lane then k :: j :: js
    else if (strandAt s k).lane = (strandAt s j).lane then j :: js
    else j :: insertLane s k js

/-- Some strands in ascending home lane, no lane twice (R10, R147). -/
def byLane (s : State) (ks : List Nat) : List Nat := ks.foldr (insertLane s) []

/-- Add the ready strands of another sheaf at the key, on lanes still free (R147). -/
def regroup (s : State) (taken : List Nat) (key : Nat × Nat) (strands : List Nat) (f : Nat) : List Nat :=
  (sheafStrands s f).foldl (fun l k =>
    if isReady s k && !taken.contains k && issueKey s k == key && !(l.any fun j => (strandAt s j).lane == (strandAt s k).lane) then
      l ++ [k]
    else l) strands

/-- The bundle of a leader sheaf (R145 to R147), where it has a ready strand that no held bundle has reserved. -/
def formBundle (s : State) (f : Nat) : Option Bundle :=
  let b := (sheafAt s f).block
  let taken := reservedStrands s b
  let ready := (sheafStrands s f).filter fun k => isReady s k && !taken.contains k
  let lifted := (sheafAt s f).backedge == 64
  (bestKey (if lifted then liftLess else keyLess) (ready.map (issueKey s))).map fun key =>
    let own := ready.filter fun k => issueKey s k == key
    let all := ((blockSheaves s b).filter (· != f)).foldl (regroup s taken key) own
    { core := f / 64, block := b, pc := BitVec.ofNat 64 key.2, strands := byLane s all, lifted := lifted }

/-! ## When a bundle can issue (R148, R179 to R184, R315) -/

/-- Vector registers of a strand that loads on their way will write. -/
def vPending (s : State) (k : Nat) : List Nat :=
  (strandAt s k).loads.flatMap fun p => match p.dest with
    | .v n => if tyWidth p.ty = 64 then [n, n + 1] else [n]
    | _ => []

/-- Uniform registers of a sheaf that loads on their way will write. -/
def wPending (s : State) (f : Nat) : List Nat :=
  (sheafStrands s f).flatMap fun k => (strandAt s k).loads.filterMap fun p => match p.dest with
    | .w n => some n
    | _ => none

/-- A register that the instruction names in a strand waits for a load. -/
def operandPending (stem : Stem) (x : Three) (s : State) (k : Nat) : Bool :=
  positions.any fun p => match x.at p with
    | .w i => (wPending s (sheafOf k)).contains i.toNat
    | o => (vNames s k (regWidth stem x p) o).any fun n => (vPending s k).contains n

/-- A strand has a load on its way. -/
def loading (s : State) (k : Nat) : Bool := !(loadsOf s k).isEmpty

/-- Instructions that read or write memory or enter a copy or matrix engine (R315), or order as a scratchpad store does (tmark,
R326). -/
def accessesMemory : Stem → Bool
  | .ld | .st | .pref | .xst | .rinv | .fence | .atom | .cas | .red | .cpy | .cpo | .cpr | .mma | .acco | .accc | .accr | .acca
  | .accz | .tmark => true
  | _ => false

/-- The scope of the fence that leads an instruction in a strand (R183, R184, R342), where one does. -/
def leadScope (stem : Stem) (x : Three) (s : State) (k : Nat) : Option Nat :=
  match stem with
  | .atom | .cas => some (scopeOf x s stem k)
  | .st => if x.ord = 2 then some (fenceScope x.sc) else none
  | .accc => some 3
  | _ => none

/-- Issue the leading fence of an instruction, once (R184). -/
def startLead (stem : Stem) (x : Three) (pc : DWord) (s : State) (k : Nat) : State :=
  match leadScope stem x s k with
  | none => s
  | some sc =>
    if (strandAt s k).led == some pc then s
    else modStrand (startFence s k sc) k fun y => { y with led := some pc }

/-- A fill of a return entry comes behind a load of the strand of the same bytes (R177). -/
def fillBehind (s : State) (k : Nat) : Bool :=
  match fillPlan s k with
  | .store pa _ => loadsBehind s k pa 16
  | _ => false

/-- A load of a strand finds in the record what an earlier load of the strand may be behind (R177). -/
def loadPasses (x : Three) (s : State) (k : Nat) : Bool :=
  match globalPlace .ld x s k with
  | some (pa, _) => recordPasses s k pa (accessBytes x.ty)
  | none => false

/-! ### Reads that wait for a link (R21) -/

/-- The addresses that an instruction of a strand translates before its effect. -/
def walkVas (stem : Stem) (x : Three) (s : State) (k : Nat) : List Nat :=
  match stem with
  | .ld | .st | .pref | .atom | .cas | .red | .acca | .accz | .accr | .accc => match (memTarget stem x s k).1 with
    | .global va => [va]
    | _ => []
  | .acco => accoPages (accoArgs x s k).1 (min (2 ^ 22) (accoArgs x s k).2.1)
  | .mma => [(valueAt .mma x s k .b).1]
  | .rinv =>
    let (start, len, _) := rinvRange x s k
    if len ≤ 0 || len > 262144 then [] else (rinvPages start len.toNat).map (·.1)
  | .rfl => if tailEnabled (strandLaunch s k).record then [(strandLaunch s k).record.tailCtr.toNat] else []
  | _ => []

/-- The lines, by an address in each, that an instruction of a strand reads in its own step: the entry that a ret fills, the frame
that a tret reloads (log 36). -/
def readVas (stem : Stem) (s : State) (k : Nat) : List Nat :=
  match stem with
  | .ret => if (strandAt s k).stack.isEmpty then [((strandAt s k).csp - 16).toNat] else []
  | .tret =>
    let lines (va n : Nat) : List Nat := (List.range (n / 64 + 1)).map fun i => va + 64 * i
    lines (strandRecordVa s k) 192 ++ lines (rowVa s k) 8 ++ lines (sheafRecordVa s k) 0x7C0 ++
      lines (saveVa (strandLaunch s k) (indexOf s k)) 0xFC0
  | _ => []

/-- What an instruction of a strand reads without a message waits for a link that is Down: a walk, a fill or a frame. -/
def readsHeld (stem : Stem) (x : Three) (s : State) (k : Nat) : Bool :=
  anyDown s && ((walkVas stem x s k).any (walkHeld s (coreOf k / 256) (.strands (coreOf k)) (strandLaunch s k)) ||
    (readVas stem s k).any (readHeld s (coreOf k / 256) (.strands (coreOf k)) (strandLaunch s k)))

/-- The fetch of a bundle's unit waits for a link: the walk for its pc, or a line that the core's instruction cache does not hold.
-/
def fetchHeld (s : State) (b : Bundle) : Bool :=
  let l := launchOf s (blockAt s b.block)
  let n := (fetchUnit s b.core l b.pc.toNat).2.length
  anyDown s && (walkHeld s (b.core / 256) (.strands b.core) l b.pc.toNat || walkHeld s (b.core / 256) (.strands b.core) l (b.pc.toNat + n - 1) ||
    (codeLines s b.core l b.pc.toNat n).any fun i =>
      !((coreAt s b.core).icache.any fun e => e.line == i) && lineHeld s (b.core / 256) i)

/-- What one participant must wait for before its instruction issues. -/
def strandHolds (stem : Stem) (x : Three) (s : State) (k : Nat) : Bool :=
  operandPending stem x s k || readsHeld stem x s k ||
    match stem with
    | .bar | .gbar | .waitm | .pdone | .tret => fenced s k || loading s k
    | .itend | .exit => loading s k
    | .ld => fenced s k || loadPasses x s k
    | .rinv => fenced s k || loading s k
    | .csrr | .csrw | .csrs | .csrc => loading s k && (specialIndex x.a == 0x014 || specialIndex x.d == 0x014)
    | .shwr => loading s k
    | .regf | .shmap | .shunm => (sheafStrands s (sheafOf k)).any (loading s)
    | .call | .callx => spillWaits s k
    | .ret => (fenced s k || fillBehind s k) && (strandAt s k).stack.isEmpty
    | .waitc => decide (waitcCount x.a < (sheafAt s (sheafOf k)).copies)
    | _ => accessesMemory stem && fenced s k

/-- Whether a bundle can issue now, and the machine with its leading fences issued. A bundle whose fetch or decoding fails
issues its trap or its stall. -/
def canIssue (s : State) (b : Bundle) : Bool × State :=
  if fetchHeld s b then (false, s) else match peek s b with
  | none => (true, s)
  | some (stem, code) =>
    let x := code.norm stem
    let ps := participants s b x.g
    if ps.any fun k => operandPending stem x s k || (accessesMemory stem && (strandAt s k).led != some b.pc && fenced s k) then (false, s)
    else
      let t := ps.foldl (startLead stem x b.pc) s
      (!ps.any (strandHolds stem x t), t)

/-- A held bundle's strands can all issue: none has begun to wait, and no sheaf of theirs has a request pending (R154). -/
def heldReady (s : State) (b : Bundle) : Bool :=
  blockIssues s b.block && b.strands.all fun k => (sheafAt s (sheafOf k)).regx.isNone && match (strandAt s k).cond with
    | .running | .deferred | .parked => true
    | _ => false

/-! ## Barriers (R270, R275, R276, R182) -/

/-- A waiter leaves its barrier past the instruction it waited in. -/
def releaseWaiter (s : State) (k : Nat) : State := wake (advance s (strandAt s k).waitLen k) k

/-- The strands of a list that wait at a barrier. -/
def waitersAt (s : State) (w : Wait) (ks : List Nat) : List Nat := ks.filter fun k => (strandAt s k).cond == .waiting w

/-- Every strand waits at a barrier or is at rest, and the waiters' loads have returned. -/
def allArrived (s : State) (w : Wait) (ks : List Nat) : Bool :=
  ks.all fun k => ((strandAt s k).cond == .waiting w && !loading s k) || atRest s k

/-- The frame of a block is being written (R357): no barrier of it completes from then on (R278). -/
def saving (s : State) (b : Nat) : Bool := (blockAt s b).stopped && decide (0 < (blockAt s b).framed)

/-- The bar of a block is due (R275). -/
def barDue (s : State) (b : Nat) : Bool := !saving s b && allArrived s .bar (blockStrands s b)

/-- Release the bar waiters of a block (R275). -/
def releaseBar (s : State) (b : Nat) : State :=
  if barDue s b then (waitersAt s .bar (blockStrands s b)).foldl releaseWaiter s else s

/-- The waitm of a sheaf on a mask register is due (R270). -/
def waitmDue (s : State) (f m : Nat) : Bool :=
  !saving s (sheafAt s f).block &&
    allArrived s (.waitm m) ((sheafStrands s f).filter fun k => (readM s f m).getLsbD (k % 64)) &&
    !(waitersAt s (.waitm m) (sheafStrands s f)).any (loading s)

/-- Release the waiters of a sheaf on a mask register (R270). -/
def releaseWaitm (s : State) (f m : Nat) : State :=
  if waitmDue s f m then (waitersAt s (.waitm m) (sheafStrands s f)).foldl releaseWaiter s else s

/-- A bar or waitm of a block is due and has waiters: its release comes before the frame (R278). -/
def releaseDue (s : State) (b : Nat) : Bool :=
  (barDue s b && !(waitersAt s .bar (blockStrands s b)).isEmpty) || (blockSheaves s b).any fun f =>
    (List.range 12).any fun m => waitmDue s f m && !(waitersAt s (.waitm m) (sheafStrands s f)).isEmpty

/-- An exchange store of a gang is on its way. -/
def xstFlying (s : State) (g : Nat) : Bool := s.net.any fun p => match p.2 with
  | .xst h _ _ _ => h == g
  | _ => false

/-- A gang's gbar can complete (R276): every member has arrived or retired, every exchange store has landed. -/
def gbarReady (s : State) (g : Nat) : Bool :=
  let x := gangAt s g
  let bs := gangBlocks s g
  let live := match x.state with | .placed | .stopping _ => true | _ => false
  live && bs.length + x.retiredMembers.length == x.size && !xstFlying s g &&
    (bs.all fun b => (blockAt s b).ready && !saving s b && allArrived s .gbar (blockStrands s b)) &&
    bs.any fun b => !(waitersAt s .gbar (blockStrands s b)).isEmpty

/-- gbar completes (R276, R158): the banks of every live member swap, and every waiter is released. -/
def completeGbar (s : State) (g : Nat) : State :=
  if !gbarReady s g then s
  else
    let bs := gangBlocks s g
    let t := bs.foldl (fun u b => modBlock u b fun y => { y with bank := if y.xBytes = 0 then y.bank else 1 - y.bank }) s
    bs.foldl (fun u b => (waitersAt u .gbar (blockStrands u b)).foldl releaseWaiter u) t

/-- A release of a block is due: its bar, a waitm of its sheaves, or its gang's gbar. It comes at the first moment, before the block
issues again, so that nothing the block does undoes it (R270, R275, R276). -/
def mustRelease (s : State) (b : Nat) : Bool :=
  ((blockSheaves s b).any (barrierWait s) && releaseDue s b) || gbarReady s (blockAt s b).gang

/-! ## The cycle (R144) -/

/-- A strand stands in a bundle: a strand of a sheaf of its block, on its core, at its pc, Running or Parked (R143, R147). -/
def standsIn (s : State) (b : Bundle) (k : Nat) : Bool :=
  (tfind s.strands k).isSome && (tfind s.sheaves (sheafOf k)).isSome && decide (k % 64 < (sheafAt s (sheafOf k)).width) &&
    blockOf s k == b.block && b.block / 4 == b.core && coreOf k == b.core && (strandAt s k).pc == b.pc &&
    ((strandAt s k).cond == .running || (strandAt s k).cond == .parked)

/-- A bundle holds only strands that stand in it, in ascending home lane, no lane twice (R10, R147). -/
def soundBundle (s : State) (b : Bundle) : Bundle := { b with strands := byLane s (b.strands.filter (standsIn s b)) }

/-- Sheaves of a bundle that have a ready strand outside it and above its pc (R146). -/
def aboveOf (s : State) (b : Bundle) : List Nat :=
  (nub (b.strands.map sheafOf)).filter fun f => (sheafStrands s f).any fun k =>
    !b.strands.contains k && isReady s k && decide (b.pc < (strandAt s k).pc)

/-- Deferral ends for a bundle's own Deferred strands, and for those of its sheaves that it leaves out (R143). -/
def endDeferral (s : State) (b : Bundle) : State :=
  (nub (b.strands.map sheafOf)).foldl (fun t f => wakeDeferred t (sheafStrands t f)) s
where
  /-- Deferred strands are Running. -/
  wakeDeferred (t : State) (ks : List Nat) : State :=
    ks.foldl (fun u k => if (strandAt u k).cond == .deferred then setCond u k .running else u) t

/-- A bundle of a leader issues (R144, R146): the next step executes it. The core's TLB keeps the translation of its pc, and its
instruction cache the lines of its unit. -/
def issueBundle (s : State) (f : Nat) (b : Bundle) : State :=
  let above := aboveOf s b
  let l := launchOf s (blockAt s b.block)
  let t := fetchedCode (fillTlb (endDeferral s b) b.core l b.pc.toNat) b.core l b.pc.toNat
  let t := b.strands.foldl (fun u k => modStrand u k fun x =>
    { x with led := none, fences := x.fences.filter fun w => !fenceDone s b.core w }) t
  let t := modSheaf t f fun y => { y with held := none, backedge := if b.lifted then 0 else y.backedge }
  let t := modCore t (f / 64) fun c => { c with rot := f % 64 }
  { t with ctl := { t.ctl with bundle := some { b with above := above } } }

/-- What a sheaf would issue: its held bundle, or the one formed now; none while a release of its block is due. -/
def candidate (s : State) (f : Nat) : Option Bundle :=
  if mustRelease s (sheafAt s f).block then none else match (sheafAt s f).held with
  | some b => if heldReady s b then some b else none
  | none => formBundle s f

/-- Examine the slots of a core in order (R144): the first sheaf whose bundle can issue leads; a bundle that cannot is
held. -/
def examine (c : Nat) : List Nat → State → State
  | [], s => s
  | slot :: rest, s =>
    let f := 64 * c + slot
    match candidate s f with
    | none => examine c rest s
    | some b =>
      match canIssue s b with
      | (true, t) => issueBundle t f b
      | (false, t) => examine c rest (modSheaf t f fun y => { y with held := some b })

/-- The occupied slots of a core in the order of examination. -/
def slotOrder (s : State) (c : Nat) : List Nat :=
  let rot := (coreAt s c).rot
  ((List.range 64).map fun i => (rot + 1 + i) % 64).filter fun slot => (tfind s.sheaves (64 * c + slot)).isSome

/-- A quad's cycle passes (R30); the clock has yet to reach its end. -/
def Quad.next (x : Quad) : Quad := { x with cycle := (x.cycle + 1) % 64, acted := [], ahead := x.ahead + 1 }

/-- A cycle that a quad holds: it passes, and counts as withheld where it falls outside the allowance (R30, R32). -/
def Quad.hold (x : Quad) : Quad :=
  if x.allows then x.next else { x.next with withheld := x.withheld + 1, wcyc := x.wcyc + 1 }

/-- The cycle of a quad of the machine passes. -/
def passCycle (s : State) (q : Nat) : State := modQuad s q Quad.next

/-- A core's issue stage comes to a cycle that it has not had: where it has had this one, the quad's next (R30). -/
def enterCycle (s : State) (c : Nat) : State := if (quadAt s (c / 4)).acted.contains c then passCycle s (c / 4) else s

/-- A core's issue stage has had the quad's cycle, which passes once all four have. -/
def spendCycle (s : State) (c : Nat) : State :=
  let t := modQuad s (c / 4) fun x => { x with acted := x.acted ++ [c] }
  if 4 ≤ (quadAt t (c / 4)).acted.length then passCycle t (c / 4) else t

/-- A two-bit error at a core: logged, and what it strikes poisoned (R129). -/
def uncorrected (s : State) (c : Nat) (own : Bool) (f : State → State) : State :=
  if own then f (logRas s .uncorrected false (locCore c) 0 0) else s

/-- An error of the core's arrays. Of clean structures (R127): 1 a TLB entry, 9 one of the copy engine's TLB, 10 one of the quad's
matrix engine's, by their places, 2 the L1 copy of a line, 3 the instruction cache's; the entry is discarded. Of SECDED structures
(R129): 4 one bit, corrected; two bits of 5 a strand's register, 6 a uniform register of a sheaf, 7 a granule of a block's
scratchpad, 8 a granule of a record entry's data, which is poisoned. -/
def arrayHit (s : State) (c hit line n : Nat) : State :=
  match hit with
  | 1 => logRas (modCore s c fun k => { k with tlb := k.tlb.eraseIdx line }) .parity false (locCore c) 0 0
  | 2 => logRas (modCore s c fun k => { k with l1 := k.l1.filter fun e => e.line != line }) .parity false (locCore c) 0 0
  | 3 => logRas (modCore s c fun k => { k with icache := k.icache.filter fun e => e.line != line }) .parity false (locCore c) 0 0
  | 9 => logRas (modCore s c fun k => { k with engineTlb := k.engineTlb.eraseIdx line }) .parity false (locCore c) 0 0
  | 10 => logRas (modQuad s (c / 4) fun k => { k with tlb := k.tlb.eraseIdx line }) .parity false (locQuad (c / 4)) 0 0
  | 4 => logRas s .corrected false (locCore c) 0 0
  | 5 => uncorrected s c (coreOf line == c && decide (n < (sheafAt s (sheafOf line)).alloc) && (tfind s.strands line).isSome) fun t =>
      modStrand t line fun x => { x with vPoison := sinsert n x.vPoison }
  | 6 => uncorrected s c (line / 64 == c && decide (n < 64) && (tfind s.sheaves line).isSome) fun t =>
      modSheaf t line fun x => { x with wPoison := sinsert n x.wPoison }
  | 7 => uncorrected s c (line / 4 == c && decide (8 * n < (blockAt s line).padBytes)) fun t =>
      modBlock t line fun x => { x with padPoison := sinsert n x.padPoison }
  | 8 => uncorrected s c (decide (n < 8) && (coreAt s c).record.any fun e => e.seq == line) fun t =>
      modCore t c fun k => { k with record := k.record.map fun e => if e.seq == line then { e with poison := sinsert n e.poison } else e }
  | _ => s

/-- What an issue cycle leaves: memory as it was, and at the issue stage only strands that stand at the bundle's pc. -/
def atIssue (s t : State) : State :=
  { t with mem := s.mem, badLines := s.badLines, ctl := { t.ctl with bundle := t.ctl.bundle.map (soundBundle t) } }

/-- One issue cycle of a core, within its quad's allowance (R30); trap entries that had stalled complete first (R356). -/
def issueCore (s : State) (c hit line n : Nat) : State :=
  if s.ctl.bundle.isSome then s
  else
    let t := enterCycle s c
    if !allowed t (c / 4) then t
    else
      let t := completeTraps (spendCycle (arrayHit t c hit line n) c) c
      examine c (slotOrder t c) t

/-! ## The store record's drains (R51, R164) -/

/-- An entry has been open for 100 ticks (R164). -/
def drainAged (s : State) (c seq : Nat) : State :=
  if (coreAt s c).record.any fun e => e.seq == seq && e.state == .opened && decide (e.alloc + Config.drainTicks ≤ s.now) then
    drainUpTo s c seq
  else s

/-- The core's own L1 copy of a line takes a drained entry's bytes (R51). -/
def updateL1 (s : State) (c : Nat) (e : RecEntry) : State :=
  modCore s c fun k => { k with l1 := k.l1.map fun y =>
    if y.line == e.line then
      { y with bytes := y.bytes.zipIdx.map (fun p => (tfind e.data p.2).getD p.1), poison := (y.poison && e.data.length < 64) || !e.poison.isEmpty }
    else y }

/-- The next draining entry leaves the core, in sequence order, while fewer than 8 are in flight (R164). -/
def sendDrain (s : State) (c : Nat) : State :=
  let k := coreAt s c
  if Config.inFlight ≤ k.record.countP fun e => e.state == .sent then s
  else match k.record.find? fun e => e.state == .draining with
    | none => s
    | some e =>
      let e' : RecEntry := { e with state := .sent }
      let t := modCore s c fun y => { y with record := y.record.map fun o => if o.seq == e.seq then e' else o }
      if e.cls = 4 then postHost t (.hostStore c e')
      else post (staleReads (updateL1 t c e) c (· == e.line)) (.drain (homeSlice t e.line) c e' t.now)

/-! ## Register grants (R154, R346) -/

/-- A sheaf's request is answered: the allocation grows where it is granted, and its waiters go on. -/
def answerRegx (s : State) (f : Nat) (ok : Bool) : State :=
  match (sheafAt s f).regx with
  | none => s
  | some r =>
    let t := modSheaf s f fun y => { y with regx := none, alloc := if ok then y.alloc + 32 * r.granules else y.alloc }
    let t := modCore t (f / 64) fun c => { c with regxQueue := c.regxQueue.filter (· != f) }
    let t := r.strands.foldl (fun u k => advance (writeP u k r.pred ok) r.len k) t
    (sheafStrands t f).foldl (fun u k => match (strandAt u k).cond with
      | .waiting (.regx true) => setCond u k .deferred
      | .waiting (.regx false) => setCond u k .running
      | _ => u) t

/-- The lanes of a sheaf have room for more granules. -/
def regxFits (s : State) (f n : Nat) : Bool :=
  let x := sheafAt s f
  let seats := coreSeats s (f / 64)
  (sheafStrands s f).all fun k => laneUsed seats (x.offset + k % 64) + 32 * n ≤ Config.lanePool

/-- Sheaves of a core with a strand that is not Done. -/
def liveSheaves (s : State) (c : Nat) : List Nat :=
  (coreSheaves s c).filter fun f => (sheafStrands s f).any fun k => (strandAt s k).cond != .done

/-- The youngest of some sheaves: the last placed, then the highest `%sheaf` (R154). -/
def youngest (s : State) (fs : List Nat) : Option Nat :=
  fs.foldl (fun m f => match m with
    | some g =>
      let x := sheafAt s f
      let y := sheafAt s g
      if y.placed < x.placed || (y.placed == x.placed && y.idx ≤ x.idx) then some f else m
    | none => some f) none

/-- The core's oldest request is granted if its lanes have room; where every live sheaf waits on a request, the youngest
one's fails (R154). -/
def grantRegx (s : State) (c : Nat) : State :=
  match (coreAt s c).regxQueue with
  | [] => s
  | f :: _ =>
    match (sheafAt s f).regx with
    | none => modCore s c fun k => { k with regxQueue := k.regxQueue.drop 1 }
    | some r =>
      if regxFits s f r.granules then answerRegx s f true
      else
        let live := liveSheaves s c
        if live.all fun g => (sheafAt s g).regx.isSome then
          match youngest s live with
          | some g => answerRegx s g false
          | none => s
        else s

/-! ## Control state struck by a parity error (R130) -/

/-- A parity error in control or placement state kills the owning gang; in a record entry's address, that entry's gang, also where its
members have all retired (DEDUCED, log 62), and the entry is discarded. -/
def controlError (s : State) (c slot : Nat) (entry : Option Nat) : State :=
  match entry with
  | none =>
    match tfind s.blocks (4 * c + slot) with
    | some b => startKill s b.gang (some .control) false (locCore c)
    | none => s
  | some seq =>
    match (coreAt s c).record.find? fun e => e.seq == seq with
    | some e =>
      let t := if (gangAt s e.gang).state == .retired then killNow s e.gang (some .control) false (locCore c)
        else startKill s e.gang (some .control) false (locCore c)
      wakeRecord (settle (modCore t c fun k =>
        { k with record := k.record.filter fun o => o.seq != seq || o.state == .sent }) c) c
    | none => s

/-! ## The meanings -/

/-- One issue cycle of a core (R144). The focus: core; then an error of its arrays (0 none, see arrayHit) and what it strikes. -/
def execIssueCycle (s : State) : Host.Outcome State Fault Refusal :=
  .next (atIssue s (issueCore s (s.arg 0) (s.arg 1) (s.arg 2) (s.arg 3)))

/-- An entry has been open for 100 ticks (R164). The focus: core, seq. -/
def execRecordDrainTimer (s : State) : Host.Outcome State Fault Refusal := .next (quiet s (drainAged s (s.arg 0) (s.arg 1)))

/-- A draining entry leaves the core (R164). The focus: core. -/
def execDrainSend (s : State) : Host.Outcome State Fault Refusal := .next (quiet s (sendDrain s (s.arg 0)))

/-- A pending regx is granted or fails (R154). The focus: core. -/
def execRegxGrant (s : State) : Host.Outcome State Fault Refusal := .next (quiet s (grantRegx s (s.arg 0)))

/-- bar releases (R275). The focus: core, slot. -/
def execBarRelease (s : State) : Host.Outcome State Fault Refusal := .next (quiet s (releaseBar s (4 * s.arg 0 + s.arg 1)))

/-- gbar completes (R276). The focus: gang. -/
def execGbarComplete (s : State) : Host.Outcome State Fault Refusal := .next (quiet s (completeGbar s (s.arg 0)))

/-- waitm releases (R270). The focus: core, sheaf slot, mask. -/
def execWaitmRelease (s : State) : Host.Outcome State Fault Refusal :=
  .next (quiet s (releaseWaitm s (64 * s.arg 0 + s.arg 1) (s.arg 2)))

/-- A parity error in control state (R130). -/
def execControlParityError (core slot : Nat) (entry : Option Nat) (s : State) : Host.Outcome State Fault Refusal :=
  .next (quiet s (controlError s core slot entry))

/-- A write of %rlim takes effect (R162). -/
def execRlimWrite (core slot : Nat) (v : Byte) (s : State) : Host.Outcome State Fault Refusal :=
  .next (quiet s (writeRlim s (4 * core + slot) v.toNat))

/-- A write of KIND 0 disarms (R353). -/
def execEinjDisarm (core slot : Nat) (unit : BitVec 4) (s : State) : Host.Outcome State Fault Refusal :=
  .next (quiet s (writeEinj s (4 * core + slot) 0 unit))

/-- A write of KIND 1 arms a one-bit error (R353). -/
def execEinjArmCorrected (core slot : Nat) (unit : BitVec 4) (s : State) : Host.Outcome State Fault Refusal :=
  .next (quiet s (writeEinj s (4 * core + slot) 1 unit))

/-- A write of KIND 2 arms a two-bit error (R353). -/
def execEinjArmUncorrected (core slot : Nat) (unit : BitVec 4) (s : State) : Host.Outcome State Fault Refusal :=
  .next (quiet s (writeEinj s (4 * core + slot) 2 unit))

/-- A write of KIND 3 arms a control parity error (R353). -/
def execEinjArmControl (core slot : Nat) (unit : BitVec 4) (s : State) : Host.Outcome State Fault Refusal :=
  .next (quiet s (writeEinj s (4 * core + slot) 3 unit))

/-- A write of another special register (R351, R352). -/
def execSpecialRegisterWrite (strand : Nat) (index : BitVec 9) (v : DWord) (s : State) : Host.Outcome State Fault Refusal :=
  .next (quiet s (if (tfind s.strands strand).isSome then writeSpecial s strand index v else s))

end Sys2Proof.Machine
end

