-- ==== Sys2Proof/Machine/Preempt.lean ====
section
/-! DEFINITION. Pre-emption (R91, R199, R357 to R364): the stop of a member block and its frame, pdone, the completion of a
gang's pre-emption and its deadline, and tret. -/

namespace Sys2Proof.Machine

/-! ## The frame (R156, R358 to R360) -/

/-- Eight bytes of a frame, and their poison. -/
abbrev Granule := List Byte × Bool

/-- Bytes without poison as granules; their number is a multiple of 8. -/
def asGranules (bs : List Byte) : List Granule :=
  (List.range (bs.length / 8)).map fun i => ((bs.drop (8 * i)).take 8, false)

/-- Bytes of zeros. -/
def zeros (n : Nat) : List Byte := List.replicate n 0

/-- The codes of the conditions in a strand record (R357, R360), and the mask register of a waitm waiter. A Parked strand stalled on its
draw's tail atomic is recorded Parked; stalled on the fetch of its rfl, Running, as every other stalled strand. -/
def frameCond : Cond → Nat × Nat
  | .deferred => (1, 0)
  | .parked | .stalled (.draw _ .write) => (2, 0)
  | .waiting .bar => (3, 0)
  | .waiting .gbar => (4, 0)
  | .waiting (.waitm m) => (5, m)
  | .done => (6, 0)
  | .running | .saved | .waiting _ | .stalled _ => (0, 0)

/-- The tile region (R156): 32 descriptors of 32 bytes. -/
def frameTiles (b : Block) : List Byte :=
  (List.range 32).flatMap fun n => match tfind b.tiles n with
    | some t => leBytes 8 t.desc.toNat ++ [1] ++ zeros 23
    | none => zeros 32

/-- The first 4,096 bytes of a block's area (R358). -/
def frameBlock (b : Block) : List Granule :=
  asGranules ([BitVec.ofNat 8 b.bank, BitVec.ofNat 8 b.rlim] ++ zeros 6 ++ leBytes 8 b.lct ++ zeros 48 ++ frameTiles b ++
    zeros (4096 - 0x440))

/-- `%sheaf` of the block's sheaf in the core's pointer slot, or 0xFF (R359). -/
def rotationField (s : State) (b : Nat) : Nat :=
  let slot := (coreAt s (b / 4)).rot
  if (blockAt s b).sheafSlots.contains slot then (sheafAt s (64 * (b / 4) + slot)).idx else 0xFF

/-- A mapping as a sheaf sees it: its first register, the partner's first register, the partner's key. -/
def mappingSide (f : Nat) (m : SharedMap) : Nat × Nat × Nat := if m.a == f then (m.f, m.g, m.b) else (m.g, m.f, m.a)

/-- The mappings in which a sheaf takes part. -/
def frameMaps (s : State) (f : Nat) : List SharedMap :=
  (blockAt s (sheafAt s f).block).shared.filter fun m => m.a == f || m.b == f

/-- The shared-map region of a sheaf (R156): 1,040 bytes at most are used. -/
def frameShared (s : State) (f : Nat) : List Byte :=
  let bs := (frameMaps s f).flatMap fun m =>
    let (own, other, partner) := mappingSide f m
    leBytes 2 own ++ leBytes 2 other ++ leBytes 2 m.n ++ leBytes 2 (sheafAt s partner).idx ++
      (List.range (sheafAt s f).width).flatMap fun i =>
        leBytes 8 ((m.full.filter fun e => e.1 == i).map (fun e => 2 ^ e.2)).sum
  bs ++ zeros (0x500 - bs.length)

/-- The sheaf record (R359): 128 bytes. -/
def frameSheaf (s : State) (f : Nat) : List Granule :=
  let x := sheafAt s f
  asGranules ([BitVec.ofNat 8 x.backedge, BitVec.ofNat 8 (rotationField s x.block), BitVec.ofNat 8 x.log2w, BitVec.ofNat 8 x.idx] ++
      leBytes 2 x.alloc ++ [BitVec.ofNat 8 (frameMaps s f).length, 0] ++ leBytes 8 x.ens.toNat ++ leBytes 4 x.mxp.toNat ++ zeros 4) ++
    [(leBytes 8 (readW s f 62).1.toNat, (readW s f 62).2), (leBytes 8 (readW s f 63).1.toNat, (readW s f 63).2)] ++
    asGranules (zeros 88)

/-- The on-chip return stack of a strand record: 4 entries of 16 bytes (R360). -/
def frameStack (x : Strand) : List Byte :=
  let bs := x.stack.flatMap RetEntry.bytes
  bs ++ zeros (64 - bs.length)

/-- A strand record (R360): 192 bytes. -/
def frameStrand (s : State) (k : Nat) : List Granule :=
  let x := strandAt s k
  let (code, mask) := frameCond x.cond
  asGranules (leBytes 8 x.pc.toNat ++ leBytes 8 x.item.toNat ++ leBytes 8 x.csp.toNat ++ leBytes 8 x.trpc.toNat ++
      leBytes 8 x.tdet.toNat ++ leBytes 4 x.depth.toNat ++ leBytes 4 x.age.toNat ++ leBytes 2 x.x.toNat ++ leBytes 2 x.y.toNat ++
      [x.preds &&& 0x7F, BitVec.ofNat 8 code, BitVec.ofNat 8 x.stack.length, x.tcause] ++ leBytes 2 x.fstat.toNat ++
      leBytes 2 x.fmask.toNat ++ leBytes 4 x.trapDepth.toNat ++ frameStack x) ++
    [(leBytes 4 (readV s k 0).1.toNat ++ leBytes 4 (readV s k 1).1.toNat, (readV s k 0).2 || (readV s k 1).2)] ++
    asGranules (leBytes 4 mask ++ zeros 52)

/-- What the hardware writes of a sheaf's area (R358): sheaf record, mask and shared-map regions, strand records. The handler
writes the uniform region between them. -/
def frameArea (s : State) (l : Launch) (f : Nat) : List (Nat × List Granule) :=
  let x := sheafAt s f
  let base := sheafArea l (blockAt s x.block).index x.idx
  [(base, frameSheaf s f),
   (base + 0x280, asGranules ((List.range 12).flatMap fun m => leBytes 8 (readM s f m).toNat)),
   (base + 0x300, asGranules (frameShared s f)),
   (base + 0x800, (sheafStrands s f).flatMap (frameStrand s))]

/-- A block's frame: runs of granules by their first virtual address. -/
def frameOf (s : State) (b : Nat) : List (Nat × List Granule) :=
  let l := launchOf s (blockAt s b)
  (saveVa l (blockAt s b).index, frameBlock (blockAt s b)) :: (blockSheaves s b).flatMap (frameArea s l)

/-- The granules of a block's frame, by virtual address, in the order in which they are stored. -/
def frameGranules (s : State) (b : Nat) : List (Nat × Granule) :=
  (frameOf s b).flatMap fun run => run.2.zipIdx.map fun g => (run.1 + 8 * g.2, g.1)

/-- Store granules of a frame as stores of the block (R357), until one stalls at the record (R163, R164), meets a fault or waits
for a link (R21). -/
def storeFrame (b : Nat) : List (Nat × Granule) → State → State
  | [], s => s
  | g :: rest, s =>
    if walkHeld s (b / 1024) (.strands (b / 4)) (launchOf s (blockAt s b)) g.1 then s else
    match translateFrame s (.strands (b / 4)) (launchOf s (blockAt s b)) g.1 .write with
    | .ok pa leaf =>
      if recordFull s b (pa / 64) then drainOldest s (b / 4)
      else storeFrame b rest (modBlock (recPut s b pa leaf.cls 0 g.2.1 g.2.2 []) b fun y => { y with framed := y.framed + 1 })
    | tr => (frameStops s b .write (tr.verdict g.1)).getD s

/-! ## The stop of a member block (R357, R361) -/

/-- A pass in progress lists a sheaf of a block. -/
def inPass (s : State) (b : Nat) : Bool :=
  match passEntry s (b / 16) with
  | some (_, e) => e.members.any fun a => (blockSheaves s b).contains a.sheaf
  | none => false

/-- Nothing of a stopped block is under way that must finish before its frame (R320, R357, R278, R336). -/
def stopReady (s : State) (b : Nat) : Bool :=
  let x := blockAt s b
  let live := match (gangAt s x.gang).state with | .stopping _ => true | _ => false
  x.ready && x.stopped && live && !blockDone s b && x.draws.isEmpty && !xstFlying s x.gang && !gbarReady s x.gang && !releaseDue s b &&
    !inPass s b && (blockStrands s b).all fun k => (strandAt s k).loads.isEmpty

/-- Every tile of a block is Ready or Empty (R160). -/
def tilesQuiet (s : State) (b : Nat) : Bool :=
  (blockAt s b).tiles.all fun t => t.2.state == .ready || t.2.state == .empty

/-- The kept shape of a block at its stop (R119). -/
def shapeOf (s : State) (b : Nat) : Shape :=
  let x := blockAt s b
  { index := x.index, next := x.next, tailRecord := x.tailRecord, overflow := x.overflow, replay := x.replay,
    sheaves := (blockSheaves s b).map fun f =>
      let y := sheafAt s f
      { idx := y.idx, offset := y.offset, alloc := y.alloc, key := f },
    undrawn := x.undrawn }

/-- Every strand of a sheaf that is not Done enters its handler (R361). -/
def enterHandler (s : State) (l : Launch) (index f : Nat) : State :=
  let x := sheafAt s f
  let live := (sheafStrands s f).filter fun k => (strandAt s k).cond != .done
  if live.isEmpty then s
  else
    let pc := l.record.codeBase + l.record.handler.setWidth 64
    let t := modSheaf s f fun y => { enterUniform l index x.idx y with phase := .handler }
    live.foldl (fun u k => modStrand u k (enterSave l index x.idx x.alloc pc)) t

/-- A block's frame is written: its sheaves enter their handlers (R357). -/
def enterHandlers (s : State) (b : Nat) : State :=
  let x := blockAt s b
  let l := launchOf s x
  let t := modGang s x.gang fun g => { g with shapes := g.shapes ++ [shapeOf s b] }
  let t := modBlock t b fun y => { y with stopped := false, shared := y.shared.map fun m => { m with queue := [] } }
  (blockSheaves s b).foldl (fun u f => enterHandler u l x.index f) t

/-- The frame of a block begins: its entries begin to drain (R357), and its pending regx leave the queue, whose strands are recorded as
Running at theirs. -/
def startFrame (s : State) (b : Nat) : State :=
  let fs := blockSheaves s b
  let t := modCore (drainBlock s b) (b / 4) fun c => { c with regxQueue := c.regxQueue.filter fun f => !fs.contains f }
  fs.foldl (fun u f => modSheaf u f fun y => { y with regx := none }) t

/-- A stopped member block goes on with its stop (R357): its requests leave the matrix engine, and once nothing of it is under way and
its tiles are quiet the frame is written, which goes on at the granule where it had stalled. -/
def stopBlock (s : State) (b : Nat) : State :=
  if (tfind s.blocks b).isNone then s
  else
    let t := leaveEngine s b
    if !stopReady t b || !tilesQuiet t b || (blockAt t b).fault.isSome then t
    else
      let gs := frameGranules t b
      let n := (blockAt t b).framed
      let u := storeFrame b (gs.drop n) (if n = 0 then startFrame t b else t)
      if (blockAt u b).framed < gs.length || !stopping u (blockAt u b).gang then u else enterHandlers u b

/-- A member block stops (R357): its held bundles are discarded, and the requests that list it leave the matrix engine but for a pass
in progress (R336). -/
def stopMember (s : State) (b : Nat) : State :=
  let fs := blockSheaves s b
  let t := fs.foldl (fun v f => modSheaf v f fun y => { y with held := none }) (modBlock s b fun y => { y with stopped := true })
  withdrawRequests t (b / 16) fs.contains

/-- A PREEMPT suspend reaches a placed gang (R357): its members stop before their next issue. -/
def stopGang (s : State) (g : Nat) : State :=
  match (gangAt s g).state with
  | .placed => (gangBlocks s g).foldl stopMember (modGang s g fun x => { x with state := .stopping s.now })
  | _ => s

/-! ## The end of the save (R199, R362) -/

/-- A sheaf's save has ended (R362). -/
def saveEnded (s : State) (f : Nat) : Bool :=
  (sheafStrands s f).all fun k => (strandAt s k).cond == .done || (strandAt s k).cond == .saved

/-- Every sheaf of a gang's members has ended its save. A member that has not been set up again from its frame is saved in it. -/
def gangEnded (s : State) (g : Nat) : Bool :=
  (gangBlocks s g).all fun b => ((gangAt s g).shapes.any fun h => h.index == (blockAt s b).index) &&
    (!(blockAt s b).ready || (!(blockAt s b).stopped && (blockSheaves s b).all (saveEnded s)))

/-- Nothing of a gang is still on its way to its completion time (R199). -/
def gangQuiet (s : State) (g : Nat) : Bool :=
  (gangAt s g).ops.isEmpty && (gangAt s g).draws.isEmpty && decide ((gangAt s g).horizon ≤ s.now) &&
    !(s.cores.any fun p => p.2.record.any fun e => e.gang == g) &&
    (gangBlocks s g).all fun b => (blockAt s b).ops.isEmpty && (blockAt s b).draws.isEmpty && decide ((blockAt s b).lct ≤ s.now) &&
      (blockStrands s b).all fun k => (strandAt s k).loads.isEmpty

/-- How new a content the loads of a gang have returned of each byte, and what its stores left of NC lines, before a pre-emption
completes (R177, R199, R401; log 57). -/
def gangSeen (s : State) (g : Nat) : Tab Nat :=
  ((gangBlocks s g).flatMap (blockStrands s)).foldl (fun t k =>
    (strandAt s k).seen.foldl (fun u p => tset u p.1 (max p.2 (tget u p.1 0))) t) (gangAt s g).seen

/-- A gang's pre-emption completes (R199, R362): its resources return (R119). -/
def completePreemption (s : State) (g : Nat) : State :=
  match (gangAt s g).state with
  | .stopping _ =>
    if (gangBlocks s g).isEmpty || !gangEnded s g || !gangQuiet s g then s
    else modGang ((gangBlocks s g).foldl freeBlock s) g fun x => { x with state := .saved, moved := [], seen := gangSeen s g }
  | _ => s

/-- The deadline of a pre-emption passes with a save not ended (R362). -/
def missDeadline (s : State) (g : Nat) : State :=
  match (gangAt s g).state with
  | .stopping tp =>
    if tp + Config.preemptTicks ≤ s.now && !gangEnded s g && !(gangBlocks s g).isEmpty then
      startKill s g (some .deadline) false (locTract (gangAt s g).tract)
    else s
  | _ => s

/-- pdone (R362): PROT outside the sheaf's handler, else Saved. -/
def pdoneRun (code : Code) (s : State) : State :=
  controlRun .pdone code (fun _ t k => Verdict.trapIf ((sheafAt t (sheafOf k)).phase != .handler) .prot)
    (fun _ t _ ps => ps.foldl (fun u k => setCond u k .saved) t) s

/-- tret (R364). -/
def tretRun (code : Code) (s : State) : State :=
  controlRun .tret code (fun _ => tretCheck)
    (fun _ t b ps =>
      if ps.any (recordIllegal t) then startKill t (blockAt t b.block).gang (some .control) false (locCore b.core)
      else
        let u := ps.foldl reloadStrand t
        (sheavesOf u ps).foldl (fun v f => finishResume v ((partOf ps f).headD 0)) u) s

/-! ## The meanings -/

/-- Ends the save: the strand is Saved (R362). -/
def execPdone (x : Code) (s : State) : Host.Outcome State Fault Refusal := .next (pdoneRun x s)

/-- Ends the resume: the strand reloads its frame record and is Saved until its sheaf has reloaded (R364). -/
def execTret (x : Code) (s : State) : Host.Outcome State Fault Refusal := .next (tretRun x s)

/-- A member block of a gang that is being pre-empted goes on with its stop (R357). The focus: core, slot. -/
def execPreemptStop (s : State) : Host.Outcome State Fault Refusal := .next (quiet s (stopBlock s (4 * s.arg 0 + s.arg 1)))

/-- A pre-emption has missed its deadline (R362). The focus: gang. -/
def execPreemptDeadline (s : State) : Host.Outcome State Fault Refusal := .next (quiet s (missDeadline s (s.arg 0)))

/-- A gang's pre-emption completes (R199). The focus: gang. -/
def execPreemptionComplete (s : State) : Host.Outcome State Fault Refusal := .next (quiet s (completePreemption s (s.arg 0)))

end Sys2Proof.Machine
end

