-- ==== Sys2Proof/Machine/Reset.lean ====
section
/-! DEFINITION. What ends with a tract or a partition (R17, R65, R73, R92, R94): messages under way are executed, caches, trackers
and abacus lines go, spares are bound; and the parity of what is zeroed. -/

namespace Sys2Proof.Machine

/-! ## Parity (R41, R42, R69) -/

/-- Exclusive-or a byte into a row's parity, of a line and a byte of it (64 for its poison bit). -/
def flipParity (line i : Nat) (v : Byte) (m : Memory) : Memory :=
  let (row, _, stack) := placeOf line
  memWrite m (parityKey stack row i) (memRead m (parityKey stack row i) ^^^ v)

/-- What memory's resident abacus lines of a quad have in the pages behind them. -/
def pageEffects (x : Quad) : List MemEffect :=
  x.resident.flatMap fun e => [.store (64 * e.line) (e.page.take 64), .store (statusAddr e.line) (e.page.drop 64)]

/-- Memory as the stacks hold it: of a resident abacus line its page, whose elements the slice keeps (R339). -/
def stackMem (s : State) : Memory := s.quads.foldl (fun m p => memApply m (pageEffects p.2)) s.mem

/-- Take what the stacks hold in some lines, and their poison, into the parity or out of it. -/
def parityOf (s : State) (p : Nat → Bool) (m : Memory) : Memory :=
  let m := ((stackMem s).filter fun c => p (c.1 / 64)).foldl (fun n c => flipParity (c.1 / 64) (c.1 % 64) c.2 n) m
  (s.badLines.filter p).foldl (fun n line => flipParity line 64 1 n) m

/-- A line lies in some tracts. -/
def inTracts (ts : List Nat) (line : Nat) : Bool := ts.contains (tractOfPa (64 * line)) && populated (64 * line)

/-- The memory of tracts is zeroed (R92, R94): poison goes with it, and parity follows. -/
def zeroTracts (s : State) (ts : List Nat) : State × List MemEffect :=
  ({ s with parity := parityOf s (inTracts ts) s.parity, badLines := s.badLines.filter fun line => !inTracts ts line },
    ts.map fun t => .zero (Config.tractWindow * t) (Config.tractWindow * t + Config.tractBytes))

/-- A die's stacks have the parity of every row computed again (R69). -/
def recomputeParity (s : State) (die : Nat) : State :=
  let mine (stack : Nat) : Bool := stack / 2 == die
  let kept := s.parity.filter fun c => !mine (c.1 / 128 / 2 ^ 31)
  { s with parity := parityOf s (fun line => mine (placeOf line).2.2) kept }

/-! ## Messages of tracts that end -/

/-- The tract that a message belongs to: its line's, or its core's; none for a parity delta and the host's notices. -/
def Msg.tract (s : State) : Msg → Option Nat
  | .data _ r _ _ _ _ | .hostLoad _ r => some (r.core / 128)
  | .engineData core _ _ _ _ => some (core / 128)
  | .inval line _ | .redirect line _ _ | .unredirect line _ _ | .recall line _ | .ack line _ _ | .loanPush line _ _ _ | .loanReturn line _ _ => some (tractOfPa (64 * line))
  | .ctl (.entry core _) _ => some (core / 128)
  | .ctl (.op b _) _ | .ctl (.engine b _) _ | .values b _ _ _ | .hostOp b _ _ _ => some (b / 512)
  | .ctl (.deliveries bs _) _ => bs.head?.map (· / 512)
  | .element k _ _ _ _ _ => some (coreOf k / 128)
  | .hostStore core _ => some (core / 128)
  | .xst g _ _ _ => some (gangAt s g).tract
  | m => (requestOf s m.inner).map fun r => tractOfPa (64 * r.line)

/-- A fence answer. -/
def Msg.isRefused : Msg → Bool
  | .refused _ => true
  | _ => false

/-- What a message that has left its core still does at its home when its partition ends (R136): it is executed, whoever waits for
the answer, but where a fenced die has refused it. Abacus operations are lost with the lines (R92). -/
def execute (s : State) (m : Msg) : State × List MemEffect :=
  if m.isRefused then (refuseHost s m.inner, []) else match m.inner with
  | .drain _ _ e _ => writeLine s e.line e.data (!e.poison.isEmpty)
  | .engineWrite _ line data poison _ _ _ => writeLine s line data poison
  | .rmaWrite _ line data tag _ =>
    let (t, es) := writeLine s line data false
    (completes t (.host tag) s.now, es)
  | .rmaRead q line tag _ => (hostLine s 0 q 0 line tag, [])
  | .atomic q _ ops _ _ _ _ | .red q _ ops _ _ =>
    let (t, _, es) := applyOps s q 0 (opsLine ops) ops
    (t, es)
  | .portAtomic q pa op ty v e tag _ =>
    let (t, run, es) := applyOps s q 0 (pa / 64) [⟨0, pa, op, ty, v, e, false⟩]
    (completes (noteHostValue t tag ty ((run.vals.headD (0, 0, false)).2.1)) (.host tag) s.now, es)
  | _ => (s, [])

/-- A parity delta. -/
def Msg.isParity : Msg → Bool
  | .parity _ _ => true
  | _ => false

/-- Every message of some tracts is executed and gone; only parity deltas come of it. -/
def flushTracts (s : State) (ts : List Nat) : State × List MemEffect :=
  let gone (m : Msg) : Bool := (m.tract s).any ts.contains
  let run := (s.net.filter fun p => gone p.2).foldl (fun (r : State × List MemEffect) p =>
    let (t, es) := execute r.1 p.2
    ({ t with mem := memApply t.mem es }, r.2 ++ es)) (s, [])
  (dropMsgs run.1 fun id m => !m.isParity && !((tfind s.net id).any fun m' => !gone m'), run.2)

/-! ## Slices (R49, R65, R71, R73) -/

/-- The largest horizon of a slice: its floor, its table, its trackers and what it took over (R65). -/
def topHorizon (s : State) (q : Nat) : Nat :=
  let x := quadAt s q
  let m := x.horizons.foldl (fun m p => max m p.2) (x.takeover.foldl (fun m p => max m p.2) x.hfloor)
  s.homes.foldl (fun m p => if homeSlice s p.1 == q then (match p.2.tracker with | some t => max m t.top | none => m) else m) m

/-- The lines of a slice that are resident in abacus ways are lost: the pages hold what they held (R92). -/
def loseResidents (s : State) (q : Nat) : State × List MemEffect :=
  ({ s with quads := tset s.quads q { quadAt s q with resident := [] } }, pageEffects (quadAt s q))

/-- A quad of a tract that ends: the engine's requests and TLB, copies, directory, hot lines, loans and waiting requests go (R92). The
horizons of its lines stay (R73), those of the copies in its horizon table (R49, R71). -/
def clearQuad (x : Quad) : Quad :=
  (x.copies.map (·.line)).foldl (fun y line => capHorizons line y)
    { x with latches := [], table := [], pass := none, copies := [], directory := [], notes := [], hot := [],
             redirects := [], queueUsed := 0, retry := [], reserved := [], resident := [], tlb := [] }

/-- A slice whose positions go to others, or come from another: one horizon stands for every line (R65). -/
def foldQuad (x : Quad) (h : Nat) : Quad := { clearQuad x with takeover := [], horizons := [], hfloor := h }

/-- Every copy of lines of a slice's array goes with its mode or its power, by R71 and R73: homed lines end their privatisation,
loans are returned. -/
def dropCopies (s : State) (q : Nat) (p : SliceCopy → Bool) : State :=
  ((quadAt s q).copies.filter p).foldl (fun t c => leaveWay t q c) s

/-- Every resident abacus line of a slice is spilled (R73, R339). -/
def spillAll (s : State) (q : Nat) (p : Resident → Bool) : State :=
  ((quadAt s q).resident.filter p).foldl (fun t e => spillLine t q e) s

/-! ## Spares (R16, R17) -/

/-- A tract's spare takes the place of its lowest retired quad (R17; of several, the lowest is a DESIGN CHOICE, log 23): an empty quad,
which homes its position again from the next horizon on (log 23). -/
def bindSpare (s : State) (t : Nat) : State :=
  let x := tractAt s t
  match ((List.range 32).map (32 * t + ·)).find? fun q => (quadAt s q).retired with
  | none => s
  | some q =>
    if x.spare != .unused then s
    else if !Config.spareOk t then modTract s t fun y => { y with spare := .failed }
    else
      let h := topHorizon s (tget s.module.map q q)
      let u := modQuad s q fun x =>
        { foldQuad x h with retired := false, gated := false, uncorrected := [], controls := [], heavyEpochs := 0, replays := 0, stub := none }
      let u := modTract u t fun y => { y with spare := .bound }
      modModule u fun m => { m with map := terase m.map q, epoch := (m.epoch + 1) % 2 ^ 32, bound := m.bound ++ [q],
                                    newRetired := m.newRetired.filter (· != q) }

/-! ## A partition ends or starts again (R92) -/

/-- Live cores of a tract (R102). -/
def liveCores (s : State) (t : Nat) : Nat := 4 * ((List.range 32).countP fun i => !(quadAt s (32 * t + i)).retired)

/-- The homes of some lines end: their privatisation does (R59), and an access of the host that awaits a completion time of one waits
no more (R75): it counts as of now (DESIGN CHOICE, log 61). -/
def endHomes (s : State) (p : Nat → Bool) : State :=
  let t := (s.homes.filter fun h => p h.1).foldl (fun u h =>
    let u := endTracker u h.1
    match h.2.txn with
    | some x => (match x.notify with | .host _ => completes u x.notify s.now | _ => u)
    | none => u) s
  { t with homes := t.homes.filter fun h => !p h.1 }

/-- A tract that runs nothing: its cores hold nothing, its queues are empty, its credits are full (R92, R102, R144). -/
def clearTract (s : State) (t : Nat) : State × List MemEffect :=
  let inTract (line : Nat) : Bool := tractOfPa (64 * line) == t
  let s := endHomes s inTract
  let s := { s with strands := s.strands.filter (fun p => coreOf p.1 / 128 != t),
                    sheaves := s.sheaves.filter (fun p => p.1 / 64 / 128 != t), blocks := s.blocks.filter (fun p => p.1 / 512 != t) }
  let s := { s with cores := s.cores.map fun p =>
    if p.1 / 128 == t then (p.1, { Core.reset with seq := p.2.seq, clock := p.2.clock }) else p }
  let (s, es) := ((List.range 32).map (32 * t + ·)).foldl (fun (r : State × List MemEffect) q =>
    let (u, fs) := loseResidents r.1 q
    (modQuad u q clearQuad, r.2 ++ fs)) (s, [])
  let s := bindSpare s t
  (modTract s t fun x =>
    { x with credit := liveCores s t * 4, batchFree := 8, batches := [], pending := [], returns := 0, returnsSince := 0,
             freedEntries := 0, reservation := none, owed := 0 }, es)

/-- A completion of a launch that a reset ends; one that was held is discarded (R85), and so is one whose slot is not registered
or whose host cannot be reached now (DESIGN CHOICE, log 61). -/
def resetCompletion (s : State) (key : Nat) : State :=
  let l := launchAt s key
  let slot := l.record.endpoint.toNat % 16
  if l.ready.isSome || (tfind (partAt s l.part).slots slot).isNone || !hostReach s then s
  else emit s (.completion l.part slot l.record.tag l.id .reset l.killed l.relaunched s.now)

/-- The effects of a partition RESET (R92), zeroing its memory where asked. -/
def resetPart (s : State) (p : Nat) (zero : Bool) : State × List MemEffect :=
  let ts := (partAt s p).tracts
  let (t, es) := flushTracts s ts
  let (t, es) := ts.foldl (fun (r : State × List MemEffect) u =>
    let (v, fs) := clearTract r.1 u
    (v, r.2 ++ fs)) (t, es)
  let t := (partLaunches s p).foldl resetCompletion t
  let t := { t with launches := t.launches.filter (fun e => e.1 / 2 ^ 32 != p), gangs := t.gangs.filter (fun e => e.2.part != p) }
  let t := modPart t p fun x => { x with faults := [], nextLaunch := 1 }
  let t := { t with mem := memApply s.mem es }
  if zero then
    let (u, fs) := zeroTracts t ts
    (u, es ++ fs)
  else (t, es)

/-! ## The slice map (R64, R65) -/

/-- The live quads that can take a position (R64): the first of its neighbours that is live. -/
def newHome (s : State) (p : Nat) : Option Nat :=
  ([1, 2, 4, 8, 16].map fun x => p / 32 * 32 + (p % 32 ^^^ x)).find? fun q => !(quadAt s q).retired

/-- The positions that a slice homes. -/
def positionsOf (s : State) (q : Nat) : List Nat := ((List.range 32).map (q / 32 * 32 + ·)).filter fun p => tget s.module.map p p == q

/-- Some lines of a home have their loans recalled and the holders that their entries name invalidated, with their horizons taken.
-/
def recallLines (s : State) (q : Nat) (lines : List Nat) : State :=
  lines.foldl (fun u line =>
    let h := homeAt u line
    let u := endTracker u line
    let u := h.dir.slices.foldl (fun v n => let (w, x) := dropHolder v line n; raiseHorizon w q line x) u
    let u := h.loans.foldl (fun v n => let (w, x) := dropLoan v line n; raiseHorizon w q line x) u
    modHome u line fun y => { y with dir := .empty, loans := [] }) s

/-- The lines that a slice homes and has a record of. -/
def homedLines (s : State) (q : Nat) : List Nat := (s.homes.filter fun p => homeSlice s p.1 == q).map (·.1)

/-- A retiring slice gives up what it holds (R65): abacus lines are spilled, loans recalled, holders invalidated and their horizons
taken; its held requests are sent back. It answers Hret. -/
def retireSlice (s : State) (q : Nat) : Nat × State :=
  let lines := homedLines s q
  let queued := lines.flatMap fun line => (homeAt s line).queue
  let t := recallLines (spillAll s q fun _ => true) q lines
  let t := queued.foldl (fun u id => match tfind u.net id with
    | some m => passOn u id q (.remap m ((s.module.epoch + 1) % 2 ^ 32))
    | none => u) t
  let t := lines.foldl (fun u line => modHome u line fun y => { y with queue := [] }) t
  let t := dropCopies t q fun _ => true
  let h := topHorizon t q
  (h, modQuad t q fun x => { foldQuad x h with stub := some h })

/-- What the slices of one tract of a partition hold of the others' lines, and those of it, goes before it is gated (R73). -/
def quiesceTract (s : State) (t : Nat) : State :=
  ((List.range 32).map (32 * t + ·)).foldl (fun u q => dropCopies (recallLines u q (homedLines u q)) q fun _ => true) s

/-- One position of a retired slice moves (R64, R65); where no slice can take it, its tract's partition is named to be reset. -/
def movePosition (hret : Nat) (r : State × List Nat) (p : Nat) : State × List Nat :=
  match newHome r.1 p with
  | some q =>
    (modModule (modQuad r.1 q fun x => { x with takeover := x.takeover ++ [(p, hret)] }) fun m => { m with map := tset m.map p q }, r.2)
  | none => (r.1, r.2 ++ [(tractAt r.1 (p / 32)).owner])

/-- A slice with a transaction in progress. -/
def midTransaction (s : State) (q : Nat) : Bool := s.homes.any fun p => p.2.txn.isSome && homeSlice s p.1 == q

/-- The firmware installs the next map (R21, R64, R65), once no retiring slice is amid a transaction: positions move, detours are in
force, QUAD_RETIRED is raised (R141). -/
def changeMap (s : State) : State × List MemEffect :=
  let m := s.module
  if (m.newRetired.isEmpty && !m.newDetour) || m.newRetired.any (midTransaction s) then (s, [])
  else
    let (t, lost) := m.newRetired.foldl (fun (r : State × List Nat) q =>
      let ps := positionsOf r.1 q
      let (h, u) := retireSlice r.1 q
      ps.foldl (movePosition h) (u, r.2)) (s, [])
    let t := modModule t fun y =>
      { y with epoch := (y.epoch + 1) % 2 ^ 32, newRetired := [], newDetour := false,
               links := y.links.map fun l => (l.1, { l.2 with detour := l.2.state == .down }) }
    let t := m.newRetired.foldl (fun u q => raise u 0x0008 1 0 (locQuad q) (BitVec.ofNat 64 q)) t
    (nub (lost.filter (· != 0))).foldl (fun (r : State × List MemEffect) p =>
      let (u, es) := resetPart r.1 p false
      ({ u with mem := memApply r.1.mem es }, r.2 ++ es)) (t, [])

end Sys2Proof.Machine
end

