-- ==== Sys2Proof/Machine/Sign.lean ====
section
/-! DEFINITION. The signatures of R97: SHA-384, and ECDSA over the 384-bit Brainpool curve with random parameters of RFC 5639. The
manual names them and leaves them to their standards (PRESUMED, log 12). -/

namespace Sys2Proof.Machine

/-! ## Numbers of bytes -/

/-- A big-endian number. -/
def beNat (bs : List Byte) : Nat := bs.foldl (fun n b => 256 * n + b.toNat) 0

/-- The big-endian bytes of a number. -/
def beBytes (n v : Nat) : List Byte := ((List.range n).map fun i => BitVec.ofNat 8 (v / 256 ^ i)).reverse

/-! ## SHA-384 -/

/-- The first 80 primes: the numbers below 410 that no smaller number from 2 to 20 divides. -/
def firstPrimes : List Nat :=
  (List.range 410).filter fun p => decide (2 ≤ p) && (List.range 21).all fun d => decide (d < 2) || decide (p ≤ d) || p % d != 0

/-- The whole part of the k-th root of a number whose root has at most so many bits. -/
def wholeRoot (k n : Nat) : Nat → Nat
  | 0 => 0
  | bits + 1 =>
    let r := 2 * wholeRoot k (n / 2 ^ k) bits
    if (r + 1) ^ k ≤ n then r + 1 else r

/-- The first 64 bits of the fraction of a prime's k-th root, from which the standard takes its constants. -/
def rootFraction (k p : Nat) : BitVec 64 := BitVec.ofNat 64 (wholeRoot k (p * 2 ^ (64 * k)) 70)

/-- The constants of the 80 rounds: of the cube roots. -/
def roundConstants : List (BitVec 64) := firstPrimes.map (rootFraction 3)

/-- The digest under way. Of its eight words each round makes two anew, and the others are those of the three rounds before: the
last four of either kind, newest first. -/
structure ShaState where
  upper : List (BitVec 64)
  lower : List (BitVec 64)
  deriving DecidableEq, Repr

/-- The digest before the first block: of the square roots of the ninth prime to the sixteenth. -/
def ShaState.start : ShaState :=
  let w := ((firstPrimes.drop 8).take 8).map (rootFraction 2)
  { upper := w.take 4, lower := w.drop 4 }

/-- Rotations to the right by some distances, combined. -/
def turns (x : BitVec 64) (ns : List Nat) : BitVec 64 := (ns.map x.rotateRight).foldl (· ^^^ ·) 0

/-- Where the first has a bit, the second's, else the third's. -/
def bitChoice (x y z : BitVec 64) : BitVec 64 := z ^^^ (x &&& (y ^^^ z))

/-- The bits that two of three have. -/
def bitMajority (x y z : BitVec 64) : BitVec 64 := (x &&& (y ||| z)) ||| (y &&& z)

/-- One round, on the sum of its constant and its message word. -/
def ShaState.round (s : ShaState) (input : BitVec 64) : ShaState :=
  let u := (s.upper.getD · 0)
  let l := (s.lower.getD · 0)
  let fresh := input + l 3 + turns (l 0) [14, 18, 41] + bitChoice (l 0) (l 1) (l 2)
  { upper := (fresh + turns (u 0) [28, 34, 39] + bitMajority (u 0) (u 1) (u 2)) :: s.upper.take 3,
    lower := (fresh + u 3) :: s.lower.take 3 }

/-- A message's words, newest first, with so many more made of the last 16. -/
def moreWords (w : List (BitVec 64)) : Nat → List (BitVec 64)
  | 0 => w
  | n + 1 =>
    let v := moreWords w n
    let back (i : Nat) : BitVec 64 := v.getD (i - 1) 0
    (back 16 + back 7 + (turns (back 15) [1, 8] ^^^ (back 15 >>> 7)) + (turns (back 2) [19, 61] ^^^ (back 2 >>> 6))) :: v

/-- Groups of n of the first n·k of some bytes. -/
def groups (n k : Nat) (bs : List Byte) : List (List Byte) := (List.range k).map fun i => (bs.drop (n * i)).take n

/-- A block of 128 bytes: its rounds, added to the digest that it found. -/
def ShaState.block (s : ShaState) (bs : List Byte) : ShaState :=
  let message := moreWords ((groups 8 16 bs).map fun g => BitVec.ofNat 64 (beNat g)).reverse 64
  let t := (roundConstants.zipWith (· + ·) message.reverse).foldl ShaState.round s
  { upper := s.upper.zipWith (· + ·) t.upper, lower := s.lower.zipWith (· + ·) t.lower }

/-- The bytes with their padding: a one bit, zeros to 16 bytes before a block's end, and the length in bits. -/
def shaPadded (bs : List Byte) : List Byte :=
  bs ++ 0x80 :: (List.replicate ((239 - bs.length % 128) % 128) 0 ++ beBytes 16 (8 * bs.length))

/-- SHA-384 of some bytes: the 48 bytes of the digest's first six words. -/
def sha384 (bs : List Byte) : List Byte :=
  let m := shaPadded bs
  let s := (groups 128 (m.length / 128) m).foldl ShaState.block ShaState.start
  (s.upper ++ s.lower.take 2).flatMap fun w => beBytes 8 w.toNat

/-! ## ECDSA over brainpoolP384r1 -/

/-- The field's prime. -/
def curveP : Int := 0x8CB91E82A3386D280F5D6F7E50E641DF152F7109ED5456B412B1DA197FB71123ACD3A729901D1A71874700133107EC53
/-- The curve's coefficient of x. -/
def curveA : Int := 0x7BC382C63D8C150C3C72080ACE05AFA0C2BEA28E4FB22787139165EFBA91F90F8AA5814A503AD4EB04A8C7DD22CE2826
/-- The curve's constant. -/
def curveB : Int := 0x04A8C7DD22CE28268B39B55416F0447C2FB77DE107DCD2A62E880EA53EEB62D57CB4390295DBC9943AB78696FA504C11
/-- The order of the base point. -/
def curveN : Int := 0x8CB91E82A3386D280F5D6F7E50E641DF152F7109ED5456B31F166E6CAC0425A7CF3AB6AF6B7FC3103B883202E9046565

/-- A point by Jacobian coordinates, x / z² and y / z³; where z is 0, the point at infinity. -/
structure CurvePoint where
  x : Int
  y : Int
  z : Int
  deriving DecidableEq, Repr

/-- The point at infinity. -/
def CurvePoint.zero : CurvePoint := { x := 1, y := 1, z := 0 }

/-- The base point. -/
def CurvePoint.base : CurvePoint :=
  { x := 0x1D1C64F068CF45FFA2A63A81B7C13F6B8847A3E77EF14FE3DB7FCAFE0CBD10E8E826E03436D646AAEF87B2E247D4AF1E,
    y := 0x8ABE1D7520F9C2A45CB1EB8E95CFD55262B70B29FEEC5864E19C054FF99129280E4646217791811142820341263C5315, z := 1 }

/-- Twice a point. -/
def CurvePoint.double (p : CurvePoint) : CurvePoint :=
  let q := p.y * p.y % curveP
  let s := 4 * p.x * q % curveP
  let m := (3 * p.x * p.x + curveA * (p.z * p.z % curveP) * (p.z * p.z % curveP)) % curveP
  let x := (m * m - 2 * s) % curveP
  { x := x, y := (m * (s - x) - 8 * q * q) % curveP, z := 2 * p.y * p.z % curveP }

/-- The sum of two points. -/
def CurvePoint.add (p r : CurvePoint) : CurvePoint :=
  if p.z = 0 then r
  else if r.z = 0 then p
  else
    let u := p.x * (r.z * r.z % curveP) % curveP
    let h := (r.x * (p.z * p.z % curveP) - u) % curveP
    let s := p.y * r.z * (r.z * r.z % curveP) % curveP
    let d := (r.y * p.z * (p.z * p.z % curveP) - s) % curveP
    if h = 0 then (if d = 0 then p.double else .zero)
    else
      let g := h * h % curveP
      let x := (d * d - h * g - 2 * u * g) % curveP
      { x := x, y := (d * (u * g - x) - s * h * g) % curveP, z := h * p.z * r.z % curveP }

/-- A point times a number of at most n bits. -/
def CurvePoint.times (p : CurvePoint) (k : Nat) : Nat → CurvePoint
  | 0 => .zero
  | n + 1 =>
    let t := (p.times (k / 2) n).double
    if k % 2 = 1 then t.add p else t

/-- A power modulo the order, for an exponent of at most n bits. -/
def powN (v : Int) (k : Nat) : Nat → Int
  | 0 => 1
  | n + 1 =>
    let t := powN v (k / 2) n
    if k % 2 = 1 then t * t % curveN * v % curveN else t * t % curveN

/-- The x coordinate of a point is a number. -/
def CurvePoint.hasX (p : CurvePoint) (x : Int) : Bool := decide (x < curveP) && (p.x - x * p.z * p.z) % curveP == 0

/-- A public key of 97 bytes, an uncompressed point (R93): 04, x and y, big-endian. Where it is a point of the curve, that point. -/
def keyPoint (key : List Byte) : Option CurvePoint :=
  let x : Int := beNat ((key.drop 1).take 48)
  let y : Int := beNat (key.drop 49)
  if key.length = 97 && key.head? == some 4 && decide (x < curveP) && decide (y < curveP) &&
      (y * y - x * x * x - curveA * x - curveB) % curveP == 0 then some { x := x, y := y, z := 1 }
  else none

/-- The signature r and s over some bytes verifies under a key (R97). -/
def ecdsaOk (key text : List Byte) (r s : Nat) : Bool :=
  match keyPoint key with
  | none => false
  | some q =>
    let w := powN s (curveN - 2).toNat 384
    let u := (beNat (sha384 text) * w % curveN).toNat
    let v := (r * w % curveN).toNat
    let t := (CurvePoint.base.times u 384).add (q.times v 384)
    0 < r && decide ((r : Int) < curveN) && 0 < s && decide ((s : Int) < curveN) && t.z != 0 && (t.hasX r || t.hasX (r + curveN))

end Sys2Proof.Machine
end

