-- ==== Sys2Proof/Machine/Power.lean ====
section
/-! DEFINITION. Power, temperature and throttle (R29 to R36), links, dies and ports (R20 to R28, R68, R69), failures of stacks and
quads (R43, R126, R141), and the slice map's steps (R65). -/

namespace Sys2Proof.Machine

/-! ## Streams (R25, R81) -/

/-- Send the responses at the head of a stream that are ready (R81). -/
def sendReady : Nat → Nat → State → State
  | 0, _, s => s
  | n + 1, p, s =>
    match (partAt s p).waiting with
    | w :: rest => match w.ready with
      | some r => sendReady n p (modPart (emit s r) p fun x => { x with waiting := rest })
      | none => s
    | [] => s

/-- Send what can be sent of a partition's stream. -/
def sendStream (s : State) (p : Nat) : State := if hostReach s then sendReady (partAt s p).waiting.length p s else s

/-- Every stream sends what it can: the host can be reached again (R25). -/
def sendStreams (s : State) : State := (tkeys s.parts).foldl sendStream s

/-! ## Links (R20 to R22) -/

/-- The state of a link with some lanes failed in each direction (R20): that of the worse (DEDUCED, log 22: R20 counts failed
lanes of a direction, and gives a link one state). -/
def linkStateOf (lanes : Nat × Nat) : LinkState :=
  let n := max lanes.1 lanes.2
  if n = 0 then .up else if n ≤ 2 then .spared else if n ≤ 32 then .narrow else .down

/-- Change a link. -/
def modLink (s : State) (n : Nat) (f : Link → Link) : State :=
  modModule s fun m => { m with links := tset m.links n (f (tget m.links n Link.reset)) }

/-- The acknowledgements of a die that fan-outs miss count as received now (R68). -/
def countMissing (die : Nat) (s : State) (line : Nat) : State :=
  match (homeAt s line).txn with
  | some x =>
    if x.missing.any fun q => q / 64 == die then
      let y : Txn := { x with missing := x.missing.filter fun q => q / 64 != die, hall := max x.hall s.now }
      if y.missing.isEmpty then endFanOut s line y else modHome s line fun h => { h with txn := some y }
    else s
  | none => s

/-- A message addressed to a die that a fence ends: of fan-outs, loans and redirects, and the parity deltas of its stacks (R68,
R69). -/
def endsAtFence (d : Nat) : Msg → Bool
  | .inval _ q | .recall _ q | .ack _ q _ | .loanPush _ q _ _ | .redirect _ _ q | .unredirect _ _ q => q / 64 == d
  | .parity line _ => (placeOf line).2.2 / 2 == d
  | _ => false

/-- A die is fenced (R68): its gangs are killed, nothing is dispatched to it, the acknowledgements it owes count as received. An
I/O die (R28) has no gangs and no slices: its ports carry nothing. -/
def fenceDie (s : State) (d : Nat) : State :=
  if 10 ≤ d || (dieAt s d).fenced then s
  else
    let t := logRas (modDie s d fun x => { x with fenced := true }) .fence false (locDie d) 0 0
    let t := raise t 0x0007 2 0 (locDie d) (BitVec.ofNat 64 d)
    let gs := nub ((s.blocks.filter fun p => p.1 / 1024 == d).map fun p => p.2.gang)
    let t := gs.foldl (fun u g => startKill u g (some .fence) false (locDie d)) t
    let t := dropMsgs t fun _ m => endsAtFence d m
    (s.homes.map (·.1)).foldl (countMissing d) t

/-- Fence dies that no route reaches, one after another (R21). -/
def fenceCut : Nat → State → State
  | 0, s => s
  | n + 1, s => match nextCut s with
    | some d => fenceCut n (fenceDie s d)
    | none => s

/-- A link begins to count as Down (R21): detours wait for the next map, dies that are cut off are fenced. -/
def takeDown (s : State) (n : Nat) : State :=
  if linkIsDown s n then s
  else
    let t := modLink s n fun l => { l with state := .down, detour := false }
    fenceCut 8 (if n < 10 then modModule t fun m => { m with newDetour := true } else t)

/-- A RAS entry of a link. -/
def logLink (s : State) (n : Nat) : State := logRas s .link false noLoc (BitVec.ofNat 64 n) 0

/-- A flit is sent again (R20). -/
def retryFlit (s : State) (n : Nat) : State :=
  if 14 ≤ n then s else logLink (modLink s n fun l => { l with crc := l.crc + 1 }) n

/-- A link is found Down, by its lanes or by a training that failed (R20, R21). -/
def linkLost (s : State) (n : Nat) : State := takeDown (raise (logLink s n) 0x0006 2 0 noLoc (BitVec.ofNat 64 n)) n

/-- A link goes Down (R20, R21). -/
def linkFails (s : State) (n : Nat) : State := if 14 ≤ n || linkIsDown s n then s else linkLost s n

/-- A link's lanes are as found (R20, R22). Traffic of a link that trains up returns to the fixed route at once, with no new epoch
(DESIGN CHOICE, log 22). -/
def settleLink (s : State) (n : Nat) (lanes : Nat × Nat) : State :=
  let st' := linkStateOf lanes
  let was := linkState s n
  if st' = .down then linkLost (modLink s n fun l => { l with lanes := lanes }) n
  else
    let t := modLink s n fun l => { l with state := st', lanes := lanes, detour := false }
    let t := if st' = was || st' = .up then t else logLink t n
    let t := if st' = .narrow && was != .narrow then raise t 0x0005 1 0 noLoc (BitVec.ofNat 64 n) else t
    if was = .down then sendStreams t else t

/-- More lanes of one direction of a link fail (R20). -/
def failLanes (s : State) (n lanes dir : Nat) : State :=
  let old := (tget s.module.links n Link.reset).lanes
  if 14 ≤ n || linkIsDown s n || lanes = 0 then s
  else settleLink s n (if dir = 0 then (min 66 (old.1 + lanes), old.2) else (old.1, min 66 (old.2 + lanes)))

/-- The training of a Down link ends (R22). -/
def trainLink (s : State) (n : Nat) (lanes : Nat × Nat) : State := if 14 ≤ n || !linkIsDown s n then s else settleLink s n lanes

/-- A link has trained to a state at power-up (R20, R21). -/
def trainedAs (s : State) (n : Nat) (st' : LinkState) : State :=
  match st' with
  | .up => s
  | .spared => logLink s n
  | .narrow => raise (logLink s n) 0x0005 1 0 noLoc (BitVec.ofNat 64 n)
  | .down =>
    let t := raise (logLink s n) 0x0006 2 0 noLoc (BitVec.ofNat 64 n)
    if n < 10 then modModule t fun m => { m with newDetour := true } else t

/-- Power-up trains every link over its lanes (R20, R33); then dies that are cut off are fenced (R21). -/
def trainAll (s : State) : State :=
  let t := modModule s fun m => { m with links := m.links.map fun l => (l.1, { l.2 with state := linkStateOf l.2.lanes, detour := false }) }
  fenceCut 8 (t.module.links.foldl (fun u l => trainedAs u l.1 l.2.state) t)

/-! ## Power (R33, R35, R36) -/

/-- What power-down leaves of a tract: what the fuses and the stacks keep (R17, R33, R44). -/
def darkTract (x : Tract) : Tract := { Tract.reset with spare := x.spare, failedChannels := x.failedChannels, lost := x.lost }

/-- What power-down leaves of the module: fuses, flash, the state of the lanes (R33), and the quads that the next map is to leave
out (R141). -/
def darkModule (m : Module) (p : Power) : Module :=
  { Module.reset with power := p, slotA := m.slotA, slotB := m.slotB, running := m.running, mgmtKey := m.mgmtKey, map := m.map,
                      newRetired := m.newRetired, bound := m.bound,
                      links := m.links.map fun l => (l.1, { l.2 with crc := 0, detour := false }), env := m.env }

/-- The state without power, or before power-up has finished: nothing is held but fuses and flash (R33, R35). -/
def dark (s : State) (p : Power) : State :=
  { State.reset with
    ctl := { s.ctl with bundle := none }, now := s.now, sent := s.sent, tracts := s.tracts.map fun t => (t.1, darkTract t.2),
    quads := (s.quads.filter fun q => q.2.retired).map fun q => (q.1, { Quad.reset with retired := true }),
    module := darkModule s.module p }

/-- All of memory is lost (R35). -/
def allMemory : List MemEffect := [.zero 0 (2 ^ 48)]

/-- A firmware image is signed under the key whose digest is fused (R97). -/
def imageOk (image : List Byte) : Bool :=
  let (r, s) := Config.imageSign image
  sha384 (Config.imageKey image) == Config.firmwareDigest && ecdsaOk (Config.imageKey image) (Config.imageText image) r s

/-- The boot ROM verifies a slot (R33, R97): the signature of an image that FWLOAD has written; of the image that a slot came
with, which no rule gives, what the slot says (log 58). -/
def FwSlot.verified (x : FwSlot) : Bool := x.valid && (x.image.isEmpty || imageOk x.image)

/-- The slot that the boot ROM selects (R33): of the valid ones the higher version, A where they are equal (DESIGN CHOICE, log 3);
2 for none. -/
def bootSlot (m : Module) : Nat :=
  match m.slotA.verified, m.slotB.verified with
  | true, true => if m.slotA.version < m.slotB.version then 1 else 0
  | true, false => 0
  | false, true => 1
  | false, false => 2

/-- What lies outside the limits (R36), given the module power of the last epochs: its limits are averages over 1 ms and 10 µs.
Where several do, the cause is the first in this order (DESIGN CHOICE, log 48). -/
def outside (e : Environment) (powers : List Nat) : Option ShutdownCause :=
  if 400 < e.inlet then some .inlet
  else if e.flow < 4500 then some .coolantFlow
  else if e.volt < 50000 || 58000 < e.volt then some .inputVoltage
  else if 1000 * 3000000 < (powers.take 1000).sum || 10 * 3300000 < (powers.take 10).sum then some .modulePower
  else none

/-- The environment that power-up meets: what the focus gives, inlet, flow, voltage and power, else the model's (log 5). -/
def startEnvironment (s : State) : Environment :=
  match s.ctl.focus with
  | [inlet, flow, volt, power] => { inlet := inlet, flow := flow, volt := volt, power := power }
  | _ => Module.reset.env

/-- Input power rises (R33, R36): the order of power-up, to its end. DT starts at 0. Outside the limits nothing powers up. -/
def powerUp (s : State) : State × List MemEffect :=
  let e := startEnvironment s
  if s.module.power = .on || (outside e []).isSome then (s, [])
  else
    let n := bootSlot s.module
    let t := dark s (if n = 2 then .noFirmware else .on)
    let t := { modModule t (fun m => { m with running := if n = 2 then m.running else n, env := e }) with now := 0 }
    (if n = 2 then t else trainAll t, allMemory)

/-- Power goes at once (R35). -/
def losePower (s : State) : State × List MemEffect := (dark s .off, allMemory)

/-- The code of a shutdown cause (R100). -/
def causeCode : ShutdownCause → Nat
  | .junction => 0
  | .coolantFlow => 1
  | .inlet => 2
  | .inputVoltage => 3
  | .modulePower => 4
  | .inputLoss => 5

/-- An orderly shutdown (R35): SHUTDOWN with its cause, and power goes; no entry drains, no abacus line is spilled. The loss of
input is not reported: R100 has it logged only and gives its record no RAS class and no place, and the model keeps none (DESIGN
CHOICE, log 48). -/
def shutdown (s : State) (cause : ShutdownCause) : State × List MemEffect :=
  if cause = .inputLoss then losePower s
  else losePower (raise s 0x000B 2 0 noLoc (BitVec.ofNat 64 (causeCode cause)))

/-! ## Temperature and environment (R31, R36) -/

/-- A junction sensor reads a temperature, in 0.1 °C (R31). That 115 °C persists is one sensor's standing there: how long is
counted for each sensor apart (DESIGN CHOICE, log 59). -/
def senseJunction (s : State) (die sensor : Nat) (temp : Int) : State :=
  if 8 ≤ die || 16 ≤ sensor then s
  else
    let x := dieAt s die
    let old := tget x.sensors sensor 0
    let sensors := tset x.sensors sensor temp
    let above (limit : Int) : Bool := sensors.any fun p => decide (limit ≤ p.2)
    let hot := if 1150 ≤ temp then (if (tfind x.hotSince sensor).isSome then x.hotSince else tset x.hotSince sensor s.now)
      else terase x.hotSince sensor
    let t := modDie s die fun y =>
      { y with sensors := sensors, hotSince := hot, cap7 := above 1050 || (y.cap7 && above 1000), cap0 := above 1150 }
    if 1150 ≤ temp && old < 1150 then raise t 0x0009 1 0 (locDie die) (BitVec.ofInt 64 temp) else t

/-- A sensor has stood at 115 °C for 10 ms (R31). -/
def overtemp (s : State) (die sensor : Nat) : State × List MemEffect :=
  match tfind (dieAt s die).hotSince sensor with
  | some since => if since + 10000000 ≤ s.now then shutdown s .junction else (s, [])
  | none => (s, [])

/-- Quantities of the environment (R100) that come within 5 % of a limit (R36). -/
def nearLimits (e : Environment) : List (Nat × Int) :=
  (if 380 ≤ e.inlet then [(0, e.inlet)] else []) ++ (if e.flow ≤ 4725 then [(1, (e.flow : Int))] else []) ++
    (if e.volt ≤ 52500 || 55100 ≤ e.volt then [(2, (e.volt : Int))] else []) ++
    (if 2850000 ≤ e.power then [(3, (e.power : Int))] else [])

/-- A shutdown comes next (R35). -/
def forceShutdown (s : State) (cause : ShutdownCause) : State :=
  { s with ctl := { s.ctl with agenda := { after := 0, ev := .orderlyShutdown cause, focus := [] } :: s.ctl.agenda } }

/-- The module reports its environment (R36): an event as a quantity comes near a limit; outside, the shutdown comes next. -/
def senseEnvironment (s : State) (e : Environment) : State :=
  let old := nearLimits s.module.env
  let powers := (e.power :: s.module.powers).take 1000
  let t := modModule s fun m => { m with env := e, powers := powers }
  let t := (nearLimits e).foldl (fun u p =>
    if old.any fun o => o.1 == p.1 then u
    else raise u 0x000A 1 0 noLoc (BitVec.ofNat 64 (p.1 + 2 ^ 8 * (BitVec.ofInt 32 p.2).toNat))) t
  match outside e powers with
  | some cause => forceShutdown t cause
  | none => t

/-- A sensor of some die has stood at 115 °C for 10 ms (R31). -/
def stoodHot (s : State) : Bool := s.dies.any fun d => d.2.hotSince.any fun p => decide (p.2 + 10000000 ≤ s.now)

/-! ## The arbiter (R29 to R32, R126) -/

/-- What a quad's epoch that ends leaves to log (R29, R125): its replays, and that no budget came. -/
def logEpoch (s : State) (q : Nat) : State :=
  let x := quadAt s q
  let t := if x.replays = 0 then s else logRas s .replay false (locQuad q) (BitVec.ofNat 64 x.replays) 0
  if x.latched.isNone && 0 < s.now && !x.retired then logRas t .budget false (locQuad q) 0 0 else t

/-- A quad's epoch starts (R29): its latched budget takes effect, else the floor; its counts and its hot filter's (R60) start
again, and its replays are judged (R141). -/
def startQuad (y : Quad) : Quad :=
  { y with level := y.latched.getD Config.floorLevel, latched := none, demand := 0, withheldLast := y.withheld, withheld := 0,
           replays := 0, heavyEpochs := if 10000 < y.replays then y.heavyEpochs + 1 else 0, hot := [] }

/-- Every quad of the module, changed. -/
def modQuads (s : State) (f : Nat → Quad → Quad) : State :=
  { s with quads := (List.range Config.quads).map fun q => (q, f q (quadAt s q)) }

/-- A grant epoch starts (R29), once for each; a die that has been too hot for too long shuts the module down (R31). -/
def startEpoch (s : State) (e : Environment) : State :=
  let n := s.now / Config.epochTicks
  if s.module.epochsBegun < n then
    let t := modQuads ((List.range Config.quads).foldl logEpoch s) fun _ => startQuad
    let t := senseEnvironment (modModule t fun m => { m with epochsBegun := n }) e
    if stoodHot t then forceShutdown t .junction else t
  else s

/-- A quad reports its demand and draw at tick 600 (R29). -/
def reportDemand (s : State) (q demand draw : Nat) : State :=
  if s.now % Config.epochTicks = 600 && q < Config.quads then modQuad s q fun x => { x with demand := demand, draw := draw } else s

/-- A quad's claim on the pool (R29): its demand, weighted by its partition's share. -/
def claimOf (s : State) (q : Nat) : Nat := (quadAt s q).demand * (partAt s (tractAt s (q / 32)).owner).share

/-- What a quad may get of the pool (R29): room, the levels above the floor that its die's temperature leaves it (R31), and its
claim. -/
structure Bid where
  quad : Nat
  room : Nat
  claim : Nat
  deriving DecidableEq, Repr

/-- The bid of a quad. -/
def bidOf (s : State) (q : Nat) : Bid :=
  let d := dieAt s (q / 64)
  { quad := q, room := (if d.cap0 then Config.floorLevel else if d.cap7 then 7 else 15) - Config.floorLevel, claim := claimOf s q }

/-- The levels that a quad gets where the claims of all together get m levels, in proportion. -/
def Bid.levels (total m : Nat) (b : Bid) : Nat := min b.room (b.claim * m / total)

/-- The levels that are spent so. -/
def spent (total m : Nat) (bids : List Bid) : Nat := (bids.map (Bid.levels total m)).sum

/-- The greatest m below m + 2^n for which no more than the pool is spent. -/
def poolRate (pool total : Nat) (bids : List Bid) : Nat → Nat → Nat
  | 0, m => m
  | n + 1, m => poolRate pool total bids n (if spent total (m + 2 ^ n) bids ≤ pool then m + 2 ^ n else m)

/-- Insert a bid in the arbiter's order for an epoch (log 11). -/
def insertBid (n : Nat) (b : Bid) : List Bid → List Bid
  | [] => [b]
  | c :: cs =>
    let rank (x : Bid) : Nat × Nat := (Config.poolRank n x.quad, x.quad)
    if older (rank b) (rank c) then b :: c :: cs else c :: insertBid n b cs

/-- The quads that get one level more, of those with room, until the pool is spent (R29, log 11). -/
def lastLevels (n pool total m : Nat) (bids : List Bid) : List Nat :=
  (((bids.filter fun b => 0 < b.claim && b.levels total m < b.room).foldr (insertBid n) []).take (pool - spent total m bids)).map (·.quad)

/-- The budgets of an epoch by quad (R29, R31): the floor, and the pool in proportion to the claims until it is spent, or no quad
with a claim has room. -/
def budgets (s : State) (n pool : Nat) : List (Nat × Nat) :=
  let bids := (List.range Config.quads).map (bidOf s)
  let total := (bids.map (·.claim)).sum
  let m := poolRate pool total bids 64 0
  let more := lastLevels n pool total m bids
  bids.map fun b => (b.quad, Config.floorLevel + b.levels total m + if more.contains b.quad then 1 else 0)

/-- The arbiter sends the budgets of the next epoch, from tick 900 on (R29). -/
def sendBudgets (s : State) : State :=
  let n := s.now / Config.epochTicks
  if 900 ≤ s.now % Config.epochTicks && s.module.budgetsSent ≤ n then
    let levels := budgets s (n + 1) (Config.pool (s.quads.map fun q => q.2.draw).sum)
    modModule (modQuads s fun q x => { x with latched := some (tget levels q Config.floorLevel) }) fun m => { m with budgetsSent := n + 1 }
  else s

/-- A cycle outside the quad's allowance (R30, R32). -/
def withholdCycle (s : State) (q : Nat) : State :=
  if allowed s q || Config.quads ≤ q then s else modQuad s q Quad.hold

/-- A timing detector makes a quad repeat a cycle, for which it holds two (R126). -/
def replayCycle (s : State) (q : Nat) : State :=
  if Config.quads ≤ q then s
  else modQuad s q fun x => { x.hold.hold with replays := x.replays + 1, rply := x.rply + 1 }

/-! ## Dies (R28, R68, R69) -/

/-- A die, compute or I/O, loses lock to the DT reference (R28). -/
def loseLock (s : State) (d : Nat) : State :=
  if 10 ≤ d then s else fenceDie (modDie s d fun x => { x with locked := false }) d

/-- A link that is Down keeps an acknowledgement of a die from a home (R68): it lies on their fixed route, whatever detour has been
installed since, or on the route in force. -/
def ackCut (s : State) (home die : Nat) : Bool := (fixedRoute home die ++ routeNow s home die).any (linkIsDown s)

/-- A fan-out's deadline passes (R68): the dies whose acknowledgements are missing because of a link that is Down are fenced. -/
def passDeadline (s : State) (line : Nat) : State :=
  match (homeAt s line).txn with
  | some x =>
    if x.deadline ≤ s.now then ((nub (x.missing.map (· / 64))).filter (ackCut s (homeSlice s line / 64))).foldl fenceDie s else s
  | none => s

/-- The links of a die (R18). -/
def linksOf (d : Nat) : List Nat :=
  if 8 ≤ d then [ioLink d 0, ioLink d 1]
  else ([0, 1, 2, 3].flatMap fun c => if c == d % 4 then [6 + c] else []) ++
    (if d % 4 = 0 then [] else [rowLink (d / 4) (d % 4 - 1)]) ++ (if d % 4 = 3 then [] else [rowLink (d / 4) (d % 4)]) ++
    (if d % 4 = 0 then [10 + d / 4] else []) ++ (if d % 4 = 3 then [12 + d / 4] else [])

/-- A die's DT counter has lock again (R28). -/
def relock (s : State) (d : Nat) : State := if 10 ≤ d then s else modDie s d fun x => { x with locked := true }

/-- A fenced die rejoins (R28, R69): its counter has lock, its links are usable, no die in service is cut off from it (R21), its
gangs are gone, its copies and loans are dropped, its stacks' parity is computed again, of which no delta on its way is a part.
Of an I/O die only its lock and its links count, and its ports carry traffic again (DESIGN CHOICE, log 22). -/
def rejoin (s : State) (d : Nat) : State :=
  if 10 ≤ d || !(dieAt s d).fenced || !(dieAt s d).locked || (linksOf d).any (linkIsDown s) || (decide (d < 8) && cutFrom s d != []) ||
      s.blocks.any fun p => p.1 / 1024 == d then s
  else if 8 ≤ d then sendStreams (modDie s d fun x => { x with fenced := false })
  else
    let t := ((List.range 64).map (64 * d + ·)).foldl (fun u q => modQuad u q fun x =>
      (x.copies.filter fun c => c.kind != .homed).foldl (fun y c => capHorizons c.line y)
        { x with copies := x.copies.filter (fun c => c.kind == .homed), redirects := [], notes := [] }) s
    let t := { t with cores := t.cores.map (fun p => if p.1 / 256 == d then (p.1, { p.2 with l1 := [] }) else p),
                      homes := t.homes.map fun p => (p.1, { p.2 with loans := p.2.loans.filter fun q => q / 64 != d }) }
    let t := dropMsgs t fun _ m => endsAtFence d m
    modDie (recomputeParity t d) d fun x => { x with fenced := false }

/-! ## Ports (R25) -/

/-- What has become of a port by now (R99): one that is up has carried more frames, how many is free; one that is down may have
begun to train (log 2). -/
def agePort (s : State) (n : Nat) : State :=
  nextChoices (modPort s n fun x => match x.state with
    | .up =>
      { x with
        sent := moreFrames x.sent 0 (freeField s 0).toNat
        received := moreFrames x.received 0 (freeField s 1).toNat }
    | .down => if Config.freeBit s.ctl.free then { x with state := .training } else x
    | .training => x)

/-- A port goes down (R25): every endpoint hears of it through the others. -/
def portFails (s : State) (n : Nat) : State :=
  if ((portList s).any fun p => p.1 == n) && (tget s.module.ports n Port.reset).state == .up then
    let t := modPort (agePort s n) n fun x => { x with state := .down }
    (0 :: tkeys t.parts).foldl (fun u e => sendEvent u e 0x0004 2 0 noLoc (BitVec.ofNat 64 n)) t
  else s

/-- A port is up again (R25): what waited for a way to the host is sent. -/
def portReturns (s : State) (n : Nat) : State :=
  if (tget s.module.ports n Port.reset).state != .up then sendStreams (modPort s n fun x => { x with state := .up }) else s

/-! ## Stacks and quads (R43, R44, R141) -/

/-- A pseudo-channel fails (R43, R44): while the parity of a fenced die's stack is not kept, its lines are lost (R69). The lines
of one that had failed before the die was fenced are served as before (DESIGN CHOICE, log 60). -/
def failChannel (s : State) (stack ch : Nat) : State :=
  if 16 ≤ stack || 256 ≤ ch || (tractAt s stack).failedChannels.contains ch then s
  else
    let fenced := ((List.range 8).map (stack / 8 * 8 + ·)).filter fun u => (dieAt s (u / 2)).fenced
    let t := modTract s stack fun x => { x with failedChannels := x.failedChannels ++ [ch], lost := x.lost ++ fenced.map fun u => (ch, u) }
    logRas t .channel false (locTract stack) (BitVec.ofNat 64 ch) 0

/-- Errors of a list that lie within the last 10^9 ticks. -/
def recent (now : Nat) (l : List Nat) : Nat := l.countP fun d => decide (now < d + 1000000000)

/-- A quad meets a criterion of R141. -/
def mustRetire (s : State) (q : Nat) : Bool :=
  let x := quadAt s q
  !x.retired && (decide (4 ≤ recent s.now x.uncorrected) || decide (2 ≤ recent s.now x.controls) || decide (3 ≤ x.heavyEpochs))

/-- A quad is retired (R141): its free slots leave the credit, its gangs are killed, its slice leaves with the next map, and then
QUAD_RETIRED is raised. Its cores drop every L1 copy (R383). A reservation whose window holds it ends (DESIGN CHOICE, log 63),
and a gang with 64 passes that is still pending reserves anew at once (R109). -/
def retireQuad (s : State) (q : Nat) : State :=
  if Config.quads ≤ q || !mustRetire s q then s
  else
    let mine := s.blocks.filter fun p => p.1 / 16 == q
    let free := 16 - mine.length
    let t := logRas (modQuad s q fun x => { x with retired := true }) .retire false (locQuad q) 0 0
    let t := modTract t (q / 32) fun x =>
      { x with credit := x.credit - free, owed := x.owed + (free - x.credit),
               reservation := match x.reservation with
                 | some (g, f) => if f / 4 ≤ q && q ≤ (f + (gangAt s g).size - 1) / 4 then none else some (g, f)
                 | none => none }
    let t := (nub (mine.map fun p => p.2.gang)).foldl (fun u g => startKill u g (some .retire) false (locQuad q)) t
    let t := ((List.range 4).map (4 * q + ·)).foldl (fun u c => dropL1 u c fun _ => true) (reserve t (q / 32))
    modModule t fun m => { m with newRetired := m.newRetired ++ [q] }

/-- A forwarding stub powers off (R65). -/
def stubOff (s : State) (q : Nat) : State :=
  match (quadAt s q).stub with
  | some h => if h ≤ s.now then modQuad s q fun x => { x with stub := none, gated := true } else s
  | none => s

/-! ## The meanings -/

/-- Power-up (R33). The focus: what the sensors read, where it is given (see startEnvironment). -/
def execPowerUp (s : State) : Host.Outcome State Fault Refusal := .next (commit s (powerUp s))

/-- Sudden loss of input power (R35). -/
def execPowerLoss (s : State) : Host.Outcome State Fault Refusal := .next (commit s (losePower s))

/-- An orderly shutdown (R35). -/
def execOrderlyShutdown (cause : ShutdownCause) (s : State) : Host.Outcome State Fault Refusal := .next (commit s (shutdown s cause))

/-- A sensor has stood at 115 °C for 10 ms (R31). The focus: die, sensor. -/
def execJunctionOvertempTimeout (s : State) : Host.Outcome State Fault Refusal := .next (commit s (overtemp s (s.arg 0) (s.arg 1)))

/-- A junction sensor reads a temperature (R31). -/
def execThermalSensorCrossing (die sensor : Nat) (temp : Int) (s : State) : Host.Outcome State Fault Refusal :=
  .next (quiet s (senseJunction s die sensor temp))

/-- A grant epoch starts (R29), once for each. -/
def execPowerEpochStart (e : Environment) (s : State) : Host.Outcome State Fault Refusal := .next (quiet s (startEpoch s e))

/-- A quad reports its demand (R29). The focus: quad, demand, draw. -/
def execDemandReport (s : State) : Host.Outcome State Fault Refusal := .next (quiet s (reportDemand s (s.arg 0) (s.arg 1) (s.arg 2)))

/-- The arbiter sends the budgets (R29). -/
def execBudgetSend (s : State) : Host.Outcome State Fault Refusal := .next (quiet s (sendBudgets s))

/-- A cycle is withheld (R30). The focus: quad. -/
def execWithheldCycle (s : State) : Host.Outcome State Fault Refusal := .next (quiet s (withholdCycle s (s.arg 0)))

/-- A timing detector makes a cycle repeat (R126). The focus: quad. -/
def execTimingReplay (s : State) : Host.Outcome State Fault Refusal := .next (quiet s (replayCycle s (s.arg 0)))

/-- A flit fails its CRC and is sent again (R20). The focus: link. -/
def execLinkCrcRetry (s : State) : Host.Outcome State Fault Refusal := .next (quiet s (retryFlit s (s.arg 0)))

/-- Lanes of a link fail (R20). The focus: link, lanes, direction. -/
def execLinkLaneFailure (s : State) : Host.Outcome State Fault Refusal := .next (quiet s (failLanes s (s.arg 0) (s.arg 1) (s.arg 2)))

/-- A link goes Down (R21). The focus: link. -/
def execLinkDown (s : State) : Host.Outcome State Fault Refusal := .next (quiet s (linkFails s (s.arg 0)))

/-- A link's training ends (R22). The focus: link, lanes failed in each direction. -/
def execLinkTrainingDone (s : State) : Host.Outcome State Fault Refusal := .next (quiet s (trainLink s (s.arg 0) (s.arg 1, s.arg 2)))

/-- A die's DT counter loses lock (R28). The focus: die. -/
def execDtLockLoss (s : State) : Host.Outcome State Fault Refusal := .next (quiet s (loseLock s (s.arg 0)))

/-- A fan-out's deadline passes (R68). The focus: line. -/
def execSnpDeadline (s : State) : Host.Outcome State Fault Refusal := .next (quiet s (passDeadline s (s.arg 0)))

/-- A fenced die rejoins (R69). The focus: die; 1 for that its counter has lock again, which comes first (R28). -/
def execDieRejoin (s : State) : Host.Outcome State Fault Refusal :=
  .next (quiet s (if s.arg 1 = 1 then relock s (s.arg 0) else rejoin s (s.arg 0)))

/-- A port goes down (R25). The focus: port. -/
def execPortDown (s : State) : Host.Outcome State Fault Refusal := .next (quiet s (portFails s (s.arg 0)))

/-- A port is up again (R25). The focus: port. -/
def execPortUp (s : State) : Host.Outcome State Fault Refusal := .next (quiet s (portReturns s (s.arg 0)))

/-- A pseudo-channel fails (R43). The focus: stack, channel. -/
def execPseudoChannelFailure (s : State) : Host.Outcome State Fault Refusal := .next (quiet s (failChannel s (s.arg 0) (s.arg 1)))

/-- A quad is retired (R141). The focus: quad. -/
def execQuadRetirement (s : State) : Host.Outcome State Fault Refusal := .next (quiet s (retireQuad s (s.arg 0)))

/-- The firmware installs the next slice map (R65). -/
def execSliceMapChange (s : State) : Host.Outcome State Fault Refusal := .next (commit s (changeMap s))

/-- A forwarding stub powers off (R65). The focus: quad. -/
def execStubPowerOff (s : State) : Host.Outcome State Fault Refusal := .next (quiet s (stubOff s (s.arg 0)))

end Sys2Proof.Machine
end

