-- ==== Sys2Proof/Machine/Wire.lean ====
section
/-! DEFINITION. The bytes of what the host sends and receives (R79, R83, R85, R86): the command header, the launch record, and the
module's responses, completions and events, all little-endian. -/

namespace Sys2Proof.Machine

/-- n bytes of a send from an offset on, as a number. -/
def wireField (bs : List Byte) (off n : Nat) : Nat := leNat ((bs.drop off).take n)

/-- The command header of a send from a source to an endpoint (R79). -/
def headerOfBytes (src : Source) (endpoint : Nat) (bs : List Byte) : CmdHeader :=
  { endpoint := endpoint, src := src, version := BitVec.ofNat 8 (wireField bs 1 1), rsv0 := BitVec.ofNat 16 (wireField bs 2 2),
    len := BitVec.ofNat 32 (wireField bs 4 4), seq := BitVec.ofNat 64 (wireField bs 8 8), tag := BitVec.ofNat 64 (wireField bs 0x10 8),
    rsv1 := BitVec.ofNat 64 (wireField bs 0x18 8) }

/-- The 32 bytes of a command header with its opcode (R79). -/
def headerBytesOf (opcode : Byte) (h : CmdHeader) : List Byte :=
  [opcode, h.version] ++ leBytes 2 h.rsv0.toNat ++ leBytes 4 h.len.toNat ++ leBytes 8 h.seq.toNat ++ leBytes 8 h.tag.toNat ++
    leBytes 8 h.rsv1.toNat

/-- The launch record that 128 bytes hold (R83). -/
def recordOfBytes (bs : List Byte) : LaunchRecord :=
  { entry := BitVec.ofNat 64 (wireField bs 0x00 8), codeBase := BitVec.ofNat 64 (wireField bs 0x08 8),
    params := BitVec.ofNat 64 (wireField bs 0x10 8), blocks := BitVec.ofNat 32 (wireField bs 0x18 4),
    gang := BitVec.ofNat 16 (wireField bs 0x1C 2), sheaves := BitVec.ofNat 8 (wireField bs 0x1E 1),
    log2w := BitVec.ofNat 8 (wireField bs 0x1F 1), items := BitVec.ofNat 32 (wireField bs 0x20 4),
    tail := BitVec.ofNat 32 (wireField bs 0x24 4), regs := BitVec.ofNat 16 (wireField bs 0x28 2),
    xpad := BitVec.ofNat 16 (wireField bs 0x2A 2), xwin := BitVec.ofNat 16 (wireField bs 0x2C 2),
    threshold := BitVec.ofNat 8 (wireField bs 0x2E 1), prio := BitVec.ofNat 8 (wireField bs 0x2F 1),
    refill := BitVec.ofNat 32 (wireField bs 0x30 4), handler := BitVec.ofNat 32 (wireField bs 0x34 4),
    resume := BitVec.ofNat 32 (wireField bs 0x38 4), trapOff := BitVec.ofNat 32 (wireField bs 0x3C 4),
    endpoint := BitVec.ofNat 64 (wireField bs 0x40 8), tag := BitVec.ofNat 64 (wireField bs 0x48 8),
    fmask := BitVec.ofNat 16 (wireField bs 0x50 2), nbv := BitVec.ofNat 8 (wireField bs 0x52 1),
    flags := BitVec.ofNat 8 (wireField bs 0x53 1), ctx := BitVec.ofNat 32 (wireField bs 0x54 4),
    save := BitVec.ofNat 64 (wireField bs 0x58 8), tailCtr := BitVec.ofNat 64 (wireField bs 0x60 8),
    rsv := BitVec.ofNat 192 (wireField bs 0x68 24) }

/-- The 128 bytes of a launch record (R83). -/
def recordBytes (r : LaunchRecord) : List Byte :=
  leBytes 8 r.entry.toNat ++ leBytes 8 r.codeBase.toNat ++ leBytes 8 r.params.toNat ++ leBytes 4 r.blocks.toNat ++
    leBytes 2 r.gang.toNat ++ [r.sheaves, r.log2w] ++ leBytes 4 r.items.toNat ++ leBytes 4 r.tail.toNat ++ leBytes 2 r.regs.toNat ++
    leBytes 2 r.xpad.toNat ++ leBytes 2 r.xwin.toNat ++ [r.threshold, r.prio] ++ leBytes 4 r.refill.toNat ++
    leBytes 4 r.handler.toNat ++ leBytes 4 r.resume.toNat ++ leBytes 4 r.trapOff.toNat ++ leBytes 8 r.endpoint.toNat ++
    leBytes 8 r.tag.toNat ++ leBytes 2 r.fmask.toNat ++ [r.nbv, r.flags] ++ leBytes 4 r.ctx.toNat ++ leBytes 8 r.save.toNat ++
    leBytes 8 r.tailCtr.toNat ++ leBytes 24 r.rsv.toNat

/-- The code of a completion's status (R85). -/
def Status.code (x : Status) : Nat := x.ctorIdx

/-- The bytes of what the module sends: a response header with its detail (R79), a completion (R85), an event (R86), the data of
an RMA read or a transport atomic (R75). -/
def Sent.bytes : Sent → List Byte
  | .response _ opcode status seq tag result detail =>
    [opcode, status, 0, 0] ++ leBytes 4 detail.length ++ leBytes 8 seq.toNat ++ leBytes 8 tag.toNat ++ leBytes 8 result.toNat ++ detail
  | .completion _ _ tag launch status killed relaunched dt =>
    leBytes 8 tag.toNat ++ leBytes 4 launch ++ leBytes 1 status.code ++ [0, 0, 0] ++ leBytes 4 killed ++ leBytes 4 relaunched ++ leBytes 8 dt
  | .event _ _ code severity part seq dt die tract quad core detail =>
    leBytes 2 code ++ leBytes 1 severity ++ leBytes 1 part ++ leBytes 4 seq ++ leBytes 8 dt ++ leBytes 1 die ++ [0] ++ leBytes 1 tract ++
      [0] ++ leBytes 2 quad ++ leBytes 2 core ++ leBytes 8 detail.toNat
  | .rmaDone _ _ data => data

end Sys2Proof.Machine
end

