-- ==== Sys2Proof/Machine/Host.lean ====
section
/-! DEFINITION. The host (R74 to R100): RMA, commands with their answers in stream order, launches, pre-emption, SHOOT, resets,
queries, quality of service, keys, signed code, firmware and attestation. -/

namespace Sys2Proof.Machine

/-! ## Answers (R79 to R81) -/

/-- The status codes of a response (R80). -/
inductive CmdStatus where
  | ok | malformed | denied | full | notFound | badSig | busy | failed
  deriving DecidableEq, Repr

/-- The code of a status. -/
def CmdStatus.code (c : CmdStatus) : Byte := BitVec.ofNat 8 c.ctorIdx

/-- The response to a command: a send to its source (R79). -/
def responseOf (h : CmdHeader) (op : Nat) (c : CmdStatus) (result : DWord) (detail : List Byte) : Sent :=
  .response h.src (BitVec.ofNat 8 op) c.code h.seq h.tag result detail

/-- A command that awaits its turn or its conditions. -/
def waitingOf (h : CmdHeader) (op target : Nat) (ready : Option Sent) : Waiting :=
  { opcode := op, h := h, target := target, resume := false, count := 0, entries := [], ops := [], loads := [], copies := [], rewalks := [], mmas := [], horizon := 0,
    ready := ready }

/-- Answer a command: at once on the management endpoint, in its turn on a partition's stream (R81). -/
def answer (s : State) (h : CmdHeader) (op : Nat) (c : CmdStatus) (result : DWord) (detail : List Byte) : State :=
  let r := responseOf h op c result detail
  if h.endpoint = 0 then emit s r
  else sendStream (modPart s h.endpoint fun x => { x with waiting := x.waiting ++ [waitingOf h op 0 (some r)] }) h.endpoint

/-- Answer with a status alone. -/
def reply (s : State) (h : CmdHeader) (op : Nat) (c : CmdStatus) : State := answer s h op c 0 []

/-- A header that is not as R79 has it, for a payload of a length. -/
def badHeader (h : CmdHeader) (len : Nat) : Bool := h.version != 1 || h.rsv0 != 0 || h.rsv1 != 0 || h.len.toNat != len

/-- The endpoints on which a command is accepted (R82). -/
inductive Where where
  | management | partition | both
  deriving DecidableEq, Repr

/-- The endpoint is one of them. -/
def Where.takes (w : Where) (endpoint : Nat) : Bool :=
  match w with
  | .management => endpoint == 0
  | .partition => endpoint != 0
  | .both => true

/-- A command reaches its endpoint: the host can be reached, the endpoint exists, and its stream has accepted no later one (R25,
R81). -/
def received (s : State) (h : CmdHeader) : Bool :=
  hostReach s && (h.endpoint == 0 || ((tfind s.parts h.endpoint).isSome && decide ((partAt s h.endpoint).lastSeq ≤ h.seq.toNat)))

/-- A partition's stream stands at a command's sequence number (R81). -/
def noteSeq (s : State) (h : CmdHeader) : State :=
  if h.endpoint = 0 then s else modPart s h.endpoint fun x => { x with lastSeq := h.seq.toNat }

/-- Accept a command (R8, R25, R76, R80, R82): FULL, then MALFORMED for the header and the fields, then DENIED for the endpoint
(log 24); else what the command does. A command to an endpoint that does not exist, or that no port carries, is not received, and
on an ordered stream none before one that has been (R81, log 49). -/
def accept (s : State) (h : CmdHeader) (op len : Nat) (w : Where) (bad : Bool) (body : State → State × List MemEffect) :
    State × List MemEffect :=
  if !received s h then (s, [])
  else
    let t := noteSeq (hears s) h
    if h.endpoint != 0 && decide (64 ≤ (partAt t h.endpoint).waiting.length) then (reply t h op .full, [])
    else if badHeader h len || bad then (reply t h op .malformed, [])
    else if !w.takes h.endpoint then (reply t h op .denied, [])
    else body t

/-- A command whose effects leave memory alone. -/
def acceptQuiet (s : State) (h : CmdHeader) (op len : Nat) (w : Where) (bad : Bool) (body : State → State) : State :=
  (accept s h op len w bad fun t => (body t, [])).1

/-! ## RMA (R75, R133) -/

/-- The lines of a range. -/
def linesOf (pa len : Nat) : List Nat := if len = 0 then [] else (List.range ((pa + len - 1) / 64 - pa / 64 + 1)).map (pa / 64 + ·)

/-- An RMA range that a partition may reach (R75): populated, in its tracts, its homes on no fenced die; at most 64 MiB (R74). -/
def rmaLegal (s : State) (p pa len : Nat) : Bool :=
  decide (len ≤ 2 ^ 26) && (linesOf pa len).all fun line => ownPa s p (64 * line) && !homeFenced s (64 * line)

/-- The host and a partition's endpoint can speak. -/
def rmaOpen (s : State) (p : Nat) : Bool := hostReach s && (tfind s.parts p).isSome

/-- The bytes of a range that lie in a line, by their offset. -/
def lineData (pa : Nat) (data : List Byte) (line : Nat) : Tab Byte :=
  (List.range 64).filterMap fun i => if pa ≤ 64 * line + i then (data[64 * line + i - pa]?).map fun v => (i, v) else none

/-- A message of the host enters the fabric through a port (R19, R25). It reaches its home in the same step unless a link holds it
back (R21), or where the focus is 1 in a step of its own (log 47). -/
def enters (s : State) (port : Nat) (m : Msg) : State × List MemEffect :=
  let (id, t) := fresh s
  let t := putMsg t id none (some port) m
  if s.arg 0 = 1 then (t, [])
  else match arriving t id with
    | some n => arriveMsg t 0 id n
    | none => (t, [])

/-- A message for each of some lines enters the fabric. -/
def enterLines (s : State) (port : Nat) (m : State → Nat → Msg) (lines : List Nat) : State × List MemEffect :=
  lines.foldl (fun (r : State × List MemEffect) line =>
    let (u, es) := enters r.1 port (m r.1 line)
    ({ u with mem := memApply u.mem es }, r.2 ++ es)) (s, [])

/-- An access of the host begins (R75), with the lines that are to answer; it answers the port that carries it. -/
def beginRma (s : State) (tag : DWord) (lines : Nat) (range : Option (Nat × Nat)) : Nat × State :=
  let port := (hostPort s).getD 0
  (port, modModule (countFrames s (some port) false) fun m =>
    { m with rma := m.rma ++ [{ tag := tag, lines := lines, horizon := 0, data := [], range := range, got := [], poison := false, port := port }] })

/-- An access of the host receives an error completion (R69, R75). -/
def rmaError (s : State) (tag : DWord) : State := emit (hears s) (.rmaDone tag false [])

/-- An RMA write (R75). -/
def hostWrite (s : State) (p pa : Nat) (data : List Byte) (tag : DWord) : State × List MemEffect :=
  if !rmaOpen s p then (s, [])
  else if !rmaLegal s p pa data.length then (rmaError s tag, [])
  else
    let ls := linesOf pa data.length
    let (port, t) := beginRma s tag ls.length none
    enterLines t port (fun u line => .rmaWrite (homeSlice u line) line (lineData pa data line) tag u.now) ls

/-- What an access of the host returns (R75, R133): the value of an atomic, or the bytes of a range in which nothing is poisoned; an
error where a fenced die has refused a line of it (R69). -/
def rmaAnswer (r : RmaPending) : Sent :=
  if r.refused then .rmaDone r.tag false []
  else match r.range with
  | none => .rmaDone r.tag true r.data
  | some (pa, len) => if r.poison then .rmaDone r.tag false [] else .rmaDone r.tag true ((List.range len).map fun i => tget r.got (pa + i) 0)

/-- The completion of an access of the host (R75): every line has answered, and DT has passed every completion time. -/
def hostAccessDone (s : State) (tag : DWord) : State :=
  match s.module.rma.find? fun r => r.tag == tag && r.lines == 0 && decide (r.horizon ≤ s.now) with
  | some r =>
    if hostReach s then modModule (emit s (rmaAnswer r)) fun m => { m with rma := m.rma.erase r } else s
  | none => s

/-- An RMA read (R75): each line's content at its home when the read reaches it. -/
def hostRead (s : State) (p pa len : Nat) (tag : DWord) : State :=
  if !rmaOpen s p then s
  else if !rmaLegal s p pa len then rmaError s tag
  else
    let ls := linesOf pa len
    let (port, t) := beginRma s tag ls.length (some (pa, len))
    hostAccessDone (enterLines t port (fun u line => .rmaRead (homeSlice u line) line tag u.now) ls).1 tag

/-- A transport atomic (R75): a system-scope atomic at its home; one that is not aligned receives an error (log 25). -/
def hostAtomic (s : State) (p pa : Nat) (op : AtomOp) (ty : BitVec 4) (v e tag : DWord) : State × List MemEffect :=
  let n := tyWidth ty / 8
  if !rmaOpen s p then (s, [])
  else if !rmaLegal s p pa n || n = 0 || pa % n != 0 then (rmaError s tag, [])
  else
    let (port, t) := beginRma s tag 1 none
    enters t port (.portAtomic (homeSlice t (pa / 64)) pa op ty v e tag t.now)

/-! ## LAUNCH (R77, R83, R84, R96) -/

/-- An offset of the launch record: 4-aligned, or none. -/
def offsetOk (x : Word) : Bool := x == 0xFFFFFFFF || x.toNat % 4 == 0

/-- The limits of a launch record, field by field (R83). -/
def recordFields (r : LaunchRecord) : Bool :=
  r.entry.toNat % 4 == 0 && decide (r.codeBase ≤ r.entry) && r.codeBase.toNat % 65536 == 0 && r.params.toNat % 8 == 0 &&
    decide (1 ≤ r.gang.toNat) && decide (r.gang.toNat ≤ 16) && decide (1 ≤ r.blocks.toNat) && decide (r.blocks.toNat ≤ 16777216) &&
    r.blocks.toNat % r.gang.toNat == 0 && decide (3 ≤ r.log2w.toNat) && decide (r.log2w.toNat ≤ 6) && decide (1 ≤ r.sheaves.toNat) &&
    decide (r.sheaves.toNat ≤ 64) && decide (r.sheaves.toNat * 2 ^ r.log2w.toNat ≤ 512) && decide (32 ≤ r.regs.toNat) &&
    decide (r.regs.toNat ≤ 512) && r.regs.toNat % 32 == 0 && decide (r.xpad.toNat ≤ 3072) && r.xpad.toNat % 16 == 0 &&
    r.xwin.toNat % 16 == 0 && decide (2 * r.xwin.toNat ≤ r.xpad.toNat) && (r.gang != 1 || r.xwin == 0) &&
    decide (r.threshold.toNat ≤ 2 ^ r.log2w.toNat) && decide (r.prio.toNat ≤ 7) && offsetOk r.refill && offsetOk r.handler &&
    offsetOk r.resume && offsetOk r.trapOff && decide (r.endpoint.toNat < 16) && r.nbv == 1 && decide (r.flags.toNat < 8) &&
    decide (r.ctx.toNat < 64) && r.save.toNat % 64 == 0 && r.tailCtr.toNat % 8 == 0 && r.rsv == 0

/-- The limits that tie fields together (R83). -/
def recordTies (r : LaunchRecord) : Bool :=
  (tailEnabled r || (r.items != 0 && r.tail == 0)) && (!tailEnabled r || r.tailCtr != 0) &&
    (!preemptible r || (r.save != 0 && r.handler != 0xFFFFFFFF && r.resume != 0xFFFFFFFF)) &&
    (r.refill != 0xFFFFFFFF || (decide (r.items.toNat ≤ 1) && !tailEnabled r))

/-- A launch record within its limits (R83). -/
def recordLegal (r : LaunchRecord) : Bool := recordFields r && recordTies r

/-- The bytes of a context-table entry (R77). -/
def contextBytes (s : State) (p ctx : Nat) : List Byte :=
  (List.range 32).map fun i => memRead s.mem ((partAt s p).ctxBase + 32 * ctx + i)

/-- A context that the table holds: its root and its lease (R77). -/
def contextOf (s : State) (p ctx : Nat) : Option (Nat × Nat) :=
  let bs := contextBytes s p ctx
  let root := leNat (bs.take 8)
  let lease := leNat ((bs.drop 8).take 2)
  let ok := decide (ctx < (partAt s p).ctxCount) && leNat (bs.drop 10) == 1 && root % 65536 == 0 && ownPa s p root &&
    (lease == 0 || (decide (64 ≤ lease) && decide (lease ≤ 8192)))
  if ok then some (root, if lease = 0 then 512 else lease) else none

/-- The line of a context-table entry cannot be read: poisoned, or homed on a fenced die. -/
def contextUnreadable (s : State) (p ctx : Nat) : Option RasClass :=
  let pa := (partAt s p).ctxBase + 32 * ctx
  if (partAt s p).ctxCount ≤ ctx then none
  else if homeFenced s pa then some .fence
  else if lineBad s (pa / 64) then some .consumed
  else none

/-- The I/O die from which the device reads for a command (R21, R25). -/
def deviceDie (s : State) : Nat := (gateDie s (hostPort s)).getD 8

/-- A walk for a command reads an entry behind a link that is Down (R21). -/
def deviceWalkHeld (s : State) (root va : Nat) : Bool :=
  anyDown s && decide (va < Config.windowBase) && (walkLines s va root 3).any (lineHeld s (deviceDie s))

/-- The entry of a context in the table lies behind a link that is Down (R21). -/
def contextHeld (s : State) (p ctx : Nat) : Bool :=
  decide (ctx < (partAt s p).ctxCount) && lineHeld s (deviceDie s) (((partAt s p).ctxBase + 32 * ctx) / 64)

/-- A launch's code lies in a signed region of its context (R96). -/
def codeSigned (s : State) (p : Nat) (r : LaunchRecord) : Bool :=
  (partAt s p).regions.any fun g => g.ctx == r.ctx.toNat && decide (g.va ≤ r.codeBase.toNat) && decide (g.va ≤ r.entry.toNat) &&
    decide (r.codeBase.toNat < g.va + g.len) && decide (r.entry.toNat < g.va + g.len)

/-- The walk of a launch's tail counter (R83); none where the window lies there or the launch has none. -/
def tailWalk (s : State) (p root : Nat) (r : LaunchRecord) : Option Walk :=
  let va := r.tailCtr.toNat
  if tailEnabled r && decide (va < Config.windowBase) then some (walkFrom s p va root 3) else none

/-- A LAUNCH reads what lies behind a link that is Down (R21): the context's entry, or the tables of the tail counter's page. It is
not accepted until it can read it (DESIGN CHOICE, log 22). -/
def launchHeld (s : State) (p : Nat) (r : LaunchRecord) : Bool :=
  contextHeld s p r.ctx.toNat || match contextOf s p r.ctx.toNat with
    | some (root, _) => tailEnabled r && deviceWalkHeld s root r.tailCtr.toNat
    | none => false

/-- The tail counter lies in no page, or in a mapped page of another class than Coherent (R83, log 24). -/
def tailOutside (s : State) (p root : Nat) (r : LaunchRecord) : Bool :=
  tailEnabled r && match tailWalk s p root r with
    | some (.leaf x) => x.cls != 0
    | some _ => false
    | none => true

/-- A malformed entry that the walk of the tail counter meets makes a RAS entry (R87). -/
def logTail (s : State) (p root : Nat) (r : LaunchRecord) : State :=
  match tailWalk s p root r with
  | some (.malformed level pa) => logWalk s noLoc (.malformed level pa)
  | _ => s

/-- Queue a launch (R84). -/
def queueLaunch (s : State) (h : CmdHeader) (r : LaunchRecord) (root lease : Nat) : State :=
  let p := h.endpoint
  let id := (partAt s p).nextLaunch
  let (order, t) := fresh s
  let l : Launch := { Launch.blank with part := p, id := id, order := order, record := r, root := root, lease := lease }
  let t := { t with launches := tset t.launches (2 ^ 32 * p + id) l }
  answer (modPart t p fun x => { x with nextLaunch := id + 1, leaseTop := max x.leaseTop lease }) h 0x01 .ok (BitVec.ofNat 64 id) []

/-- LAUNCH (R83, R84). -/
def doLaunch (s : State) (h : CmdHeader) (r : LaunchRecord) : State :=
  acceptQuiet s h 0x01 128 .partition (!recordLegal r) fun t =>
    if launchHeld t h.endpoint r then s
    else match contextUnreadable t h.endpoint r.ctx.toNat with
    | some c => reply (logRas t c false noLoc 0 0) h 0x01 .failed
    | none =>
      match contextOf t h.endpoint r.ctx.toNat with
      | none => reply t h 0x01 .malformed
      | some (root, lease) =>
        let t := logTail t h.endpoint root r
        if tailOutside t h.endpoint root r then reply t h 0x01 .malformed
        else if (partAt t h.endpoint).signedCode && !codeSigned t h.endpoint r then reply t h 0x01 .denied
        else if 256 ≤ (partLaunches t h.endpoint).length then reply t h 0x01 .full
        else queueLaunch t h r root lease

/-! ## ABORT and PREEMPT (R90, R91) -/

/-- The gangs of a launch. -/
def launchGangs (s : State) (key : Nat) : List Nat := (s.gangs.filter fun p => p.2.launchKey == key).map (·.1)

/-- A killed gang that waits for its relaunch is dropped by ABORT, without a count and without a GANG_KILLED of its own; one that
is still stopping is counted as killed and reported (R138 says neither: DESIGN CHOICE, log 62). -/
def dropRelaunch (s : State) (g : Nat) : State :=
  let x := gangAt s g
  if x.state == .killed && !x.final then
    modLaunch (modGang s g fun y => { y with final := true }) x.launchKey fun l =>
      { l with droppedBlocks := l.droppedBlocks + (x.size - x.retiredMembers.length) }
  else s

/-- ABORT of a launch (R90): its gangs are killed, its unplaced blocks and frames go. -/
def abortLaunch (s : State) (key : Nat) : State :=
  let t := modLaunch s key fun l =>
    { l with aborted := true, suspended := false, resuming := false, droppedBlocks := l.droppedBlocks + (l.record.blocks.toNat - l.nextBlock),
             nextBlock := l.record.blocks.toNat }
  (launchGangs s key).foldl (fun u g => dropRelaunch (startKill u g none false noLoc) g) t

/-- ABORT (R82, R85, R90). -/
def doAbort (s : State) (h : CmdHeader) (id rsv : Word) : State :=
  acceptQuiet s h 0x02 8 .partition (rsv != 0) fun t =>
    let key := 2 ^ 32 * h.endpoint + id.toNat
    if (tfind t.launches key).isNone then reply t h 0x02 .notFound
    else if (launchAt t key).ready.isSome || (launchAt t key).aborted then reply t h 0x02 .ok
    else reply (abortLaunch t key) h 0x02 .ok

/-- A PREEMPT waits in a partition's stream. -/
def wait (s : State) (p : Nat) (w : Waiting) : State := modPart s p fun x => { x with waiting := x.waiting ++ [w] }

/-- PREEMPT suspend (R91). Of a launch that was aborted and has not completed it is DENIED (DESIGN CHOICE, log 61). -/
def doSuspend (s : State) (h : CmdHeader) (id : Word) (rsv : BitVec 24) : State :=
  acceptQuiet s h 0x03 8 .partition (rsv != 0) fun t =>
    let key := 2 ^ 32 * h.endpoint + id.toNat
    let l := launchAt t key
    if (tfind t.launches key).isNone then reply t h 0x03 .notFound
    else if l.ready.isSome || l.aborted || !preemptible l.record || l.suspended then reply t h 0x03 .denied
    else
      let u := modLaunch t key fun x => { x with suspended := true }
      wait ((launchGangs u key).foldl stopGang u) h.endpoint (waitingOf h 0x03 id.toNat none)

/-- Saved gangs are to be placed again (R91, R103), and dispatch goes on. -/
def resumeLaunch (s : State) (key : Nat) : State :=
  let gs := (launchGangs s key).filter fun g => (gangAt s g).state == .saved
  let t := gs.foldl (fun u g =>
    modLaunch (modGang u g fun x => { x with state := .pending, passes := 0 }) key fun l => { l with resumed := insertGang u g l.resumed }) s
  modLaunch t key fun l => { l with suspended := false, resuming := false }

/-- The saved gangs of a launch. -/
def savedGangs (s : State) (key : Nat) : Nat := (launchGangs s key).countP fun g => (gangAt s g).state == .saved

/-- The suspend of a launch awaits its response. -/
def suspending (s : State) (p id : Nat) : Bool :=
  (partAt s p).waiting.any fun w => w.opcode == 3 && w.target == id && !w.resume && w.ready.isNone

/-- PREEMPT resume (R91): one accepted before the suspend's response takes effect after it. While it waits for that, a second resume, or
a new suspend, is answered DENIED (DESIGN CHOICE, log 61). -/
def doResume (s : State) (h : CmdHeader) (id : Word) (rsv : BitVec 24) : State :=
  acceptQuiet s h 0x03 8 .partition (rsv != 0) fun t =>
    let key := 2 ^ 32 * h.endpoint + id.toNat
    let l := launchAt t key
    if (tfind t.launches key).isNone then reply t h 0x03 .notFound
    else if l.ready.isSome || !l.suspended || l.resuming then reply t h 0x03 .denied
    else if suspending t h.endpoint id.toNat then
      wait (modLaunch t key fun x => { x with resuming := true }) h.endpoint { waitingOf h 0x03 id.toNat none with resume := true }
    else answer (resumeLaunch t key) h 0x03 .ok (BitVec.ofNat 64 (savedGangs t key)) []

/-- Give a waiting command its response. -/
def settleWaiting (s : State) (p : Nat) (w : Waiting) (result : Nat) : State :=
  modPart s p fun x => { x with waiting := x.waiting.map fun y =>
    if y = w then { y with ready := some (responseOf w.h w.opcode .ok (BitVec.ofNat 64 result) []) } else y }

/-- No gang of a launch is on its way to being saved or released. -/
def gangsSettled (s : State) (key : Nat) : Bool :=
  (launchGangs s key).all fun g => match (gangAt s g).state with
    | .stopping _ | .killing _ => false
    | _ => true

/-- The response of a suspend, once every gang is saved or killed (R91); a resume that waits for it then takes effect. -/
def suspendDone (s : State) (p id : Nat) : State :=
  let key := 2 ^ 32 * p + id
  match (partAt s p).waiting.find? fun w => w.opcode == 3 && w.target == id && !w.resume && w.ready.isNone with
  | none => s
  | some w =>
    if !gangsSettled s key then s
    else
      let n := savedGangs s key
      let t := settleWaiting s p w n
      let t := match (partAt t p).waiting.find? fun y => y.opcode == 3 && y.target == id && y.resume && y.ready.isNone with
        | some y => settleWaiting (resumeLaunch t key) p y n
        | none => t
      sendStream t p

/-! ## SHOOT (R88, R89) -/

/-- A page lies in the range of a SHOOT. -/
def inRange (va count page : Nat) : Bool := count == 0 || (decide (va ≤ page * 2 ^ 16) && decide (page * 2 ^ 16 < va + count * 2 ^ 16))

/-- A TLB entry overlaps the range of a SHOOT. -/
def overlaps (va count : Nat) (e : TlbEntry) : Bool :=
  count == 0 || (decide (e.va < va + count * 2 ^ 16) && decide (va < e.va + e.leaf.size))

/-- A page of a context is served: who waits for it goes on (R88, R306). -/
def servePage (p ctx : Nat) (s : State) (page : Nat) : State :=
  let mine (b : Nat) : Bool := (blockAt s b).part == p && (launchOf s (blockAt s b)).record.ctx.toNat == ctx
  let left (vas : List Nat) : List Nat := vas.filter fun va => va / 2 ^ 16 != page
  let t := (tkeys s.strands).foldl (fun u k =>
    if mine (blockOf u k) then
      match (strandAt u k).cond with
      | .stalled (.page vas acc) =>
        if (left vas).isEmpty && !(blockAt u (blockOf u k)).undrawn then wake u k else setCond u k (.stalled (.page (left vas) acc))
      | .stalled (.draw vas acc) => setCond u k (if (left vas).isEmpty then .parked else .stalled (.draw (left vas) acc))
      | _ => u
    else u) s
  let served (q : CopyCmd) : CopyCmd :=
    if mine q.block && q.fault.any (fun va => va / 2 ^ 16 == page) then { q with fault := none } else q
  { t with cores := t.cores.map (fun c => (c.1, { c.2 with queue := c.2.queue.map served })),
           blocks := t.blocks.map fun b =>
             if mine b.1 && b.2.fault.any (fun f => f.1 / 2 ^ 16 == page) then (b.1, { b.2 with fault := none }) else b }

/-- A walk of the page of an entry of the fault table no longer meets KIND 0 (R88). -/
def faultWalks (s : State) (p : Nat) (e : PageFault) : Bool :=
  match walkFrom s p (e.page * 2 ^ 16) e.root 3 with
  | .fault => false
  | _ => true

/-- Re-walk one open fault (R88): freed with its waiters released, or kept with a new event, which names no unit (DESIGN CHOICE,
log 61). -/
def rewalk (p : Nat) (s : State) (id : Nat) : State :=
  match tfind (partAt s p).faults id with
  | none => s
  | some e =>
    if faultWalks s p e then servePage p e.ctx (modPart s p fun x => { x with faults := terase x.faults id }) e.page
    else faultEvent s p id e.ctx (e.page * 2 ^ 16) e.access noLoc

/-- Faulters that found the table full take an entry once one is free (R88), without another walk (DESIGN CHOICE, log 61). -/
def retryFaults (s : State) (p : Nat) : State :=
  let s := s.cores.foldl (fun t c => c.2.queue.foldl (fun u q =>
    let l := launchOf u (blockAt u q.block)
    match q.fault with
    | some va => if l.part == p then openFault u l va .engine (locCore c.1) else u
    | none => u) t) s
  let s := s.blocks.foldl (fun t b => match b.2.fault with
    | some (va, acc) => if b.2.part == p then openFault t (launchOf t b.2) va acc (locCore (b.1 / 4)) else t
    | none => t) s
  (tkeys s.strands).foldl (fun t k =>
    let b := blockAt t (blockOf t k)
    if b.part != p then t
    else match (strandAt t k).cond with
      | .stalled (.page vas acc) | .stalled (.draw vas acc) =>
        vas.foldl (fun u va => openFault u (launchOf u b) va acc (locCore (coreOf k))) t
      | _ => t) s

/-- Blocks of a context of a partition. -/
def contextBlocks (s : State) (p ctx : Nat) : List Nat :=
  (tkeys s.blocks).filter fun b => (blockAt s b).part == p && (launchOf s (blockAt s b)).record.ctx.toNat == ctx

/-- Launches of a context of a partition. -/
def contextLaunches (s : State) (p ctx : Nat) : List Nat :=
  (partLaunches s p).filter fun k => (launchAt s k).record.ctx.toNat == ctx

/-- Record entries of a context's launches, by core and number. -/
def contextEntries (s : State) (p ctx : Nat) : List (Nat × Nat) :=
  s.cores.flatMap fun c => (c.2.record.filter fun e => (contextLaunches s p ctx).contains (2 ^ 32 * e.part + e.launch)).map fun e => (c.1, e.seq)

/-- Operations of a context's blocks and gangs that have a completion time to come. -/
def contextOps (s : State) (p ctx : Nat) : List (Nat × Nat) :=
  ((contextBlocks s p ctx).flatMap fun b => (blockAt s b).ops.map fun o => (b, o.id)) ++
    (s.gangs.filter fun g => (contextLaunches s p ctx).contains g.2.launchKey).flatMap fun g => g.2.ops.map fun o => (g.1, o.id)

/-- Loads of a context's strands on their way. -/
def contextLoads (s : State) (p ctx : Nat) : List (Nat × Nat) :=
  (contextBlocks s p ctx).flatMap fun b => (blockStrands s b).flatMap fun k => (strandAt s k).loads.map fun l => (k, l.id)

/-- Lines of a context's copies that are on their way to the copy engine (R166). -/
def contextCopies (s : State) (p ctx : Nat) : List (Nat × Nat) :=
  s.cores.flatMap fun c => (c.2.queue.filter fun q => q.awaited != 0 && (contextBlocks s p ctx).contains q.block).map fun q => (c.1, q.op)

/-- Arrivals of matrix requests in latches and tables. -/
def arrivalsOf (s : State) : List Arrival :=
  s.quads.flatMap fun q => (q.2.latches.flatMap (·.arrivals)) ++ q.2.table.flatMap (·.members)

/-- Arrivals of a context's blocks, whose C was translated as they came (R333). -/
def contextMmas (s : State) (p ctx : Nat) : List Nat :=
  ((arrivalsOf s).filter fun a => (contextBlocks s p ctx).contains (sheafAt s a.sheaf).block).map (·.id)

/-- Open faults of a partition that a walk behind a link that is Down keeps from being walked again (R21). -/
def rewalkHeld (s : State) (p id : Nat) : Bool :=
  match tfind (partAt s p).faults id with
  | some e => deviceWalkHeld s e.root (e.page * 2 ^ 16)
  | none => false

/-- Re-walk open faults of a partition (R88, R89), those that can be; entries that this frees go to faulters that wait for one. -/
def rewalkAll (s : State) (p : Nat) (ids : List Nat) : State :=
  retryFaults ((ids.filter fun id => !rewalkHeld s p id).foldl (rewalk p) s) p

/-- SHOOT (R89). Of a context beyond the table it is answered NOTFOUND, also while launches that keep a copy of the entry run
(DESIGN CHOICE, log 61). A re-walk that a link holds is made before the response (R21). -/
def doShoot (s : State) (h : CmdHeader) (ctx count : Word) (va : DWord) : State :=
  acceptQuiet s h 0x04 16 .partition (decide (64 ≤ ctx.toNat) || va.toNat % 65536 != 0 || decide (2 ^ 52 ≤ va.toNat)) fun t =>
    let p := h.endpoint
    let c := ctx.toNat
    let (a, n) := (va.toNat, count.toNat)
    if (partAt t p).ctxCount ≤ c then reply t h 0x04 .notFound
    else
      let kept (l : List TlbEntry) := l.filter fun e => !(e.part == p && e.ctx == c && overlaps a n e)
      let t := { t with cores := t.cores.map fun x => (x.1, { x.2 with tlb := kept x.2.tlb, engineTlb := kept x.2.engineTlb }),
                        quads := t.quads.map fun x => (x.1, { x.2 with tlb := kept x.2.tlb }) }
      let t := modPart t p fun x => { x with regions := x.regions.filter fun g =>
        !(g.ctx == c && (n == 0 || (decide (g.va < a + n * 2 ^ 16) && decide (a < g.va + g.len)))) }
      let hit := ((partAt t p).faults.filter fun e => e.2.ctx == c && inRange a n e.2.page).map (·.1)
      let held := hit.filter (rewalkHeld t p)
      let t := rewalkAll t p hit
      let horizon := (contextLaunches t p c).foldl (fun m k => max m (launchAt t k).horizon) 0
      let t := wait t p { waitingOf h 0x04 c none with
        count := hit.length, entries := contextEntries t p c, ops := contextOps t p c, loads := contextLoads t p c,
        copies := contextCopies t p c, rewalks := held, mmas := contextMmas t p c, horizon := horizon }
      t

/-- A copy engine awaits lines of a command. -/
def awaitsLines (s : State) (core op : Nat) : Bool := (coreAt s core).queue.any fun q => q.op == op && q.awaited != 0

/-- What a SHOOT waits for is gone (R89): its entries drained or discarded, its operations complete, its loads and the lines of its
copies back, its matrix requests finished and delivered, its faults walked again. -/
def shootReady (s : State) (w : Waiting) : Bool :=
  (w.entries.all fun e => !((coreAt s e.1).record.any fun r => r.seq == e.2)) &&
    (w.ops.all fun o => !(s.blocks.any fun b => b.2.ops.any fun x => x.id == o.2) && !(s.gangs.any fun g => g.2.ops.any fun x => x.id == o.2)) &&
    (w.loads.all fun l => !((strandAt s l.1).loads.any fun x => x.id == l.2)) &&
    (w.copies.all fun c => !awaitsLines s c.1 c.2) && (!(arrivalsOf s).any fun a => w.mmas.contains a.id) && w.rewalks.isEmpty && decide (w.horizon ≤ s.now)

/-- Re-walks of a SHOOT that waited for a link are made once it holds them no longer. -/
def goOnShoot (s : State) (p : Nat) (w : Waiting) : State × Waiting :=
  let u : Waiting := { w with rewalks := w.rewalks.filter (rewalkHeld s p) }
  if u = w then (s, w)
  else (modPart (rewalkAll s p w.rewalks) p fun x => { x with waiting := x.waiting.map fun y => if y = w then u else y }, u)

/-- The response of a SHOOT (R89). -/
def shootDone (s : State) (p : Nat) (seq : DWord) : State :=
  match (partAt s p).waiting.find? fun w => w.opcode == 4 && w.h.seq == seq && w.ready.isNone with
  | some w =>
    let (t, w) := goOnShoot s p w
    if shootReady t w then sendStream (settleWaiting t p w w.count) p else t
  | none => s

/-! ## RESET (R92) -/

/-- The partition that a RESET of kind 0 names: the sender's own, or any from the management endpoint. -/
def resetTarget (h : CmdHeader) (index : Nat) : Nat := if index = 0 then h.endpoint else index

/-- Commands of a stream that a reset ends are answered before it (R81, R92): a SHOOT or a suspend that still waits with OK and
the count that it waits with, which for a suspend is 0 (DESIGN CHOICE, log 61: R92 gives no answer to them). -/
def endWaiting (s : State) (p : Nat) : State :=
  let t := (partAt s p).waiting.foldl (fun u w => if w.ready.isNone then settleWaiting u p w w.count else u) s
  sendStream t p

/-- RESET of a partition (R92). Flag bits 7:1 are taken for reserved (DESIGN CHOICE, log 61). -/
def doResetPart (s : State) (h : CmdHeader) (flags : Byte) (rsv : Half) (index : Word) : State × List MemEffect :=
  accept s h 0x05 8 .both (rsv != 0 || decide (2 ≤ flags.toNat)) fun t =>
    let p := resetTarget h index.toNat
    if h.endpoint != 0 && p != h.endpoint then (reply t h 0x05 .denied, [])
    else if (tfind t.parts p).isNone then (reply t h 0x05 .notFound, [])
    else
      let (u, es) := resetPart (endWaiting t p) p (flags.getLsbD 0)
      (reply u h 0x05 .ok, es)

/-- RESET of a core's copy engine (R92). All flag bits are taken for reserved (DESIGN CHOICE, log 61). -/
def doResetCopy (s : State) (h : CmdHeader) (flags : Byte) (rsv : Half) (index : Word) : State :=
  acceptQuiet s h 0x05 8 .both (rsv != 0 || flags != 0) fun t =>
    let c := index.toNat
    if Config.cores ≤ c then reply t h 0x05 .notFound
    else if h.endpoint != 0 && (tractAt t (c / 128)).owner != h.endpoint then reply t h 0x05 .denied
    else
      let bs := nub ((coreAt t c).queue.map (·.block) ++ (coreAt t c).writes.map (·.1))
      let gs := nub (bs.map fun b => (blockAt t b).gang)
      let u := gs.foldl (fun v g => startKill v g (some .engine) false (locCore c)) t
      let u := bs.foldl dropWrites (modCore u c fun k => { k with queue := [] })
      reply (wakeWhere u (coreStrands u c) fun x => x == .stalled .copyQueue) h 0x05 .ok

/-- RESET of a quad's matrix engine (R92). All flag bits are taken for reserved (DESIGN CHOICE, log 61). -/
def doResetMatrix (s : State) (h : CmdHeader) (flags : Byte) (rsv : Half) (index : Word) : State :=
  acceptQuiet s h 0x05 8 .both (rsv != 0 || flags != 0) fun t =>
    let q := index.toNat
    if Config.quads ≤ q then reply t h 0x05 .notFound
    else if h.endpoint != 0 && (tractAt t (q / 32)).owner != h.endpoint then reply t h 0x05 .denied
    else
      let x := quadAt t q
      let fs := x.latches.flatMap (fun l => ensSheaves q l.ens ++ l.arrivals.map (·.sheaf)) ++ x.table.flatMap fun e => e.members.map (·.sheaf)
      let gs := nub ((fs.filter fun f => (tfind t.sheaves f).isSome).map fun f => (blockAt t (sheafAt t f).block).gang)
      let u := gs.foldl (fun v g => startKill v g (some .engine) false (locQuad q)) t
      reply (dropRequests u q fun _ => true).2 h 0x05 .ok

/-- RESET of a link (R22, R92): it counts as Down until its training ends. It is answered OK once it is accepted, before the
training ends and however it ends, and all flag bits are taken for reserved (DESIGN CHOICE, log 61). -/
def doResetLink (s : State) (h : CmdHeader) (flags : Byte) (rsv : Half) (index : Word) : State :=
  acceptQuiet s h 0x05 8 .management (rsv != 0 || flags != 0) fun t =>
    if 14 ≤ index.toNat then reply t h 0x05 .notFound else reply (takeDown t index.toNat) h 0x05 .ok

/-! ## QUERY (R99, R100) -/

/-- The detail of a query: 64-bit fields. -/
def fields (xs : List Nat) : List Byte := xs.flatMap (leBytes 8)

/-- Answer a query with its fields; the result is the number of detail bytes (R82). -/
def answerQuery (s : State) (h : CmdHeader) (xs : List Nat) : State := answer s h 0x06 .ok (BitVec.ofNat 64 (8 * xs.length)) (fields xs)

/-- A query (R82): its payload and where its subject may be asked; what it answers. -/
def doQuery (s : State) (h : CmdHeader) (rsv : BitVec 24) (body : State → State) : State := acceptQuiet s h 0x06 8 .both (rsv != 0) body

/-- The firmware slot in use. -/
def runningSlot (m : Module) : FwSlot := if m.running = 0 then m.slotA else m.slotB

/-- Subject 0. -/
def moduleFields (s : State) : List Nat :=
  let m := s.module
  [(runningSlot m).version.toNat, m.running, (runningSlot m).split.toNat, s.now, (BitVec.ofInt 64 m.env.inlet).toNat, m.env.flow,
   m.env.volt, m.env.power]

/-- Subject 1. -/
def partFields (s : State) (p : Nat) : List Nat :=
  let x := partAt s p
  let qs := x.tracts.flatMap fun t => (List.range 32).map (32 * t + ·)
  [(x.tracts.map fun t => 2 ^ t).sum, (partLaunches s p).length, x.faults.length, x.share, (qs.map fun q => (quadAt s q).withheldLast).sum]

/-- The code of a spare's state (R100). -/
def Spare.code (x : Spare) : Nat := x.ctorIdx

/-- The state of a tract's spare (R17): one that has failed its power-up test is failed. -/
def spareState (s : State) (t : Nat) : Spare :=
  if (tractAt s t).spare == .unused && !Config.spareOk t then .failed else (tractAt s t).spare

/-- Subject 2. -/
def tractFields (s : State) (t : Nat) : List Nat :=
  let x := tractAt s t
  let mask := ((List.range 32).map fun i => if (quadAt s (32 * t + i)).retired then 2 ^ i else 0).sum
  let failed (j : Nat) : Nat := ((List.range 64).map fun i => if x.failedChannels.contains (64 * j + i) then 2 ^ i else 0).sum
  [x.owner, (spareState s t).code, mask] ++ (List.range 4).map failed

/-- Subject 3: the failed lanes of both directions (R20), added in the one field that it has for them (DESIGN CHOICE, log 22). -/
def linkFields (s : State) (n : Nat) : List Nat :=
  let x := tget s.module.links n Link.reset
  [x.state.ctorIdx, x.lanes.1 + x.lanes.2, x.crc]

/-- Subject 4, of what a port is and has carried. -/
def portFields (s : State) (n : Nat) (x : Port) : List Nat :=
  let split := ((portList s).find? fun p => p.1 == n).any fun p => ioSplit s p.2
  [x.state.ctorIdx, if split then 800 else 1600, x.sent.toNat, x.received.toNat]

/-- Subject 5. -/
def launchFields (s : State) (key : Nat) : List Nat :=
  let l := launchAt s key
  let begun := 0 < l.retiredBlocks || (launchGangs s key).any fun g => (gangAt s g).state != .pending
  [if l.ready.isSome then 3 else if l.suspended then 2 else if begun then 1 else 0, l.retiredBlocks, l.killed, l.relaunched]

/-- The location of a RAS entry as one value (R100). -/
def rasLocation (e : RasEntry) : Nat := e.die % 2 ^ 8 + 2 ^ 16 * (e.tract % 2 ^ 8) + 2 ^ 32 * (e.quad % 2 ^ 16) + 2 ^ 48 * (e.core % 2 ^ 16)

/-- Subject 6. -/
def rasFields (e : RasEntry) : List Nat :=
  [e.dt, e.cls.code + (if e.injected then 0x80 else 0), rasLocation e, e.detail.1.toNat, e.detail.2.toNat]

/-- A partition asks only about itself and its own (R99). -/
def askRas (s : State) (h : CmdHeader) (i : Nat) : State :=
  match s.module.ras[i]? with
  | none => reply s h 0x06 .notFound
  | some e =>
    if h.endpoint != 0 && !((partAt s h.endpoint).tracts.contains e.tract) then reply s h 0x06 .denied else answerQuery s h (rasFields e)

/-! ## QOS (R93 to R96) -/

/-- A partition is idle (R94): nothing accepted awaits its completion, its service or its response. -/
def idlePart (s : State) (p : Nat) : Bool :=
  (partLaunches s p).isEmpty && (partAt s p).faults.isEmpty && (partAt s p).waiting.isEmpty

/-- The tracts of a mask. -/
def tractsOf (mask : Nat) : List Nat := (List.range 16).filter fun t => mask.testBit t

/-- A tract is taken into a partition (R94): arrays with power, memory zeroed, pointers at 63, counters and credit started. -/
def takeTract (p : Nat) (s : State) (t : Nat) : State :=
  let u := ((List.range 32).map (32 * t + ·)).foldl (fun v q => modQuad v q fun x => { x with gated := x.retired, wcyc := 0, rply := 0 }) s
  let u := { u with cores := u.cores.map fun c => if c.1 / 128 == t then (c.1, { c.2 with rot := 63 }) else c }
  modTract u t fun x => { x with owner := p, credit := 4 * liveCores u t, batchFree := 8, returns := 0, owed := 0 }

/-- A tract returns to unassigned (R94): the effects of a reset with zeroing, and its arrays lose power, for which its loans are
recalled and the holders of its lines invalidated (R73). -/
def dropTract (r : State × List MemEffect) (t : Nat) : State × List MemEffect :=
  let (u, es) := flushTracts r.1 [t]
  let (u, fs) := clearTract (quiesceTract u t) t
  let u := { u with mem := memApply r.1.mem (es ++ fs) }
  let (u, gs) := zeroTracts u [t]
  let u := ((List.range 32).map (32 * t + ·)).foldl (fun v q => modQuad v q fun x => { x with gated := true }) u
  let u := modTract u t fun x => { x with owner := 0, credit := 0 }
  ({ u with mem := memApply u.mem gs }, r.2 ++ (es ++ fs) ++ gs)

/-- Ways change mode on the slices of a tract (R73): lines of ways that leave cache mode are dropped; where ways leave
abacus mode, the slice's abacus lines are spilled, of whichever way (DESIGN CHOICE, log 15). -/
def switchWays (old new : Nat) (s : State) (t : Nat) : State :=
  ((List.range 32).map (32 * t + ·)).foldl (fun u q =>
    if old = new then u
    else if old < new then dropCopies u q fun c => decide (16 - new ≤ c.way)
    else spillAll u q fun _ => true) s

/-- ASSIGN of tracts to a partition number (R94). A redefinition keeps the launch-id counter, the context table and the event
slots, and the weights, way masks and allowances, cut to the new ways, and signed regions too (DESIGN CHOICE, log 49). -/
def assign (s : State) (x : AssignArgs) : State × List MemEffect :=
  let p := x.part.toNat
  let ts := tractsOf x.tracts.toNat
  let old := (partAt s p).tracts
  let ways := x.ways.toNat
  let (t, es) := (old.filter fun u => !ts.contains u).foldl dropTract (s, [])
  let t := (ts.filter old.contains).foldl (switchWays (partAt s p).ways ways) t
  let added := ts.filter fun u => !old.contains u
  let t := added.foldl (takeTract p) t
  let (t, fs) := zeroTracts t added
  let base := if (tfind s.parts p).isSome then partAt t p else Partition.blank
  let y : Partition :=
    { base with tracts := ts, addr := x.addr, codeKey := x.codeKey, key := x.key, signedCode := x.flags.getLsbD 0, ways := ways,
                masks := base.masks.map (fun m => (m.1, m.2 &&& cacheMask ways)),
                allowances := base.allowances.map fun a => (a.1, min a.2 ways) }
  ({ t with parts := tset t.parts p y }, es ++ fs)

/-- Fields of an ASSIGN outside their limits (R93, R95). A code key that is no uncompressed point is taken: no signature verifies
under it (DESIGN CHOICE, log 61). -/
def assignBad (x : AssignArgs) : Bool :=
  x.part == 0 || decide (16 < x.part.toNat) || decide (8 < x.ways.toNat) || decide (2 ≤ x.flags.toNat) || decide (65536 ≤ x.tracts.toNat) ||
    x.tracts == 0 || x.key == 0

/-- ASSIGN (R93, R94). -/
def doAssign (s : State) (h : CmdHeader) (rsv : BitVec 56) (x : AssignArgs) : State × List MemEffect :=
  accept s h 0x07 161 .management (rsv != 0 || assignBad x) fun t =>
    let p := x.part.toNat
    let exists' := (tfind t.parts p).isSome
    if (exists' && !idlePart t p) || (tractsOf x.tracts.toNat).any fun u => (tractAt t u).owner != 0 && (tractAt t u).owner != p then
      (reply t h 0x07 .denied, [])
    else
      let (u, es) := assign t x
      (reply u h 0x07 .ok, es)

/-- A partition number of a QOS subfunction outside 1 to 16. -/
def partBad (p : Byte) : Bool := p == 0 || decide (16 < p.toNat)

/-- A QOS subfunction of the management endpoint on a partition that exists. -/
def onPart (s : State) (h : CmdHeader) (p : Byte) (f : Partition → Partition) : State :=
  if (tfind s.parts p.toNat).isNone then reply s h 0x07 .notFound else reply (modPart s p.toNat f) h 0x07 .ok

/-- Abacus lines of a context beyond its allowance are spilled, the least recently used first (R339). -/
def trimAllowance (p ctx ways : Nat) (s : State) (q : Nat) : State :=
  let mine := (quadAt s q).resident.filter fun e => e.part == p && e.ctx == ctx
  (mine.take (mine.length - sliceSets * ways)).foldl (fun t e => spillLine t q e) s

/-- WAYS (R70, R71, R93). -/
def setWays (s : State) (p ctx mask ways : Nat) : State :=
  let t := modPart s p fun x => { x with masks := tset x.masks ctx mask, allowances := tset x.allowances ctx ways }
  ((partAt s p).tracts.flatMap fun u => (List.range 32).map (32 * u + ·)).foldl (fun u q =>
    trimAllowance p ctx ways (dropCopies u q fun c => c.part == p && c.ctx == ctx && !mask.testBit c.way) q) t

/-- WAYS. -/
def doWays (s : State) (h : CmdHeader) (rsv : BitVec 56) (ctx : Byte) (mask : Half) (allow : Byte) : State :=
  acceptQuiet s h 0x07 12 .partition (rsv != 0 || decide (64 ≤ ctx.toNat)) fun t =>
    let ways := (partAt t h.endpoint).ways
    if mask.toNat &&& cacheMask ways != mask.toNat || decide (ways < allow.toNat) then reply t h 0x07 .malformed
    else reply (setWays t h.endpoint ctx.toNat mask.toNat allow.toNat) h 0x07 .ok

/-- CTXTABLE (R77, R93): the table lies in the partition's memory. -/
def doCtxtable (s : State) (h : CmdHeader) (rsv : BitVec 56) (base : DWord) (count : Byte) : State :=
  acceptQuiet s h 0x07 17 .partition (rsv != 0 || base.toNat % 32 != 0 || count == 0 || decide (64 < count.toNat)) fun t =>
    let n := count.toNat
    if !ownPa t h.endpoint base.toNat || !ownPa t h.endpoint (base.toNat + 32 * n - 1) then reply t h 0x07 .malformed
    else reply (modPart t h.endpoint fun x => { x with ctxBase := base.toNat, ctxCount := n }) h 0x07 .ok

/-- A context as the walker of CODE uses it. -/
def codeLaunch (p ctx root : Nat) : Launch :=
  { Launch.blank with part := p, root := root, record := { LaunchRecord.blank with ctx := BitVec.ofNat 32 ctx } }

/-- Some bytes of a context's memory lie behind a link that is Down (R21). -/
def codeHeld (s : State) (l : Launch) (va n : Nat) : Bool :=
  anyDown s && (List.range n).any fun i =>
    deviceWalkHeld s l.root (va + i) || (translate s none l (va + i) .read).place.any fun p => lineHeld s (deviceDie s) (p.1 / 64)

/-- A byte that CODE may read: its page is mapped, its line not poisoned; ro asks for W clear. -/
def codeByte (s : State) (ro : Bool) : Trans → Option Byte
  | .ok pa leaf => if isHostPa pa || lineBad s (pa / 64) || (ro && leaf.w) then none else some (memRead s.mem pa)
  | _ => none

/-- Bytes of a context's memory, where CODE may read every one; a malformed entry that the walks meet makes a RAS entry (R87). -/
def codeBytes (s : State) (l : Launch) (ro : Bool) (va n : Nat) : State × Option (List Byte) :=
  if 2 ^ 52 ≤ va + n then (s, none)
  else
    let walks := (List.range n).map fun i => translate s none l (va + i) .read
    match walks.find? fun w => (codeByte s ro w).isNone with
    | some w => (logWalk s noLoc w, none)
    | none => (s, some (walks.filterMap (codeByte s ro)))

/-- A signature block (R249): its code range, the digest of that, and the signature's two integers. -/
structure SignBlock where
  start : Nat
  len : Nat
  digest : List Byte
  r : Nat
  s : Nat
  deriving DecidableEq, Repr

/-- A signature block of 176 bytes, where its magic, version and reserved field are as R249 has them. -/
def parseBlock (bs : List Byte) : Option SignBlock :=
  let number (i n : Nat) : Nat := leNat ((bs.drop i).take n)
  let whole (i : Nat) : Nat := beNat ((bs.drop i).take 48)
  if bs.take 4 == [0x50, 0x53, 0x49, 0x47] && number 4 4 == 1 && number 168 8 == 0 then
    some { start := number 8 8, len := number 16 8, digest := (bs.drop 24).take 48, r := whole 72, s := whole 120 }
  else none

/-- The bytes of a partition's code key (R93), its first byte in the lowest bits. -/
def codeKeyBytes (s : State) (p : Nat) : List Byte := leBytes 97 (partAt s p).codeKey.toNat

/-- What comes of a CODE command. -/
inductive CodeCheck where
  | held | bad | good (g : CodeRegion)
  deriving DecidableEq, Repr

/-- The region that a CODE command registers. -/
def CodeCheck.regions : CodeCheck → List CodeRegion
  | .good g => [g]
  | .bad | .held => []

/-- The signature block at a VA checks out (R96, R249): the region that it names. A block whose magic, version or reserved field is not
R249's is rejected as one whose signature fails is, with BADSIG (DESIGN CHOICE, log 61: R243 names no status). Where something of it lies behind a link that is
Down, it is held (R21). -/
def checkCode (s : State) (p ctx root va : Nat) : State × CodeCheck :=
  let l := codeLaunch p ctx root
  if codeHeld s l va 176 then (s, .held)
  else
    let (t, block) := codeBytes s l false va 176
    match block with
    | none => (t, .bad)
    | some bs => match parseBlock bs with
      | none => (t, .bad)
      | some b =>
        if codeHeld t l b.start b.len then (t, .held)
        else
          let (u, code) := codeBytes t l true b.start b.len
          match code with
          | none => (u, .bad)
          | some code =>
            (u, if sha384 code == b.digest && ecdsaOk (codeKeyBytes s p) (bs.take 72) b.r b.s then .good { ctx := ctx, va := b.start, len := b.len }
                else .bad)

/-- CODE (R96). The context's entry is read also where its line is poisoned or homed on a fenced die (DESIGN CHOICE, log 61); one
that reads what a link holds is not accepted until it can (DESIGN CHOICE, log 22). -/
def doCode (s : State) (h : CmdHeader) (rsv : BitVec 56) (ctx : Byte) (va : DWord) : State :=
  acceptQuiet s h 0x07 17 .partition (rsv != 0 || decide (64 ≤ ctx.toNat) || va.toNat % 8 != 0) fun t =>
    if contextHeld t h.endpoint ctx.toNat then s
    else match contextOf t h.endpoint ctx.toNat with
    | none => reply t h 0x07 .notFound
    | some (root, _) => match checkCode t h.endpoint ctx.toNat root va.toNat with
      | (_, .held) => s
      | (u, .bad) => reply u h 0x07 .badSig
      | (u, .good g) => reply (modPart u h.endpoint fun x => { x with regions := x.regions ++ [g] }) h 0x07 .ok

/-- RELEASE (R94). -/
def doRelease (s : State) (h : CmdHeader) (rsv : BitVec 56) (p : Byte) : State × List MemEffect :=
  accept s h 0x07 9 .management (rsv != 0 || partBad p) fun t =>
    if (tfind t.parts p.toNat).isNone then (reply t h 0x07 .notFound, [])
    else if !idlePart t p.toNat then (reply t h 0x07 .denied, [])
    else
      let (u, es) := (partAt t p.toNat).tracts.foldl dropTract (t, [])
      (reply { u with parts := terase u.parts p.toNat } h 0x07 .ok, es)

/-- MGMTKEY (R95). -/
def doMgmtKey (s : State) (h : CmdHeader) (rsv : BitVec 56) (key : BitVec 256) : State :=
  acceptQuiet s h 0x07 40 .management (rsv != 0 || key == 0) fun t => modModule (reply t h 0x07 .ok) fun m => { m with mgmtKey := key }

/-! ## EVENTCFG, ATTEST, FWLOAD (R79, R97, R98) -/

/-- Completions of a partition that were held for a slot are sent (R79, R85), with the DT at which they became ready (DESIGN
CHOICE, log 61). -/
def sendHeld (p slot : Nat) (s : State) (key : Nat) : State :=
  let l := launchAt s key
  match l.ready with
  | some dt => if l.part == p && l.record.endpoint.toNat % 16 == slot then sendCompletion s key (launchStatus l) dt else s
  | none => s

/-- Register or clear an event slot (R79). -/
def setSlot (s : State) (endpoint : Nat) (x : EventSlotArgs) : State :=
  let n := x.slot.toNat
  let slot : EventSlot :=
    { mask := x.mask, addr := x.addr, job := x.job.setWidth 24, pid := x.pid.setWidth 12, index := x.index.setWidth 12 }
  let change (t : Tab EventSlot) : Tab EventSlot := if x.addr = 0 then terase t n else tset t n slot
  if endpoint = 0 then modModule s fun m => { m with mgmtSlots := change m.mgmtSlots }
  else
    let t := modPart s endpoint fun p => { p with slots := change p.slots }
    if x.addr = 0 then t else (partLaunches t endpoint).foldl (sendHeld endpoint n) t

/-- EVENTCFG (R79, R82). Bits 31:12 of the mask, which name no event (R86), are taken and kept (DESIGN CHOICE, log 61). -/
def doEventcfg (s : State) (h : CmdHeader) (rsv : BitVec 24) (x : EventSlotArgs) : State :=
  let bad := rsv != 0 || decide (16 ≤ x.slot.toNat) || decide (2 ^ 24 ≤ x.job.toNat) || decide (2 ^ 12 ≤ x.pid.toNat) ||
    decide (2 ^ 12 ≤ x.index.toNat)
  acceptQuiet s h 0x08 32 .both bad fun t => setSlot (reply t h 0x08 .ok) h.endpoint x

/-- Request codes of SPDM 1.3 that the device supports (R98; PRESUMED, log 12). -/
def spdmCodes : List Byte := [0x81, 0x82, 0x83, 0x84, 0xE0, 0xE1, 0xE3]

/-- A value as 64-bit words. -/
def wordsOf (n : Nat) (v : Nat) : List DWord := (List.range n).map fun i => BitVec.ofNat 64 (v / 2 ^ (64 * i))

/-- Measurement block 4 (R98): what ASSIGN and QOS have set of a partition, its TSS key aside (log 12). -/
def assignState (s : State) (endpoint : Nat) : List DWord :=
  let x := partAt s endpoint
  let small := [(x.tracts.map fun t => 2 ^ t).sum, if x.signedCode then 1 else 0, x.ways, x.share, x.channel, x.ctxBase, x.ctxCount] ++
    x.masks.flatMap (fun e => [e.1, e.2]) ++ x.allowances.flatMap fun e => [e.1, e.2]
  wordsOf 2 x.addr.toNat ++ wordsOf 13 x.codeKey.toNat ++ small.map (BitVec.ofNat 64)

/-- Measurement block 5 (R98): a partition's registered code regions. -/
def codeState (s : State) (endpoint : Nat) : List DWord :=
  ((partAt s endpoint).regions.flatMap fun g => [g.ctx, g.va, g.len]).map (BitVec.ofNat 64)

/-- What the measurement blocks are taken over (R98): a partition's own state for its endpoint alone. -/
def measurements (s : State) (endpoint : Nat) : List DWord :=
  let m := s.module
  wordsOf 6 Config.bootDigest.toNat ++ wordsOf 6 (leNat (sha384 (runningSlot m).image)) ++ [(runningSlot m).version] ++
    (m.bound ++ (s.quads.filter fun q => q.2.retired).map (·.1)).map (BitVec.ofNat 64) ++
    (if endpoint = 0 then [] else assignState s endpoint ++ codeState s endpoint)

/-- The address of the management endpoint (R95): the running image's, else the IPv6 link-local address in EUI-64 form of port 0's
MAC. -/
def managementAddress (m : Module) : BitVec 128 :=
  match Config.imageAddress (runningSlot m).image with
  | some a => a
  | none =>
    let mac := Config.portMac
    let eui : BitVec 64 := (mac.extractLsb' 24 24 ++ 0xFFFE#16 ++ mac.extractLsb' 0 24) ^^^ 0x0200000000000000#64
    0xFE80000000000000#64 ++ eui

/-- The management endpoint's PID on FEP (R95). -/
def managementPid : Nat := 0

/-- ATTEST (R98). An empty payload is MALFORMED, and a request code that SPDM 1.3 does not define is answered as one that the device
does not support (DESIGN CHOICE, log 12). -/
def doAttest (s : State) (h : CmdHeader) (request : List Byte) : State :=
  acceptQuiet s h 0x09 request.length .both request.isEmpty fun t =>
    let r := if spdmCodes.contains (request.getD 1 0) then Config.spdmReply request (measurements t h.endpoint) else Config.spdmUnsupported request
    answer t h 0x09 .ok (BitVec.ofNat 64 r.length) r

/-- The slot that FWLOAD writes (R34). -/
def modIdleSlot (m : Module) (f : FwSlot → FwSlot) : Module :=
  if m.running = 0 then { m with slotB := f m.slotB } else { m with slotA := f m.slotA }

/-- The image in the slot that FWLOAD writes. -/
def idleImage (m : Module) : List Byte := if m.running = 0 then m.slotB.image else m.slotA.image

/-- A chunk is written (R97): the first one opens the sequence and empties the slot, the last one has the image verified. -/
def writeChunk (s : State) (h : CmdHeader) (x : FwChunk) : State :=
  let m := s.module
  let before := if m.fwOpen.isSome then idleImage m else []
  let image := before ++ x.data
  let t := modModule s fun y =>
    { modIdleSlot y (fun slot => { slot with valid := false, image := image }) with fwOpen := some (h.src, image.length) }
  if x.flags.getLsbD 0 then
    let ok := imageOk image
    let t := modModule t fun y =>
      { modIdleSlot y (fun slot => { slot with valid := ok, version := Config.imageVersion image, split := Config.imageSplit image }) with
        fwOpen := none }
    reply t h 0x0A (if ok then .ok else .badSig)
  else reply t h 0x0A .ok

/-- FWLOAD (R82, R97): BUSY for another source while a sequence is open, MALFORMED for a chunk out of order. -/
def doFwload (s : State) (h : CmdHeader) (x : FwChunk) : State :=
  acceptQuiet s h 0x0A (16 + x.data.length) .management
      (x.rsv != 0 || decide (2 ≤ x.flags.toNat) || x.length.toNat != x.data.length) fun t =>
    match t.module.fwOpen with
    | some (src, next) =>
      if src ≠ h.src then reply t h 0x0A .busy
      else if x.offset.toNat ≠ next then reply t h 0x0A .malformed
      else writeChunk t h x
    | none => if x.offset ≠ 0 then reply t h 0x0A .malformed else writeChunk t h x

/-! ## The meanings -/

/-- A host RMA write (R75). -/
def execRmaWrite (part pa : Nat) (data : List Byte) (tag : DWord) (s : State) : Host.Outcome State Fault Refusal :=
  .next (commit s (hostWrite s part pa data tag))

/-- The completion of an access of the host (R75). -/
def execRmaWriteCompletion (tag : DWord) (s : State) : Host.Outcome State Fault Refusal := .next (quiet s (hostAccessDone s tag))

/-- A host RMA read (R75). -/
def execRmaRead (part pa len : Nat) (tag : DWord) (s : State) : Host.Outcome State Fault Refusal :=
  .next (quiet s (hostRead s part pa len tag))

/-- A transport atomic (R75). -/
def execTransportAtomic (part pa : Nat) (op : AtomOp) (ty : BitVec 4) (v e tag : DWord) (s : State) :
    Host.Outcome State Fault Refusal := .next (commit s (hostAtomic s part pa op ty v e tag))

/-- A command with an opcode that R82 does not list (R82). -/
def execUnknownOpcode (h : CmdHeader) (opcode : Byte) (s : State) : Host.Outcome State Fault Refusal :=
  .next (quiet s (acceptQuiet s h opcode.toNat h.len.toNat .both true id))

/-- LAUNCH (R84). -/
def execLaunch (h : CmdHeader) (r : LaunchRecord) (s : State) : Host.Outcome State Fault Refusal := .next (quiet s (doLaunch s h r))

/-- ABORT (R90). -/
def execAbort (h : CmdHeader) (id rsv : Word) (s : State) : Host.Outcome State Fault Refusal := .next (quiet s (doAbort s h id rsv))

/-- PREEMPT suspend (R91). -/
def execPreemptSuspend (h : CmdHeader) (id : Word) (rsv : BitVec 24) (s : State) : Host.Outcome State Fault Refusal :=
  .next (quiet s (doSuspend s h id rsv))

/-- The response of a suspend (R91). The focus: part, id. -/
def execPreemptSuspendResponse (s : State) : Host.Outcome State Fault Refusal := .next (quiet s (suspendDone s (s.arg 0) (s.arg 1)))

/-- PREEMPT resume (R91). -/
def execPreemptResume (h : CmdHeader) (id : Word) (rsv : BitVec 24) (s : State) : Host.Outcome State Fault Refusal :=
  .next (quiet s (doResume s h id rsv))

/-- SHOOT (R89). -/
def execShoot (h : CmdHeader) (ctx count : Word) (va : DWord) (s : State) : Host.Outcome State Fault Refusal :=
  .next (quiet s (doShoot s h ctx count va))

/-- The response of a SHOOT (R89). -/
def execShootResponse (part : Nat) (seq : DWord) (s : State) : Host.Outcome State Fault Refusal := .next (quiet s (shootDone s part seq))

/-- RESET of a partition (R92). -/
def execResetPartition (h : CmdHeader) (flags : Byte) (rsv : Half) (index : Word) (s : State) : Host.Outcome State Fault Refusal :=
  .next (commit s (doResetPart s h flags rsv index))

/-- RESET of a copy engine (R92). -/
def execResetCopyEngine (h : CmdHeader) (flags : Byte) (rsv : Half) (index : Word) (s : State) : Host.Outcome State Fault Refusal :=
  .next (quiet s (doResetCopy s h flags rsv index))

/-- RESET of a matrix engine (R92). -/
def execResetMatrixEngine (h : CmdHeader) (flags : Byte) (rsv : Half) (index : Word) (s : State) : Host.Outcome State Fault Refusal :=
  .next (quiet s (doResetMatrix s h flags rsv index))

/-- RESET of a link (R22, R92). -/
def execResetLink (h : CmdHeader) (flags : Byte) (rsv : Half) (index : Word) (s : State) : Host.Outcome State Fault Refusal :=
  .next (quiet s (doResetLink s h flags rsv index))

/-- QUERY of the module (R99). The module, its links and its ports lie outside no partition: a partition endpoint is answered too
(DESIGN CHOICE, log 49). -/
def execQueryModule (h : CmdHeader) (rsv : BitVec 24) (_index : Word) (s : State) : Host.Outcome State Fault Refusal :=
  .next (quiet s (doQuery s h rsv fun t => answerQuery t h (moduleFields t)))

/-- QUERY of a partition (R99). -/
def execQueryPartition (h : CmdHeader) (rsv : BitVec 24) (index : Word) (s : State) : Host.Outcome State Fault Refusal :=
  .next (quiet s (doQuery s h rsv fun t =>
    if h.endpoint != 0 && index.toNat != h.endpoint then reply t h 0x06 .denied
    else if (tfind t.parts index.toNat).isNone then reply t h 0x06 .notFound
    else answerQuery t h (partFields t index.toNat)))

/-- QUERY of a tract (R99). -/
def execQueryTract (h : CmdHeader) (rsv : BitVec 24) (index : Word) (s : State) : Host.Outcome State Fault Refusal :=
  .next (quiet s (doQuery s h rsv fun t =>
    if h.endpoint != 0 && !(partAt t h.endpoint).tracts.contains index.toNat then reply t h 0x06 .denied
    else if 16 ≤ index.toNat then reply t h 0x06 .notFound
    else answerQuery t h (tractFields t index.toNat)))

/-- QUERY of a link (R99). -/
def execQueryLink (h : CmdHeader) (rsv : BitVec 24) (index : Word) (s : State) : Host.Outcome State Fault Refusal :=
  .next (quiet s (doQuery s h rsv fun t =>
    if 14 ≤ index.toNat then reply t h 0x06 .notFound else answerQuery t h (linkFields t index.toNat)))

/-- QUERY of a port (R99). -/
def execQueryPort (h : CmdHeader) (rsv : BitVec 24) (index : Word) (s : State) : Host.Outcome State Fault Refusal :=
  .next (quiet s (doQuery s h rsv fun t =>
    if (portList t).all fun p => p.1 != index.toNat then reply t h 0x06 .notFound
    else
      let t := agePort t index.toNat
      answerQuery t h (portFields t index.toNat (tget t.module.ports index.toNat Port.reset))))

/-- QUERY of a launch (R99): the sender's own; the management endpoint has none. -/
def execQueryLaunch (h : CmdHeader) (rsv : BitVec 24) (index : Word) (s : State) : Host.Outcome State Fault Refusal :=
  .next (quiet s (doQuery s h rsv fun t =>
    let key := 2 ^ 32 * h.endpoint + index.toNat
    if h.endpoint = 0 || (tfind t.launches key).isNone then reply t h 0x06 .notFound else answerQuery t h (launchFields t key)))

/-- QUERY of the RAS log (R99). -/
def execQueryRasLog (h : CmdHeader) (rsv : BitVec 24) (index : Word) (s : State) : Host.Outcome State Fault Refusal :=
  .next (quiet s (doQuery s h rsv fun t => askRas t h index.toNat))

/-- QOS ASSIGN (R94). -/
def execQosAssign (h : CmdHeader) (rsv : BitVec 56) (x : AssignArgs) (s : State) : Host.Outcome State Fault Refusal :=
  .next (commit s (doAssign s h rsv x))

/-- QOS SHARE (R93). -/
def execQosShare (h : CmdHeader) (rsv : BitVec 56) (part weight : Byte) (s : State) : Host.Outcome State Fault Refusal :=
  .next (quiet s (acceptQuiet s h 0x07 10 .management (rsv != 0 || partBad part || weight == 0) fun t =>
    onPart t h part fun p => { p with share := weight.toNat }))

/-- QOS CHANNEL (R93). -/
def execQosChannel (h : CmdHeader) (rsv : BitVec 56) (part weight : Byte) (s : State) : Host.Outcome State Fault Refusal :=
  .next (quiet s (acceptQuiet s h 0x07 10 .management (rsv != 0 || partBad part || weight == 0 || decide (15 < weight.toNat)) fun t =>
    onPart t h part fun p => { p with channel := weight.toNat }))

/-- QOS WAYS (R93); spills change poison alone. -/
def execQosWays (h : CmdHeader) (rsv : BitVec 56) (ctx : Byte) (mask : Half) (allowance : Byte) (s : State) :
    Host.Outcome State Fault Refusal := .next (commit s (doWays s h rsv ctx mask allowance, []))

/-- QOS CTXTABLE (R93). -/
def execQosCtxtable (h : CmdHeader) (rsv : BitVec 56) (base : DWord) (count : Byte) (s : State) : Host.Outcome State Fault Refusal :=
  .next (quiet s (doCtxtable s h rsv base count))

/-- QOS CODE (R96). -/
def execQosCode (h : CmdHeader) (rsv : BitVec 56) (ctx : Byte) (va : DWord) (s : State) : Host.Outcome State Fault Refusal :=
  .next (quiet s (doCode s h rsv ctx va))

/-- QOS RELEASE (R94). -/
def execQosRelease (h : CmdHeader) (rsv : BitVec 56) (part : Byte) (s : State) : Host.Outcome State Fault Refusal :=
  .next (commit s (doRelease s h rsv part))

/-- QOS MGMTKEY (R95). -/
def execQosMgmtkey (h : CmdHeader) (rsv : BitVec 56) (key : BitVec 256) (s : State) : Host.Outcome State Fault Refusal :=
  .next (quiet s (doMgmtKey s h rsv key))

/-- QOS PKEY (R95). -/
def execQosPkey (h : CmdHeader) (rsv : BitVec 56) (part : Byte) (key : BitVec 256) (s : State) : Host.Outcome State Fault Refusal :=
  .next (quiet s (acceptQuiet s h 0x07 41 .management (rsv != 0 || partBad part || key == 0) fun t =>
    onPart t h part fun p => { p with key := key }))

/-- EVENTCFG (R79). -/
def execEventcfg (h : CmdHeader) (rsv : BitVec 24) (x : EventSlotArgs) (s : State) : Host.Outcome State Fault Refusal :=
  .next (quiet s (doEventcfg s h rsv x))

/-- ATTEST (R98). -/
def execAttest (h : CmdHeader) (request : List Byte) (s : State) : Host.Outcome State Fault Refusal := .next (quiet s (doAttest s h request))

/-- FWLOAD of a chunk (R97). -/
def execFwload (h : CmdHeader) (x : FwChunk) (s : State) : Host.Outcome State Fault Refusal := .next (quiet s (doFwload s h x))

/-- FWLOAD of the final chunk (R97). -/
def execFwloadFinal (h : CmdHeader) (x : FwChunk) (s : State) : Host.Outcome State Fault Refusal :=
  .next (quiet s (doFwload s h { x with flags := x.flags ||| 1 }))

end Sys2Proof.Machine
end

