-- ==== Sys2Proof/Machine/Dispatch.lean ====
section
/-! DEFINITION. The meaning of every step: one arm per constructor of Instr. -/

namespace Sys2Proof.Machine

/-- The meaning of an instruction in a state. -/
def exec (i : Instr) (s : State) : Host.Outcome State Fault Refusal :=
  match i with
  | .orderlyShutdown cause => Sys2Proof.Machine.execOrderlyShutdown cause s
  | .thermalSensorCrossing die sensor temp => Sys2Proof.Machine.execThermalSensorCrossing die sensor temp s
  | .powerEpochStart env => Sys2Proof.Machine.execPowerEpochStart env s
  | .rmaWrite part pa data tag => Sys2Proof.Machine.execRmaWrite part pa data tag s
  | .rmaWriteCompletion tag => Sys2Proof.Machine.execRmaWriteCompletion tag s
  | .rmaRead part pa len tag => Sys2Proof.Machine.execRmaRead part pa len tag s
  | .transportAtomic part pa op ty value expected tag => Sys2Proof.Machine.execTransportAtomic part pa op ty value expected tag s
  | .unknownOpcode h opcode => Sys2Proof.Machine.execUnknownOpcode h opcode s
  | .launch h r => Sys2Proof.Machine.execLaunch h r s
  | .abort h id rsv => Sys2Proof.Machine.execAbort h id rsv s
  | .preemptSuspend h id rsv => Sys2Proof.Machine.execPreemptSuspend h id rsv s
  | .preemptResume h id rsv => Sys2Proof.Machine.execPreemptResume h id rsv s
  | .shoot h ctx count va => Sys2Proof.Machine.execShoot h ctx count va s
  | .shootResponse part seq => Sys2Proof.Machine.execShootResponse part seq s
  | .resetPartition h flags rsv index => Sys2Proof.Machine.execResetPartition h flags rsv index s
  | .resetCopyEngine h flags rsv index => Sys2Proof.Machine.execResetCopyEngine h flags rsv index s
  | .resetMatrixEngine h flags rsv index => Sys2Proof.Machine.execResetMatrixEngine h flags rsv index s
  | .resetLink h flags rsv index => Sys2Proof.Machine.execResetLink h flags rsv index s
  | .queryModule h rsv index => Sys2Proof.Machine.execQueryModule h rsv index s
  | .queryPartition h rsv index => Sys2Proof.Machine.execQueryPartition h rsv index s
  | .queryTract h rsv index => Sys2Proof.Machine.execQueryTract h rsv index s
  | .queryLink h rsv index => Sys2Proof.Machine.execQueryLink h rsv index s
  | .queryPort h rsv index => Sys2Proof.Machine.execQueryPort h rsv index s
  | .queryLaunch h rsv index => Sys2Proof.Machine.execQueryLaunch h rsv index s
  | .queryRasLog h rsv index => Sys2Proof.Machine.execQueryRasLog h rsv index s
  | .qosAssign h rsv x => Sys2Proof.Machine.execQosAssign h rsv x s
  | .qosShare h rsv part weight => Sys2Proof.Machine.execQosShare h rsv part weight s
  | .qosChannel h rsv part weight => Sys2Proof.Machine.execQosChannel h rsv part weight s
  | .qosWays h rsv ctx mask allowance => Sys2Proof.Machine.execQosWays h rsv ctx mask allowance s
  | .qosCtxtable h rsv base count => Sys2Proof.Machine.execQosCtxtable h rsv base count s
  | .qosCode h rsv ctx va => Sys2Proof.Machine.execQosCode h rsv ctx va s
  | .qosRelease h rsv part => Sys2Proof.Machine.execQosRelease h rsv part s
  | .qosMgmtkey h rsv key => Sys2Proof.Machine.execQosMgmtkey h rsv key s
  | .qosPkey h rsv part key => Sys2Proof.Machine.execQosPkey h rsv part key s
  | .eventcfg h rsv x => Sys2Proof.Machine.execEventcfg h rsv x s
  | .attest h request => Sys2Proof.Machine.execAttest h request s
  | .fwload h x => Sys2Proof.Machine.execFwload h x s
  | .fwloadFinal h x => Sys2Proof.Machine.execFwloadFinal h x s
  | .controlParityError core slot entry => Sys2Proof.Machine.execControlParityError core slot entry s
  | .rlimWrite core slot v => Sys2Proof.Machine.execRlimWrite core slot v s
  | .einjDisarm core slot unit => Sys2Proof.Machine.execEinjDisarm core slot unit s
  | .einjArmCorrected core slot unit => Sys2Proof.Machine.execEinjArmCorrected core slot unit s
  | .einjArmUncorrected core slot unit => Sys2Proof.Machine.execEinjArmUncorrected core slot unit s
  | .einjArmControl core slot unit => Sys2Proof.Machine.execEinjArmControl core slot unit s
  | .specialRegisterWrite strand index v => Sys2Proof.Machine.execSpecialRegisterWrite strand index v s
  | .nop x => Sys2Proof.Machine.execNop x s
  | .bra x => Sys2Proof.Machine.execBra x s
  | .braW x => Sys2Proof.Machine.execBraW x s
  | .brx x => Sys2Proof.Machine.execBrx x s
  | .brxW x => Sys2Proof.Machine.execBrxW x s
  | .call x => Sys2Proof.Machine.execCall x s
  | .callW x => Sys2Proof.Machine.execCallW x s
  | .callx x => Sys2Proof.Machine.execCallx x s
  | .callxW x => Sys2Proof.Machine.execCallxW x s
  | .ret x => Sys2Proof.Machine.execRet x s
  | .yield x => Sys2Proof.Machine.execYield x s
  | .rgn x => Sys2Proof.Machine.execRgn x s
  | .rgnW x => Sys2Proof.Machine.execRgnW x s
  | .itend x => Sys2Proof.Machine.execItend x s
  | .rfl x => Sys2Proof.Machine.execRfl x s
  | .rflW x => Sys2Proof.Machine.execRflW x s
  | .exit x => Sys2Proof.Machine.execExit x s
  | .trap x => Sys2Proof.Machine.execTrap x s
  | .trapW x => Sys2Proof.Machine.execTrapW x s
  | .bkpt x => Sys2Proof.Machine.execBkpt x s
  | .tret x => Sys2Proof.Machine.execTret x s
  | .pdone x => Sys2Proof.Machine.execPdone x s
  | .join x => Sys2Proof.Machine.execJoin x s
  | .leave x => Sys2Proof.Machine.execLeave x s
  | .waitm x => Sys2Proof.Machine.execWaitm x s
  | .mmov x => Sys2Proof.Machine.execMmov x s
  | .mmovW x => Sys2Proof.Machine.execMmovW x s
  | .mlog x => Sys2Proof.Machine.execMlog x s
  | .mlogW x => Sys2Proof.Machine.execMlogW x s
  | .mfrp x => Sys2Proof.Machine.execMfrp x s
  | .vote x => Sys2Proof.Machine.execVote x s
  | .voteW x => Sys2Proof.Machine.execVoteW x s
  | .shfl x => Sys2Proof.Machine.execShfl x s
  | .shflW x => Sys2Proof.Machine.execShflW x s
  | .sred x => Sys2Proof.Machine.execSred x s
  | .sredW x => Sys2Proof.Machine.execSredW x s
  | .sscan x => Sys2Proof.Machine.execSscan x s
  | .sscanW x => Sys2Proof.Machine.execSscanW x s
  | .bar x => Sys2Proof.Machine.execBar x s
  | .gbar x => Sys2Proof.Machine.execGbar x s
  | .iadd x => Sys2Proof.Machine.execIadd x s
  | .iaddW x => Sys2Proof.Machine.execIaddW x s
  | .isub x => Sys2Proof.Machine.execIsub x s
  | .isubW x => Sys2Proof.Machine.execIsubW x s
  | .imul x => Sys2Proof.Machine.execImul x s
  | .imulW x => Sys2Proof.Machine.execImulW x s
  | .imulh x => Sys2Proof.Machine.execImulh x s
  | .imulhW x => Sys2Proof.Machine.execImulhW x s
  | .imad x => Sys2Proof.Machine.execImad x s
  | .imadW x => Sys2Proof.Machine.execImadW x s
  | .idiv x => Sys2Proof.Machine.execIdiv x s
  | .idivW x => Sys2Proof.Machine.execIdivW x s
  | .irem x => Sys2Proof.Machine.execIrem x s
  | .iremW x => Sys2Proof.Machine.execIremW x s
  | .imin x => Sys2Proof.Machine.execImin x s
  | .iminW x => Sys2Proof.Machine.execIminW x s
  | .imax x => Sys2Proof.Machine.execImax x s
  | .imaxW x => Sys2Proof.Machine.execImaxW x s
  | .iabs x => Sys2Proof.Machine.execIabs x s
  | .iabsW x => Sys2Proof.Machine.execIabsW x s
  | .and x => Sys2Proof.Machine.execAnd x s
  | .andW x => Sys2Proof.Machine.execAndW x s
  | .or x => Sys2Proof.Machine.execOr x s
  | .orW x => Sys2Proof.Machine.execOrW x s
  | .xor x => Sys2Proof.Machine.execXor x s
  | .xorW x => Sys2Proof.Machine.execXorW x s
  | .not x => Sys2Proof.Machine.execNot x s
  | .notW x => Sys2Proof.Machine.execNotW x s
  | .shl x => Sys2Proof.Machine.execShl x s
  | .shlW x => Sys2Proof.Machine.execShlW x s
  | .shr x => Sys2Proof.Machine.execShr x s
  | .shrW x => Sys2Proof.Machine.execShrW x s
  | .sra x => Sys2Proof.Machine.execSra x s
  | .sraW x => Sys2Proof.Machine.execSraW x s
  | .rot x => Sys2Proof.Machine.execRot x s
  | .rotW x => Sys2Proof.Machine.execRotW x s
  | .popc x => Sys2Proof.Machine.execPopc x s
  | .popcW x => Sys2Proof.Machine.execPopcW x s
  | .clz x => Sys2Proof.Machine.execClz x s
  | .clzW x => Sys2Proof.Machine.execClzW x s
  | .brev x => Sys2Proof.Machine.execBrev x s
  | .brevW x => Sys2Proof.Machine.execBrevW x s
  | .bfx x => Sys2Proof.Machine.execBfx x s
  | .bfxW x => Sys2Proof.Machine.execBfxW x s
  | .bfi x => Sys2Proof.Machine.execBfi x s
  | .bfiW x => Sys2Proof.Machine.execBfiW x s
  | .sel x => Sys2Proof.Machine.execSel x s
  | .icmp x => Sys2Proof.Machine.execIcmp x s
  | .icmpW x => Sys2Proof.Machine.execIcmpW x s
  | .mov x => Sys2Proof.Machine.execMov x s
  | .movW x => Sys2Proof.Machine.execMovW x s
  | .movi x => Sys2Proof.Machine.execMovi x s
  | .moviW x => Sys2Proof.Machine.execMoviW x s
  | .lea x => Sys2Proof.Machine.execLea x s
  | .leaW x => Sys2Proof.Machine.execLeaW x s
  | .fadd x => Sys2Proof.Machine.execFadd x s
  | .faddW x => Sys2Proof.Machine.execFaddW x s
  | .fsub x => Sys2Proof.Machine.execFsub x s
  | .fsubW x => Sys2Proof.Machine.execFsubW x s
  | .fmul x => Sys2Proof.Machine.execFmul x s
  | .fmulW x => Sys2Proof.Machine.execFmulW x s
  | .ffma x => Sys2Proof.Machine.execFfma x s
  | .ffmaW x => Sys2Proof.Machine.execFfmaW x s
  | .fmin x => Sys2Proof.Machine.execFmin x s
  | .fminW x => Sys2Proof.Machine.execFminW x s
  | .fmax x => Sys2Proof.Machine.execFmax x s
  | .fmaxW x => Sys2Proof.Machine.execFmaxW x s
  | .fcmp x => Sys2Proof.Machine.execFcmp x s
  | .fcmpW x => Sys2Proof.Machine.execFcmpW x s
  | .fclass x => Sys2Proof.Machine.execFclass x s
  | .fclassW x => Sys2Proof.Machine.execFclassW x s
  | .frnd x => Sys2Proof.Machine.execFrnd x s
  | .frndW x => Sys2Proof.Machine.execFrndW x s
  | .fscl x => Sys2Proof.Machine.execFscl x s
  | .fsclW x => Sys2Proof.Machine.execFsclW x s
  | .fdot2 x => Sys2Proof.Machine.execFdot2 x s
  | .fdot2W x => Sys2Proof.Machine.execFdot2W x s
  | .rcp x => Sys2Proof.Machine.execRcp x s
  | .rcpW x => Sys2Proof.Machine.execRcpW x s
  | .rsq x => Sys2Proof.Machine.execRsq x s
  | .rsqW x => Sys2Proof.Machine.execRsqW x s
  | .sqrt x => Sys2Proof.Machine.execSqrt x s
  | .sqrtW x => Sys2Proof.Machine.execSqrtW x s
  | .ex2 x => Sys2Proof.Machine.execEx2 x s
  | .ex2W x => Sys2Proof.Machine.execEx2W x s
  | .lg2 x => Sys2Proof.Machine.execLg2 x s
  | .lg2W x => Sys2Proof.Machine.execLg2W x s
  | .sin x => Sys2Proof.Machine.execSin x s
  | .sinW x => Sys2Proof.Machine.execSinW x s
  | .cos x => Sys2Proof.Machine.execCos x s
  | .cosW x => Sys2Proof.Machine.execCosW x s
  | .tanh x => Sys2Proof.Machine.execTanh x s
  | .tanhW x => Sys2Proof.Machine.execTanhW x s
  | .fcvt x => Sys2Proof.Machine.execFcvt x s
  | .f2i x => Sys2Proof.Machine.execF2i x s
  | .i2f x => Sys2Proof.Machine.execI2f x s
  | .pack x => Sys2Proof.Machine.execPack x s
  | .packW x => Sys2Proof.Machine.execPackW x s
  | .unpk x => Sys2Proof.Machine.execUnpk x s
  | .unpkW x => Sys2Proof.Machine.execUnpkW x s
  | .plog x => Sys2Proof.Machine.execPlog x s
  | .plogW x => Sys2Proof.Machine.execPlogW x s
  | .pmov x => Sys2Proof.Machine.execPmov x s
  | .pmovW x => Sys2Proof.Machine.execPmovW x s
  | .ld x => Sys2Proof.Machine.execLd x s
  | .ldW x => Sys2Proof.Machine.execLdW x s
  | .st x => Sys2Proof.Machine.execSt x s
  | .stW x => Sys2Proof.Machine.execStW x s
  | .pref x => Sys2Proof.Machine.execPref x s
  | .prefW x => Sys2Proof.Machine.execPrefW x s
  | .xst x => Sys2Proof.Machine.execXst x s
  | .xstW x => Sys2Proof.Machine.execXstW x s
  | .rdrain x => Sys2Proof.Machine.execRdrain x s
  | .rinv x => Sys2Proof.Machine.execRinv x s
  | .rinvW x => Sys2Proof.Machine.execRinvW x s
  | .fence x => Sys2Proof.Machine.execFence x s
  | .fenceW x => Sys2Proof.Machine.execFenceW x s
  | .waitc x => Sys2Proof.Machine.execWaitc x s
  | .waitcW x => Sys2Proof.Machine.execWaitcW x s
  | .atom x => Sys2Proof.Machine.execAtom x s
  | .cas x => Sys2Proof.Machine.execCas x s
  | .red x => Sys2Proof.Machine.execRed x s
  | .redW x => Sys2Proof.Machine.execRedW x s
  | .regx x => Sys2Proof.Machine.execRegx x s
  | .regxW x => Sys2Proof.Machine.execRegxW x s
  | .regf x => Sys2Proof.Machine.execRegf x s
  | .regfW x => Sys2Proof.Machine.execRegfW x s
  | .shmap x => Sys2Proof.Machine.execShmap x s
  | .shunm x => Sys2Proof.Machine.execShunm x s
  | .shwr x => Sys2Proof.Machine.execShwr x s
  | .shrd x => Sys2Proof.Machine.execShrd x s
  | .csrr x => Sys2Proof.Machine.execCsrr x s
  | .csrw x => Sys2Proof.Machine.execCsrw x s
  | .csrs x => Sys2Proof.Machine.execCsrs x s
  | .csrc x => Sys2Proof.Machine.execCsrc x s
  | .tdef x => Sys2Proof.Machine.execTdef x s
  | .tfree x => Sys2Proof.Machine.execTfree x s
  | .tstat x => Sys2Proof.Machine.execTstat x s
  | .tstatW x => Sys2Proof.Machine.execTstatW x s
  | .tmark x => Sys2Proof.Machine.execTmark x s
  | .cpy x => Sys2Proof.Machine.execCpy x s
  | .cpo x => Sys2Proof.Machine.execCpo x s
  | .cpr x => Sys2Proof.Machine.execCpr x s
  | .mxe x => Sys2Proof.Machine.execMxe x s
  | .mma x => Sys2Proof.Machine.execMma x s
  | .mxp x => Sys2Proof.Machine.execMxp x s
  | .mxpW x => Sys2Proof.Machine.execMxpW x s
  | .acco x => Sys2Proof.Machine.execAcco x s
  | .accc x => Sys2Proof.Machine.execAccc x s
  | .acccW x => Sys2Proof.Machine.execAcccW x s
  | .accr x => Sys2Proof.Machine.execAccr x s
  | .accrW x => Sys2Proof.Machine.execAccrW x s
  | .acca x => Sys2Proof.Machine.execAcca x s
  | .accaW x => Sys2Proof.Machine.execAccaW x s
  | .accz x => Sys2Proof.Machine.execAccz x s
  | .acczW x => Sys2Proof.Machine.execAcczW x s
  | .powerUp => Sys2Proof.Machine.execPowerUp s
  | .powerLoss => Sys2Proof.Machine.execPowerLoss s
  | .junctionOvertempTimeout => Sys2Proof.Machine.execJunctionOvertempTimeout s
  | .demandReport => Sys2Proof.Machine.execDemandReport s
  | .budgetSend => Sys2Proof.Machine.execBudgetSend s
  | .withheldCycle => Sys2Proof.Machine.execWithheldCycle s
  | .issueCycle => Sys2Proof.Machine.execIssueCycle s
  | .timingReplay => Sys2Proof.Machine.execTimingReplay s
  | .linkCrcRetry => Sys2Proof.Machine.execLinkCrcRetry s
  | .linkLaneFailure => Sys2Proof.Machine.execLinkLaneFailure s
  | .linkDown => Sys2Proof.Machine.execLinkDown s
  | .linkTrainingDone => Sys2Proof.Machine.execLinkTrainingDone s
  | .dtLockLoss => Sys2Proof.Machine.execDtLockLoss s
  | .snpDeadline => Sys2Proof.Machine.execSnpDeadline s
  | .dieRejoin => Sys2Proof.Machine.execDieRejoin s
  | .portDown => Sys2Proof.Machine.execPortDown s
  | .leaseGrant => Sys2Proof.Machine.execLeaseGrant s
  | .nearCopyInstall => Sys2Proof.Machine.execNearCopyInstall s
  | .leaseExpiry => Sys2Proof.Machine.execLeaseExpiry s
  | .drainArrival => Sys2Proof.Machine.execDrainArrival s
  | .snpInvalidation => Sys2Proof.Machine.execSnpInvalidation s
  | .loanRecall => Sys2Proof.Machine.execLoanRecall s
  | .ackArrival => Sys2Proof.Machine.execAckArrival s
  | .loanReturn => Sys2Proof.Machine.execLoanReturn s
  | .loanInstall => Sys2Proof.Machine.execLoanInstall s
  | .completionTimeArrival => Sys2Proof.Machine.execCompletionTimeArrival s
  | .queuedRequestServe => Sys2Proof.Machine.execQueuedRequestServe s
  | .retryResend => Sys2Proof.Machine.execRetryResend s
  | .reservedQueueEntryTimeout => Sys2Proof.Machine.execReservedQueueEntryTimeout s
  | .parityDelta => Sys2Proof.Machine.execParityDelta s
  | .sliceMapChange => Sys2Proof.Machine.execSliceMapChange s
  | .stubPowerOff => Sys2Proof.Machine.execStubPowerOff s
  | .remapResend => Sys2Proof.Machine.execRemapResend s
  | .preemptSuspendResponse => Sys2Proof.Machine.execPreemptSuspendResponse s
  | .launchCompletion => Sys2Proof.Machine.execLaunchCompletion s
  | .batchForm => Sys2Proof.Machine.execBatchForm s
  | .batchQueueEntryFreed => Sys2Proof.Machine.execBatchQueueEntryFreed s
  | .slotReturnSend => Sys2Proof.Machine.execSlotReturnSend s
  | .gangPlacement => Sys2Proof.Machine.execGangPlacement s
  | .blockSetup => Sys2Proof.Machine.execBlockSetup s
  | .blockRetire => Sys2Proof.Machine.execBlockRetire s
  | .recordDrainTimer => Sys2Proof.Machine.execRecordDrainTimer s
  | .drainSend => Sys2Proof.Machine.execDrainSend s
  | .regxGrant => Sys2Proof.Machine.execRegxGrant s
  | .barRelease => Sys2Proof.Machine.execBarRelease s
  | .gbarComplete => Sys2Proof.Machine.execGbarComplete s
  | .waitmRelease => Sys2Proof.Machine.execWaitmRelease s
  | .loadReply => Sys2Proof.Machine.execLoadReply s
  | .atomicAtHome => Sys2Proof.Machine.execAtomicAtHome s
  | .reductionAtHome => Sys2Proof.Machine.execReductionAtHome s
  | .xstLanding => Sys2Proof.Machine.execXstLanding s
  | .copyCommandStart => Sys2Proof.Machine.execCopyCommandStart s
  | .copySourceReadDone => Sys2Proof.Machine.execCopySourceReadDone s
  | .copyEngineFault => Sys2Proof.Machine.execCopyEngineFault s
  | .tableEntry => Sys2Proof.Machine.execTableEntry s
  | .passGrant => Sys2Proof.Machine.execPassGrant s
  | .priorityAging => Sys2Proof.Machine.execPriorityAging s
  | .passEnd => Sys2Proof.Machine.execPassEnd s
  | .passFault => Sys2Proof.Machine.execPassFault s
  | .abacusOpAtHome => Sys2Proof.Machine.execAbacusOpAtHome s
  | .gangKill => Sys2Proof.Machine.execGangKill s
  | .killStopDeadline => Sys2Proof.Machine.execKillStopDeadline s
  | .gangRelaunch => Sys2Proof.Machine.execGangRelaunch s
  | .quadRetirement => Sys2Proof.Machine.execQuadRetirement s
  | .preemptStop => Sys2Proof.Machine.execPreemptStop s
  | .preemptDeadline => Sys2Proof.Machine.execPreemptDeadline s
  | .preemptionComplete => Sys2Proof.Machine.execPreemptionComplete s
  | .pseudoChannelFailure => Sys2Proof.Machine.execPseudoChannelFailure s
  | .portUp => Sys2Proof.Machine.execPortUp s
  | .hostStoreTransportCompletion => Sys2Proof.Machine.execHostStoreTransportCompletion s
  | .engineWriteAtHome => Sys2Proof.Machine.execEngineWriteAtHome s

end Sys2Proof.Machine
end

