-- ==== Sys2Proof/Machine/Schedule.lean ====
section
/-! DEFINITION. Which agent moves next (log 1): the agenda, and the default order where the agenda is empty. -/

namespace Sys2Proof.Machine

/-- A step of the agenda that passes no time. -/
def move (ev : Instr) (focus : List Nat) : Planned := { after := 0, ev := ev, focus := focus }

/-- The step that a message of the fabric leads to. -/
def stepOf : Msg → Instr
  | .read _ _ | .engineRead _ _ _ _ _ _ _ | .rmaRead _ _ _ _ => .leaseGrant
  | .data (some _) _ _ _ _ _ => .nearCopyInstall
  | .data none _ _ _ _ _ | .values _ _ _ _ | .element _ _ _ _ _ _ | .hostLoad _ _ | .hostOp _ _ _ _
  | .engineData _ _ _ _ _ => .loadReply
  | .drain _ _ _ _ | .rmaWrite _ _ _ _ _ => .drainArrival
  | .inval _ _ | .redirect _ _ _ | .unredirect _ _ _ => .snpInvalidation
  | .recall _ _ => .loanRecall
  | .ack _ _ _ => .ackArrival
  | .loanPush _ _ _ _ => .loanInstall
  | .loanReturn _ _ _ => .loanReturn
  | .ctl _ _ | .refused _ => .completionTimeArrival
  | .retry _ _ => .retryResend
  | .remap _ _ => .remapResend
  | .parity _ _ => .parityDelta
  | .atomic _ _ _ _ _ _ _ | .portAtomic _ _ _ _ _ _ _ _ => .atomicAtHome
  | .red _ _ _ _ _ => .reductionAtHome
  | .xst _ _ _ _ => .xstLanding
  | .abacus _ _ _ _ _ _ _ => .abacusOpAtHome
  | .engineWrite _ _ _ _ _ _ _ => .engineWriteAtHome
  | .hostStore _ _ => .hostStoreTransportCompletion

/-- Messages on their way, oldest first; those in a home's queue wait there. -/
def messageMoves (s : State) : List Planned :=
  (s.net.filter fun p => !(s.homes.any fun h => h.2.queue.contains p.1)).map fun p => move (stepOf p.2) [p.1]

/-- The power arbiter's epoch (R29); demand reports, whose measurements nothing fixes, come from the agenda (log 11). -/
def epochMoves (s : State) : List Planned :=
  [move (.powerEpochStart s.module.env) [], move .budgetSend []]

/-- The steps of the homes. -/
def homeMoves (s : State) : List Planned :=
  s.homes.flatMap fun p =>
    (if p.2.queue.isEmpty then [] else [move .queuedRequestServe [p.1]]) ++
      match p.2.txn with
      | some x => if x.deadline ≤ s.now then [move .snpDeadline [p.1]] else []
      | none => []

/-- The steps of the cores. -/
def coreMoves (s : State) : List Planned :=
  s.cores.flatMap fun p =>
    (p.2.record.map fun e => move .recordDrainTimer [p.1, e.seq]) ++ [move .drainSend [p.1], move .regxGrant [p.1]] ++
      ((p.2.l1.filter fun e => e.expiry.any (decide <| · ≤ s.now)).map fun e => move .leaseExpiry [p.1, e.line]) ++
      (if p.2.queue.isEmpty then []
       else [move .copyCommandStart [p.1], move .copySourceReadDone [p.1, 0], move .copyEngineFault [p.1]]) ++
      (if p.2.writes.isEmpty then [] else [move .copySourceReadDone [p.1, 1]])

/-- The releases that are due: of bar, gbar and waitm, before anything else (R270, R275, R276). -/
def releaseMoves (s : State) : List Planned :=
  (s.blocks.filter fun p => mustRelease s p.1).flatMap fun p =>
    [move .barRelease [p.1 / 4, p.1 % 4], move .gbarComplete [p.2.gang]] ++
      (blockSheaves s p.1).flatMap fun f => (List.range 12).map fun m => move .waitmRelease [f / 64, f % 64, m]

/-- The steps of blocks. -/
def blockMoves (s : State) : List Planned :=
  s.blocks.flatMap fun p =>
    let at' := [p.1 / 4, p.1 % 4]
    [move .blockSetup at', move .blockRetire at', move .preemptStop at']

/-- The steps of gangs and launches. -/
def gangMoves (s : State) : List Planned :=
  (s.gangs.flatMap fun p =>
    [move .gangKill [p.1], move .killStopDeadline [p.1], move .gangRelaunch [p.1], move .preemptionComplete [p.1],
     move .preemptDeadline [p.1]]) ++
  (s.launches.map fun p => move .launchCompletion [p.1 / 2 ^ 32, p.1 % 2 ^ 32]) ++
  (s.parts.flatMap fun p => (p.2.waiting.flatMap fun w =>
    [move (.shootResponse p.1 w.h.seq) [], move .preemptSuspendResponse [p.1, w.target]])) ++
  ((nextServed s).toList.map fun p => move .batchForm [p]) ++
  s.tracts.flatMap fun p =>
    (if p.2.pending.isEmpty && p.2.batches.isEmpty then [] else [move .gangPlacement [p.1]]) ++
      (if p.2.freedEntries = 0 then [] else [move .batchQueueEntryFreed [p.1]]) ++
      if p.2.returns = 0 then [] else [move .slotReturnSend [p.1]]

/-- The steps of the quads. -/
def quadMoves (s : State) : List Planned :=
  s.quads.flatMap fun p =>
    ((List.range p.2.latches.length).map fun i => move .tableEntry [p.1, i]) ++
    (if p.2.table.isEmpty then [] else [move .passEnd [p.1], move .passFault [p.1], move .passGrant [p.1]]) ++
    ((List.range p.2.table.length).map fun i => move .priorityAging [p.1, i]) ++
    (if p.2.reserved.isEmpty then [] else [move .reservedQueueEntryTimeout [p.1]]) ++
      (if mustRetire s p.1 then [move .quadRetirement [p.1]] else []) ++
      if p.2.stub.isSome then [move .stubPowerOff [p.1]] else []

/-- The steps of the module. -/
def moduleMoves (s : State) : List Planned :=
  (s.dies.flatMap fun d => (d.2.hotSince.filter fun p => decide (p.2 + 10000000 ≤ s.now)).map fun p =>
    move .junctionOvertempTimeout [d.1, p.1]) ++
  (s.module.rma.map fun r => move (.rmaWriteCompletion r.tag) []) ++
    (if s.module.newRetired.isEmpty && !s.module.newDetour then [] else [move .sliceMapChange []])

/-- Cores of the quads that hold a block. -/
def busyCores (s : State) : List Nat := (nub (s.blocks.map fun p => p.1 / 16)).flatMap fun q => (List.range 4).map (4 * q + ·)

/-- The default order of the agents that may move, beside the cores' issue stages. -/
def defaultMoves (s : State) : List Planned :=
  releaseMoves s ++ epochMoves s ++ messageMoves s ++ homeMoves s ++ coreMoves s ++ blockMoves s ++ gangMoves s ++ quadMoves s ++ moduleMoves s

/-! ## Time (R26, R27, R30, R32) -/

/-- Cycles of the arithmetic clock in the ticks from a to b (R26): 27 in 10 ticks. -/
def cyclesBetween (a b : Nat) : Nat := 27 * b / 10 - 27 * a / 10

/-- Of the first x cycles from a window's start, those outside the allowance of a level (R30). -/
def outsideCycles (level x : Nat) : Nat := x / 64 * (64 - 4 * (level + 1)) + (x % 64 - 4 * (level + 1))

/-- The clock passes n cycles of a quad (R26): those that the quad has not had yet go by without an issue, and count as withheld
where they lie outside its allowance (R30, R32). -/
def Quad.elapse (n : Nat) (x : Quad) : Quad :=
  let m := n - x.ahead
  let d := outsideCycles x.level (x.cycle + m) - outsideCycles x.level x.cycle
  { x with cycle := (x.cycle + m) % 64, acted := if m = 0 then x.acted else [], ahead := x.ahead - n,
           withheld := x.withheld + d, wcyc := x.wcyc + d }

/-- Ticks pass, and with them the cycles of every quad. -/
def passTicks (s : State) (n : Nat) : State :=
  if n = 0 then s
  else
    let t := { s with now := s.now + n }
    if s.module.power = .on then
      { t with quads := (List.range Config.quads).map fun q => (q, (quadAt s q).elapse (cyclesBetween s.now t.now)) }
    else t

/-- The state in which a planned step runs: its time has passed, and its agent's numbers are set. -/
def begin (s : State) (p : Planned) : State :=
  let t := passTicks s p.after
  { t with ctl := { t.ctl with focus := p.focus } }

/-- The state after a planned step is taken from the agenda. -/
def takePlanned (s : State) (rest : List Planned) : State := { s with ctl := { s.ctl with agenda := rest } }

/-- The core of the default order whose turn it is in this tick: the next one whose quad has not had the tick's cycles (R26). -/
def turnCore (s : State) : Option Nat :=
  let due := (busyCores s).filter fun c => decide ((quadAt s (c / 4)).ahead < cyclesBetween s.now (s.now + 1))
  (due.find? fun c => s.ctl.turn ≤ c).orElse fun _ => due.head?

/-- The issue cycle of a core, or a withheld cycle of its quad. -/
def turnMove (s : State) (c : Nat) : Planned := if allowed s (c / 4) then move .issueCycle [c, 0, 0] else move .withheldCycle [c / 4]

/-- A core has its turn. -/
def noteTurn (s : State) (c : Nat) : State := { s with ctl := { s.ctl with turn := c + 1, moved := false } }

/-- An agent other than a core's issue stage is to move. -/
def noteMove (s : State) : State := { s with ctl := { s.ctl with moved := true } }

/-- A tick passes, once every core that holds blocks has had its cycles of it. -/
def tick (s : State) : State :=
  let t := passTicks s 1
  { t with ctl := { t.ctl with moved := false } }

/-- A module without power runs nothing but its power-up (R33, R35). -/
def mayRun (s : State) (i : Instr) : Bool := s.module.power == .on || i == .powerUp

end Sys2Proof.Machine
end

