-- ==== Sys2Proof/Machine/Step.lean ====
section
/-! DEFINITION. One step of the machine: the instruction of the bundle that issued, else the next planned step, else the first
agent of the default order that can move. -/

namespace Sys2Proof.Machine

/-- The first of some moves that changes the state; where none does, what comes then. -/
def firstMove (s : State) (otherwise : State → Host.Outcome State Fault Refusal) : List Planned → Host.Outcome State Fault Refusal
  | [] => otherwise s
  | p :: ps =>
    match exec p.ev (begin s p) with
    | .next t => if t = begin s p then firstMove s otherwise ps else .next t
    | .fault r => .fault r
    | .refused r => .refused r

/-- The turn of the next core in this tick, or, where each has had its cycles of it, the next tick (R26, R30). -/
def turnStep (s : State) : Host.Outcome State Fault Refusal :=
  match turnCore s with
  | some c => firstMove (noteTurn s c) .next [turnMove s c]
  | none => .next (tick s)

/-- A step where no bundle is at the issue stage: the agenda's next, else by turns the move of an agent and a core's turn, so that
no cycle of a core is lost to the moves of others, nor theirs to it (log 1). -/
def eventStep (s : State) : Host.Outcome State Fault Refusal :=
  match s.ctl.agenda with
  | p :: rest =>
    if mayRun s p.ev then exec p.ev (begin (takePlanned s rest) p) else .next (begin (takePlanned s rest) p)
  | [] =>
    if s.module.power != .on then .next (tick s)
    else if s.ctl.moved then turnStep s
    else firstMove (noteMove s) turnStep (defaultMoves s)

/-- One step. -/
def step (s : State) : Host.Outcome State Fault Refusal :=
  match s.ctl.bundle with
  | some b =>
    match fetchInstr s b with
    | .run i => exec i s
    | .stop t => .next t
  | none => eventStep s

/-- A launch of one block with one sheaf of 8 strands, whose code stands at VA 0x10000 (log 18). -/
def fetchRecord : LaunchRecord :=
  { LaunchRecord.blank with entry := 0x10000, codeBase := 0x10000, blocks := 1, items := 1, regs := 512, xpad := 16 }

/-- Eight strands at the entry of that launch. -/
def fetchStrands : Tab Strand :=
  (List.range 8).map fun i => (i, { Strand.blank with lane := i, sidx := i, pc := 0x10000, cond := .running, fmask := 0, nbv := 1 })

/-- The state with an instruction where the next step fetches (log 18): partition 1 with tract 0, one launch, its one gang on
core 0, page tables that map the first GiB of virtual addresses, the instruction's bytes at the entry, and its bundle at the
issue stage. -/
def State.withFetchWord (s : State) (nbits w : Nat) : State :=
  let part : Partition := { Partition.blank with tracts := [0], nextLaunch := 2 }
  let launch : Launch := { Launch.blank with part := 1, id := 1, record := fetchRecord, root := 0x10000, nextBlock := 1 }
  let g := s.ctl.nextId
  let gang : Gang := { Gang.blank with part := 1, launch := 1, state := .placed }
  let block : Block := { Block.blank with part := 1, launch := 1, gang := g, ready := true, sheafSlots := [0], padBytes := 16384, last := 1 }
  let sheaf : Sheaf := { Sheaf.blank with alloc := 512 }
  let mem := memWriteList s.mem 0x10000 (leBytes 8 0x30001)
  let mem := memWriteList mem 0x30000 (leBytes 8 0x0C00000040000002)
  let mem := memWriteList mem 0x40010000 (tableBytes nbits (w % 2 ^ nbits))
  { s with
    mem := mem, parts := tset s.parts 1 part, launches := tset s.launches (2 ^ 32 + 1) launch, gangs := tset s.gangs g gang,
    blocks := tset s.blocks 0 block, sheaves := tset s.sheaves 0 sheaf,
    strands := fetchStrands ++ s.strands.filter (fun p => decide (64 ≤ p.1)),
    ctl := { s.ctl with nextId := g + 1, bundle := some { core := 0, block := 0, pc := 0x10000, strands := List.range 8 } } }

end Sys2Proof.Machine
end

