-- ==== Sys2Proof/Safety.lean ====
section
/-! DEFINITION. The words of the claims: the invariants of every step, what it is for a bundle to stand at the issue stage, what
a step leaves alone, the checks and the effect of every instruction row, and the results of the register instructions. -/

namespace Sys2Proof.Machine

/-! ## Invariants -/

/-- Some strands are in ascending home lane, no lane twice (R10, R147). -/
abbrev LaneOrder (s : State) (ks : List Nat) : Prop := ks.Pairwise fun j k => (strandAt s j).lane < (strandAt s k).lane

/-- A bundle stands at the issue stage: it holds each strand once, in ascending home lane with no lane twice, and each of its strands
stands in it (R10, R144, R147). -/
def Standing (s : State) (b : Bundle) : Prop :=
  s.ctl.bundle = some b ∧ b.strands.Nodup ∧ LaneOrder s b.strands ∧ ∀ k ∈ b.strands, standsIn s b k = true

/-- Whatever bundle is at the issue stage stands there. -/
def BundleOk (s : State) : Prop := ∀ b, s.ctl.bundle = some b → Standing s b

/-- The invariant of every step: memory in its canonical form, and a bundle that stands. -/
def StepInv (s : State) : Prop := s.mem.wf = true ∧ BundleOk s

/-- A run of n steps neither faults nor is refused. -/
def Runs (s : State) (n : Nat) : Prop := ∃ t, Host.Core.run core n s = .next t

/-- A safe machine: from here every number of steps runs. -/
def Safe (s : State) : Prop := ∀ n, Runs s n

/-! ## Memory -/

/-- The steps that may change memory: arrivals at a home, the copy engine's and the host's writes, the assignment, release and
reset of tracts, and the loss of power. -/
def mayChangeMemory : Instr → Bool
  | .drainArrival | .atomicAtHome | .reductionAtHome | .abacusOpAtHome | .engineWriteAtHome | .queuedRequestServe | .powerUp
  | .powerLoss | .junctionOvertempTimeout | .sliceMapChange => true
  | .orderlyShutdown _ | .rmaWrite _ _ _ _ | .transportAtomic _ _ _ _ _ _ _ | .resetPartition _ _ _ _ | .qosAssign _ _ _
  | .qosWays _ _ _ _ _ | .qosRelease _ _ _ => true
  | _ => false

/-! ## Outcomes -/

/-- An instruction answers a next state, and the next state is so. -/
def Completes (i : Instr) (s : State) (P : State → Prop) : Prop := ∃ t, exec i s = .next t ∧ P t

/-- The checks of every participant find nothing. -/
def AllPass (ps : List Nat) (check : Nat → Verdict) : Prop := ∀ k ∈ ps, check k = Verdict.ok

/-- The control fields once the bundle has left the issue stage. -/
def ctlAfter (s : State) : Control := { s.ctl with bundle := none }

/-- Nothing but strands has changed. -/
def OnlyStrands (s t : State) : Prop := t = { s with ctl := ctlAfter s, strands := t.strands }

/-- Nothing but strands and sheaves has changed. -/
def OnlyThreads (s t : State) : Prop := t = { s with ctl := ctlAfter s, strands := t.strands, sheaves := t.sheaves }

/-- Every strand is what a function makes of it. -/
def StrandsBecome (s t : State) (f : Nat → Strand → Strand) : Prop := ∀ k, strandAt t k = f k (strandAt s k)

/-- A strand goes on past an instruction of a length. -/
def Strand.past (x : Strand) (len : Nat) : Strand := { x with pc := x.pc + BitVec.ofNat 64 len }

/-- Participants become what f makes of them, the bundle's other strands go on past the instruction, and no other strand
changes (R149). -/
def BundleBecomes (s t : State) (b : Bundle) (ps : List Nat) (len : Nat) (f : Nat → Strand → Strand) : Prop :=
  StrandsBecome s t fun k x => if k ∈ ps then f k x else if k ∈ b.strands then x.past len else x

/-- A strand that has popped its newest on-chip return entry (R262): below its trap depth it has left its handler (R356). -/
def Strand.popped (x : Strand) : Strand :=
  match x.stack.getLast? with
  | some e =>
    { x with stack := x.stack.dropLast, pc := e.ret, x := e.x, y := e.y, depth := x.depth - 1,
             trapDepth := if x.depth - 1 < x.trapDepth then 0 else x.trapDepth }
  | none => x

/-- A strand can enter its handler (R356): its launch names one, it is in none, its sheaf runs normal code, and the on-chip stack
has room for the return entry (R262). -/
def canTrap (s : State) (k : Nat) : Prop :=
  (launchOf s (blockAt s (blockOf s k))).record.trapOff ≠ 0xFFFFFFFF ∧ (strandAt s k).trapDepth = 0 ∧
    (sheafAt s (sheafOf k)).phase = .normal ∧ spillPlan s k = .room

/-- Where a strand's handler begins (R356). -/
def handlerOf (s : State) (k : Nat) : DWord :=
  let r := (launchOf s (blockAt s (blockOf s k))).record
  r.codeBase + r.trapOff.setWidth 64

/-- A message asks for a line on behalf of a waiter, or already brings it (R48). -/
def Msg.requests (m : Msg) (line : Nat) (w : Nat × Nat) : Prop :=
  match m with
  | .read _ r | .data _ r _ _ _ _ | .hostLoad _ r => r.line = line ∧ w ∈ r.waiters
  | _ => False

/-- The value of a special register after a write of new bits to it (R351 to R353): it had the value cur. -/
def specialAfter (i : BitVec 9) (cur new : Nat) : Nat :=
  match i.toNat with
  | 0x013 => new
  | 0x014 | 0x015 => new % 256
  | 0x016 => if new % 256 = 1 then 1 else cur
  | 0x018 => if 1 ≤ new % 256 ∧ new % 256 ≤ 48 then new % 256 else cur
  | 0x01E => if new / 256 % 4 = 0 ∨ einjValid (new / 256 % 4) (new % 16) = true then 256 * (new / 256 % 4) + new % 16 else cur
  | _ => cur

/-! ## Instructions of registers alone (R281) -/

/-- What an instruction of registers alone computes, the type of its result, whether it reads the old D, and whether poison
moves with the value. -/
structure AluRow where
  fn : LaneFn
  dty : Three → BitVec 4
  readsD : Bool
  moves : Bool

/-- The row of an instruction whose result has its own type. -/
def plainRow (fn : LaneFn) : AluRow := { fn := fn, dty := ownTy, readsD := false, moves := false }

/-- The row of an instruction whose result has a fixed type. -/
def fixedRow (fn : LaneFn) (ty : BitVec 4) : AluRow := { fn := fn, dty := fun _ => ty, readsD := false, moves := false }

/-- The instructions of registers alone, but for lea. -/
def aluRow : Stem → Option AluRow
  | .iadd => some (plainRow iaddFn)
  | .isub => some (plainRow isubFn)
  | .imul => some (plainRow imulFn)
  | .imulh => some (plainRow imulhFn)
  | .imad => some (plainRow imadFn)
  | .idiv => some (plainRow idivFn)
  | .irem => some (plainRow iremFn)
  | .imin => some (plainRow iminFn)
  | .imax => some (plainRow imaxFn)
  | .iabs => some (plainRow iabsFn)
  | .and => some (plainRow andFn)
  | .or => some (plainRow orFn)
  | .xor => some (plainRow xorFn)
  | .not => some (plainRow notFn)
  | .shl => some (plainRow shlFn)
  | .shr => some (plainRow shrFn)
  | .sra => some (plainRow sraFn)
  | .rot => some (plainRow rotFn)
  | .popc => some (plainRow popcFn)
  | .clz => some (plainRow clzFn)
  | .brev => some (plainRow brevFn)
  | .bfx => some (plainRow bfxFn)
  | .bfi => some { fn := bfiFn, dty := ownTy, readsD := true, moves := false }
  | .sel => some (plainRow selFn)
  | .icmp => some (plainRow icmpFn)
  | .mov => some { fn := movFn, dty := ownTy, readsD := false, moves := true }
  | .movi => some (plainRow moviFn)
  | .fadd => some (plainRow faddFn)
  | .fsub => some (plainRow fsubFn)
  | .fmul => some (plainRow fmulFn)
  | .ffma => some (plainRow ffmaFn)
  | .fmin => some (plainRow fminFn)
  | .fmax => some (plainRow fmaxFn)
  | .fcmp => some (plainRow fcmpFn)
  | .fclass => some (plainRow fclassFn)
  | .frnd => some (plainRow frndFn)
  | .fscl => some (plainRow fsclFn)
  | .fdot2 => some (fixedRow fdot2Fn Ty.f32)
  | .rcp => some (plainRow (sfuFn .rcp))
  | .rsq => some (plainRow (sfuFn .rsq))
  | .sqrt => some (plainRow (sfuFn .sqrt))
  | .ex2 => some (plainRow (sfuFn .ex2))
  | .lg2 => some (plainRow (sfuFn .lg2))
  | .sin => some (plainRow (sfuFn .sin))
  | .cos => some (plainRow (sfuFn .cos))
  | .tanh => some (plainRow (sfuFn .tanh))
  | .fcvt => some (plainRow fcvtFn)
  | .f2i => some (plainRow f2iFn)
  | .i2f => some (plainRow i2fFn)
  | .pack => some (fixedRow packFn Ty.b32)
  | .unpk => some (fixedRow unpkFn Ty.f32)
  | .plog => some (plainRow plogFn)
  | .pmov => some (fixedRow pmovFn Ty.b32)
  | _ => none

/-- The width of what a destination of a type is: a uniform register is 64 bits, a vector register 32 or a pair of 64 (R280). -/
def destWidth (dty : BitVec 4) : Operand → Nat
  | .w _ => 64
  | _ => if tyWidth dty = 64 then 64 else 32

/-- What a destination reads after a result of a type was written to it: a predicate its low bit (p7 true, R151), a register the
result extended by its type over the whole register (R200, R280). -/
def destBits (dty : BitVec 4) (o : Operand) (bits : Nat) : Nat :=
  match o with
  | .p i => if 7 ≤ i.toNat then 1 else bits % 2
  | _ => extendBits bits (tyWidth dty) (tySigned dty) (destWidth dty o)

/-- What a destination of a strand reads, the whole register. -/
def destReads (s : State) (k : Nat) (dty : BitVec 4) (o : Operand) : Nat := (readOperand s k (destWidth dty o) o).1

/-- Whether a destination of a strand is poisoned. -/
def destPoison (s : State) (k : Nat) (dty : BitVec 4) (o : Operand) : Bool := (readOperand s k (destWidth dty o) o).2

/-- The vector registers that a result of a type is written to. -/
def destNames (s : State) (k : Nat) (dty : BitVec 4) (o : Operand) : List Nat :=
  vNames s k (if tyWidth dty = 64 then 64 else 32) o

/-- The number whose bits below w are given. -/
def bitsBelow (w : Nat) (f : Nat → Bool) : Nat := ((List.range w).map fun i => if f i then 2 ^ i else 0).sum

/-- An integer clamped to the range of a type, with SAT where that changed it (R201). -/
def clamped (ty : BitVec 4) (v : Int) : Nat × Flags :=
  let w := tyWidth ty
  let lo : Int := if tySigned ty then -(2 ^ (w - 1) : Int) else 0
  let hi : Int := if tySigned ty then 2 ^ (w - 1) - 1 else 2 ^ w - 1
  let r := max lo (min hi v)
  ((r % (2 ^ w : Int)).toNat, if r = v then 0 else Flag.sat)

/-- The integer, logical, shift, bit-field, select and compare rows but for division (R282, R283, R285 to R290). -/
def integerRows : List Stem :=
  [.iadd, .isub, .imul, .imad, .imulh, .imin, .imax, .iabs, .and, .or, .xor, .not, .shl, .shr, .sra, .rot, .popc, .clz, .brev, .bfx,
   .bfi, .sel, .mov, .movi, .icmp]

/-- What such a row gives from the bits of A, B, C and D, in the manual's own terms: the bits of its result, and its sticky bits. -/
def integerRule (stem : Stem) (x : Three) (a b c d : Nat) : Nat × Flags :=
  let w := tyWidth x.ty
  let va := intVal x.ty a
  let vb := intVal x.ty b
  let wrap (v : Int) : Nat × Flags := ((v % (2 ^ w : Int)).toNat, 0)
  let put (v : Int) : Nat × Flags := if x.mod = 1 then clamped x.ty v else wrap v
  let bits (f : Nat → Bool) : Nat × Flags := (bitsBelow w f, 0)
  let p := b % 256
  let n := min (b / 256 % 256) w
  match stem with
  | .iadd => put (va + vb)
  | .isub => put (va - vb)
  | .imul => put (va * vb)
  | .imad => put (va * vb + intVal x.ty c)
  | .imulh => wrap (va * vb / (2 ^ w : Int))
  | .imin => wrap (min va vb)
  | .imax => wrap (max va vb)
  | .iabs => put (if va < 0 then -va else va)
  | .and => bits fun i => a.testBit i && b.testBit i
  | .or => bits fun i => a.testBit i || b.testBit i
  | .xor => bits fun i => a.testBit i != b.testBit i
  | .not => bits fun i => !a.testBit i
  | .shl => bits fun i => decide (b ≤ i) && a.testBit (i - b)
  | .shr => bits fun i => a.testBit (i + b)
  | .sra => bits fun i => if i + b < w then a.testBit (i + b) else decide (va < 0)
  | .rot => bits fun i => a.testBit ((i + w - b % w) % w)
  | .popc => (((List.range w).filter a.testBit).length, 0)
  | .clz => (((List.range w).takeWhile fun i => !a.testBit (w - 1 - i)).length, 0)
  | .brev => bits fun i => a.testBit (w - 1 - i)
  | .bfx =>
    let field (i : Nat) : Bool := if i < w then a.testBit i else tySigned x.ty && a.testBit (w - 1)
    bits fun i => n ≠ 0 && (if i < n then field (p + i) else tySigned x.ty && field (p + n - 1))
  | .bfi => bits fun i => if p ≤ i ∧ i < p + n then a.testBit (i - p) else d.testBit i
  | .sel => (if c % 2 = 1 then a else b, 0)
  | .mov => (a, 0)
  | .movi => (b, 0)
  | .icmp =>
    let holds : Bool := match x.mod.toNat with
      | 1 => decide (va = vb)
      | 2 => decide (va ≠ vb)
      | 3 => decide (va < vb)
      | 4 => decide (va ≤ vb)
      | 5 => decide (vb < va)
      | _ => decide (vb ≤ va)
    (if holds then 1 else 0, 0)
  | _ => (0, 0)

/-- The instructions with a memory operand or an exchange offset, and lea. -/
def addressRows : List Stem := [.ld, .st, .atom, .cas, .red, .xst, .rinv, .lea, .acca, .accz, .accr, .accc, .acco]

/-- The checks that a participant of such a row meets, in the order of R306 (R291, R312, R314, R341, R342); of acco, those of its sheaf's
lead (R340). -/
def addressCheck (stem : Stem) (x : Three) (s : State) (ps : List Nat) (k : Nat) : Verdict :=
  match stem with
  | .xst => xstCheck x s k
  | .rinv => rinvCheck x s k
  | .lea => (Verdict.trapIf (rangeFails .lea x s k) .regrange).and (Verdict.poisonIf (leaValue x s k).2)
  | .acca | .accz | .accr | .accc => accCheck stem x s k
  | .acco => accoCheck x s (sheafLead ps k)
  | _ => memCheck stem x s k

/-- No sheaf of a bundle's block shares registers (R155), and no error is armed in it (R353). -/
def Unmapped (s : State) (b : Bundle) : Prop := (blockAt s b.block).shared = [] ∧ (blockAt s b.block).armed = none

/-- What every instruction of registers alone leaves (R281): the bundle goes on; where no sheaf of the block shares registers
and no error is armed, D of each strand that executes reads the value and has its poison (R132); each participant has the sticky
bits, with U those of its sheaf's one execution (R209). -/
def LaneResults (i : Instr) (stem : Stem) (code : Code) (dty : BitVec 4) (value : Nat → Nat) (flags : Nat → Flags)
    (poison : Nat → Bool) (s : State) (b : Bundle) : Prop :=
  let x := code.norm stem
  let ps := participants s b x.g
  Completes i s fun t =>
    (∀ k ∈ b.strands, (strandAt t k).pc = (strandAt s k).pc + BitVec.ofNat 64 code.len) ∧
    (∀ k ∈ ps, (strandAt t k).fstat = (strandAt s k).fstat ||| flags (if x.u then sheafLead ps k else k)) ∧
    (Unmapped s b → ∀ k ∈ executors x ps, destReads t k dty x.d = destBits dty x.d (value k) ∧ destPoison t k dty x.d = poison k) ∧
    t.mem = s.mem

/-- What an instruction of registers alone leaves unchanged, whose result has a type (R149, R151, R209, R280, R281): everything
but pc, the registers and predicates it writes, their poison and the sticky bits of its participants; every register but D;
everything outside strands and sheaves. -/
def LaneFrame (stem : Stem) (code : Code) (dty : BitVec 4) (s t : State) (b : Bundle) : Prop :=
  let x := code.norm stem
  let ps := participants s b x.g
  OnlyThreads s t ∧ (∀ k, k ∉ b.strands → strandAt t k = strandAt s k) ∧
  (∀ k, strandAt t k = { strandAt s k with
    pc := (strandAt t k).pc, v := (strandAt t k).v, vPoison := (strandAt t k).vPoison, preds := (strandAt t k).preds,
    fstat := (strandAt t k).fstat }) ∧
  (∀ k n, (k ∉ ps ∨ n ∉ destNames s k dty x.d) → readV t k n = readV s k n) ∧
  (∀ k n, (k ∉ ps ∨ x.d ≠ .p (BitVec.ofNat 9 n)) → readP t k n = readP s k n) ∧
  (∀ k, k ∉ ps → (strandAt t k).fstat = (strandAt s k).fstat) ∧
  (∀ f, sheafAt t f = { sheafAt s f with w := (sheafAt t f).w, wPoison := (sheafAt t f).wPoison }) ∧
  ∀ f n, x.d ≠ .w (BitVec.ofNat 9 n) → readW t f n = readW s f n

/-- The value of a source operand of a strand. -/
def srcOf (stem : Stem) (code : Code) (s : State) (k : Nat) (p : Pos) : Nat := (valueAt stem (code.norm stem) s k p).1

/-! ## Messages at a home, and answers to the host -/

/-- A slice serves a request for a line at once (R55, R56, R66, R69): it homes the line, its die is in service, the line is not
busy. -/
def ServesNow (s : State) (q line : Nat) : Prop :=
  homeSlice s line = q ∧ (dieAt s (q / 64)).fenced = false ∧ homeBusy s line = false

/-- Memory holds some bytes of a line, by their offset, and every other byte as before. -/
def WritesLine (s t : State) (line : Nat) (data : Tab Byte) : Prop :=
  (∀ off v, (off, v) ∈ data → (∀ w, (off, w) ∈ data → w = v) → memRead t.mem (64 * line + off) = v) ∧
  ∀ a, (∀ p ∈ data, a ≠ 64 * line + p.1) → memRead t.mem a = memRead s.mem a

/-- A location holds what an update makes of its old value, and every other byte is as before (R185). -/
def Updates (s t : State) (o : LaneOp) : Prop :=
  let n := tyWidth o.ty / 8
  let old := leNat ((List.range n).map fun i => memRead s.mem (o.pa + i))
  (∀ i < n, some (memRead t.mem (o.pa + i)) = (leBytes n (atomNew o.op o.ty old o.value.toNat o.expected.toNat))[i]?) ∧
  ∀ a, a < o.pa ∨ o.pa + n ≤ a → memRead t.mem a = memRead s.mem a

/-- A command reaches the module and is well formed (R25, R76, R79 to R81). -/
def Received (s : State) (h : CmdHeader) (len : Nat) : Prop :=
  received s h = true ∧ badHeader h len = false ∧ (h.endpoint ≠ 0 → (partAt s h.endpoint).waiting.length < 64)

/-- A command has its response (R81): sent at once on the management endpoint and on an idle stream, else behind the commands that
still wait. -/
def Answered (s t : State) (h : CmdHeader) (op : Nat) (c : CmdStatus) (result : DWord) (detail : List Byte) : Prop :=
  let r := responseOf h op c result detail
  (h.endpoint = 0 ∨ (partAt s h.endpoint).waiting = [] → t.sent = s.sent ++ [r]) ∧
  (h.endpoint ≠ 0 → ∀ w rest, (partAt s h.endpoint).waiting = w :: rest → w.ready = none →
    t.sent = s.sent ∧ (partAt t h.endpoint).waiting = (partAt s h.endpoint).waiting ++ [waitingOf h op 0 (some r)])

/-- The strands of a list leave their barrier (R270, R275, R276): past its instruction, Running or waiting on their sheaf's pending
request; no other strand changes. -/
def Released (s t : State) (ws : List Nat) : Prop :=
  StrandsBecome s t fun k x => if k ∈ ws then
    { x.past x.waitLen with cond := if (sheafAt s (sheafOf k)).regx.isSome then .waiting (.regx false) else .running } else x

/-- The free slots of a tract that the dispatcher counts or that are on their way to it, less those that a retired quad took (R104,
R105, R141). -/
def Tract.slots (x : Tract) : Int := (x.credit : Int) + x.returns - x.owed

/-- Some slots of a tract are on their way back: the dispatcher's count takes them in, and no more than 16 are gathered (R104,
R105). -/
def SlotsReturn (x y : Tract) (n : Nat) : Prop := y.slots = x.slots + n ∧ (x.returns ≤ Config.returnDepth → y.returns ≤ Config.returnDepth)

/-- The blocks of a gang have left their cores (R105, R141): their sheaves and strands are gone, and each slot is on its way back,
but for a retired quad's. -/
def GangLeft (s t : State) (g : Nat) : Prop :=
  (∀ b ∈ gangBlocks s g, tfind t.blocks b = none ∧ ∀ f ∈ blockSheaves s b, tfind t.sheaves f = none ∧
    ∀ k, sheafOf k = f → tfind t.strands k = none) ∧
  ∀ u, SlotsReturn (tractAt s u) (tractAt t u) ((gangBlocks s g).countP fun b => b / 512 == u && !(quadAt s (b / 16)).retired)

/-- A slot of a core whose bundle cannot issue holds it, with its leading fences issued (R144, R148, R184). -/
def holdSlot (c : Nat) (s : State) (slot : Nat) : State :=
  match candidate s (64 * c + slot) with
  | some b => modSheaf (canIssue s b).2 (64 * c + slot) fun y => { y with held := some b }
  | none => s

/-- None of some slots, examined one after another, has a bundle that can issue (R144). -/
def NoneIssues (s : State) (c : Nat) (slots : List Nat) : Prop :=
  ∀ before slot after b, slots = before ++ slot :: after → candidate (before.foldl (holdSlot c) s) (64 * c + slot) = some b →
    (canIssue (before.foldl (holdSlot c) s) b).1 = false

/-- The row of A that a member of a matrix request multiplies, and a column of B, over rows a to b − 1 (R334). -/
def rowOfA (s : State) (m : Arrival) (i a b : Nat) : List FVal :=
  (List.range (b - a)).map fun k => (tileElem s (sheafAt s m.sheaf).block m.tileDesc i (a + k)).value

/-- A column of B over rows a to b − 1 (R334). -/
def columnOfB (s : State) (e : TableEntry) (n a b : Nat) : List FVal := (List.range (b - a)).map fun k => (elemB s e (a + k) n).value

/-- Some number that a pass multiplies is poisoned (R132, R334). -/
def passPoison (s : State) (e : TableEntry) (a b : Nat) : Bool :=
  ((List.range 64).any fun n => (List.range (b - a)).any fun k => (elemB s e (a + k) n).poison) ||
    e.members.any fun m => (List.range 32).any fun i => (List.range (b - a)).any fun k =>
      (tileElem s (sheafAt s m.sheaf).block m.tileDesc i (a + k)).poison

/-- What a pass delivers over rows a to b − 1 (R192, R212, R334): for each member, row of its panel and line of C, one message
with the partials of the line's eight elements, quantised to the member's grid; each member block counts every message. -/
def Delivers (s t : State) (e : TableEntry) (grids : List Int) (a b : Nat) : Prop :=
  let blocks := nub (e.members.map fun m => (sheafAt s m.sheaf).block)
  (∀ k ∈ blocks, ∃ o ∈ (blockAt t k).ops, o.id = s.ctl.nextId ∧ o.kind = .delivery ∧ o.count = 256 * e.members.length) ∧
  ∀ (x : Nat) (m : Arrival) (g : Int), e.members[x]? = some m → grids[x]? = some g → ∀ i < 32, ∀ j < 8,
    let line := (m.c + 512 * i + 64 * j) / 64
    let cells := (List.range 8).map fun n => partialOf (rowOfA s m i a b) (columnOfB s e (8 * j + n) a b) g
    let l := launchOf s (blockAt s (sheafAt s m.sheaf).block)
    ∃ n, tfind t.net n = some (.abacus (homeSlice s line) line
      (.deliver (cells.map (·.1)) g (cells.map (·.2)) (passPoison s e a b)) (.deliveries blocks s.ctl.nextId) s.now l.part
      l.record.ctx.toNat)

/-- The checks of a sheaf whose last strand has reloaded find nothing (R133, R364): no poisoned control field, and no reserved
field that is not 0. -/
def SheafRecordGood (s : State) (k : Nat) : Prop :=
  let r := sheafRecordVa s k
  fieldBad s k r 0x18 = false ∧ fieldBad s k (r + 0x288) 88 = false ∧
    fieldBad s k (sharedRegion s k).1 (sharedRegion s k).2 = false ∧
    sheafRecordIllegal s k = false ∧
    (firstToFinish s k = true → fieldBad s k (saveVa (strandLaunch s k) (indexOf s k)) 2 = false ∧ blockAreaIllegal s k = false)

/-- Nothing runs and nothing is stored in a module without power (R33, R35). -/
def NothingHeld (t : State) : Prop :=
  t.strands = [] ∧ t.sheaves = [] ∧ t.blocks = [] ∧ t.gangs = [] ∧ t.launches = [] ∧ t.parts = [] ∧ t.cores = [] ∧ t.net = [] ∧
    t.homes = [] ∧ ∀ a, a < 2 ^ 48 → memRead t.mem a = 0

end Sys2Proof.Machine
end

