-- ==== Sys2Proof/Certificates/Slice0/Obligations.lean ====
section
/-! DEFINITION. The statements about the model, each a rule of the manual or what follows from several. -/

section SliceZero
open Sys2Proof Sys2Proof.Machine

/-! ## Encoding, decoding and the step -/

/-- Decoding the words of a well-formed instruction gives it back, with every operand (R219 to R237). -/
def Obligations.DecodeOfEncode : Prop :=
  ∀ (i : Instr) (rest : List Byte), WellFormed i → i.encodable = true → decode (encode i ++ rest) = .ok (i, rest)

/-- What decodes is well formed, and its words are the ones it was decoded from (R237): no two words mean one instruction. -/
def Obligations.EncodeOfDecode : Prop :=
  ∀ (bs rest : List Byte) (i : Instr), decode bs = .ok (i, rest) → WellFormed i ∧ encode i ++ rest = bs

/-- A few words of the manual's worked encodings decode to the instructions they stand for (R242, R259, R279, R304, R344). -/
def Obligations.WordsDecode : Prop :=
  decodeTableWord 32 0x98A44238 = some (.imad ⟨⟨7, false⟩, false, true, 6, 5, 4⟩) ∧
  decodeTableWord 32 0x1483403C = some (.iadd ⟨⟨7, false⟩, true, false, 5, 4, 3⟩) ∧
  decodeTableWord 32 0x80412338 = some (.vote ⟨⟨7, false⟩, false, true, 0, 2, 1⟩) ∧
  decodeTableWord 32 0x104003B8 = some (.rgn ⟨⟨7, false⟩, false, false, 4, 2, 0⟩) ∧
  decodeTableWord 96 (0x0041403A + 2 ^ 32 * 100000) = some (.iaddW (.lit ⟨⟨7, false⟩, false, false, 0, 2, 1⟩ 100000)) ∧
  decodeTableWord 32 0x7FD000B8 = some (.bra ⟨⟨7, false⟩, false, false, 31, 30, 16⟩) ∧
  decodeTableWord 32 0x9881A0B8 = some (.st ⟨⟨7, false⟩, false, true, 6, 4, 1⟩) ∧
  decodeTableWord 96 (0x0862A039 + 2 ^ 32 * 0x000C0A02 + 2 ^ 64 * 0x01000000) =
    some (.ldW (.three ⟨⟨7, false⟩, false, .b 2, .w 5, .b 3, .none, 2, 0, 0, 0, 0, 0⟩)) ∧
  decodeTableWord 32 0x0081C438 = some (.regx ⟨⟨7, false⟩, false, false, 0, 4, 1⟩) ∧
  decodeTableWord 96 0x10122C839 =
    some (.csrr ⟨⟨7, false⟩, false, .b 1, .special 0, .none, .none, 0, 0, 0, 0, 0, 0⟩)

/-- A step at which a bundle stands and whose fetch gives an instruction is the execution of that instruction, and the fetch
gives what the bytes at the pc decode to (R220, R237). The model's choices in it are those of log 1. -/
def Obligations.StepRunsDecoded : Prop :=
  (∀ s b i, s.ctl.bundle = some b → fetchInstr s b = .run i → step s = exec i s) ∧
  (∀ s b i rest, s.ctl.bundle = some b →
    (fetchUnit s b.core (launchOf s (blockAt s b.block)) b.pc.toNat).1 = Verdict.ok →
    decode (fetchUnit s b.core (launchOf s (blockAt s b.block)) b.pc.toNat).2 = .ok (i, rest) → step s = exec i s)

/-- A unit that does not decode makes every strand of the bundle, whatever its guard, take ILLEGAL at the bundle's pc, with word 0
as the detail (R238, R354, R356). That a Parked strand of the bundle is Running before its trap (unpark) is the model's choice.
The model's choices in it are those of log 17. -/
def Obligations.IllegalTraps : Prop :=
  ∀ s b bs e, s.ctl.bundle = some b →
    fetchUnit s b.core (launchOf s (blockAt s b.block)) b.pc.toNat = (Verdict.ok, bs) → decode bs = .error e →
    step s = .next (executed s
      (b.strands.foldl (fun t k => trapEntry t k .illegal b.pc (BitVec.ofNat 64 (leNat (bs.take 4)))) (unpark (issued s) b.strands)))

/-! ## Invariants -/

/-- Every step keeps memory in its canonical form, and a bundle at the issue stage standing (R144, R147), its strands in ascending
home lane with no lane twice (R10, R147). The model's choices in it are those of log 1, 45. -/
def Obligations.StepKeepsInv : Prop :=
  ∀ s t, StepInv s → step s = .next t → StepInv t

/-- The machine after reset has the invariant (R33, R94). The model's choices in it are those of log 28, 44. -/
def Obligations.ResetInv : Prop :=
  StepInv State.reset

/-- What reset leaves (R33, R29, R27, R144): the module accepts commands, DT is 0, every tract is unassigned, nothing is placed,
every quad is at the floor level, every core examines slot 0 first. That every link is up, and that memory reads 0, are the
model's choices. The model's choices in it are those of log 28, 44. -/
def Obligations.ResetValues : Prop :=
  State.reset.module.power = .on ∧ State.reset.now = 0 ∧ State.reset.parts = [] ∧ State.reset.strands = [] ∧
  State.reset.blocks = [] ∧ (∀ t, (tractAt State.reset t).owner = 0) ∧
  (∀ q, (quadAt State.reset q).level = Config.floorLevel) ∧ (∀ c, ((coreAt State.reset c).rot + 1) % 64 = 0) ∧
  (∀ d, (dieAt State.reset d).fenced = false) ∧ (∀ n, linkState State.reset n = .up) ∧ (∀ a, memRead State.reset.mem a = 0)

/-- No instruction of a strand changes memory (R162, R174, R175): stores go to the record, and memory changes at the homes.
Every other step leaves every byte of memory as it was (R162, R175). The model's choices in it are those of log 1. -/
def Obligations.MemoryChangesAtHomes : Prop :=
  (∀ (i : Instr) (s t : State), i.encodable = true → exec i s = .next t → t.mem = s.mem ∧ t.badLines = s.badLines ∧ t.ctl.bundle = none) ∧
  (∀ (i : Instr) (s t : State), mayChangeMemory i = false → exec i s = .next t → ∀ a, memRead t.mem a = memRead s.mem a)

/-! ## Control -/

/-- yield advances each participant past itself and makes it Deferred; it has no other effect (R263). -/
def Obligations.YieldDefers : Prop :=
  ∀ x s b, Standing s b → Completes (.yield x) s fun t =>
    OnlyStrands s t ∧
    BundleBecomes s t b (participants s b (x.norm .yield).g) x.len fun _ y => { y.past x.len with cond := .deferred }

/-- bra and brx move each participant to its own target and defer it with yld; the lift counter of a sheaf rises where a strand
of it branched backward while a ready strand stood above (R146, R261). -/
def Obligations.BranchesTake : Prop :=
  ∀ i stem code s b, i.view = some (stem, code) → (stem = .bra ∨ stem = .brx) → Standing s b →
    let x := code.norm stem
    let ps := participants s b x.g
    (stem = .brx → AllPass ps (indirectCheck .brx x s)) →
    Completes i s fun t =>
      OnlyThreads s t ∧
      BundleBecomes s t b ps code.len (fun k y =>
        { y with pc := branchTarget stem x s b k, cond := if x.mod = 1 then .deferred else y.cond }) ∧
      ∀ f, sheafAt t f = if f ∈ b.above ∧ ∃ k ∈ ps, sheafOf k = f ∧ branchTarget stem x s b k ≤ b.pc
        then { sheafAt s f with backedge := min 64 ((sheafAt s f).backedge + 1) } else sheafAt s f

/-- call and callx push the return address and the map of each participant, raise its depth and move it to its target, where the
on-chip stack has room (R262). A call whose stack is full spills the oldest entry through the record, in two stores of a dword,
and moves %csp up by 16 (R262): one participant. The model's choices in it are those of log 36. -/
def Obligations.Calls : Prop :=
  (∀ i stem code s b, i.view = some (stem, code) → (stem = .call ∨ stem = .callx) → Standing s b →
     let x := code.norm stem
     let ps := participants s b x.g
     (stem = .callx → AllPass ps (indirectCheck .callx x s)) → (∀ k ∈ ps, spillPlan s k = .room) →
     Completes i s fun t =>
       OnlyStrands s t ∧
       BundleBecomes s t b ps code.len fun k y =>
         { y with stack := y.stack ++ [{ ret := y.pc + BitVec.ofNat 64 code.len, x := y.x, y := y.y }], depth := y.depth + 1,
                  pc := branchTarget stem x s b k }) ∧
  (∀ i stem code s b k pa cls oldest rest, i.view = some (stem, code) → (stem = .call ∨ stem = .callx) → Standing s b →
     participants s b (code.norm stem).g = [k] → (stem = .callx → indirectCheck .callx (code.norm stem) s k = Verdict.ok) →
     spillPlan s k = .store pa cls → pushFull s k (.store pa cls) = false → (strandAt s k).stack = oldest :: rest →
     (blockAt s b.block).armed = none →
     Completes i s fun t =>
       (strandAt t k).csp = (strandAt s k).csp + 16 ∧ (strandAt t k).depth = (strandAt s k).depth + 1 ∧
       (strandAt t k).stack = rest ++ [{ ret := b.pc + BitVec.ofNat 64 code.len, x := (strandAt s k).x, y := (strandAt s k).y }] ∧
       (strandAt t k).pc = branchTarget stem (code.norm stem) s b k ∧
       ∀ i < 16, ∃ e ∈ (coreAt t (b.block / 4)).record, e.block = b.block ∧ e.line = pa / 64 ∧ e.cls = cls ∧
         tfind e.data (pa % 64 + i) = oldest.bytes[i]?)

/-- ret pops the newest on-chip entry and restores pc, map and depth (R262); a strand below its trap depth has left its handler
(R356); the cause codes and the lane mask of its traps are R354's. With no entry on chip it fills one: %csp falls by 16, and pc and map come from the 16 bytes there, as a load of the strand
reads them (R262); that the fill is answered in ret's own step is the model's choice. A strand at depth 0 takes PROT, one whose
%csp is not a multiple of 16 takes ALIGN before a fill (R262). The model's choices in it are those of log 36, 57. -/
def Obligations.RetPops : Prop :=
  (∀ x s b, Standing s b →
     let ps := participants s b (x.norm .ret).g
     (∀ k ∈ ps, (strandAt s k).stack ≠ [] ∧ (strandAt s k).depth ≠ 0) →
     Completes (.ret x) s fun t => OnlyStrands s t ∧ BundleBecomes s t b ps x.len fun _ y => y.popped) ∧
  (∀ x s b k pa cls, Standing s b → participants s b (x.norm .ret).g = [k] → (strandAt s k).stack = [] →
     fillPlan s k = .store pa cls → (fillBytes s k pa cls).2 = false →
     Completes (.ret x) s fun t => OnlyStrands s t ∧ BundleBecomes s t b [k] x.len fun _ y =>
       { y with stack := [RetEntry.ofBytes (fillBytes s k pa cls).1], csp := y.csp - 16, seen := (strandAt (noteFill s k pa cls) k).seen }.popped) ∧
  (∀ x s b k, Standing s b → participants s b (x.norm .ret).g = [k] → (strandAt s k).stack = [] → canTrap s k →
     ((strandAt s k).depth = 0 ∨ (strandAt s k).csp.toNat % 16 ≠ 0) →
     Completes (.ret x) s fun t => OnlyStrands s t ∧ StrandsBecome s t fun j y => if j = k then
       { y with stack := [{ ret := b.pc, x := y.x, y := y.y }], depth := y.depth + 1, trapDepth := y.depth + 1, trap := none,
                tcause := if y.csp.toNat % 16 = 0 then 7 else 3, trpc := b.pc, tdet := laneMask s [k], pc := handlerOf s k }
     else y)

/-- rgn, and rfl away from the refill point, set the map of each participant and go on (R264, R267). rfl at the refill point,
whatever its guard, sets every strand's map; the Parked strands of the bundle take the block's next items in the order of the
bundle, at depth 0 with an empty stack and trap depth 0 (R356), and go on past the rfl; the others go on (R113, R117, R267). Where the block's own range
has an item for each. -/
def Obligations.MapsAndRefill : Prop :=
  (∀ i stem code s b, i.view = some (stem, code) → (stem = .rgn ∨ (stem = .rfl ∧ bundleAtRefill s = false)) → Standing s b →
     let x := code.norm stem
     let ps := participants s b x.g
     AllPass ps (mapCheck x s) →
     Completes i s fun t => OnlyStrands s t ∧ BundleBecomes s t b ps code.len fun _ y =>
       { y.past code.len with x := BitVec.ofNat 16 (regNumber x.a), y := BitVec.ofNat 16 (regNumber x.b) }) ∧
  (∀ i code s b, i.view = some (.rfl, code) → Standing s b → bundleAtRefill s = true →
     let x := code.norm .rfl
     let group := drawGroup s b
     AllPass b.strands (mapCheck x s) → (tfind s.blocks b.block).isSome →
     (blockAt s b.block).next + group.length ≤ (blockAt s b.block).last →
     Completes i s fun t =>
       (∀ j k, group[j]? = some k →
         strandAt t k = { strandAt s k with
           x := BitVec.ofNat 16 (regNumber x.a), y := BitVec.ofNat 16 (regNumber x.b),
           item := BitVec.ofNat 64 ((blockAt s b.block).next + j), age := (strandAt s k).age + 1, depth := 0, stack := [],
           trapDepth := 0, cond := .running, pc := b.pc + BitVec.ofNat 64 code.len }) ∧
       (∀ k ∈ b.strands, k ∉ group → strandAt t k = { (strandAt s k).past code.len with
           x := BitVec.ofNat 16 (regNumber x.a), y := BitVec.ofNat 16 (regNumber x.b) }) ∧
       (blockAt t b.block).next = (blockAt s b.block).next + group.length ∧ t.mem = s.mem)

/-- itend with a refill point parks each participant there and clears its bit of m1 to m11; depth and stack stay (R265). exit,
and itend in a kernel with no refill point, make each participant Done and clear its mask bits (R265); its bit leaves m0 (R151).
Each ends with a trap depth of 0 (R356). Where the last strand that is not Saved leaves resume code so, its sheaf goes on: each Saved strand takes its recorded condition
(R364). -/
def Obligations.StrandsFinish : Prop :=
  (∀ x s b l, Standing s b → refillPoint (launchOf s (blockAt s b.block)) = some l →
     let ps := participants s b (x.norm .itend).g
     (∀ k ∈ ps, reports s k = false) →
     Completes (.itend x) s fun t =>
       OnlyThreads s t ∧
       BundleBecomes s t b ps x.len (fun _ y => { y with cond := .parked, pc := l, trapDepth := 0 }) ∧
       ∀ k ∈ ps, ∀ n, 1 ≤ n → (readM t (sheafOf k) n).getLsbD (k % 64) = false) ∧
  (∀ i stem code s b, i.view = some (stem, code) →
     (stem = .exit ∨ (stem = .itend ∧ refillPoint (launchOf s (blockAt s b.block)) = none)) → Standing s b →
     let ps := participants s b (code.norm stem).g
     (∀ k ∈ ps, reports s k = false) → (blockAt s b.block).shared = [] →
     (∀ k ∈ ps, (sheafAt s (sheafOf k)).phase ≠ .resume ∨
       ∃ j ∈ sheafStrands s (sheafOf k), j ∉ ps ∧ (strandAt s j).cond ≠ .done ∧ (strandAt s j).cond ≠ .saved) →
     Completes i s fun t =>
       (∀ k ∈ ps, (strandAt t k).cond = .done ∧ (strandAt t k).trapDepth = 0 ∧
         ∀ n, (readM t (sheafOf k) n).getLsbD (k % 64) = false) ∧
       (∀ k ∈ b.strands, k ∉ ps → strandAt t k = (strandAt s k).past code.len) ∧
       (∀ k, k ∉ b.strands → strandAt t k = strandAt s k) ∧ t.mem = s.mem) ∧
  (∀ i stem code s b k j, i.view = some (stem, code) →
     (stem = .exit ∨ (stem = .itend ∧ refillPoint (launchOf s (blockAt s b.block)) = none)) → Standing s b →
     let f := sheafOf k
     participants s b (code.norm stem).g = [k] → reports s k = false → (blockAt s b.block).shared = [] →
     (sheafAt s f).phase = .resume → (blockAt s b.block).undrawn = false → (strandAt s k).recorded = none →
     (∀ i ∈ sheafStrands s f, i ≠ k →
       (strandAt s i).cond = .done ∨ ((strandAt s i).cond = .saved ∧ (strandAt s i).recorded.isSome)) →
     ((sheafStrands s f).find? fun i => (strandAt s i).cond == .saved) = some j → SheafRecordGood s j →
     Completes i s fun t =>
       (strandAt t k).cond = .done ∧ (sheafAt t f).phase = .normal ∧ t.mem = s.mem ∧
       ∀ i ∈ sheafStrands s f, i ≠ k → (strandAt s i).cond = .saved → ∀ c, (strandAt s i).recorded = some c →
         (strandAt t i).cond = c ∧ (strandAt t i).recorded = none)

/-- bar, gbar and waitm make each participant wait there, but at waitm one whose own bit is clear goes on (R270, R275, R276). -/
def Obligations.BarriersWait : Prop :=
  (∀ x s b, Standing s b → (∀ k ∈ participants s b (x.norm .bar).g, reports s k = false) →
    Completes (.bar x) s fun t => OnlyStrands s t ∧
      BundleBecomes s t b (participants s b (x.norm .bar).g) x.len fun _ y => { y with cond := .waiting .bar, waitLen := x.len }) ∧
  (∀ x s b, Standing s b → (∀ k ∈ participants s b (x.norm .gbar).g, reports s k = false) →
    Completes (.gbar x) s fun t => OnlyStrands s t ∧
      BundleBecomes s t b (participants s b (x.norm .gbar).g) x.len fun _ y => { y with cond := .waiting .gbar, waitLen := x.len }) ∧
  (∀ x s b, Standing s b →
    Completes (.waitm x) s fun t => OnlyStrands s t ∧
      BundleBecomes s t b (participants s b (x.norm .waitm).g) x.len fun k y =>
        if (readM s (sheafOf k) (maskNumber (x.norm .waitm).a)).getLsbD (k % 64) then
          { y with cond := .waiting (.waitm (maskNumber (x.norm .waitm).a)), waitLen := x.len }
        else y.past x.len)

/-! ## Traps -/

/-- trap and bkpt make each participant enter its handler with cause SOFT, the code or 256 as the detail, and the address past
the instruction to return to (R268, R354, R356). -/
def Obligations.SoftwareTraps : Prop :=
  ∀ i stem code s b, i.view = some (stem, code) → (stem = .trap ∨ stem = .bkpt) → Standing s b →
    let x := code.norm stem
    let ps := participants s b x.g
    (∀ k ∈ ps, canTrap s k) →
    Completes i s fun t => OnlyStrands s t ∧ BundleBecomes s t b ps code.len fun k y =>
      { y with stack := y.stack ++ [{ ret := b.pc + BitVec.ofNat 64 code.len, x := y.x, y := y.y }], depth := y.depth + 1,
               trap := none, trapDepth := y.depth + 1, tcause := 10, trpc := b.pc + BitVec.ofNat 64 code.len,
               tdet := if stem = .bkpt then 256 else BitVec.ofNat 64 (immValue x.a), pc := handlerOf s k }

/-- A strand with no handler, or in one already, or in handler or resume code, kills its gang with class TRAP (R134, R356). That
Tk, the tick in the gang's state, is that of the trap is the model's choice (log 62). -/
def Obligations.UntrappedKills : Prop :=
  ∀ s k c trpc tdet, (launchOf s (blockAt s (blockOf s k))).record.trapOff = 0xFFFFFFFF ∨ (strandAt s k).trapDepth ≠ 0 ∨
      (sheafAt s (sheafOf k)).phase ≠ .normal →
    let g := (blockAt s (blockOf s k)).gang
    (gangAt s g).state.live = true → (tfind s.gangs g).isSome →
    let t := trapEntry s k c trpc tdet
    (gangAt t g).state = .killing s.now ∧ (gangAt t g).cause = some .trap ∧ strandAt t k = { strandAt s k with trap := none }

/-- A register beyond the sheaf's allocation (R152): each participant that names one takes REGRANGE with the mask of the home
lanes that took it as its detail, and the instruction takes effect for no strand of the bundle (R260, R281, R354); that of a memory
or abacus instruction and of lea too. There a misaligned address or exchange offset takes ALIGN the same way (R306, R312, R340,
R341), and no participant's access takes effect: the strands that do not trap stay where they are, and neither record, scratchpad
nor fabric changes. The entry of a handler is R356's. -/
def Obligations.ChecksTrap : Prop :=
  (∀ i stem code r s b, i.view = some (stem, code) → aluRow stem = some r → Standing s b →
     let x := code.norm stem
     let ps := participants s b x.g
     let bad := ps.filter (rangeFails stem x s)
     bad ≠ [] → (∀ k ∈ bad, canTrap s k) →
     Completes i s fun t => OnlyStrands s t ∧ StrandsBecome s t fun k y => if k ∈ bad then
       { y with stack := y.stack ++ [{ ret := b.pc, x := y.x, y := y.y }], depth := y.depth + 1, trapDepth := y.depth + 1, trap := none,
                tcause := 2, trpc := b.pc, tdet := laneMask s bad, pc := handlerOf s k }
     else y) ∧
  (∀ i stem code s b c n, i.view = some (stem, code) → stem ∈ addressRows → (c, n) ∈ [(Cause.regrange, 2), (Cause.align, 3)] →
     Standing s b →
     let x := code.norm stem
     let ps := participants s b x.g
     let check := addressCheck stem x s ps
     let bad := ps.filter fun k => (check k).cause = some c
     bad ≠ [] → (∀ k ∈ ps, k ∉ bad → (check k).cause = none ∧ (check k).walk = none) →
     (∀ k ∈ bad, canTrap s k ∧ (check k).walk = none) →
     Completes i s fun t => OnlyStrands s t ∧ StrandsBecome s t fun k y => if k ∈ bad then
       { y with stack := y.stack ++ [{ ret := b.pc, x := y.x, y := y.y }], depth := y.depth + 1, trapDepth := y.depth + 1, trap := none,
                tcause := n, trpc := b.pc, tdet := laneMask s bad, pc := handlerOf s k }
     else y)

/-- A strand that would report arithmetic conditions does not arrive at bar, gbar, itend or exit: it enters its handler with
cause ARITH and the reported bits, which are cleared (R209, R275, R354); the entry is R356's. -/
def Obligations.ArithmeticReports : Prop :=
  ∀ i stem code s b, i.view = some (stem, code) → (stem = .bar ∨ stem = .gbar ∨ stem = .itend ∨ stem = .exit) → Standing s b →
    let ps := participants s b (code.norm stem).g
    ps ≠ [] → (∀ k ∈ ps, reports s k = true ∧ canTrap s k) →
    Completes i s fun t => OnlyStrands s t ∧ BundleBecomes s t b ps code.len fun k y =>
      { y with stack := y.stack ++ [{ ret := b.pc, x := y.x, y := y.y }], depth := y.depth + 1, trapDepth := y.depth + 1,
               trap := none, tcause := 11, trpc := b.pc, tdet := (y.fstat &&& y.fmask).setWidth 64, pc := handlerOf s k,
               fstat := y.fstat &&& ~~~(y.fstat &&& y.fmask) }

/-! ## Masks and collectives -/

/-- join sets and leave clears the bit of each participant in the mask it names; every other bit within the width stays, and so
does every other mask (R269). mfrp, mlog and mmov write a mask, once for each sheaf with a participant (R269): the participants
whose predicate is true; the operation on two masks; a mask or a uniform register. mmov.tw writes a mask, zero-extended, to a
uniform register (R269). The model's choices in it are those of log 26. -/
def Obligations.Masks : Prop :=
  (∀ i stem code s b, i.view = some (stem, code) → (stem = .join ∨ stem = .leave) → Standing s b →
     let x := code.norm stem
     let ps := participants s b x.g
     let n := maskNumber x.a
     n ≠ 0 →
     Completes i s fun t =>
       OnlyThreads s t ∧ BundleBecomes s t b ps code.len (fun _ y => y.past code.len) ∧
       (∀ f j, j < (sheafAt s f).width → (readM t f n).getLsbD j =
         if ∃ k ∈ ps, sheafOf k = f ∧ k % 64 = j then decide (stem = .join) else (readM s f n).getLsbD j) ∧
       ∀ f m, m ≠ n → m ≠ 0 → readM t f m = readM s f m) ∧
  (∀ i stem code s b, i.view = some (stem, code) → (stem = .mfrp ∨ stem = .mlog ∨ stem = .mmov) → codeOk stem code = true → Standing s b →
     let x := code.norm stem
     let ps := participants s b x.g
     (stem = .mmov → x.mod ≠ 2 ∧ ∀ k ∈ ps, (valueAt .mmov x s k .a).2 = false) → maskNumber x.d ≠ 0 → (∃ n, x.d = .m n) →
     Completes i s fun t =>
       OnlyThreads s t ∧ BundleBecomes s t b ps code.len (fun _ y => y.past code.len) ∧
       (∀ k ∈ ps, ∀ j, j < (sheafAt s (sheafOf k)).width → (readM t (sheafOf k) (maskNumber x.d)).getLsbD j =
         match stem with
         | .mfrp => decide (∃ q ∈ ps, sheafOf q = sheafOf k ∧ q % 64 = j ∧ (valueAt .mfrp x s q .a).1 = 1)
         | .mlog => (maskOp x.mod.toNat (readM s (sheafOf k) (maskNumber x.a)) (readM s (sheafOf k) (maskNumber x.b))).getLsbD j
         | _ => (valueAt .mmov x s k .a).1.testBit j) ∧
       ∀ f, (∀ k ∈ ps, sheafOf k ≠ f) → sheafAt t f = sheafAt s f) ∧
  (∀ i code s b n w, i.view = some (.mmov, code) → Standing s b →
     let x := code.norm .mmov
     let ps := participants s b x.g
     x.mod = 2 → x.a = .m n → x.d = .w w →
     Completes i s fun t =>
       OnlyThreads s t ∧ BundleBecomes s t b ps code.len (fun _ y => y.past code.len) ∧
       ∀ k ∈ ps, readW t (sheafOf k) w.toNat = (readM s (sheafOf k) n.toNat, false))

/-- vote writes to each participant whether any, all or equally many participants of its sheaf have the predicate; a write of p7
is discarded (R151, R271). shfl gives each participant the A of the strand its index names, or its own where that strand is no
participant or out of range; every source is read before any is written, and poison moves (R272). -/
def Obligations.Collectives : Prop :=
  (∀ i code s b d, i.view = some (.vote, code) → codeOk .vote code = true → Standing s b →
     let x := code.norm .vote
     let ps := participants s b x.g
     x.d = .p d →
     Completes i s fun t =>
       OnlyStrands s t ∧
       (∀ k ∈ b.strands, (strandAt t k).pc = (strandAt s k).pc + BitVec.ofNat 64 code.len) ∧
       (∀ k ∈ ps, readP t k d.toNat = (decide (7 ≤ d.toNat) ||
         let part := partOf ps (sheafOf k)
         let any := part.any fun q => (valueAt .vote x s q .a).1 == 1
         let all := part.all fun q => (valueAt .vote x s q .a).1 == 1
         if x.mod = 1 then any else if x.mod = 2 then all else any == all)) ∧
       (∀ k n, n ≠ d.toNat → readP t k n = readP s k n) ∧
       ∀ k, k ∉ ps → ∀ n, readP t k n = readP s k n) ∧
  (∀ i code s b, i.view = some (.shfl, code) → codeOk .shfl code = true → Standing s b → Unmapped s b →
     let x := code.norm .shfl
     let ps := participants s b x.g
     AllPass ps (fun k => (Verdict.trapIf (rangeFails .shfl x s k) .regrange).and (Verdict.poisonIf (valueAt .shfl x s k .b).2)) →
     Completes i s fun t =>
       OnlyStrands s t ∧
       (∀ k ∈ b.strands, (strandAt t k).pc = (strandAt s k).pc + BitVec.ofNat 64 code.len) ∧
       ∀ k ∈ ps, readOperand t k (tyWidth x.ty) x.d =
         let c := (valueAt .shfl x s k .b).1
         let j : Int := if x.mod = 1 then c else if x.mod = 2 then (k % 64 : Nat) - (c : Int)
           else if x.mod = 3 then (k % 64 : Nat) + (c : Int) else ((k % 64) ^^^ c : Nat)
         if 0 ≤ j ∧ j < (sheafAt s (sheafOf k)).width ∧ strandKey (sheafOf k) j.toNat ∈ ps
         then valueAt .shfl x s (strandKey (sheafOf k) j.toNat) .a else valueAt .shfl x s k .a)

/-- sred and sscan write to each participant of a sheaf, or to its w register, the tree's root or the scan's value at its index,
where an absent strand counts as the identity, and set the sticky bits of that computation in each (R213, R214, R274). The
model's choices in it are those of log 32. -/
def Obligations.ReductionResults : Prop :=
  ∀ i stem code s b, i.view = some (stem, code) → (stem = .sred ∨ stem = .sscan) → codeOk stem code = true → Standing s b →
    Unmapped s b →
    let x := code.norm stem
    let ps := participants s b x.g
    AllPass ps (fun k => (Verdict.trapIf (rangeFails stem x s k) .regrange).and (Verdict.poisonIf (valueAt stem x s k .a).2)) →
    Completes i s fun t =>
      OnlyThreads s t ∧
      (∀ k ∈ b.strands, (strandAt t k).pc = (strandAt s k).pc + BitVec.ofNat 64 code.len) ∧
      (∀ k ∈ ps, destReads t k x.ty x.d = destBits x.ty x.d
        (match x.d with
          | .w _ => (collectiveResult stem x s ps (sheafOf k)).1.headD 0
          | _ => (collectiveResult stem x s ps (sheafOf k)).1.getD (k % 64) 0)) ∧
      ∀ k ∈ ps, (strandAt t k).fstat = (strandAt s k).fstat ||| (collectiveResult stem x s ps (sheafOf k)).2

/-! ## Instructions of registers alone -/

/-- Every instruction of registers alone, in every form: the whole of D reads its result, extended by its type, clean but where
a move brought poison; the sticky bits are set, the bundle goes on, memory stays (R132, R200, R209, R280, R281). The integer rows
but for division: the result and the sticky bits are the manual's own (R282, R285, R286, R288, R290). lea (R291): D reads the sum
of base and offset, modulo 2^64; nothing is translated or checked. The model's choices in it are those of log 13, and of log 65:
with U a special register of a strand has the value of the participant with the lowest home lane. -/
def Obligations.RegisterResults : Prop :=
  (∀ i stem code r s b, i.view = some (stem, code) → codeOk stem code = true → aluRow stem = some r → Standing s b →
     let x := code.norm stem
     AllPass (participants s b x.g) (aluCheck stem x r.readsD r.moves s) →
     LaneResults i stem code (r.dty x) (fun k => (laneResult stem x r.fn s k).1) (fun k => (laneResult stem x r.fn s k).2)
       (fun k => r.moves && (valueAt stem x s k .a).2) s b) ∧
  (∀ i stem code s b, i.view = some (stem, code) → codeOk stem code = true → stem ∈ integerRows → Standing s b →
     let x := code.norm stem
     let src := srcOf stem code s
     let rule := fun k => integerRule stem x (src k .a) (src k .b) (src k .c) (src k .d)
     AllPass (participants s b x.g) (aluCheck stem x (stem == .bfi) (stem == .mov) s) →
     LaneResults i stem code x.ty (fun k => (rule k).1) (fun k => (rule k).2)
       (fun k => stem == .mov && (valueAt stem x s k .a).2) s b) ∧
  (∀ i code s b, i.view = some (.lea, code) → codeOk .lea code = true → Standing s b →
     let x := code.norm .lea
     AllPass (participants s b x.g)
       (fun k => (Verdict.trapIf (rangeFails .lea x s k) .regrange).and (Verdict.poisonIf (leaValue x s k).2)) →
     LaneResults i .lea code Ty.b64
       (fun k => (((readOperand s k 64 x.a).1 + (readOffset s k x.b).1) % (2 ^ 64 : Int)).toNat) (fun _ => 0)
       (fun _ => false) s b)

/-- What an instruction of registers alone leaves unchanged: everything but pc, the registers and predicates it writes, their
poison and the sticky bits of its participants; every register but D; everything outside strands and sheaves (R149, R151, R209,
R280, R281); and lea in the same way (R291). The model's choices in it are those of log 13. -/
def Obligations.AluFrame : Prop :=
  (∀ i stem code r s t b, i.view = some (stem, code) → codeOk stem code = true → aluRow stem = some r → Standing s b →
    Unmapped s b → AllPass (participants s b (code.norm stem).g) (aluCheck stem (code.norm stem) r.readsD r.moves s) →
    exec i s = .next t → LaneFrame stem code (r.dty (code.norm stem)) s t b) ∧
  (∀ i code s t b, i.view = some (.lea, code) → codeOk .lea code = true → Standing s b → Unmapped s b →
    AllPass (participants s b (code.norm .lea).g) (fun k => (Verdict.trapIf (rangeFails .lea (code.norm .lea) s k) .regrange).and
      (Verdict.poisonIf (leaValue (code.norm .lea) s k).2)) →
    exec i s = .next t → LaneFrame .lea code Ty.b64 s t b)

/-- Division truncates toward zero; by zero it gives −1 or all ones, the remainder a, and IZ; the minimum by −1 gives itself and
0 with no flag (R284). But for the special registers as sources of a form with U, of which the manual does not say whose value
counts. -/
def Obligations.Division : Prop :=
  ∀ i stem code s b, i.view = some (stem, code) → (stem = .idiv ∨ stem = .irem) → codeOk stem code = true → Standing s b →
    let x := code.norm stem
    let w := tyWidth x.ty
    let a := fun k => intVal x.ty (srcOf stem code s k .a)
    let c := fun k => intVal x.ty (srcOf stem code s k .b)
    (x.u = true → ∀ n, x.a ≠ .special n ∧ x.b ≠ .special n) →
    AllPass (participants s b x.g) (aluCheck stem x false false s) →
    LaneResults i stem code x.ty (fun k =>
      let q : Int := if c k = 0 then (if tySigned x.ty then -1 else 2 ^ w - 1)
        else if tySigned x.ty ∧ a k = -(2 ^ (w - 1) : Int) ∧ c k = -1 then -(2 ^ (w - 1) : Int) else Int.tdiv (a k) (c k)
      let r : Int := if c k = 0 then a k
        else if tySigned x.ty ∧ a k = -(2 ^ (w - 1) : Int) ∧ c k = -1 then 0 else a k - q * c k
      ((if stem = .idiv then q else r) % (2 ^ w : Int)).toNat) (fun k => if c k = 0 then Flag.iz else 0)
      (fun _ => false) s b

/-! ## Memory -/

/-- A load from the scratchpad gives each strand that executes the bytes at its offset, extended by its type over the whole
register, with their poison (R132, R157, R200, R280, R305, R308); nothing goes onto the fabric. While no copy fills the block's
scratchpad. A load from memory whose every byte the record or the L1 holds reads them in the same way, the record before the L1
(R165, R174, R308), where the L1 may serve it (R177). A load of which a byte is missing waits for a reply,
with the bytes the record and the L1 gave, while a request for its line is on its way; the strand goes on (R48, R148, R174). The
model's choices in it are those of log 27, 31, 46, 57. -/
def Obligations.Loads : Prop :=
  (∀ i code s b, i.view = some (.ld, code) → codeOk .ld code = true → Standing s b → Unmapped s b →
     let x := code.norm .ld
     let ps := participants s b x.g
     AllPass ps (memCheck .ld x s) → (∀ k ∈ ps, ∃ off, (memTarget .ld x s k).1 = .scratch off) →
     (∀ c ∈ (coreAt s (b.block / 4)).queue, c.block ≠ b.block) →
     Completes i s fun t =>
       t = { s with ctl := t.ctl, strands := t.strands, sheaves := t.sheaves } ∧
       (∀ k ∈ b.strands, (strandAt t k).pc = (strandAt s k).pc + BitVec.ofNat 64 code.len) ∧
       ∀ k ∈ executors x ps, ∀ off, (memTarget .ld x s k).1 = .scratch off →
         let bs := (List.range (accessBytes x.ty)).map fun j => readPad s b.block (off.toNat + j)
         destReads t k x.ty x.d = destBits x.ty x.d (leNat (bs.map (·.1))) ∧ destPoison t k x.ty x.d = bs.any (·.2)) ∧
  (∀ i code s b k va pa leaf, i.view = some (.ld, code) → codeOk .ld code = true → Standing s b → Unmapped s b →
     let x := code.norm .ld
     participants s b x.g = [k] → memCheck .ld x s k = Verdict.ok → (memTarget .ld x s k).1 = .global va →
     memTranslate .ld s k va = .ok pa leaf →
     (∀ j < accessBytes x.ty, (nearByte s (coreOf k) (pa + j) (l1Serves s k pa (accessBytes x.ty) leaf.cls)).isSome) →
     Completes i s fun t =>
       t.net = s.net ∧ t.mem = s.mem ∧
       (∀ j ∈ b.strands, (strandAt t j).pc = (strandAt s j).pc + BitVec.ofNat 64 code.len) ∧
       let bs := (List.range (accessBytes x.ty)).map fun j => (nearByte s (coreOf k) (pa + j) (l1Serves s k pa (accessBytes x.ty) leaf.cls)).getD (0, false)
       destReads t k x.ty x.d = destBits x.ty x.d (leNat (bs.map (·.1))) ∧ destPoison t k x.ty x.d = bs.any (·.2)) ∧
  (∀ i code s b k va pa leaf, i.view = some (.ld, code) → Standing s b →
     let x := code.norm .ld
     participants s b x.g = [k] → memCheck .ld x s k = Verdict.ok → (memTarget .ld x s k).1 = .global va →
     memTranslate .ld s k va = .ok pa leaf →
     (∃ j < accessBytes x.ty, nearByte s (coreOf k) (pa + j) (l1Serves s k pa (accessBytes x.ty) leaf.cls) = none) →
     Completes i s fun t =>
       t.mem = s.mem ∧ (strandAt t k).pc = (strandAt s k).pc + BitVec.ofNat 64 code.len ∧
       (strandAt t k).v = (strandAt s k).v ∧
       (∃ p, (strandAt t k).loads = (strandAt s k).loads ++ [p] ∧ p.id = s.ctl.nextId ∧ p.pa = pa ∧
         p.dest = destOf s k x.d ∧ p.ty = x.ty ∧ p.acquire = (x.ord == 1) ∧
         ∀ j < accessBytes x.ty, p.known[j]? = some (nearByte s (coreOf k) (pa + j) (l1Serves s k pa (accessBytes x.ty) leaf.cls))) ∧
       ∃ id m, tfind t.net id = some m ∧ m.requests (pa / 64) (k, s.ctl.nextId))

/-- A store to the scratchpad writes the low bytes of D there and nothing else of the scratchpad (R157, R309). A store to memory
puts the low bytes of D into the block's record entry for the line and changes no byte of memory (R163, R309); the strand goes
on. Where the record has room. A store that needs an entry and finds the record at %rlim leaves its strand Stalled, with nothing
stored (R163, R310). -/
def Obligations.Stores : Prop :=
  (∀ i code s b k off, i.view = some (.st, code) → Standing s b → (tfind s.blocks b.block).isSome →
     let x := code.norm .st
     participants s b x.g = [k] → memCheck .st x s k = Verdict.ok → (memTarget .st x s k).1 = .scratch off →
     Completes i s fun t =>
       (∀ j ∈ b.strands, (strandAt t j).pc = (strandAt s j).pc + BitVec.ofNat 64 code.len) ∧ t.net = s.net ∧ t.mem = s.mem ∧
       (∀ j < accessBytes x.ty, some (readPad t b.block (off.toNat + j)).1 =
         (leBytes (accessBytes x.ty) (valueAt .st x s k .d).1)[j]?) ∧
       (∀ a, a < off.toNat ∨ off.toNat + accessBytes x.ty ≤ a → (readPad t b.block a).1 = (readPad s b.block a).1) ∧
       ∀ j, strandAt t j = { strandAt s j with pc := (strandAt t j).pc }) ∧
  (∀ i code s b k va pa leaf, i.view = some (.st, code) → Standing s b → (blockAt s b.block).armed = none →
     let x := code.norm .st
     participants s b x.g = [k] → memCheck .st x s k = Verdict.ok → (memTarget .st x s k).1 = .global va →
     memTranslate .st s k va = .ok pa leaf → recordFull s b.block (pa / 64) = false →
     Completes i s fun t =>
       (∀ j ∈ b.strands, (strandAt t j).pc = (strandAt s j).pc + BitVec.ofNat 64 code.len) ∧ t.mem = s.mem ∧ t.net = s.net ∧
       (∀ j, strandAt t j = { strandAt s j with pc := (strandAt t j).pc }) ∧
       ∃ e ∈ (coreAt t (b.block / 4)).record, e.block = b.block ∧ e.line = pa / 64 ∧ e.cls = leaf.cls ∧
         ∀ j < accessBytes x.ty, tfind e.data (pa % 64 + j) = (leBytes (accessBytes x.ty) (valueAt .st x s k .d).1)[j]?) ∧
  (∀ i code s b k va pa leaf, i.view = some (.st, code) → Standing s b →
     let x := code.norm .st
     participants s b x.g = [k] → memCheck .st x s k = Verdict.ok → (memTarget .st x s k).1 = .global va →
     memTranslate .st s k va = .ok pa leaf → recordFull s b.block (pa / 64) = true →
     Completes i s fun t => (strandAt t k).cond = .stalled .record ∧ (strandAt t k).pc = (strandAt s k).pc ∧ t.mem = s.mem ∧
       (coreAt t (b.block / 4)).record.map (·.data) = (coreAt s (b.block / 4)).record.map (·.data))

/-- pref asks for the line of a Coherent or RO page, into the L1 unless it holds it, or into a slice; any other participant is
dropped; no register, record or memory changes (R311). rinv drops the core's L1 copy of every line that a named byte touches,
and every copy for a length above 262,144 bytes; a length of 0 or below names none; record and memory stay (R314). The model's
choices in it are those of log 34. -/
def Obligations.CacheControl : Prop :=
  (∀ i code s b k, i.view = some (.pref, code) → Standing s b →
     let x := code.norm .pref
     participants s b x.g = [k] → prefCheck x s k = Verdict.ok →
     Completes i s fun t =>
       t = { s with ctl := t.ctl, net := t.net, origins := t.origins, strands := t.strands } ∧
       BundleBecomes s t b [k] code.len (fun _ y => y.past code.len) ∧
       (prefLine x s k = none → t.net = s.net) ∧
       ∀ pa cls, prefLine x s k = some (pa, cls) → (x.mod = 1 ∨ l1Byte s (coreOf k) pa = none) →
         ∃ id q r, (tfind t.net id = some (.read q r) ∨ ∃ n bs po e mk, tfind t.net id = some (.data n r bs po e mk)) ∧
           r.core = coreOf k ∧ r.line = pa / 64 ∧ (x.mod = 1 → r.l2only = true)) ∧
  (∀ i code s b k, i.view = some (.rinv, code) → Standing s b →
     let x := code.norm .rinv
     participants s b x.g = [k] →
     (Verdict.trapIf (rangeFails .rinv x s k) .regrange).and (Verdict.poisonIf (rinvRange x s k).2.2) = Verdict.ok →
     Completes i s fun t =>
       BundleBecomes s t b [k] code.len (fun _ y => y.past code.len) ∧ t.mem = s.mem ∧
       (coreAt t (coreOf k)).record = (coreAt s (coreOf k)).record ∧
       ((rinvRange x s k).2.1 ≤ 0 → t.net = s.net ∧ (coreAt t (coreOf k)).l1 = (coreAt s (coreOf k)).l1) ∧
       (262144 < (rinvRange x s k).2.1 → (coreAt t (coreOf k)).l1 = []) ∧
       (0 < (rinvRange x s k).2.1 → (rinvRange x s k).2.1 ≤ 262144 → ∀ e ∈ (coreAt t (coreOf k)).l1,
         e ∈ (coreAt s (coreOf k)).l1 ∧
         ∀ p ∈ rinvParts s k (rinvRange x s k).1 (rinvRange x s k).2.1.toNat, 64 * e.line + 64 ≤ p.1 ∨ p.1 + p.2 ≤ 64 * e.line))

/-- xst sends the low bytes of D of each participant to the shadow bank of the member it names (R312): to each member named one
message, with its participants' stores in ascending lane order. The model's choices in it are those of log 53. -/
def Obligations.ExchangeStoresSend : Prop :=
  (∀ i code s b, i.view = some (.xst, code) → Standing s b →
    let x := code.norm .xst
    let ps := participants s b x.g
    AllPass ps (xstCheck x s) →
    Completes i s fun t =>
      t = { s with ctl := t.ctl, net := t.net, origins := t.origins, strands := t.strands } ∧
      BundleBecomes s t b ps code.len (fun _ y => y.past code.len) ∧
      ∀ k ∈ ps, let rank := (valueAt .xst x s k .a).1
        ∃ id, tfind t.net id = some (.xst (blockAt s b.block).gang rank
          ((ps.filter fun j => (valueAt .xst x s j .a).1 == rank).map fun j =>
            ((valueAt .xst x s j .b).1, leBytes (accessBytes x.ty) (valueAt .xst x s j .d).1, (valueAt .xst x s j .d).2))
          (blockAt s b.block).grank)) ∧
  (∀ i code s b k, i.view = some (.xst, code) → Standing s b →
    let x := code.norm .xst
    participants s b x.g = [k] → xstCheck x s k = Verdict.ok →
    Completes i s fun t =>
      t.net = tset s.net s.ctl.nextId (.xst (blockAt s b.block).gang (valueAt .xst x s k .a).1
        [((valueAt .xst x s k .b).1, leBytes (accessBytes x.ty) (valueAt .xst x s k .d).1, (valueAt .xst x s k .d).2)]
        (blockAt s b.block).grank))

/-- rdrain asks every open entry of the block to drain, whatever stores come after, and waits for nothing (R313). A fence issues
at once, advances its participants, and leaves each with a wait for what its block had issued: for the scopes above blk every
record entry and operation, those to the host for sys alone, for every scope the strand's loads (R179 to R181, R315, R402).
waitc goes on where the sheaf's count of copies is at most n, 17 to 255 counting as 16 (R316). nop advances by its length and
does nothing else (R268). The model's choices in it are those of log 14. -/
def Obligations.DrainsAndFences : Prop :=
  (∀ x s b, Standing s b →
     let ps := participants s b (x.norm .rdrain).g
     Completes (.rdrain x) s fun t =>
       t = { s with ctl := ctlAfter s, cores := t.cores, strands := t.strands } ∧
       BundleBecomes s t b ps x.len (fun _ y => y.past x.len) ∧
       (ps ≠ [] → ∀ e ∈ (coreAt t (b.block / 4)).record, e.block = b.block → e.gang = (blockAt s b.block).gang →
         e.state = .opened → e.due = true)) ∧
  (∀ i code s b k, i.view = some (.fence, code) → Standing s b →
     let x := code.norm .fence
     participants s b x.g = [k] →
     Completes i s fun t =>
       t = { s with ctl := ctlAfter s, cores := t.cores, strands := t.strands } ∧
       BundleBecomes s t b [k] code.len (fun _ y => { y.past code.len with fences := y.fences ++ [fenceWait s k (fenceScope x.sc)] }) ∧
       (fenceScope x.sc ≠ 1 → ∀ e ∈ (coreAt t (b.block / 4)).record, e.block = b.block → e.gang = (blockAt s b.block).gang →
         e.state = .opened → e.due = true)) ∧
  (∀ i code s b, i.view = some (.waitc, code) → Standing s b →
     let x := code.norm .waitc
     let ps := participants s b x.g
     (∀ k ∈ ps, (sheafAt s (sheafOf k)).copies ≤ waitcCount x.a) →
     Completes i s fun t => OnlyStrands s t ∧ BundleBecomes s t b ps code.len (fun _ y => y.past code.len) ∧
       ∀ n, waitcCount (.imm n) = min n.toNat 16) ∧
  (∀ x s b, Standing s b → Completes (.nop x) s fun t =>
     OnlyStrands s t ∧ BundleBecomes s t b (participants s b (x.norm .nop).g) x.len fun _ y => y.past x.len)

/-- An atomic or reduction of a scratchpad location applies its operation at once; atom and cas give the old value to D (R172,
R185, R317 to R319). While no copy of the block is queued. -/
def Obligations.AtomicsOnScratchpad : Prop :=
  ∀ i stem code s b k off, i.view = some (stem, code) → (stem = .atom ∨ stem = .cas ∨ stem = .red) → codeOk stem code = true →
    Standing s b → Unmapped s b → (tfind s.blocks b.block).isSome → (∀ c ∈ (coreAt s (b.block / 4)).queue, c.block ≠ b.block) →
    let x := code.norm stem
    participants s b x.g = [k] → memCheck stem x s k = Verdict.ok → (memTarget stem x s k).1 = .scratch off →
    let n := accessBytes x.ty
    let old := leNat ((List.range n).map fun j => (readPad s b.block (off.toNat + j)).1)
    let new := atomNew (atomOpOf stem x) x.ty old (valueAt stem x s k (if stem = .red then .d else .c)).1
      (if stem = .cas then (valueAt stem x s k .b).1 else 0)
    Completes i s fun t =>
      (∀ j ∈ b.strands, (strandAt t j).pc = (strandAt s j).pc + BitVec.ofNat 64 code.len) ∧ t.net = s.net ∧ t.mem = s.mem ∧
      (∀ j < n, some (readPad t b.block (off.toNat + j)).1 = (leBytes n new)[j]?) ∧
      (∀ a, a < off.toNat ∨ off.toNat + n ≤ a → (readPad t b.block a).1 = (readPad s b.block a).1) ∧
      (stem ≠ .red → destReads t k x.ty x.d = destBits x.ty x.d old)

/-- An atomic or reduction of a memory location goes to its line's home, or to the host for a Host page; it counts among its
block's operations, and atom and cas wait for the old value and close with a fence (R179, R184, R186, R188, R318, R319). The
model's choices in it are those of log 50. -/
def Obligations.AtomicsGoHome : Prop :=
  ∀ i stem code s b k va pa leaf, i.view = some (stem, code) → (stem = .atom ∨ stem = .cas ∨ stem = .red) → Standing s b →
    (tfind s.blocks b.block).isSome →
    let x := code.norm stem
    participants s b x.g = [k] → memCheck stem x s k = Verdict.ok → (memTarget stem x s k).1 = .global va →
    memTranslate stem s k va = .ok pa leaf →
    Completes i s fun t =>
      t.mem = s.mem ∧ (strandAt t k).pc = (strandAt s k).pc + BitVec.ofNat 64 code.len ∧
      (∃ o ∈ (blockAt t b.block).ops, o.id = s.ctl.nextId ∧ o.count = 1 ∧ o.kind = if leaf.cls = 4 then .host else if stem = .red then .red else .atomic) ∧
      (stem ≠ .red → (∃ p ∈ (strandAt t k).loads, p.id = s.ctl.nextId ∧ p.pa = pa ∧ p.dest = destOf s k x.d) ∧
        ∃ w ∈ (strandAt t k).fences, s.ctl.nextId ∈ w.loads) ∧
      ∃ id, tfind t.net id = some (
        if leaf.cls = 4 then .hostOp b.block [laneOp stem x s k pa] s.ctl.nextId (stem != .red)
        else if stem = .red then .red (homeSlice s (pa / 64)) (.op b.block s.ctl.nextId) [laneOp stem x s k pa] s.now leaf.cls
        else .atomic (homeSlice s (pa / 64)) b.block [laneOp stem x s k pa] s.ctl.nextId s.now leaf.cls none)

/-! ## Register file and special registers -/

/-- regx answers at once where the count is 0 (true) or the sum exceeds 512 (false); else its request joins the core's queue and
the sheaf's Running strands wait on it (R154, R346). One sheaf's participants. regf returns k granules of each strand of the
sheaf: registers from the new allocation up are lost (R347). -/
def Obligations.RegisterFile : Prop :=
  (∀ i code s b f, i.view = some (.regx, code) → codeOk .regx code = true → Standing s b →
     let x := code.norm .regx
     let ps := participants s b x.g
     let n := (countOperand s (ps.headD 0) x.a).1
     ps ≠ [] → (∀ k ∈ ps, sheafOf k = f) →
     AllPass ps (fun k => (Verdict.trapIf (rangeFails .regx x s (sheafLead ps k)) .regrange).and
       (Verdict.poisonIf (countOperand s (sheafLead ps k) x.a).2)) →
     (n = 0 ∨ 512 < (sheafAt s f).alloc + 32 * n → Completes i s fun t => OnlyStrands s t ∧
       (∀ k ∈ b.strands, (strandAt t k).pc = (strandAt s k).pc + BitVec.ofNat 64 code.len) ∧
       ∀ k ∈ ps, readP t k (predNumber x.d) = (decide (7 ≤ predNumber x.d) || decide (n = 0))) ∧
     (n ≠ 0 → (sheafAt s f).alloc + 32 * n ≤ 512 → Completes i s fun t =>
       (sheafAt t f).regx = some { granules := n, pred := predNumber x.d, len := code.len, strands := ps } ∧
       (sheafAt t f).alloc = (sheafAt s f).alloc ∧
       (coreAt t (f / 64)).regxQueue = (coreAt s (f / 64)).regxQueue ++ [f] ∧
       (∀ k ∈ sheafStrands s f, (strandAt s k).cond = .running → (strandAt t k).cond = .waiting (.regx false)) ∧
       ∀ k ∈ ps, (strandAt t k).pc = (strandAt s k).pc)) ∧
  (∀ i code s b f, i.view = some (.regf, code) → Standing s b →
     let x := code.norm .regf
     let ps := participants s b x.g
     let n := (countOperand s (ps.headD 0) x.a).1
     ps ≠ [] → (∀ k ∈ ps, sheafOf k = f) → AllPass ps (fun k => regfCheck x s (sheafLead ps k)) →
     Completes i s fun t =>
       OnlyThreads s t ∧
       (∀ k ∈ b.strands, (strandAt t k).pc = (strandAt s k).pc + BitVec.ofNat 64 code.len) ∧
       (sheafAt t f).alloc = (sheafAt s f).alloc - 32 * n ∧
       (∀ k ∈ sheafStrands s f, ∀ r, (sheafAt t f).alloc ≤ r → r < (sheafAt s f).alloc → tget (strandAt t k).v r 0 = 0) ∧
       ∀ k r, r < (sheafAt t f).alloc → tget (strandAt t k).v r 0 = tget (strandAt s k).v r 0)

/-- shmap adds a mapping whose every bit is empty: a register of the range in a strand of this sheaf reads what the partner's
strand of the same %sidx has in its own range (R155, R348). shunm ends the mapping it names for both sheaves, and the range reads
0 again (R349). Where no strand waits on it. -/
def Obligations.Mappings : Prop :=
  (∀ i code s b f p, i.view = some (.shmap, code) → Standing s b → (tfind s.blocks b.block).isSome →
     let x := code.norm .shmap
     let ps := participants s b x.g
     let k := ps.headD 0
     ps ≠ [] → (∀ k ∈ ps, sheafOf k = f) → AllPass ps (fun k => shmapCheck x s (sheafLead ps k)) →
     livePartner s b.block (valueAt .shmap x s k .c).1 = some p →
     Completes i s fun t =>
       BundleBecomes s t b ps code.len (fun _ y => y.past code.len) ∧ t.mem = s.mem ∧
       let m : SharedMap := { a := f, f := regName x.d, b := p, g := regName x.a, n := (countOperand s k x.b).1, full := [], queue := [] }
       (blockAt t b.block).shared = (blockAt s b.block).shared ++ [m] ∧
       ((sheafAt s f).phase = .normal → ∀ j < 64, ∀ r < m.n, readV t (strandKey f j) (m.f + r) =
         (tget (strandAt s (strandKey p j)).v (m.g + r) 0, (strandAt s (strandKey p j)).vPoison.contains (m.g + r)))) ∧
  (∀ i code s b f m, i.view = some (.shunm, code) → Standing s b → (tfind s.blocks b.block).isSome →
     let x := code.norm .shunm
     let ps := participants s b x.g
     ps ≠ [] → (∀ k ∈ ps, sheafOf k = f) → mappingNamed s f (regName x.a) = some m → m.queue = [] →
     Completes i s fun t =>
       m ∉ (blockAt t b.block).shared ∧
       (∀ k ∈ b.strands, (strandAt t k).pc = (strandAt s k).pc + BitVec.ofNat 64 code.len) ∧
       (∀ k ∈ sheafStrands s m.a, ∀ r, m.f ≤ r → r < m.f + m.n → tget (strandAt t k).v r 0 = 0) ∧
       ∀ k ∈ sheafStrands s m.b, ∀ r, m.g ≤ r → r < m.g + m.n → tget (strandAt t k).v r 0 = 0)

/-- shwr waits while the bit of its register is full, shrd while it is empty (R350). Otherwise shwr writes A, with its poison,
into the register and sets the bit; shrd reads the register, with its poison, into D and clears the bit; and the strand goes on
(R350): for every participant of a sheaf. The model's choices in it are those of log 33. -/
def Obligations.SharedHandover : Prop :=
  (∀ i stem code s b k m pos, i.view = some (stem, code) → (stem = .shwr ∨ stem = .shrd) → codeOk stem code = true →
     Standing s b → (tfind s.blocks b.block).isSome →
     let x := code.norm stem
     let r := regName (if stem = .shrd then x.a else x.d)
     participants s b x.g = [k] → rangeFails stem x s k = false → outOfRange s k r = false →
     mappingAt s (sheafOf k) r = some (m, pos) → (blockAt s b.block).shared = [m] →
     m.full.contains (k % 64, pos) = decide (stem = .shwr) → Completes i s fun t =>
       (strandAt t k).cond = .waiting (if stem = .shrd then .shrd r else .shwr r) ∧ (strandAt t k).pc = (strandAt s k).pc) ∧
  (∀ i stem code s b f m pos, i.view = some (stem, code) → (stem = .shwr ∨ stem = .shrd) → codeOk stem code = true →
     Standing s b → (tfind s.blocks b.block).isSome → (blockAt s b.block).armed = none →
     let x := code.norm stem
     let ps := participants s b x.g
     let r := regName (if stem = .shrd then x.a else x.d)
     (∀ k ∈ ps, sheafOf k = f ∧ rangeFails stem x s k = false ∧ outOfRange s k r = false) →
     mappingAt s f r = some (m, pos) → (blockAt s b.block).shared = [m] → m.queue = [] →
     (∀ k ∈ ps, m.full.contains (k % 64, pos) ≠ decide (stem = .shwr)) →
     Completes i s fun t =>
       (∀ k ∈ b.strands, (strandAt t k).pc = (strandAt s k).pc + BitVec.ofNat 64 code.len) ∧
       (∃ m', (blockAt t b.block).shared = [m'] ∧ m' = { m with full := m'.full } ∧
         ∀ q, m'.full.contains q = if q.2 = pos ∧ ∃ k ∈ ps, k % 64 = q.1 then decide (stem = .shwr) else m.full.contains q) ∧
       (stem = .shwr → ∀ k ∈ ps, readV t k r = (BitVec.ofNat 32 (valueAt .shwr x s k .a).1, (valueAt .shwr x s k .a).2)) ∧
       (stem = .shrd → (∀ k ∈ ps, ∀ q ∈ vNames s k 32 x.d, vHome s k q = (k, q)) →
         ∀ k ∈ ps, destReads t k Ty.b32 x.d = (readV s k r).1.toNat ∧ destPoison t k Ty.b32 x.d = (readV s k r).2))

/-- csrr gives each participant the special register as it stood before the bundle, zero-extended (R351, R352). csrw, csrs and
csrc write a read-write special register under its rule: the new value, its set bits, or its clear bits; reserved bits of %fstat
and %fmask stay 0, %rlim takes 1 to 48, %nbv takes 1, %einj the pairs that have an effect; a read-only register keeps its value;
of a register of the block each participant, in ascending home lane, changes what the lower lanes left, so that the highest lane's
value stands (R162, R208, R217, R351 to R353). -/
def Obligations.SpecialRegisters : Prop :=
  (∀ i code s b r, i.view = some (.csrr, code) → codeOk .csrr code = true → Standing s b → Unmapped s b →
     let x := code.norm .csrr
     let ps := participants s b x.g
     x.a = .special r → (∀ k ∈ ps, rangeFails .csrr x s k = false) →
     Completes i s fun t =>
       OnlyThreads s t ∧
       (∀ k ∈ b.strands, (strandAt t k).pc = (strandAt s k).pc + BitVec.ofNat 64 code.len) ∧
       let ty : BitVec 4 := if operandWidth .csrr x .d = 64 then Ty.b64 else Ty.b32
       ∀ k ∈ ps, destReads t k ty x.d = destBits ty x.d (readSpecial s k r)) ∧
  (∀ i stem code s b k r, i.view = some (stem, code) → (stem = .csrw ∨ stem = .csrs ∨ stem = .csrc) → Standing s b →
     (tfind s.blocks b.block).isSome →
     let x := code.norm stem
     participants s b x.g = [k] → x.d = .special r → rangeFails stem x s k = false → (valueAt stem x s k .a).2 = false →
     Completes i s fun t =>
       (∀ j ∈ b.strands, (strandAt t j).pc = (strandAt s j).pc + BitVec.ofNat 64 code.len) ∧ t.mem = s.mem ∧
       readSpecial t k r = specialAfter r (readSpecial s k r)
         (csrNew stem (BitVec.ofNat 64 (readSpecial s k r)) (BitVec.ofNat 64 (valueAt stem x s k .a).1)).toNat) ∧
  (∀ i stem code s b r, i.view = some (stem, code) → (stem = .csrw ∨ stem = .csrs ∨ stem = .csrc) → Standing s b →
     (tfind s.blocks b.block).isSome →
     let x := code.norm stem
     let ps := participants s b x.g
     let new := fun k (cur : Nat) => specialAfter r cur (csrNew stem (BitVec.ofNat 64 cur) (BitVec.ofNat 64 (valueAt stem x s k .a).1)).toNat
     x.d = .special r → (∀ k ∈ ps, rangeFails stem x s k = false ∧ (valueAt stem x s k .a).2 = false) →
     Completes i s fun t =>
       (∀ j ∈ b.strands, (strandAt t j).pc = (strandAt s j).pc + BitVec.ofNat 64 code.len) ∧ t.mem = s.mem ∧
       (r ≠ 0x018 → r ≠ 0x01E → ∀ k ∈ ps, readSpecial t k r = new k (readSpecial s k r)) ∧
       (r = 0x018 → (blockAt t b.block).rlim = ps.foldl (fun cur k => new k cur) (blockAt s b.block).rlim ∧
         ∀ k, stem = .csrw → ps.getLast? = some k → 1 ≤ (valueAt stem x s k .a).1 % 256 → (valueAt stem x s k .a).1 % 256 ≤ 48 →
           (blockAt t b.block).rlim = (valueAt stem x s k .a).1 % 256) ∧
       (r = 0x01E → (blockAt t b.block).einj.toNat = ps.foldl (fun cur k => new k cur) (blockAt s b.block).einj.toNat))

/-! ## Tiles, copies and the matrix engine -/

/-- tdef binds a tile name to a free entry of the core's table, Empty with its status clear, and makes pD true; with no free
entry pD is false and nothing is bound (R159, R326). tfree unbinds a tile; tmark writes its header, of which the book stays, and makes
it Ready with its status clear (R324, R326). Where the tile is in neither Filling nor Draining. tstat reads the status word (R326): the state's
code, the bound bit, P, F and EC; 0 for an unbound name. -/
def Obligations.Tiles : Prop :=
  (∀ i code s b f, i.view = some (.tdef, code) → codeOk .tdef code = true → Standing s b → (tfind s.blocks b.block).isSome →
     let x := code.norm .tdef
     let ps := participants s b x.g
     ps ≠ [] → (∀ k ∈ ps, sheafOf k = f) → AllPass ps (fun k => tdefCheck ps x s (sheafLead ps k)) →
     Completes i s fun t =>
       (∀ k ∈ b.strands, (strandAt t k).pc = (strandAt s k).pc + BitVec.ofNat 64 code.len) ∧
       (∀ k ∈ ps, readP t k (predNumber x.d) = (decide (7 ≤ predNumber x.d) || decide (boundTiles s (f / 64) < Config.tileEntries))) ∧
       (blockAt t b.block).tiles = if boundTiles s (f / 64) < Config.tileEntries then
         tset (blockAt s b.block).tiles (tileNumber x.a)
           { desc := BitVec.ofNat 64 (valueAt .tdef x s (ps.headD 0) .b).1, state := .empty, f := false, p := false, ec := 0 }
         else (blockAt s b.block).tiles) ∧
  (∀ i stem code s b tile, i.view = some (stem, code) → (stem = .tfree ∨ stem = .tmark) → Standing s b →
     (tfind s.blocks b.block).isSome →
     let x := code.norm stem
     let ps := participants s b x.g
     ps ≠ [] → AllPass ps (fun k => boundCheck ps x s (sheafLead ps k)) →
     tileAt s b.block (tileNumber x.a) = some tile → (tile.state = .empty ∨ tile.state = .ready) →
     Completes i s fun t =>
       (∀ k ∈ b.strands, (strandAt t k).pc = (strandAt s k).pc + BitVec.ofNat 64 code.len) ∧ t.mem = s.mem ∧
       (stem = .tfree → (blockAt t b.block).tiles = terase (blockAt s b.block).tiles (tileNumber x.a)) ∧
       (stem = .tmark → tileAt t b.block (tileNumber x.a) = some { tile with state := .ready, f := false, p := false, ec := 0 } ∧
         ∀ j < 16, some (readPad t b.block (tileOff tile.desc + j)).1 = (headerBytes tile.desc)[j]?) ∧
       (stem = .tmark → (∀ j < 32, (readPad t b.block (tileOff tile.desc + 0x20 + j)).1 = 0) ∧
         ∀ j < 16, (readPad t b.block (tileOff tile.desc + 0x10 + j)).1 = (readPad s b.block (tileOff tile.desc + 0x10 + j)).1)) ∧
  ((∀ i code s b, i.view = some (.tstat, code) → codeOk .tstat code = true → Standing s b → Unmapped s b →
     let x := code.norm .tstat
     let ps := participants s b x.g
     (∀ k ∈ ps, rangeFails .tstat x s k = false) →
     Completes i s fun t =>
       OnlyThreads s t ∧ (∀ k ∈ b.strands, (strandAt t k).pc = (strandAt s k).pc + BitVec.ofNat 64 code.len) ∧
       ∀ k ∈ ps, destReads t k Ty.b32 x.d = destBits Ty.b32 x.d (tileStatus (tileAt s b.block (tileNumber x.a)))) ∧
   tileStatus none = 0 ∧
   ∀ t : Tile, t.ec < 8 → tileStatus (some t) % 4 = t.state.code ∧ (tileStatus (some t)).testBit 2 = true ∧
     (tileStatus (some t)).testBit 3 = t.p ∧ (tileStatus (some t)).testBit 4 = t.f ∧ tileStatus (some t) / 32 = t.ec)

/-- cpy, cpo and cpr enter a command at the end of the core's queue, make the tile Filling or Draining and count one more copy
of the sheaf (R160, R166, R316, R330). One sheaf's participants, with room in the queue. -/
def Obligations.CopiesQueue : Prop :=
  ∀ i stem code s b f tile, i.view = some (stem, code) → (stem = .cpy ∨ stem = .cpo ∨ stem = .cpr) → Standing s b →
    (tfind s.blocks b.block).isSome →
    let x := code.norm stem
    let ps := participants s b x.g
    ps ≠ [] → (∀ k ∈ ps, sheafOf k = f) → AllPass ps (fun k => copyCheck stem ps x s (sheafLead ps k)) →
    tileAt s b.block (tileNumber x.d) = some tile → (tile.state = .empty ∨ tile.state = .ready) →
    (coreAt s b.core).queue.length < Config.copyQueue →
    Completes i s fun t =>
      BundleBecomes s t b ps code.len (fun _ y => y.past code.len) ∧ t.mem = s.mem ∧ t.net = s.net ∧
      (sheafAt t f).copies = (sheafAt s f).copies + 1 ∧
      tileAt t b.block (tileNumber x.d) =
        some { tile with state := if stem = .cpy then .filling else .draining, f := false, p := false, ec := 0 } ∧
      ∃ c, (coreAt t b.core).queue = (coreAt s b.core).queue ++ [c] ∧ c.kind = copyKind stem ∧ c.block = b.block ∧
        c.tile = tileNumber x.d ∧ (copyVa stem x s (ps.headD 0)).1 = some c.va ∧
        c.fmt = BitVec.ofNat 64 (valueAt stem x s (ps.headD 0) .c).1 ∧ c.started = false

/-- mxe loads the sheaf's ensemble register, mxp its row-progress register, where it has no request pending (R332, R337). The
first mma of an ensemble takes a free latch of the quad: the sheaf's request is pending, its panel is Draining, its participants
wait at the mma (R167, R333). The model's choices in it are those of log 37. -/
def Obligations.MatrixInstructions : Prop :=
  (∀ i stem code s b f, i.view = some (stem, code) → (stem = .mxe ∨ stem = .mxp) → Standing s b →
     let x := code.norm stem
     let ps := participants s b x.g
     let v := (valueAt stem x s (ps.headD 0) .a)
     ps ≠ [] → (∀ k ∈ ps, sheafOf k = f) → (sheafAt s f).pendingMma = false → v.2 = false →
     (stem = .mxe → ensValid (BitVec.ofNat 64 v.1) = true) →
     (stem = .mxp → v.1 % 16 = 0 ∧ rangeFails .mxp x s (ps.headD 0) = false) →
     Completes i s fun t =>
       OnlyThreads s t ∧ BundleBecomes s t b ps code.len (fun _ y => y.past code.len) ∧
       sheafAt t f = if stem = .mxe then { sheafAt s f with ens := BitVec.ofNat 64 v.1 }
         else { sheafAt s f with mxp := BitVec.ofNat 32 v.1 }) ∧
  (∀ x s b f tile, Standing s b → (tfind s.blocks b.block).isSome →
     let ps := participants s b x.g
     ps ≠ [] → (∀ k ∈ ps, sheafOf k = f) → AllPass ps (fun k => mmaCheck x s (sheafLead ps k)) →
     (sheafAt s f).pendingMma = false → tileAt s b.block (tileNumber x.d) = some tile → tile.state = .ready →
     (quadAt s (sheafQuad f)).latches = [] →
     Completes (.mma x) s fun t =>
       BundleBecomes s t b ps (Code.long (.three x)).len
         (fun _ y => { y with cond := .waiting .mma, waitLen := (Code.long (.three x)).len, mates := ps }) ∧ t.mem = s.mem ∧
       (sheafAt t f).pendingMma = true ∧ (tileAt t b.block (tileNumber x.d)).map (·.state) = some .draining ∧
       (quadAt t (sheafQuad f)).latches = [{ ens := (sheafAt s f).ens, arrivals := [arrivalOf x s (ps.headD 0)] }])

/-! ## Abacus lines, and the ends of saves and resumes -/

/-- acca and accz send their operation, accr and accc their request, to the line's home; acca, accz and accc count among the
block's operations; accr and accc wait for the element, and accc closes with a dev fence (R179, R341, R342). Every participant
whose checks pass goes on (R341, R342). Every participant of an acco whose checks pass goes on, and each sheaf's acco sends an
opening of its grid to every element line of its window, all counted as one operation of the block (R338, R340). -/
def Obligations.AbacusInstructions : Prop :=
  (∀ i stem code s b, i.view = some (stem, code) →
     (stem = .acca ∨ stem = .accz ∨ stem = .accr ∨ stem = .accc) → Standing s b →
     let x := code.norm stem
     AllPass (participants s b x.g) (accCheck stem x s) →
     Completes i s fun t =>
       t.mem = s.mem ∧ (∀ k ∈ b.strands, (strandAt t k).pc = (strandAt s k).pc + BitVec.ofNat 64 code.len) ∧
       ∀ k, (strandAt t k).v = (strandAt s k).v ∧ (strandAt t k).preds = (strandAt s k).preds) ∧
  (∀ i stem code s b k va pa leaf, i.view = some (stem, code) →
     (stem = .acca ∨ stem = .accz ∨ stem = .accr ∨ stem = .accc) → Standing s b → (tfind s.blocks b.block).isSome →
     let x := code.norm stem
     let id := s.ctl.nextId
     participants s b x.g = [k] → accCheck stem x s k = Verdict.ok → (memTarget stem x s k).1 = .global va →
     memTranslate stem s k va = .ok pa leaf →
     Completes i s fun t =>
       t.mem = s.mem ∧ (strandAt t k).pc = (strandAt s k).pc + BitVec.ofNat 64 code.len ∧
       (stem ≠ .accr → ∃ o ∈ (blockAt t b.block).ops, o.id = id ∧ o.kind = .abacus ∧ o.count = 1) ∧
       (stem = .accr ∨ stem = .accc → ∃ p ∈ (strandAt t k).loads, p.id = id ∧ p.dest = destOf s k x.d ∧ p.ty = x.ty) ∧
       (stem = .accc → ∃ w ∈ (strandAt t k).fences, id ∈ w.loads) ∧
       ∃ n, tfind t.net n = some (.abacus (homeSlice s (pa / 64)) (pa / 64)
         (match stem with
           | .accz => .zeroLine
           | .acca => .add (pa % 64) x.ty (BitVec.ofNat 64 (valueAt .acca x s k .d).1)
           | .accr => .read (pa % 64) x.ty k
           | _ => .collect (pa % 64) x.ty k)
         (.op b.block id) s.now (strandLaunch s k).part (strandLaunch s k).record.ctx.toNat)) ∧
  (∀ x s b, Standing s b →
     let ps := participants s b x.g
     AllPass ps (fun k => accoCheck x s (sheafLead ps k)) →
     Completes (.acco x) s fun t =>
       t.mem = s.mem ∧ BundleBecomes s t b ps (Code.long (.three x)).len (fun _ y => y.past (Code.long (.three x)).len)) ∧
  (∀ x s b k, Standing s b → (tfind s.blocks b.block).isSome →
     let a := accoArgs x s k
     let l := strandLaunch s k
     participants s b x.g = [k] → accoCheck x s k = Verdict.ok →
     Completes (.acco x) s fun t =>
       t.mem = s.mem ∧
       BundleBecomes s t b [k] (Code.long (.three x)).len (fun _ y => y.past (Code.long (.three x)).len) ∧
       (a.2.1 = 0 → t.net = s.net ∧ (blockAt t b.block).ops = (blockAt s b.block).ops) ∧
       (a.2.1 ≠ 0 → (∃ o ∈ (blockAt t b.block).ops, o.id = s.ctl.nextId ∧ o.kind = .abacus ∧ o.count = a.2.1 / 64) ∧
         (accoLines a.1 a.2.1).length = a.2.1 / 64 ∧
         ∀ va ∈ accoLines a.1 a.2.1, va % abacusPage < statusArea ∧ ∃ pa leaf n,
           translate s (some (coreOf k)) l va .write = .ok pa leaf ∧
           tfind t.net n = some (.abacus (homeSlice s (pa / 64)) (pa / 64) (.opening a.2.2.1) (.op b.block s.ctl.nextId) s.now l.part
             l.record.ctx.toNat)))

/-- pdone makes each participant of a sheaf in its handler Saved; outside it takes PROT (R362). tret reloads a strand's record
from its frame: pc, item, spill pointer, trap registers and trap depth, depth, age, map, predicates, fault registers and
condition; the strand is Saved until its sheaf has reloaded (R360, R364). With the last strand of a sheaf that reloads, the sheaf
takes its record and its masks, and each strand its recorded condition (R364); of the block's bank and %rlim with the first sheaf.
The model's choices in it are those of log 36, 51, 57. -/
def Obligations.SavesAndResumes : Prop :=
  (∀ x s b, Standing s b →
     let ps := participants s b (x.norm .pdone).g
     (∀ k ∈ ps, (sheafAt s (sheafOf k)).phase = .handler) →
     Completes (.pdone x) s fun t => OnlyStrands s t ∧ BundleBecomes s t b ps x.len fun _ y => { y with cond := .saved }) ∧
  (∀ x s b, Standing s b →
     let ps := participants s b (x.norm .pdone).g
     let bad := ps.filter fun k => (sheafAt s (sheafOf k)).phase != .handler
     bad ≠ [] → (∀ k ∈ bad, canTrap s k) →
     Completes (.pdone x) s fun t => OnlyStrands s t ∧ StrandsBecome s t fun k y => if k ∈ bad then
       { y with stack := y.stack ++ [{ ret := b.pc, x := y.x, y := y.y }], depth := y.depth + 1, trapDepth := y.depth + 1, trap := none,
                tcause := 7, trpc := b.pc, tdet := laneMask s bad, pc := handlerOf s k }
     else y) ∧
  (∀ x s b k, Standing s b → participants s b (x.norm .tret).g = [k] → tretCheck s k = Verdict.ok → recordIllegal s k = false →
     (∃ j ∈ sheafStrands s (sheafOf k), j ≠ k ∧ (strandAt s j).cond ≠ .done ∧ (strandAt s j).recorded = none) →
     let r := strandRecordVa s k
     Completes (.tret x) s fun t =>
       t.mem = s.mem ∧ (strandAt t k).cond = .saved ∧ (strandAt t k).pc = BitVec.ofNat 64 (loadField s k r 8) ∧
       (strandAt t k).item = BitVec.ofNat 64 (loadField s k (r + 8) 8) ∧
       (strandAt t k).csp = BitVec.ofNat 64 (loadField s k (r + 0x10) 8) ∧
       (strandAt t k).trpc = BitVec.ofNat 64 (loadField s k (r + 0x18) 8) ∧
       (strandAt t k).tdet = BitVec.ofNat 64 (loadField s k (r + 0x20) 8) ∧
       (strandAt t k).depth = BitVec.ofNat 32 (loadField s k (r + 0x28) 4) ∧
       (strandAt t k).age = BitVec.ofNat 32 (loadField s k (r + 0x2C) 4) ∧
       (strandAt t k).x = BitVec.ofNat 16 (loadField s k (r + 0x30) 2) ∧
       (strandAt t k).y = BitVec.ofNat 16 (loadField s k (r + 0x32) 2) ∧
       (strandAt t k).preds = BitVec.ofNat 8 (loadField s k (r + 0x34) 1) ∧
       (strandAt t k).tcause = BitVec.ofNat 8 (loadField s k (r + 0x37) 1) ∧
       (strandAt t k).fstat = BitVec.ofNat 16 (loadField s k (r + 0x38) 2) ∧
       (strandAt t k).fmask = BitVec.ofNat 16 (loadField s k (r + 0x3A) 2) ∧
       (strandAt t k).trapDepth = BitVec.ofNat 32 (loadField s k (r + 0x3C) 4) ∧
       (strandAt t k).recorded = some (condOf (loadField s k (r + 0x35) 1) (loadField s k (r + 0x88) 4))) ∧
  (∀ x s b k, Standing s b → participants s b (x.norm .tret).g = [k] → tretCheck s k = Verdict.ok → recordIllegal s k = false →
     let f := sheafOf k
     let r := sheafRecordVa s k
     let va := saveVa (strandLaunch s k) (indexOf s k)
     (∀ j ∈ sheafStrands s f, j ≠ k → (strandAt s j).cond = .done ∨ (strandAt s j).recorded.isSome) → SheafRecordGood s k →
     (blockAt s (blockOf s k)).undrawn = false →
     Completes (.tret x) s fun t =>
       t.mem = s.mem ∧ (strandAt t k).pc = BitVec.ofNat 64 (loadField s k (strandRecordVa s k) 8) ∧
       (strandAt t k).cond = condOf (loadField s k (strandRecordVa s k + 0x35) 1) (loadField s k (strandRecordVa s k + 0x88) 4) ∧
       (∀ j ∈ sheafStrands s f, j ≠ k → ∀ c, (strandAt s j).recorded = some c → (strandAt t j).cond = c) ∧
       (∀ j ∈ sheafStrands s f, (strandAt t j).recorded = none) ∧
       (sheafAt t f).phase = .normal ∧ (sheafAt t f).backedge = loadField s k r 1 ∧
       (sheafAt t f).ens = movedEns s k (BitVec.ofNat 64 (loadField s k (r + 8) 8)) ∧
       (sheafAt t f).mxp = BitVec.ofNat 32 (loadField s k (r + 0x10) 4) ∧
       (∀ n < 11, ∀ j < (sheafAt s f).width,
         (readM t f (n + 1)).getLsbD j = (BitVec.ofNat 64 (loadField s k (r + 0x288 + 8 * n) 8)).getLsbD j) ∧
       (readW t f 62).1 = BitVec.ofNat 64 (loadField s k (r + 0x80 + 8 * 62) 8) ∧
       (readW t f 63).1 = BitVec.ofNat 64 (loadField s k (r + 0x80 + 8 * 63) 8) ∧
       (firstToFinish s k = true → (blockAt t (blockOf s k)).bank = loadField s k va 1 % 2 ∧
         (blockAt t (blockOf s k)).rlim = let v := loadField s k (va + 1) 1
           if 1 ≤ v ∧ v ≤ 48 then v else (blockAt s (blockOf s k)).rlim))

/-! ## Power, links and dies -/

/-- Power (R31, R33, R35, R36): power-up, within the limits, leaves a module that holds nothing, runs the valid firmware slot of
the higher version, or none, and has trained its links over the lanes that work; outside the limits nothing powers up. Power
goes at once, on a shutdown (reported with its cause, but for the loss of input), and when a sensor has stood at 115 °C for 10
ms; a sensor's reading sets the caps of its die. The model's choices in it are those of log 1, 5, 21, 48, 58, 59. -/
def Obligations.PowerChanges : Prop :=
  (∀ s, s.module.power ≠ .on → outside (startEnvironment s) [] = none → Completes .powerUp s fun t =>
    NothingHeld t ∧ t.now = 0 ∧ t.module.power = (if bootSlot s.module = 2 then .noFirmware else .on) ∧
    t.module.env = startEnvironment s ∧
    (bootSlot s.module ≠ 2 → t.module.running = bootSlot s.module ∧ ((s.module.links.map (·.1)).Nodup →
      ∀ n l, tfind s.module.links n = some l → linkState t n = linkStateOf l.lanes))) ∧
  (∀ s, s.module.power ≠ .on → (outside (startEnvironment s) []).isSome → Completes .powerUp s fun t =>
    t.module = s.module ∧ t.sent = s.sent) ∧
  (∀ s, Completes .powerLoss s fun t => NothingHeld t ∧ t.module.power = .off ∧ t.sent = s.sent) ∧
  (∀ cause s, Completes (.orderlyShutdown cause) s fun t =>
    NothingHeld t ∧ t.module.power = .off ∧ (cause = .inputLoss → t.sent = s.sent) ∧
    ∀ n slot, cause ≠ .inputLoss → hostReach s = true → (n, slot) ∈ s.module.mgmtSlots → slot.mask.getLsbD 10 = true →
      .event 0 n 0x000B 2 0 s.module.mgmtSeq s.now 0xFF 0xFF 0xFFFF 0xFFFF (BitVec.ofNat 64 (causeCode cause)) ∈ t.sent) ∧
  (∀ s since, tfind (dieAt s (s.arg 0)).hotSince (s.arg 1) = some since → since + 10000000 ≤ s.now →
    Completes .junctionOvertempTimeout s fun t => NothingHeld t ∧ t.module.power = .off) ∧
  (∀ die sensor temp s, die < 8 → sensor < 16 → Completes (.thermalSensorCrossing die sensor temp) s fun t =>
    let above := fun limit : Int => (tset (dieAt s die).sensors sensor temp).any fun p => decide (limit ≤ p.2)
    (dieAt t die).sensors = tset (dieAt s die).sensors sensor temp ∧
    (dieAt t die).cap7 = (above 1050 || ((dieAt s die).cap7 && above 1000)) ∧ (dieAt t die).cap0 = above 1150 ∧
    (1150 ≤ temp → tfind (dieAt s die).hotSince sensor = none → tfind (dieAt t die).hotSince sensor = some s.now) ∧
    ∀ d, d ≠ die → dieAt t d = dieAt s d)

/-- The arbiter's epoch (R29 to R32, R36, R126): at its start each quad takes its latched budget, or the floor, and its counts
start again; a die that has stood at 115 °C for 10 ms, or a quantity outside its limit, makes a shutdown the next step. Demands
are reported at tick 600. Budgets go out from tick 900, to every quad: the floor, and levels of the pool in proportion to the
claims, at 15 at most, at the floor above 115 °C and at 7 at most above 105 °C, until the pool is spent or no quad with a claim
has room, where the claims sum to 2^60 at most. Withheld and repeated cycles pass and are counted. The model's choices in it are those of log 1, 11, 48, 59. -/
def Obligations.PowerEpochs : Prop :=
  (∀ env s, s.module.epochsBegun < s.now / 1000 → Completes (.powerEpochStart env) s fun t =>
    t.module.epochsBegun = s.now / 1000 ∧ t.module.env = env ∧
    (∀ q < 512, (quadAt t q).level = (quadAt s q).latched.getD Config.floorLevel ∧ (quadAt t q).latched = none ∧
      (quadAt t q).withheldLast = (quadAt s q).withheld ∧ (quadAt t q).withheld = 0 ∧ (quadAt t q).replays = 0 ∧
      (quadAt t q).hot = []) ∧
    (stoodHot s = true → t.ctl.agenda.head?.map (·.ev) = some (.orderlyShutdown .junction)) ∧
    ∀ cause, stoodHot s = false → outside env ((env.power :: s.module.powers).take 1000) = some cause →
      t.ctl.agenda.head?.map (·.ev) = some (.orderlyShutdown cause)) ∧
  (∀ s, s.now % 1000 = 600 → s.arg 0 < 512 → Completes .demandReport s fun t =>
    ∀ q, quadAt t q = if q = s.arg 0 then { quadAt s q with demand := s.arg 1, draw := s.arg 2 } else quadAt s q) ∧
  (∀ s, 900 ≤ s.now % 1000 → s.module.budgetsSent ≤ s.now / 1000 → Completes .budgetSend s fun t =>
    t.module.budgetsSent = s.now / 1000 + 1 ∧
    let room := fun q => (if (dieAt s (q / 64)).cap0 then Config.floorLevel else if (dieAt s (q / 64)).cap7 then 7 else 15) - Config.floorLevel
    let pool := Config.pool (s.quads.map fun q => q.2.draw).sum
    let total := ((List.range 512).map (claimOf s)).sum
    ∃ (extra : Nat → Nat) (m : Nat),
      (∀ q < 512, quadAt t q = { quadAt s q with latched := some (Config.floorLevel + extra q) } ∧ extra q ≤ room q ∧
        (claimOf s q = 0 → extra q = 0) ∧
        (extra q = min (room q) (claimOf s q * m / total) ∨ extra q = min (room q) (claimOf s q * m / total) + 1)) ∧
      ((List.range 512).map extra).sum ≤ pool ∧
      (total ≤ 2 ^ 60 → ((List.range 512).map extra).sum = pool ∨ ∀ q < 512, claimOf s q ≠ 0 → extra q = room q)) ∧
  (∀ s, s.arg 0 < 512 → allowed s (s.arg 0) = false → Completes .withheldCycle s fun t =>
    ∀ q, quadAt t q = if q = s.arg 0 then
      { quadAt s q with cycle := ((quadAt s q).cycle + 1) % 64, acted := [], ahead := (quadAt s q).ahead + 1,
                        withheld := (quadAt s q).withheld + 1,
                        wcyc := (quadAt s q).wcyc + 1 }
      else quadAt s q) ∧
  (∀ s, s.arg 0 < 512 → Completes .timingReplay s fun t =>
    (quadAt t (s.arg 0)).replays = (quadAt s (s.arg 0)).replays + 1 ∧ (quadAt t (s.arg 0)).rply = (quadAt s (s.arg 0)).rply + 1 ∧
    (quadAt t (s.arg 0)).cycle = ((quadAt s (s.arg 0)).cycle + 2) % 64 ∧ ∀ q, q ≠ s.arg 0 → quadAt t q = quadAt s q)

/-- Links (R20 to R22): a CRC error counts and is logged; failed lanes leave a link spared, narrow or Down by its worse direction;
a link that goes Down is logged and asks for a map with detours; the end of training takes the lanes as found, and one that fails
leaves the link Down and is logged. That the worse direction gives the link its state is inferred from R20 (DEDUCED, log 22); the
model's choices in it are those of log 1, 22, 48. -/
def Obligations.LinkEvents : Prop :=
  (∀ s, s.arg 0 < 14 → Completes .linkCrcRetry s fun t =>
    (∀ n, tget t.module.links n Link.reset = if n = s.arg 0 then
      { tget s.module.links n Link.reset with crc := (tget s.module.links n Link.reset).crc + 1 } else tget s.module.links n Link.reset) ∧
    ∃ e, t.module.ras = s.module.ras ++ [e] ∧ e.cls = .link ∧ e.detail.1 = BitVec.ofNat 64 (s.arg 0)) ∧
  (∀ s, s.arg 0 < 14 → linkIsDown s (s.arg 0) = false → s.arg 1 ≠ 0 → Completes .linkLaneFailure s fun t =>
    let old := (tget s.module.links (s.arg 0) Link.reset).lanes
    let new := if s.arg 2 = 0 then (min 66 (old.1 + s.arg 1), old.2) else (old.1, min 66 (old.2 + s.arg 1))
    (tget t.module.links (s.arg 0) Link.reset).lanes = new ∧
    linkState t (s.arg 0) = if max new.1 new.2 ≤ 2 then .spared else if max new.1 new.2 ≤ 32 then .narrow else .down) ∧
  (∀ s, s.arg 0 < 14 → linkIsDown s (s.arg 0) = false → Completes .linkDown s fun t =>
    linkState t (s.arg 0) = .down ∧ (s.arg 0 < 10 → t.module.newDetour = true) ∧
    (∃ e rest, t.module.ras = s.module.ras ++ e :: rest ∧ e.cls = .link ∧ e.detail.1 = BitVec.ofNat 64 (s.arg 0)) ∧
    ∀ n, n ≠ s.arg 0 → linkState t n = linkState s n) ∧
  (∀ s, s.arg 0 < 14 → linkIsDown s (s.arg 0) = true → Completes .linkTrainingDone s fun t =>
    let worse := max (s.arg 1) (s.arg 2)
    (tget t.module.links (s.arg 0) Link.reset).lanes = (s.arg 1, s.arg 2) ∧
    linkState t (s.arg 0) = (if worse = 0 then .up else if worse ≤ 2 then .spared else if worse ≤ 32 then .narrow else .down) ∧
    (32 < worse → ∃ e rest, t.module.ras = s.module.ras ++ e :: rest ∧ e.cls = .link))

/-- Dies, ports, stacks and quads (R21, R25, R28, R43, R65, R68, R69, R141): a compute or I/O die that loses lock, or owes an
acknowledgement at a fan-out's deadline because of a link that is Down, is fenced and its gangs are killed; it rejoins with empty
L1s and no loan once its counter has lock again, its links are usable, no die is cut off from it and its blocks are gone; ports go
down and up; a failed channel is recorded; a quad that meets a criterion is retired and its gangs killed; a stub powers off; a map
change puts detours in force. The model's choices in it are those of log 1, 22, 40, 47, and of log 62 that the value of Tk, in the
state of a gang that is killed, is the tick of the step. -/
def Obligations.DieEvents : Prop :=
  (∀ s, s.arg 0 < 10 → Completes .dtLockLoss s fun t =>
    (dieAt t (s.arg 0)).fenced = true ∧ (dieAt t (s.arg 0)).locked = false ∧
    ((dieAt s (s.arg 0)).fenced = false → ∀ p ∈ s.blocks, p.1 / 1024 = s.arg 0 → (gangAt s p.2.gang).state.live = true →
      (tfind s.gangs p.2.gang).isSome → (gangAt t p.2.gang).state = .killing s.now)) ∧
  (∀ s x, (homeAt s (s.arg 0)).txn = some x → x.deadline ≤ s.now → Completes .snpDeadline s fun t =>
    let home := homeSlice s (s.arg 0) / 64
    (∀ q ∈ x.missing, q / 64 < 8 → ackCut s home (q / 64) = true → (dieAt t (q / 64)).fenced = true) ∧
    ∀ d, (∀ q ∈ x.missing, q / 64 = d → ackCut s home d = false) → dieAt t d = dieAt s d) ∧
  (∀ s, s.arg 1 = 1 → s.arg 0 < 10 → Completes .dieRejoin s fun t =>
    ∀ d, dieAt t d = if d = s.arg 0 then { dieAt s d with locked := true } else dieAt s d) ∧
  (∀ s, s.arg 1 ≠ 1 → (dieAt s (s.arg 0)).locked = false → Completes .dieRejoin s fun t => ∀ d, dieAt t d = dieAt s d) ∧
  (∀ s, s.arg 1 ≠ 1 → s.arg 0 < 10 → (dieAt s (s.arg 0)).fenced = true → (dieAt s (s.arg 0)).locked = true →
    (∀ n ∈ linksOf (s.arg 0), linkIsDown s n = false) → (s.arg 0 < 8 → cutFrom s (s.arg 0) = []) →
    (∀ p ∈ s.blocks, p.1 / 1024 ≠ s.arg 0) → Completes .dieRejoin s fun t =>
    (dieAt t (s.arg 0)).fenced = false ∧ (dieAt t (s.arg 0)).locked = true ∧
    (s.arg 0 < 8 → (∀ c, c / 256 = s.arg 0 → (coreAt t c).l1 = []) ∧ ∀ line, ∀ q ∈ (homeAt t line).loans, q / 64 ≠ s.arg 0)) ∧
  (∀ s, s.arg 1 ≠ 1 → s.arg 0 < 8 → cutFrom s (s.arg 0) ≠ [] → Completes .dieRejoin s fun t => ∀ d, dieAt t d = dieAt s d) ∧
  (∀ s io, (s.arg 0, io) ∈ portList s → (tget s.module.ports (s.arg 0) Port.reset).state = .up → Completes .portDown s fun t =>
    ∀ n, (tget t.module.ports n Port.reset).state = if n = s.arg 0 then .down else (tget s.module.ports n Port.reset).state) ∧
  (∀ s, (tget s.module.ports (s.arg 0) Port.reset).state ≠ .up → Completes .portUp s fun t =>
    ∀ n, (tget t.module.ports n Port.reset).state = (if n = s.arg 0 then .up else (tget s.module.ports n Port.reset).state) ∧
      (tget s.module.ports n Port.reset).sent.toNat ≤ (tget t.module.ports n Port.reset).sent.toNat) ∧
  (∀ s, s.arg 0 < 16 → s.arg 1 < 256 → s.arg 1 ∉ (tractAt s (s.arg 0)).failedChannels → Completes .pseudoChannelFailure s fun t =>
    (tractAt t (s.arg 0)).failedChannels = (tractAt s (s.arg 0)).failedChannels ++ [s.arg 1] ∧
    ∃ e, t.module.ras = s.module.ras ++ [e] ∧ e.cls = .channel) ∧
  (∀ s, s.arg 0 < 512 → mustRetire s (s.arg 0) = true → Completes .quadRetirement s fun t =>
    (quadAt t (s.arg 0)).retired = true ∧ t.module.newRetired = s.module.newRetired ++ [s.arg 0] ∧
    ∀ p ∈ s.blocks, p.1 / 16 = s.arg 0 → (gangAt s p.2.gang).state.live = true → (tfind s.gangs p.2.gang).isSome →
      (gangAt t p.2.gang).state = .killing s.now) ∧
  (∀ s h, (quadAt s (s.arg 0)).stub = some h → h ≤ s.now → Completes .stubPowerOff s fun t =>
    ∀ q, quadAt t q = if q = s.arg 0 then { quadAt s q with stub := none, gated := true } else quadAt s q) ∧
  (∀ s, s.module.newRetired = [] → s.module.newDetour = true → Completes .sliceMapChange s fun t =>
    t.module.epoch = (s.module.epoch + 1) % 2 ^ 32 ∧ t.module.newDetour = false ∧ t.module.map = s.module.map ∧
    ∀ n, (tfind s.module.links n).isSome → (tget t.module.links n Link.reset).detour = (linkState s n == .down))

/-! ## Slices and homes -/

/-- Reads and copies (R48 to R53, R57, R60 to R63, R72): a near slice or a helper grants a lease from its copy, a home from
memory; the read of a context with an empty mask goes on to the home; data is installed at a near slice and goes on; an expired
copy leaves the L1; an invalidation or a recall takes the copy and is acknowledged with the slice's horizon; the last
acknowledgement fixes the completion time; a loan is installed and its redirects sent, which the die's quads keep until they are
told to remove them; a loan is returned, and the home forgets its helper, but where it has lent the line to it again. The model's
choices in it are those of log 1, 15, 57. -/
def Obligations.SliceReads : Prop :=
  (∀ s q r c, arriving s (s.arg 0) = some (.read q r) → s.arg 1 = 0 → awaitsEntry s (s.arg 0) = false →
    q / 32 ≠ tractOfPa (64 * r.line) → (q = r.core / 4 → wayMask s q r.part r.ctx ≠ 0) → slotOf s q r.line = some c → r.l2only = false →
    Completes .leaseGrant s fun t =>
    tfind t.net (s.arg 0) =
      some (.data none { r with near := none, born := c.born } c.bytes c.poison (some (s.now + r.lease)) none)) ∧
  (∀ s q r, arriving s (s.arg 0) = some (.read q r) → s.arg 1 = 0 → awaitsEntry s (s.arg 0) = false →
    q / 32 ≠ tractOfPa (64 * r.line) → q = r.core / 4 → wayMask s q r.part r.ctx = 0 → Completes .leaseGrant s fun t =>
    tfind t.net (s.arg 0) = some (.read (homeSlice s r.line) { r with near := none }) ∧ t.quads = s.quads) ∧
  (∀ s q r, arriving s (s.arg 0) = some (.read q r) → s.arg 1 = 0 → awaitsEntry s (s.arg 0) = false →
    q / 32 = tractOfPa (64 * r.line) → ServesNow s q r.line → r.near = none → r.l2only = false →
    (homeAt s r.line).tracker = none → Completes .leaseGrant s fun t =>
    tfind t.net (s.arg 0) = some (.data none { r with born := s.ctl.nextId } (lineBytes s r.line) (lineBad s r.line)
      (if r.cls = 1 then none else some (s.now + r.lease)) none)) ∧
  (∀ s q r bytes poison expiry mask, arriving s (s.arg 0) = some (.data (some q) r bytes poison expiry mask) → r.l2only = false →
    Completes .nearCopyInstall s fun t =>
    tfind t.net (s.arg 0) = some (.data none { r with near := none } bytes poison expiry mask) ∧ s.arg 0 ∉ (quadAt t q).notes ∧
    (s.arg 0 ∈ (quadAt s q).notes → waysOf (wayMask s q r.part r.ctx) ≠ [] → (∀ c ∈ (quadAt s q).copies, c.hint ≠ 2) →
      (∀ c, slotOf s q r.line = some c → c.kind ≠ .loan) →
      ∃ c, slotOf t q r.line = some c ∧ c.kind = .near ∧ c.bytes = bytes ∧ c.poison = poison ∧ c.born = r.born) ∧
    ∀ c, slotOf s q r.line = some c → c.kind = .loan → ∃ d, slotOf t q r.line = some d ∧ d.kind = .loan ∧ d.bytes = c.bytes) ∧
  (∀ s, (∃ e ∈ (coreAt s (s.arg 0)).l1, e.line = s.arg 1 ∧ ∃ x, e.expiry = some x ∧ x ≤ s.now) → Completes .leaseExpiry s fun t =>
    ∀ e, e ∈ (coreAt t (s.arg 0)).l1 ↔
      e ∈ (coreAt s (s.arg 0)).l1 ∧ ¬ (e.line = s.arg 1 ∧ ∃ x, e.expiry = some x ∧ x ≤ s.now)) ∧
  (∀ s line q, arriving s (s.arg 0) = some (.inval line q) → Completes .snpInvalidation s fun t =>
    tfind t.net s.ctl.nextId = some (.ack line q (horizonOf s q line)) ∧
    ∀ c ∈ (quadAt t q).copies, ¬ (c.line = line ∧ c.kind = .near)) ∧
  (∀ s line q, arriving s (s.arg 0) = some (.recall line q) → Completes .loanRecall s fun t =>
    tfind t.net s.ctl.nextId = some (.ack line q (horizonOf s q line)) ∧
    ∀ c ∈ (quadAt t q).copies, ¬ (c.line = line ∧ c.kind = .loan)) ∧
  (∀ s line q h x, arriving s (s.arg 0) = some (.ack line q h) → (homeAt s line).txn = some x → q ∈ x.missing → Completes .ackArrival s fun t =>
    (x.missing.erase q ≠ [] →
      (homeAt t line).txn = some { x with missing := x.missing.erase q, hall := max x.hall h } ∧ t.ctl.nextId = s.ctl.nextId) ∧
    (x.missing.erase q = [] → (x.resume = none → (homeAt t line).txn = none) ∧ (x.notify ≠ .nobody → tfind t.net s.ctl.nextId = some (.ctl x.notify
      (max x.tarr (max x.hall h) + (if x.snp then s.now - x.tarr else 0) + 1))))) ∧
  (∀ s line q h, arriving s (s.arg 0) = some (.loanReturn line q h) → Completes .loanReturn s fun t =>
    ∀ n, n ∈ (homeAt t line).loans ↔ n ∈ (homeAt s line).loans ∧ (n ≠ q ∨ laterLoan s (s.arg 0) line q = true)) ∧
  (∀ s line q bytes poison, arriving s (s.arg 0) = some (.loanPush line q bytes poison) →
    Completes .loanInstall s fun t =>
    let ways := waysOf (anyWays s q (tractAt s (tractOfPa (64 * line))).owner)
    (ways ≠ [] → (∀ c ∈ (quadAt s q).copies, c.hint ≠ 2) →
      (∃ c, slotOf t q line = some c ∧ c.kind = .loan ∧ c.bytes = bytes ∧ c.poison = poison) ∧
      ∀ i < 64, ∃ n, tfind t.net n = some (.redirect line q (q / 64 * 64 + i))) ∧
    (slotOf s q line = none → victimWay (quadAt s q) (setOf line) ways 0 = none →
      tfind t.net s.ctl.nextId = some (.loanReturn line q (horizonOf s q line)) ∧ (quadAt t q).copies = (quadAt s q).copies)) ∧
  (∀ s line helper q, arriving s (s.arg 0) = some (.redirect line helper q) → Completes .snpInvalidation s fun t =>
    (line, helper) ∈ (quadAt t q).redirects ∧ tfind t.net (s.arg 0) = none) ∧
  (∀ s line helper q, arriving s (s.arg 0) = some (.unredirect line helper q) → Completes .snpInvalidation s fun t =>
    (∀ d, d ∈ (quadAt t q).redirects ↔ d ∈ (quadAt s q).redirects ∧ d ≠ (line, helper)) ∧ tfind t.net (s.arg 0) = none)

/-- Writes and updates at a line's home (R50, R55, R56, R66, R75, R184, R185, R189, R190, R341): memory takes a drained entry's
bytes, a line that cpo or the host writes, an atomic's and a reduction's result, an abacus addend, and a queued request's, as
served; a request refused or sent back goes to its home again; parity takes a delta. The model's choices in it are those of log
1, 38, 40, 42. -/
def Obligations.HomeWrites : Prop :=
  (∀ s q core e age, s.mem.wf = true → arriving s (s.arg 0) = some (.drain q core e age) → s.arg 1 = 0 → ServesNow s q e.line →
    lineLost s e.line = false → Completes .drainArrival s fun t =>
    WritesLine s t e.line e.data ∧
    ((homeAt s e.line).dir = .empty → (homeAt s e.line).loans = [] →
      ∃ n c, tfind t.net n = some (.ctl (.entry core e.seq) c) ∧ s.now < c)) ∧
  (∀ s q line data poison n age cls, s.mem.wf = true → arriving s (s.arg 0) = some (.engineWrite q line data poison n age cls) →
    s.arg 1 = 0 → ServesNow s q line → lineLost s line = false → Completes .engineWriteAtHome s fun t => WritesLine s t line data) ∧
  (∀ s q line data tag age, s.mem.wf = true → arriving s (s.arg 0) = some (.rmaWrite q line data tag age) → s.arg 1 = 0 →
    ServesNow s q line → lineLost s line = false → Completes .drainArrival s fun t => WritesLine s t line data) ∧
  (∀ s q b o op age cls tail, s.mem.wf = true → arriving s (s.arg 0) = some (.atomic q b [o] op age cls tail) → s.arg 1 = 0 →
    ServesNow s q (o.pa / 64) → lineLost s (o.pa / 64) = false → Completes .atomicAtHome s fun t =>
    Updates s t o ∧ (s.arg 0 < s.ctl.nextId → lineBad s (o.pa / 64) = false → o.poison = false →
      tfind t.net (s.arg 0) = some (.values b [(o.strand, BitVec.ofNat 64
        (leNat ((List.range (tyWidth o.ty / 8)).map fun i => memRead s.mem (o.pa + i))), false)] op tail))) ∧
  (∀ s q n o age cls, s.mem.wf = true → arriving s (s.arg 0) = some (.red q n [o] age cls) → s.arg 1 = 0 →
    ServesNow s q (o.pa / 64) → lineLost s (o.pa / 64) = false → Completes .reductionAtHome s fun t => Updates s t o) ∧
  (∀ s q line off ty v n age part ctx, s.mem.wf = true → arriving s (s.arg 0) = some (.abacus q line (.add off ty v) n age part ctx) → s.arg 1 = 0 →
    ServesNow s q line → lineLost s line = false → 64 * line % 65536 < 0xF800 → off < 64 →
    statusOpen (statusOf s line) = true → Completes .abacusOpAtHome s fun t =>
    ∀ i < 8, (elementsOf t line)[i]? = (elementsOf s line)[i]?.map fun x =>
      if i = off / 8 then ax64Add x (quant (addendValue ty v) (statusGrid (statusOf s line))).1 else x) ∧
  (∀ s id q core e age, s.mem.wf = true → (homeAt s (s.arg 0)).txn = none → transactions s (homeSlice s (s.arg 0)) < 64 →
    nextQueued s (s.arg 0) = some id → tfind s.net id = some (.drain q core e age) → e.line = s.arg 0 → s.arg 1 = 0 →
    lineLost s e.line = false → Completes .queuedRequestServe s fun t =>
    WritesLine s t e.line e.data ∧ id ∉ (homeAt t e.line).queue) ∧
  (∀ s m since r, arriving s (s.arg 0) = some (.retry m since) → since + 8 ≤ s.now → requestOf s m = some r →
    Completes .retryResend s fun t => tfind t.net (s.arg 0) = some (readdress (homeSlice s r.line) m)) ∧
  (∀ s m epoch r, arriving s (s.arg 0) = some (.remap m epoch) → requestOf s m = some r →
    Completes .remapResend s fun t => tfind t.net (s.arg 0) = some (readdress (homeSlice s r.line) m)) ∧
  (∀ s, Completes .reservedQueueEntryTimeout s fun t =>
    ∀ e, e ∈ (quadAt t (s.arg 0)).reserved ↔ e ∈ (quadAt s (s.arg 0)).reserved ∧ s.now < e.2.2 + 32) ∧
  (∀ s line delta, s.parity.wf = true → arriving s (s.arg 0) = some (.parity line delta) → s.arg 1 = 0 →
    (dieAt s ((placeOf line).2.2 / 2)).fenced = false → Completes .parityDelta s fun t =>
    ∀ i v, delta[i]? = some v → memRead t.parity (parityKey (placeOf line).2.2 (placeOf line).1 i) =
      memRead s.parity (parityKey (placeOf line).2.2 (placeOf line).1 i) ^^^ v)

/-- Replies and drains (R50, R157, R158, R164, R171, R174, R177, R312): a completion time frees its entry and counts in its
launch, or reaches its block's horizon; a reply's line ends a load and gives its register the bytes, extended, with their poison,
but those that entries hold which have left the core and are not freed; exchange stores land in the member's shadow bank; a
Host-class store's completion time, which its launch and its block take, is one tick on, and it waits while no port carries
traffic; an entry that is 100 ticks old is asked to drain with the older ones; a draining entry leaves for its home, or for the
host. The model's choices in it are those of log 1, 20, 57. -/
def Obligations.Replies : Prop :=
  (∀ s core seq c e, arriving s (s.arg 0) = some (.ctl (.entry core seq) c) →
    ((coreAt s core).record.find? fun e => e.seq == seq) = some e → Completes .completionTimeArrival s fun t =>
    (∀ x ∈ (coreAt t core).record, x.seq ≠ seq) ∧
    ((tfind s.launches (2 ^ 32 * e.part + e.launch)).isSome → (launchAt t (2 ^ 32 * e.part + e.launch)).horizon =
      max (launchAt s (2 ^ 32 * e.part + e.launch)).horizon c)) ∧
  (∀ s b id c, arriving s (s.arg 0) = some (.ctl (.op b id) c) → (tfind s.blocks b).isSome →
    (∃ o ∈ (blockAt s b).ops, o.id = id) → (∀ o ∈ (blockAt s b).ops, o.id = id → o.kind ≠ .tail) →
    Completes .completionTimeArrival s fun t => (blockAt t b).lct = max (blockAt s b).lct c) ∧
  (∀ s r bytes poison expiry mask k id p n, arriving s (s.arg 0) = some (.data none r bytes poison expiry mask) →
    r.l2only = false → r.waiters = [(k, id)] → replyOlder s r.born (k, id) = false → pendingOf s k id = some p → p.dest = .v n → tyWidth p.ty ≤ 32 → (tfind s.strands k).isSome →
    (blockAt s (blockOf s k)).shared = [] → (blockAt s (blockOf s k)).armed = none → (blockAt s r.block).armed = none →
    Completes .loadReply s fun t =>
    let vs := p.known.zipIdx.map fun x => x.1.getD ((sentByte (coreAt s (coreOf k)) (p.pa + x.2)).getD (bytes.getD (p.pa % 64 + x.2) 0, poison))
    (∀ q ∈ (strandAt t k).loads, q.id ≠ id) ∧
    readV t k n = (BitVec.ofNat 32 (extendBits (bytesValue vs).1 (tyWidth p.ty) (tySigned p.ty) 32), (bytesValue vs).2.1)) ∧
  (∀ s g rank off bytes poison src b, arriving s (s.arg 0) = some (.xst g rank [(off, bytes, poison)] src) →
    ((gangBlocks s g).find? fun b => (blockAt s b).grank == rank) = some b → Completes .xstLanding s fun t =>
    let x := blockAt s b
    let base := x.padBytes - 2 * x.xBytes + (1 - x.bank) * x.xBytes
    (∀ i v, bytes[i]? = some v → (readPad t b (base + off + i)).1 = v) ∧
    ∀ a, a < base + off ∨ base + off + bytes.length ≤ a → (readPad t b a).1 = (readPad s b a).1) ∧
  (∀ s core e x, arriving s (s.arg 0) = some (.hostStore core e) →
    ((coreAt s core).record.find? fun x => x.seq == e.seq) = some x → Completes .hostStoreTransportCompletion s fun t =>
    (∀ y ∈ (coreAt t core).record, y.seq ≠ e.seq) ∧
    ((tfind s.launches (2 ^ 32 * x.part + x.launch)).isSome → (launchAt t (2 ^ 32 * x.part + x.launch)).horizon =
      max (launchAt s (2 ^ 32 * x.part + x.launch)).horizon (s.now + 1)) ∧
    ((tfind s.blocks x.block).isSome → (blockAt s x.block).gang = x.gang →
      (blockAt t x.block).lct = max (blockAt s x.block).lct (s.now + 1))) ∧
  (∀ s core e, tfind s.net (s.arg 0) = some (.hostStore core e) → hostReach s = false →
    Completes .hostStoreTransportCompletion s fun t => t.cores = s.cores ∧ t.net = s.net) ∧
  (∀ s, (∃ e ∈ (coreAt s (s.arg 0)).record, e.seq = s.arg 1 ∧ e.state = .opened ∧ e.alloc + 100 ≤ s.now) →
    Completes .recordDrainTimer s fun t =>
    ∀ e ∈ (coreAt t (s.arg 0)).record, e.seq ≤ s.arg 1 → e.state = .opened → e.due = true) ∧
  (∀ s e, ((coreAt s (s.arg 0)).record.countP fun e => e.state == .sent) < 8 →
    ((coreAt s (s.arg 0)).record.find? fun e => e.state == .draining) = some e → Completes .drainSend s fun t =>
    (∀ x ∈ (coreAt t (s.arg 0)).record, x.seq = e.seq → x.state = .sent) ∧
    tfind t.net s.ctl.nextId = some (if e.cls = 4 then .hostStore (s.arg 0) { e with state := .sent }
      else .drain (homeSlice s e.line) (s.arg 0) { e with state := .sent } s.now))

/-! ## Gangs, cores and engines -/

/-- Batches, placement and retirement (R85, R103 to R105, R108, R111, R113): a batch of the partition whose turn it is takes a
queue entry of its tract and holds the next batch for 2 ticks; another partition gets none; freed entries and slots become credit;
a gang is placed whole in its window, each member that has not retired in a block slot of its core; a set-up block's strands stand
at the entry; a block that is done leaves its core; a completed launch is reported once and forgotten. The model's choices in it
are those of log 1, 8, of log 61: a completion whose slot is not registered is held with the DT at which it became ready, and of
log 63: a freed entry's report is sent and received in one step with the returns gathered by then, and any placement step scans. -/
def Obligations.GangEvents : Prop :=
  (∀ s key t, nextBatch s (s.arg 0) = some (key, t) → nextServed s = some (s.arg 0) → s.module.dispatchAt ≤ s.now →
    Completes .batchForm s fun u => u.module.lastPart = s.arg 0 ∧
    u.module.dispatchAt = s.now + 2 ∧ (tractAt u t).batchFree = (tractAt s t).batchFree - 1 ∧
    ∃ gs, (tractAt u t).batches = (tractAt s t).batches ++ [{ gangs := gs }] ∧ (tractAt u t).pending = (tractAt s t).pending ++ gs) ∧
  (∀ s, nextServed s ≠ some (s.arg 0) → Completes .batchForm s fun t => t.tracts = s.tracts ∧ t.gangs = s.gangs ∧ t.launches = s.launches) ∧
  (∀ s, (tractAt s (s.arg 0)).freedEntries ≠ 0 → Completes .batchQueueEntryFreed s fun t =>
    let x := tractAt s (s.arg 0)
    (tractAt t (s.arg 0)).batchFree = x.batchFree + x.freedEntries ∧ (tractAt t (s.arg 0)).freedEntries = 0 ∧
    (tractAt t (s.arg 0)).returns = 0 ∧ (tractAt t (s.arg 0)).credit = x.credit + (x.returns - x.owed)) ∧
  (∀ s, (tractAt s (s.arg 0)).returns ≠ 0 →
    (16 ≤ (tractAt s (s.arg 0)).returns ∨ (tractAt s (s.arg 0)).returnsSince + 256 ≤ s.now) → Completes .slotReturnSend s fun t =>
    (tractAt t (s.arg 0)).returns = 0 ∧
    (tractAt t (s.arg 0)).credit = (tractAt s (s.arg 0)).credit + ((tractAt s (s.arg 0)).returns - (tractAt s (s.arg 0)).owed)) ∧
  (∀ s g before f, (∀ g ∈ (tractAt s (s.arg 0)).pending, (gangAt s g).state = .pending →
      ∃ u ∈ (partAt s (gangAt s g).part).tracts, windows s u (gangAt s g).size ≠ []) →
    scan s (s.arg 0) [] (tractAt s (s.arg 0)).pending = some (g, before, f) → (tfind s.gangs g).isSome →
    (tractAt s (s.arg 0)).placeAt ≤ s.now →
    Completes .gangPlacement s fun t =>
    (gangAt t g).state = .placed ∧ (gangAt t g).firstCore = f ∧ g ∉ (tractAt t (s.arg 0)).pending ∧
    ∀ k < (gangAt s g).size, k ∉ (gangAt s g).retiredMembers → ∃ i < 4, ∃ x, tfind s.blocks (4 * (f + k) + i) = none ∧
      tfind t.blocks (4 * (f + k) + i) = some x ∧ x.gang = g ∧ x.grank = k ∧ x.index = (gangAt s g).first + k ∧ x.ready = false) ∧
  (∀ s, let b := 4 * s.arg 0 + s.arg 1
    (tfind s.blocks b).isSome → (blockAt s b).ready = false → setupHeld s b = false → (blockAt s b).fault = none →
    (∀ h ∈ (gangAt s (blockAt s b).gang).shapes, h.index ≠ (blockAt s b).index) → refillPoint (launchOf s (blockAt s b)) = none →
    Completes .blockSetup s fun t =>
    (blockAt t b).ready = true ∧ ∀ k ∈ blockStrands s b,
      let r := (launchOf s (blockAt s b)).record
      (strandAt t k).pc = r.entry ∧ (strandAt t k).cond = .running ∧ (strandAt t k).depth = 0 ∧ (strandAt t k).stack = [] ∧
      (strandAt t k).item = BitVec.ofNat 64 ((blockAt s b).index * r.items.toNat)) ∧
  (∀ s, let b := 4 * s.arg 0 + s.arg 1
    (tfind s.blocks b).isSome → (blockAt s b).ready = true → blockDone s b = true → (∀ c ∈ (coreAt s (b / 4)).queue, c.block ≠ b) →
    (∀ w ∈ (coreAt s (b / 4)).writes, w.1 ≠ b) → listed s b = false → (gangAt s (blockAt s b).gang).state = .placed →
    (∀ h ∈ (gangAt s (blockAt s b).gang).shapes, h.index ≠ (blockAt s b).index) → Completes .blockRetire s fun t =>
    t.blocks = terase s.blocks b ∧ ((tfind s.launches (blockAt s b).launchKey).isSome →
      (launchAt t (blockAt s b).launchKey).retiredBlocks = (launchAt s (blockAt s b).launchKey).retiredBlocks + 1)) ∧
  (∀ s, let key := 2 ^ 32 * s.arg 0 + s.arg 1
    let l := launchAt s key
    (tfind s.launches key).isSome → hostReach s = true → l.ready = none → launchReady s key = true → Completes .launchCompletion s fun t =>
    ((tfind (partAt s l.part).slots (l.record.endpoint.toNat % 16)).isSome →
      t.sent = s.sent ++ [.completion l.part (l.record.endpoint.toNat % 16) l.record.tag l.id (launchStatus l) l.killed l.relaunched s.now] ∧
      t.launches = terase s.launches key) ∧
    (tfind (partAt s l.part).slots (l.record.endpoint.toNat % 16) = none → (launchAt t key).ready = some s.now ∧ t.sent = s.sent))

/-- Kills (R102, R105, R130, R134 to R136, R138, R140): a kill stops every member and unbinds its tiles, and the slots promised to
a gang that is still pending return; at Tk + 1,000 at the latest its members have left their cores and their slots are on their
way back; a gang that may be relaunched is pending again, counted, and takes its place, in ascending block order, among its
launch's relaunched and resumed gangs, which a batch carries before any new one; control state struck by a parity error kills the
owner, of a record entry also a gang that has retired. The model's choices in it are those of log 1, 39, 62. -/
def Obligations.KillEvents : Prop :=
  (∀ s tk, (gangAt s (s.arg 0)).state = .killing tk → Completes .gangKill s fun t =>
    (∀ b ∈ gangBlocks s (s.arg 0), (blockAt t b).stopped = true ∧ (blockAt t b).tiles = []) ∧
    let x := gangAt s (s.arg 0)
    (s.arg 0 ∈ (tractAt s x.tract).pending → SlotsReturn (tractAt s x.tract) (tractAt t x.tract) (liveMembers x) ∧
      s.arg 0 ∉ (tractAt t x.tract).pending)) ∧
  (∀ s tk, (gangAt s (s.arg 0)).state = .killing tk → tk + 1000 ≤ s.now → Completes .killStopDeadline s fun t =>
    (gangAt t (s.arg 0)).state = .killed ∧
    (s.arg 0 ∉ (tractAt s (gangAt s (s.arg 0)).tract).pending → (tkeys s.blocks).Pairwise (· < ·) → GangLeft s t (s.arg 0))) ∧
  (∀ s, (gangAt s (s.arg 0)).state = .killed → (gangAt s (s.arg 0)).final = false → settled s (s.arg 0) = true →
    Completes .gangRelaunch s fun t =>
    (gangAt t (s.arg 0)).state = .pending ∧ (gangAt t (s.arg 0)).relaunches = (gangAt s (s.arg 0)).relaunches + 1 ∧
    ((tfind s.launches (gangAt s (s.arg 0)).launchKey).isSome →
      (∃ before after, (launchAt s (gangAt s (s.arg 0)).launchKey).resumed = before ++ after ∧
        (launchAt t (gangAt s (s.arg 0)).launchKey).resumed = before ++ s.arg 0 :: after ∧
        (∀ h ∈ before, (gangAt s h).first < (gangAt s (s.arg 0)).first) ∧
        ∀ h, after.head? = some h → (gangAt s (s.arg 0)).first ≤ (gangAt s h).first) ∧
      (launchAt t (gangAt s (s.arg 0)).launchKey).relaunched = (launchAt s (gangAt s (s.arg 0)).launchKey).relaunched + 1)) ∧
  (∀ core slot s b, tfind s.blocks (4 * core + slot) = some b → (gangAt s b.gang).state.live = true → (tfind s.gangs b.gang).isSome →
    Completes (.controlParityError core slot none) s fun t =>
    (gangAt t b.gang).state = .killing s.now ∧ (gangAt t b.gang).cause = some .control) ∧
  (∀ core slot seq s e, ((coreAt s core).record.find? fun e => e.seq == seq) = some e → Completes (.controlParityError core slot (some seq)) s
    fun t => (∀ x ∈ (coreAt t core).record, x.seq = seq → x.state = .sent) ∧
      ((gangAt s e.gang).state.live = true ∨ (gangAt s e.gang).state = .retired → (tfind s.gangs e.gang).isSome →
        (gangAt t e.gang).state = .killing s.now))

/-- Issue, grants and barriers (R30, R144, R147, R154, R158, R182, R270, R275, R276): the first slot in rotation whose bundle can
issue leads, while those before it hold theirs, and its strands stand at the bundle's pc, in ascending home lane with no lane
twice (R10, R147); outside the quad's allowance nothing issues; a granted request grows its sheaf; bar, gbar and waitm release
their waiters past the instruction, where no frame of the block is being written, and gbar swaps the banks of the gang's windows.
The model's choices in it are those of log 1, 45, 46. -/
def Obligations.CoreEvents : Prop :=
  (∀ s before slot rest b, let s' := completeTraps (spendCycle (enterCycle s (s.arg 0)) (s.arg 0)) (s.arg 0)
    let u := before.foldl (holdSlot (s.arg 0)) s'
    s.ctl.bundle = none → allowed (enterCycle s (s.arg 0)) (s.arg 0 / 4) = true → s.arg 1 = 0 →
    slotOrder s' (s.arg 0) = before ++ slot :: rest → NoneIssues s' (s.arg 0) before →
    candidate u (64 * s.arg 0 + slot) = some b → (canIssue u b).1 = true → Completes .issueCycle s fun t =>
    (coreAt t (s.arg 0)).rot = slot ∧
    (∀ a x z c, before = a ++ x :: z → candidate (a.foldl (holdSlot (s.arg 0)) s') (64 * s.arg 0 + x) = some c →
      (sheafAt t (64 * s.arg 0 + x)).held = some c) ∧
    ∃ c, t.ctl.bundle = some c ∧ c.core = b.core ∧ c.block = b.block ∧ c.pc = b.pc ∧
      (∀ k ∈ c.strands, k ∈ b.strands ∧ standsIn t c k = true) ∧ c.strands.Nodup ∧ LaneOrder t c.strands ∧
      ((b.strands.map fun k => (strandAt t k).lane).Nodup → ∀ k ∈ b.strands, standsIn t c k = true → k ∈ c.strands)) ∧
  (∀ s, s.ctl.bundle = none → allowed (enterCycle s (s.arg 0)) (s.arg 0 / 4) = false → Completes .issueCycle s fun t =>
    t.ctl.bundle = none ∧ t.strands = s.strands ∧ t.sheaves = s.sheaves) ∧
  (∀ s f rest r, (coreAt s (s.arg 0)).regxQueue = f :: rest → f / 64 = s.arg 0 → (sheafAt s f).regx = some r →
    regxFits s f r.granules = true → Completes .regxGrant s fun t =>
    (sheafAt t f).alloc = (sheafAt s f).alloc + 32 * r.granules ∧ (sheafAt t f).regx = none ∧
    f ∉ (coreAt t (s.arg 0)).regxQueue ∧
    ∀ k ∈ sheafStrands s f, (strandAt s k).cond = .waiting (.regx false) → (strandAt t k).cond = .running) ∧
  (∀ s, let ks := blockStrands s (4 * s.arg 0 + s.arg 1)
    allArrived s .bar ks = true → saving s (4 * s.arg 0 + s.arg 1) = false → ks.Nodup → Completes .barRelease s fun t => Released s t (waitersAt s .bar ks)) ∧
  (∀ s, gbarReady s (s.arg 0) = true → Completes .gbarComplete s fun t =>
    let ws := (gangBlocks s (s.arg 0)).flatMap fun b => waitersAt s .gbar (blockStrands s b)
    (ws.Nodup → Released s t ws) ∧
    ((gangBlocks s (s.arg 0)).Nodup → ∀ b ∈ gangBlocks s (s.arg 0),
      (blockAt t b).bank = if (blockAt s b).xBytes = 0 then (blockAt s b).bank else 1 - (blockAt s b).bank)) ∧
  (∀ s, let f := 64 * s.arg 0 + s.arg 1
    let ws := waitersAt s (.waitm (s.arg 2)) (sheafStrands s f)
    allArrived s (.waitm (s.arg 2)) ((sheafStrands s f).filter fun k => (readM s f (s.arg 2)).getLsbD (k % 64)) = true →
    (∀ k ∈ ws, loading s k = false) → saving s (sheafAt s f).block = false → Completes .waitmRelease s fun t => Released s t ws)

/-- The copy engine and the matrix engine (R160, R166 to R168, R191, R192, R212, R331, R334, R335, R337): a command starts once
every line translates, of which a cpo or cpr keeps where they are, and a cpy asks the homes for its source, of a canonical one for
its header first, which ends it where it does not agree; what has come settles what it writes; then it leaves the queue, a cpy's
image in the scratchpad or the lines of a cpo or cpr in the engine, which sends them one by one, and its tile is Ready; on a fault
the lines before it go, and the tile is Ready, or Empty after a cpy, with F and EC set; a full latch enters the table; the arbiter
grants the entry of the highest priority 256 rows; entries age; a pass delivers its partial products, and ends at K or goes on; a
fault ends the request, after the complete slices before it have been delivered. The model's choices in it are those of log 1, 16,
35, 37, 42. -/
def Obligations.EngineEvents : Prop :=
  (∀ s c rest, (coreAt s (s.arg 0)).queue = c :: rest → c.started = false → c.fault = none → c.awaited = 0 → headerFails s c = false →
    let lines := nextLines s c
    (∀ line ∈ lines, walkHeld s (s.arg 0 / 256) (.engine (s.arg 0)) (copyLaunch s c) (64 * line) = false) →
    copyObstacle s c lines = none →
    Completes .copyCommandStart s fun t =>
    (coreAt t (s.arg 0)).queue =
      { c with started := !headerFirst c, awaited := if c.kind = .cpy then lines.length else 0,
               places := if c.kind = .cpy then c.places else placesOf s c lines } :: rest ∧ (placesOf s c lines).map (·.1) = lines ∧
    (c.kind = .cpy → ∀ line ∈ lines, ∃ n pa leaf, copyTranslate s c line = .ok pa leaf ∧
      tfind t.net n = some (.engineRead (homeSlice s (pa / 64)) (pa / 64) (s.arg 0) c.op line s.now leaf.cls))) ∧
  (∀ s c rest, (coreAt s (s.arg 0)).queue = c :: rest → c.started = false → c.fault = none → c.awaited = 0 → headerFails s c = true →
    (∀ line ∈ nextLines s c, walkHeld s (s.arg 0 / 256) (.engine (s.arg 0)) (copyLaunch s c) (64 * line) = false) →
    Completes .copyCommandStart s fun t =>
    (coreAt t (s.arg 0)).queue = { c with started := true, ec := 3 } :: rest ∧ t.net = s.net) ∧
  (∀ s core op line bytes poison c, arriving s (s.arg 0) = some (.engineData core op line bytes poison) → (coreAt s core).queue = [c] →
    c.op = op → Completes .loadReply s fun t =>
    (coreAt t core).queue = [{ c with lines := c.lines ++ [(line, bytes, poison)], awaited := c.awaited - 1 }]) ∧
  (∀ s c rest, (coreAt s (s.arg 0)).queue = c :: rest → s.arg 1 = 0 → c.started = true → c.ec = 0 → c.awaited = 0 → c.kind = .cpy →
    c.image = [] → c.touched = [] → Completes .copySourceReadDone s fun t =>
    let d := cmdDesc s c
    ∃ h, (coreAt t (s.arg 0)).queue = h :: rest ∧ h.ec = 0 ∧ h.image = setBytes [] (tileOff d) (copyImage c d).1) ∧
  (∀ s c rest tile, (coreAt s (s.arg 0)).queue = c :: rest → s.arg 1 = 0 → c.started = true → c.ec = 0 → c.awaited = 0 →
    (c.kind = .cpy → c.image ≠ []) → tileAt s c.block c.tile = some tile → Completes .copySourceReadDone s fun t =>
    (coreAt t (s.arg 0)).queue = rest ∧ (tileAt t c.block c.tile).map (·.state) = some .ready ∧
    (sheafAt t c.sheaf).copies = (sheafAt s c.sheaf).copies - 1 ∧
    (c.kind = .cpy → (c.image.map (·.1)).Nodup → ∀ p ∈ c.image, (readPad t c.block p.1).1 = p.2) ∧
    (c.kind ≠ .cpy → (coreAt t (s.arg 0)).writes = (coreAt s (s.arg 0)).writes ++
      (outMessages s c (cmdDesc s c)).map fun m => (c.block, c.op, m.1))) ∧
  (∀ s w rest, (coreAt s (s.arg 0)).writes = w :: rest → s.arg 1 ≠ 0 → Completes .copySourceReadDone s fun t =>
    (coreAt t (s.arg 0)).writes = rest ∧ tfind t.net s.ctl.nextId = some (launchWrite s w.2.2)) ∧
  (∀ s c rest tile, (coreAt s (s.arg 0)).queue = c :: rest → c.started = true → c.ec ≠ 0 → c.awaited = 0 →
    tileAt s c.block c.tile = some tile → Completes .copyEngineFault s fun t =>
    (coreAt t (s.arg 0)).queue = rest ∧ (sheafAt t c.sheaf).copies = (sheafAt s c.sheaf).copies - 1 ∧
    (coreAt t (s.arg 0)).writes = (coreAt s (s.arg 0)).writes ++ (outMessages s c (cmdDesc s c)).map (fun m => (c.block, c.op, m.1)) ∧
    ∃ p, tileAt t c.block c.tile = some { tile with state := if c.kind = .cpy then .empty else .ready, f := true, p := p, ec := c.ec }) ∧
  (∀ s l, (quadAt s (s.arg 0)).latches[s.arg 1]? = some l → l.full (s.arg 0) = true → arrivalsAgree l = true →
    (quadAt s (s.arg 0)).table.length < Config.latches → Completes .tableEntry s fun t =>
    (quadAt t (s.arg 0)).latches = (quadAt s (s.arg 0)).latches.erase l ∧
    ∃ e, (quadAt t (s.arg 0)).table = (quadAt s (s.arg 0)).table ++ [e] ∧ e.members = l.arrivals ∧ e.entered = s.now ∧ e.aged = 0) ∧
  (∀ s e, granted s (s.arg 0) = some e → (quadAt s (s.arg 0)).pass = none → allowed s (s.arg 0) = true →
    grantHeld s (s.arg 0) e = false → (e.checked = true ∨ ((translateB s e e.first.b).failure e.first.b = none ∧ mismatchB s e = false)) → Completes .passGrant s fun t =>
    ∃ p, (quadAt t (s.arg 0)).pass = some p ∧ p.entry = e.key ∧ p.row = e.row ∧ p.stop = min (e.row + 256) e.first.k) ∧
  (∀ s e, (quadAt s (s.arg 0)).table[s.arg 1]? = some e → e.granted + 4096 * (e.aged + 1) ≤ s.now → e.aged < 7 →
    Completes .priorityAging s fun t => (quadAt t (s.arg 0)).table[s.arg 1]? = some { e with aged := e.aged + 1 }) ∧
  (∀ s p e, passEntry s (s.arg 0) = some (p, e) → failingRow s e p = none → passHeld s (s.arg 0) e p = false → Completes .passEnd s fun t =>
    (quadAt t (s.arg 0)).pass = none ∧ (p.row < p.stop → Delivers s t e p.grids p.row p.stop) ∧
    (p.stop ≠ e.first.k → { e with row := p.stop } ∈ (quadAt t (s.arg 0)).table) ∧
    (p.stop = e.first.k → ∀ o ∈ (quadAt t (s.arg 0)).table, o.key ≠ e.key)) ∧
  (∀ s p e row why, passEntry s (s.arg 0) = some (p, e) → failingRow s e p = some (row, why) → passHeld s (s.arg 0) e p = false →
    Completes .passFault s fun t =>
    (why.kills = false → p.row < p.row + (row - p.row) / 16 * 16 → Delivers s t e p.grids p.row (p.row + (row - p.row) / 16 * 16)) ∧
    (why.kills = true → t.net = s.net) ∧
    ∀ o ∈ (quadAt t (s.arg 0)).table, o.key ≠ e.key)

/-- Pre-emption (R91, R199, R357, R361, R362): a suspend stops the placed gangs of its launch and waits for them; its response
gives the saved gangs; a resume makes them pending again; a stopped member whose frame is written runs its handler, and a store of
the frame waits while the record is full; a save that misses its deadline kills the gang; where every save has ended the members
leave their cores, and their slots are on their way back. The model's choices in it are those of log 1, 20, 41, 51, and of log 62
that the value of Tk, in the state of a gang that missed its deadline, is the tick of the step. -/
def Obligations.Preemption : Prop :=
  (∀ h id s, let key := 2 ^ 32 * h.endpoint + id.toNat
    Received s h 8 → h.endpoint ≠ 0 → (tfind s.launches key).isSome → (launchAt s key).ready = none → (launchAt s key).aborted = false →
    preemptible (launchAt s key).record = true → (launchAt s key).suspended = false → Completes (.preemptSuspend h id 0) s fun t =>
    (launchAt t key).suspended = true ∧ (partAt t h.endpoint).waiting = (partAt s h.endpoint).waiting ++ [waitingOf h 3 id.toNat none] ∧
    ∀ g ∈ launchGangs s key, (gangAt s g).state = .placed → (gangAt t g).state = .stopping s.now) ∧
  (∀ s w, (partAt s (s.arg 0)).waiting = [w] → w.opcode = 3 → w.target = s.arg 1 → w.resume = false → w.ready = none →
    hostReach s = true → gangsSettled s (2 ^ 32 * s.arg 0 + s.arg 1) = true → Completes .preemptSuspendResponse s fun t =>
    t.sent = s.sent ++ [responseOf w.h 3 .ok (BitVec.ofNat 64 (savedGangs s (2 ^ 32 * s.arg 0 + s.arg 1))) []] ∧
    (partAt t (s.arg 0)).waiting = []) ∧
  (∀ h id s, let key := 2 ^ 32 * h.endpoint + id.toNat
    Received s h 8 → h.endpoint ≠ 0 → (tfind s.launches key).isSome → (launchAt s key).ready = none →
    (launchAt s key).suspended = true → (launchAt s key).resuming = false → suspending s h.endpoint id.toNat = false →
    Completes (.preemptResume h id 0) s fun t =>
    Answered s t h 3 .ok (BitVec.ofNat 64 (savedGangs s key)) [] ∧ (launchAt t key).suspended = false ∧
    ∀ g ∈ launchGangs s key, (gangAt s g).state = .saved → (gangAt t g).state = .pending) ∧
  (∀ s, let b := 4 * s.arg 0 + s.arg 1
    let u := leaveEngine s b
    let v := storeFrame b ((frameGranules u b).drop (blockAt u b).framed) (if (blockAt u b).framed = 0 then startFrame u b else u)
    (tfind s.blocks b).isSome → stopReady u b = true → tilesQuiet u b = true → (blockAt u b).fault = none → (frameGranules u b).length ≤ (blockAt v b).framed →
    stopping v (blockAt v b).gang = true → Completes .preemptStop s fun t =>
    ∀ f ∈ blockSheaves s b, (tfind s.sheaves f).isSome → ∀ k ∈ sheafStrands s f, (strandAt s k).cond ≠ .done →
      (sheafAt t f).phase = .handler ∧ (strandAt t k).cond = .running ∧
      (strandAt t k).pc = (launchOf s (blockAt s b)).record.codeBase + (launchOf s (blockAt s b)).record.handler.setWidth 64) ∧
  (∀ s g rest pa leaf, let b := 4 * s.arg 0 + s.arg 1
    let u := leaveEngine s b
    let v := if (blockAt u b).framed = 0 then startFrame u b else u
    (tfind s.blocks b).isSome → stopReady u b = true → tilesQuiet u b = true → (blockAt u b).fault = none →
    (frameGranules u b).drop (blockAt u b).framed = g :: rest →
    walkHeld v (b / 1024) (.strands (b / 4)) (launchOf v (blockAt v b)) g.1 = false →
    translateFrame v (.strands (b / 4)) (launchOf v (blockAt v b)) g.1 .write = .ok pa leaf → recordFull v b (pa / 64) = true →
    Completes .preemptStop s fun t => (blockAt t b).framed = (blockAt u b).framed ∧ t.mem = s.mem ∧
      ∀ f, (sheafAt t f).phase = (sheafAt s f).phase) ∧
  (∀ s tp, (gangAt s (s.arg 0)).state = .stopping tp → tp + 100000 ≤ s.now → gangEnded s (s.arg 0) = false →
    gangBlocks s (s.arg 0) ≠ [] → Completes .preemptDeadline s fun t =>
    (gangAt t (s.arg 0)).state = .killing s.now ∧ (gangAt t (s.arg 0)).cause = some .deadline) ∧
  (∀ s tp, (gangAt s (s.arg 0)).state = .stopping tp → gangBlocks s (s.arg 0) ≠ [] → gangEnded s (s.arg 0) = true →
    gangQuiet s (s.arg 0) = true → Completes .preemptionComplete s fun t =>
    (gangAt t (s.arg 0)).state = .saved ∧ ((tkeys s.blocks).Pairwise (· < ·) → GangLeft s t (s.arg 0)))

/-! ## The host -/

/-- RMA (R75, R133): a write of one line reaches its home at once or in a step of its own, and its completion is sent once its
lines are visible; a read gives the bytes at the homes, or an error where a line is poisoned; a transport atomic updates its
location and takes its old value; a range outside the partition's memory receives an error. The model's choices in it are those
of log 1, 25, 47. -/
def Obligations.RemoteMemory : Prop :=
  (∀ part pa data tag line s, s.mem.wf = true → rmaOpen s part = true → rmaLegal s part pa data.length = true →
    linesOf pa data.length = [line] → s.arg 0 ≠ 1 → (∀ p ∈ s.module.links, p.2.state ≠ .down) → homeBusy s line = false → lineLost s line = false →
    Completes (.rmaWrite part pa data tag) s fun t =>
    (∀ i v, data[i]? = some v → memRead t.mem (pa + i) = v) ∧
    ∀ a, a < pa ∨ pa + data.length ≤ a → memRead t.mem a = memRead s.mem a) ∧
  (∀ part pa data tag line s, rmaOpen s part = true → rmaLegal s part pa data.length = true → linesOf pa data.length = [line] →
    s.arg 0 = 1 → Completes (.rmaWrite part pa data tag) s fun t => t.mem = s.mem ∧
    tfind t.net s.ctl.nextId = some (.rmaWrite (homeSlice s line) line (lineData pa data line) tag s.now)) ∧
  (∀ part pa data tag s, rmaOpen s part = true → rmaLegal s part pa data.length = false → Completes (.rmaWrite part pa data tag) s fun t =>
    t.sent = s.sent ++ [.rmaDone tag false []] ∧ t.mem = s.mem) ∧
  (∀ tag s r, (s.module.rma.find? fun r => r.tag == tag && r.lines == 0 && decide (r.horizon ≤ s.now)) = some r → hostReach s = true →
    Completes (.rmaWriteCompletion tag) s fun t => t.sent = s.sent ++ [rmaAnswer r] ∧ t.module.rma = s.module.rma.erase r) ∧
  (∀ part pa len tag s, rmaOpen s part = true → rmaLegal s part pa len = true → s.arg 0 ≠ 1 → (∀ p ∈ s.module.links, p.2.state ≠ .down) →
    (∀ line ∈ linesOf pa len, homeBusy s line = false) → (∀ r ∈ s.module.rma, r.tag ≠ tag) → Completes (.rmaRead part pa len tag) s fun t =>
    t.sent = s.sent ++ [if ∃ line ∈ linesOf pa len, lineBad s line = true then .rmaDone tag false []
      else .rmaDone tag true ((List.range len).map fun i => memRead s.mem (pa + i))]) ∧
  (∀ part pa len tag s, rmaOpen s part = true → rmaLegal s part pa len = false → Completes (.rmaRead part pa len tag) s fun t =>
    t.sent = s.sent ++ [.rmaDone tag false []]) ∧
  (∀ part pa op ty value expected tag s, s.mem.wf = true → s.arg 0 ≠ 1 → (∀ p ∈ s.module.links, p.2.state ≠ .down) → rmaOpen s part = true → rmaLegal s part pa (tyWidth ty / 8) = true →
    tyWidth ty / 8 ≠ 0 → pa % (tyWidth ty / 8) = 0 → homeBusy s (pa / 64) = false → lineLost s (pa / 64) = false →
    Completes (.transportAtomic part pa op ty value expected tag) s fun t => Updates s t ⟨0, pa, op, ty, value, expected, false⟩ ∧
      ∃ r ∈ t.module.rma, r.tag = tag ∧
        r.data = leBytes (tyWidth ty / 8) (leNat ((List.range (tyWidth ty / 8)).map fun i => memRead s.mem (pa + i))))

/-- Commands (R79 to R84, R89, R90, R97, R98): a header's 32 bytes and a launch record's 128 are read as they are laid out; an
opcode that does not exist is MALFORMED; a launch is queued under the next identifier of its partition; an abort kills its
gangs; a SHOOT empties the TLBs, and the copy engines', of its range and waits; its response follows; an event slot is set; a
request is attested; a chunk of firmware is kept, and the last one is verified. The model's choices in it are those of log 1, 3,
12, 24, 49, 61, and of log 62 that the value of Tk, in the state of a gang that an abort kills, is the tick of the step. -/
def Obligations.Commands : Prop :=
  (∀ r, recordOfBytes (recordBytes r) = r ∧ (recordBytes r).length = 128) ∧
  (∀ h opcode, headerOfBytes h.src h.endpoint (headerBytesOf opcode h) = h ∧ (headerBytesOf opcode h).length = 32) ∧
  (∀ h opcode s, received s h = true → (h.endpoint ≠ 0 → (partAt s h.endpoint).waiting.length < 64) →
    Completes (.unknownOpcode h opcode) s fun t => Answered s t h opcode.toNat .malformed 0 []) ∧
  (∀ h r s root lease, Received s h 128 → h.endpoint ≠ 0 → recordLegal r = true → contextUnreadable s h.endpoint r.ctx.toNat = none →
    contextOf s h.endpoint r.ctx.toNat = some (root, lease) → launchHeld s h.endpoint r = false →
    tailOutside s h.endpoint root r = false →
    ((partAt s h.endpoint).signedCode = true → codeSigned s h.endpoint r = true) → (partLaunches s h.endpoint).length < 256 →
    Completes (.launch h r) s fun t =>
    let id := (partAt s h.endpoint).nextLaunch
    let l := launchAt t (2 ^ 32 * h.endpoint + id)
    Answered s t h 1 .ok (BitVec.ofNat 64 id) [] ∧ (partAt t h.endpoint).nextLaunch = id + 1 ∧
    l.part = h.endpoint ∧ l.id = id ∧ l.record = r ∧ l.root = root ∧ l.lease = lease ∧ l.nextBlock = 0 ∧ l.ready = none) ∧
  (∀ h id s, let key := 2 ^ 32 * h.endpoint + id.toNat
    Received s h 8 → h.endpoint ≠ 0 → (tfind s.launches key).isSome → (launchAt s key).ready = none → (launchAt s key).aborted = false →
    Completes (.abort h id 0) s fun t =>
    Answered s t h 2 .ok 0 [] ∧ (launchAt t key).aborted = true ∧
    ∀ g ∈ launchGangs s key, (gangAt s g).state.live = true → (gangAt t g).state = .killing s.now) ∧
  (∀ h ctx count va s, Received s h 16 → h.endpoint ≠ 0 → ctx.toNat < 64 → va.toNat % 65536 = 0 → va.toNat < 2 ^ 52 →
    ctx.toNat < (partAt s h.endpoint).ctxCount → Completes (.shoot h ctx count va) s fun t =>
    (∃ w, (partAt t h.endpoint).waiting = (partAt s h.endpoint).waiting ++ [w] ∧ w.opcode = 4 ∧ w.h = h ∧ w.ready = none) ∧
    ∀ c, (∀ e ∈ (coreAt t c).tlb, ¬ (e.part = h.endpoint ∧ e.ctx = ctx.toNat ∧ overlaps va.toNat count.toNat e = true)) ∧
      (∀ e ∈ (coreAt t c).engineTlb, ¬ (e.part = h.endpoint ∧ e.ctx = ctx.toNat ∧ overlaps va.toNat count.toNat e = true)) ∧
      ∀ e ∈ (quadAt t c).tlb, ¬ (e.part = h.endpoint ∧ e.ctx = ctx.toNat ∧ overlaps va.toNat count.toNat e = true)) ∧
  (∀ part seq s w, (partAt s part).waiting = [w] → w.opcode = 4 → w.h.seq = seq → w.ready = none → shootReady s w = true →
    hostReach s = true → Completes (.shootResponse part seq) s fun t =>
    t.sent = s.sent ++ [responseOf w.h 4 .ok (BitVec.ofNat 64 w.count) []]) ∧
  (∀ h x s, Received s h 32 → x.slot.toNat < 16 → x.job.toNat < 2 ^ 24 → x.pid.toNat < 2 ^ 12 → x.index.toNat < 2 ^ 12 →
    Completes (.eventcfg h 0 x) s fun t =>
    let old := if h.endpoint = 0 then s.module.mgmtSlots else (partAt s h.endpoint).slots
    (if h.endpoint = 0 then t.module.mgmtSlots else (partAt t h.endpoint).slots) =
      if x.addr = 0 then terase old x.slot.toNat
      else tset old x.slot.toNat
        { mask := x.mask, addr := x.addr, job := x.job.setWidth 24, pid := x.pid.setWidth 12, index := x.index.setWidth 12 }) ∧
  (∀ h request s, Received s h request.length → request ≠ [] → Completes (.attest h request) s fun t => ∃ r, Answered s t h 9 .ok
    (BitVec.ofNat 64 r.length) r) ∧
  (∀ h x s, Received s h (16 + x.data.length) → h.endpoint = 0 → x.rsv = 0 → x.flags = 0 → x.length.toNat = x.data.length →
    (s.module.fwOpen = none ∧ x.offset = 0 ∨ s.module.fwOpen = some (h.src, x.offset.toNat)) → Completes (.fwload h x) s fun t =>
    let image := (if s.module.fwOpen.isSome then idleImage s.module else []) ++ x.data
    Answered s t h 10 .ok 0 [] ∧ idleImage t.module = image ∧ t.module.fwOpen = some (h.src, image.length) ∧
    t.module.running = s.module.running) ∧
  (∀ h x s, Received s h (16 + x.data.length) → h.endpoint = 0 → x.rsv = 0 → x.flags.toNat < 2 → x.length.toNat = x.data.length →
    (s.module.fwOpen = none ∧ x.offset = 0 ∨ s.module.fwOpen = some (h.src, x.offset.toNat)) → Completes (.fwloadFinal h x) s fun t =>
    let image := (if s.module.fwOpen.isSome then idleImage s.module else []) ++ x.data
    Answered s t h 10 (if imageOk image then .ok else .badSig) 0 [] ∧ idleImage t.module = image ∧
    t.module.fwOpen = none ∧
    (if t.module.running = 0 then t.module.slotB else t.module.slotA).valid = imageOk image)

/-- RESET (R22, R92): of a partition, its launches, blocks and faults are gone, and its memory is 0 where asked; of a copy
engine, its queue is empty; of a matrix engine, its latches and table; of a link, it is Down until trained. The model's choices
in it are those of log 1, 47, and of log 62 that the value of Tk, in the state of a gang that is killed, is the tick of the step. -/
def Obligations.Resets : Prop :=
  (∀ h flags index s, Received s h 8 → flags.toNat < 2 → let p := resetTarget h index.toNat
    (h.endpoint ≠ 0 → p = h.endpoint) → (tfind s.parts p).isSome → Completes (.resetPartition h flags 0 index) s fun t =>
    (∀ e ∈ t.launches, e.1 / 2 ^ 32 ≠ p) ∧ (partAt t p).faults = [] ∧ (partAt t p).nextLaunch = 1 ∧
    (∀ u ∈ (partAt s p).tracts, ∀ e ∈ t.blocks, e.1 / 512 ≠ u) ∧
    (flags.getLsbD 0 = true → ∀ u ∈ (partAt s p).tracts, ∀ a, Config.tractWindow * u ≤ a → a < Config.tractWindow * u + Config.tractBytes →
      memRead t.mem a = 0)) ∧
  (∀ h index s, Received s h 8 → index.toNat < 2048 → (h.endpoint ≠ 0 → (tractAt s (index.toNat / 128)).owner = h.endpoint) →
    Completes (.resetCopyEngine h 0 0 index) s fun t =>
    Answered s t h 5 .ok 0 [] ∧ (coreAt t index.toNat).queue = [] ∧
    ∀ c ∈ (coreAt s index.toNat).queue, let g := (blockAt s c.block).gang
      (gangAt s g).state.live = true → (tfind s.gangs g).isSome → (gangAt t g).state = .killing s.now) ∧
  (∀ h index s, Received s h 8 → index.toNat < 512 → (h.endpoint ≠ 0 → (tractAt s (index.toNat / 32)).owner = h.endpoint) →
    Completes (.resetMatrixEngine h 0 0 index) s fun t =>
    Answered s t h 5 .ok 0 [] ∧ (quadAt t index.toNat).latches = [] ∧ (quadAt t index.toNat).table = []) ∧
  (∀ h index s, Received s h 8 → h.endpoint = 0 → index.toNat < 14 → Completes (.resetLink h 0 0 index) s fun t =>
    linkState t index.toNat = .down)

/-- QUERY (R99, R100): each subject is answered with its fields, little-endian, and their length: the module; a partition, to
itself; a tract, to its owner; a link; a port; a launch, to its partition; a RAS entry, to the owner of its tract. The model's
choices in it are those of log 1, 2, 3, 5, 49. -/
def Obligations.Queries : Prop :=
  (∀ h index s, Received s h 8 → Completes (.queryModule h 0 index) s fun t => Answered s t h 6 .ok 64 (fields (moduleFields s))) ∧
  (∀ h index s, Received s h 8 → (h.endpoint ≠ 0 → index.toNat = h.endpoint) → (tfind s.parts index.toNat).isSome →
    Completes (.queryPartition h 0 index) s fun t => Answered s t h 6 .ok 40 (fields (partFields s index.toNat))) ∧
  (∀ h index s, Received s h 8 → index.toNat < 16 → (h.endpoint ≠ 0 → index.toNat ∈ (partAt s h.endpoint).tracts) →
    Completes (.queryTract h 0 index) s fun t => Answered s t h 6 .ok 56 (fields (tractFields s index.toNat))) ∧
  (∀ h index s, Received s h 8 → index.toNat < 14 →
    Completes (.queryLink h 0 index) s fun t => Answered s t h 6 .ok 24 (fields (linkFields s index.toNat))) ∧
  (∀ h index s io, Received s h 8 → (index.toNat, io) ∈ portList s →
    Completes (.queryPort h 0 index) s fun t =>
      let before := tget s.module.ports index.toNat Port.reset
      let after := tget t.module.ports index.toNat Port.reset
      ∃ x : Port, Answered s t h 6 .ok 32 (fields (portFields s index.toNat x)) ∧ x.state = after.state ∧
        (x.state = .up ↔ before.state = .up) ∧ before.sent.toNat ≤ x.sent.toNat ∧ x.sent.toNat ≤ after.sent.toNat ∧
        before.received.toNat ≤ x.received.toNat ∧ x.received.toNat ≤ after.received.toNat) ∧
  (∀ h index s, Received s h 8 → h.endpoint ≠ 0 → (tfind s.launches (2 ^ 32 * h.endpoint + index.toNat)).isSome →
    Completes (.queryLaunch h 0 index) s fun t => Answered s t h 6 .ok 32 (fields (launchFields s (2 ^ 32 * h.endpoint + index.toNat)))) ∧
  (∀ h index s e, Received s h 8 → s.module.ras[index.toNat]? = some e → (h.endpoint ≠ 0 → e.tract ∈ (partAt s h.endpoint).tracts) →
    Completes (.queryRasLog h 0 index) s fun t => Answered s t h 6 .ok 40 (fields (rasFields e)))

/-- QOS (R70, R77, R93 to R96): tracts are assigned with full credit and zeroed memory; shares, channel weights, way masks and
allowances, the context table, signed regions and keys are set; a released partition is gone. The model's choices in it are
those of log 1, 12, 24, 47, and of log 61 that CODE takes a context entry also where its line is poisoned or fenced. -/
def Obligations.QualityOfService : Prop :=
  (∀ h x s, Received s h 161 → h.endpoint = 0 → assignBad x = false → (partAt s x.part.toNat).tracts = [] →
    ((tfind s.parts x.part.toNat).isSome → idlePart s x.part.toNat = true) →
    (∀ u ∈ tractsOf x.tracts.toNat, (tractAt s u).owner = 0 ∨ (tractAt s u).owner = x.part.toNat) → Completes (.qosAssign h 0 x) s fun t =>
    Answered s t h 7 .ok 0 [] ∧ (partAt t x.part.toNat).tracts = tractsOf x.tracts.toNat ∧ (partAt t x.part.toNat).ways = x.ways.toNat ∧
    ∀ u ∈ tractsOf x.tracts.toNat, (tractAt t u).owner = x.part.toNat ∧ (tractAt t u).credit = 4 * liveCores s u ∧ (tractAt t u).owed = 0 ∧
      (tractAt t u).batchFree = 8 ∧
      ∀ a, Config.tractWindow * u ≤ a → a < Config.tractWindow * u + Config.tractBytes → memRead t.mem a = 0) ∧
  (∀ h part weight s, Received s h 10 → h.endpoint = 0 → partBad part = false → weight ≠ 0 → (tfind s.parts part.toNat).isSome →
    Completes (.qosShare h 0 part weight) s fun t =>
    Answered s t h 7 .ok 0 [] ∧ partAt t part.toNat = { partAt s part.toNat with share := weight.toNat }) ∧
  (∀ h part weight s, Received s h 10 → h.endpoint = 0 → partBad part = false → weight ≠ 0 → weight.toNat ≤ 15 →
    (tfind s.parts part.toNat).isSome → Completes (.qosChannel h 0 part weight) s fun t =>
    Answered s t h 7 .ok 0 [] ∧ partAt t part.toNat = { partAt s part.toNat with channel := weight.toNat }) ∧
  (∀ h ctx mask allow s, Received s h 12 → h.endpoint ≠ 0 → ctx.toNat < 64 →
    mask.toNat &&& cacheMask (partAt s h.endpoint).ways = mask.toNat → allow.toNat ≤ (partAt s h.endpoint).ways →
    Completes (.qosWays h 0 ctx mask allow) s fun t =>
    Answered s t h 7 .ok 0 [] ∧ tfind (partAt t h.endpoint).masks ctx.toNat = some mask.toNat ∧
    tfind (partAt t h.endpoint).allowances ctx.toNat = some allow.toNat) ∧
  (∀ h base count s, Received s h 17 → h.endpoint ≠ 0 → base.toNat % 32 = 0 → count ≠ 0 → count.toNat ≤ 64 →
    ownPa s h.endpoint base.toNat = true → ownPa s h.endpoint (base.toNat + 32 * count.toNat - 1) = true →
    Completes (.qosCtxtable h 0 base count) s fun t =>
    Answered s t h 7 .ok 0 [] ∧ (partAt t h.endpoint).ctxBase = base.toNat ∧ (partAt t h.endpoint).ctxCount = count.toNat) ∧
  (∀ h ctx va s root lease, Received s h 17 → h.endpoint ≠ 0 → ctx.toNat < 64 → va.toNat % 8 = 0 →
    contextOf s h.endpoint ctx.toNat = some (root, lease) → contextHeld s h.endpoint ctx.toNat = false →
    let found := (checkCode s h.endpoint ctx.toNat root va.toNat).2
    found ≠ .held → Completes (.qosCode h 0 ctx va) s fun t =>
    Answered s t h 7 (if found.regions = [] then .badSig else .ok) 0 [] ∧
    (partAt t h.endpoint).regions = (partAt s h.endpoint).regions ++ found.regions) ∧
  (∀ h part s, Received s h 9 → h.endpoint = 0 → partBad part = false → (tfind s.parts part.toNat).isSome → idlePart s part.toNat = true →
    Completes (.qosRelease h 0 part) s fun t =>
    t.parts = terase s.parts part.toNat ∧ ∀ u ∈ (partAt s part.toNat).tracts, (tractAt t u).owner = 0) ∧
  (∀ h key s, Received s h 40 → h.endpoint = 0 → key ≠ 0 → Completes (.qosMgmtkey h 0 key) s fun t =>
    Answered s t h 7 .ok 0 [] ∧ t.module.mgmtKey = key) ∧
  (∀ h part key s, Received s h 41 → h.endpoint = 0 → partBad part = false → key ≠ 0 → (tfind s.parts part.toNat).isSome →
    Completes (.qosPkey h 0 part key) s fun t =>
    Answered s t h 7 .ok 0 [] ∧ partAt t part.toNat = { partAt s part.toNat with key := key })

/-- Writes of special registers as steps of their own (R162, R351 to R353): %rlim takes 1 to 48; %einj is disarmed, or armed
with a pair that has an effect; any other register takes the value under its rule. The model's choices in it are those of log 1.
-/
def Obligations.SpecialWriteEvents : Prop :=
  (∀ core slot v s, (tfind s.blocks (4 * core + slot)).isSome → Completes (.rlimWrite core slot v) s fun t =>
    (blockAt t (4 * core + slot)).rlim = if 1 ≤ v.toNat ∧ v.toNat ≤ 48 then v.toNat else (blockAt s (4 * core + slot)).rlim) ∧
  (∀ core slot unit s, (tfind s.blocks (4 * core + slot)).isSome → Completes (.einjDisarm core slot unit) s fun t =>
    (blockAt t (4 * core + slot)).armed = none ∧ (blockAt t (4 * core + slot)).einj = unit.setWidth 32) ∧
  (∀ core slot unit s, (tfind s.blocks (4 * core + slot)).isSome → unit.toNat ≤ 6 → Completes (.einjArmCorrected core slot unit) s fun t =>
    (blockAt t (4 * core + slot)).armed = some (1, unit.toNat)) ∧
  (∀ core slot unit s, (tfind s.blocks (4 * core + slot)).isSome → unit.toNat ≤ 6 → Completes (.einjArmUncorrected core slot unit) s fun t =>
    (blockAt t (4 * core + slot)).armed = some (2, unit.toNat)) ∧
  (∀ core slot s, (tfind s.blocks (4 * core + slot)).isSome → Completes (.einjArmControl core slot 4) s fun t =>
    (blockAt t (4 * core + slot)).armed = some (3, 4)) ∧
  (∀ k index v s, (tfind s.strands k).isSome → (tfind s.blocks (blockOf s k)).isSome → Completes (.specialRegisterWrite k index v) s fun t =>
    readSpecial t k index = specialAfter index (readSpecial s k index) v.toNat ∧
    ∀ j, j ≠ k → (strandAt t j).csp = (strandAt s j).csp ∧ (strandAt t j).fstat = (strandAt s j).fstat ∧
      (strandAt t j).fmask = (strandAt s j).fmask)

end SliceZero
end

