-- ==== Sys2Proof/Laws/State.lean ====
section
/-! SUPPORT. One lemma per field of State per update, so that no proof unfolds a record update; and what one lookup reads after
an update of another table. -/

namespace Sys2Proof.Laws
open Sys2Proof.Machine

/-! ## modStrand -/

@[simp] theorem modStrand_ctl (s : State) (k : Nat) (f : Strand → Strand) : (modStrand s k f).ctl = s.ctl := rfl
@[simp] theorem modStrand_now (s : State) (k : Nat) (f : Strand → Strand) : (modStrand s k f).now = s.now := rfl
@[simp] theorem modStrand_mem (s : State) (k : Nat) (f : Strand → Strand) : (modStrand s k f).mem = s.mem := rfl
@[simp] theorem modStrand_parity (s : State) (k : Nat) (f : Strand → Strand) : (modStrand s k f).parity = s.parity := rfl
@[simp] theorem modStrand_badLines (s : State) (k : Nat) (f : Strand → Strand) : (modStrand s k f).badLines = s.badLines := rfl
@[simp] theorem modStrand_strands (s : State) (k : Nat) (f : Strand → Strand) : (modStrand s k f).strands = tmod s.strands k f := rfl
@[simp] theorem modStrand_sheaves (s : State) (k : Nat) (f : Strand → Strand) : (modStrand s k f).sheaves = s.sheaves := rfl
@[simp] theorem modStrand_blocks (s : State) (k : Nat) (f : Strand → Strand) : (modStrand s k f).blocks = s.blocks := rfl
@[simp] theorem modStrand_cores (s : State) (k : Nat) (f : Strand → Strand) : (modStrand s k f).cores = s.cores := rfl
@[simp] theorem modStrand_gangs (s : State) (k : Nat) (f : Strand → Strand) : (modStrand s k f).gangs = s.gangs := rfl
@[simp] theorem modStrand_launches (s : State) (k : Nat) (f : Strand → Strand) : (modStrand s k f).launches = s.launches := rfl
@[simp] theorem modStrand_parts (s : State) (k : Nat) (f : Strand → Strand) : (modStrand s k f).parts = s.parts := rfl
@[simp] theorem modStrand_tracts (s : State) (k : Nat) (f : Strand → Strand) : (modStrand s k f).tracts = s.tracts := rfl
@[simp] theorem modStrand_quads (s : State) (k : Nat) (f : Strand → Strand) : (modStrand s k f).quads = s.quads := rfl
@[simp] theorem modStrand_dies (s : State) (k : Nat) (f : Strand → Strand) : (modStrand s k f).dies = s.dies := rfl
@[simp] theorem modStrand_homes (s : State) (k : Nat) (f : Strand → Strand) : (modStrand s k f).homes = s.homes := rfl
@[simp] theorem modStrand_net (s : State) (k : Nat) (f : Strand → Strand) : (modStrand s k f).net = s.net := rfl
@[simp] theorem modStrand_origins (s : State) (k : Nat) (f : Strand → Strand) : (modStrand s k f).origins = s.origins := rfl
@[simp] theorem modStrand_module (s : State) (k : Nat) (f : Strand → Strand) : (modStrand s k f).module = s.module := rfl
@[simp] theorem modStrand_sent (s : State) (k : Nat) (f : Strand → Strand) : (modStrand s k f).sent = s.sent := rfl

/-! ## modSheaf -/

@[simp] theorem modSheaf_ctl (s : State) (k : Nat) (f : Sheaf → Sheaf) : (modSheaf s k f).ctl = s.ctl := rfl
@[simp] theorem modSheaf_now (s : State) (k : Nat) (f : Sheaf → Sheaf) : (modSheaf s k f).now = s.now := rfl
@[simp] theorem modSheaf_mem (s : State) (k : Nat) (f : Sheaf → Sheaf) : (modSheaf s k f).mem = s.mem := rfl
@[simp] theorem modSheaf_parity (s : State) (k : Nat) (f : Sheaf → Sheaf) : (modSheaf s k f).parity = s.parity := rfl
@[simp] theorem modSheaf_badLines (s : State) (k : Nat) (f : Sheaf → Sheaf) : (modSheaf s k f).badLines = s.badLines := rfl
@[simp] theorem modSheaf_strands (s : State) (k : Nat) (f : Sheaf → Sheaf) : (modSheaf s k f).strands = s.strands := rfl
@[simp] theorem modSheaf_sheaves (s : State) (k : Nat) (f : Sheaf → Sheaf) : (modSheaf s k f).sheaves = tmod s.sheaves k f := rfl
@[simp] theorem modSheaf_blocks (s : State) (k : Nat) (f : Sheaf → Sheaf) : (modSheaf s k f).blocks = s.blocks := rfl
@[simp] theorem modSheaf_cores (s : State) (k : Nat) (f : Sheaf → Sheaf) : (modSheaf s k f).cores = s.cores := rfl
@[simp] theorem modSheaf_gangs (s : State) (k : Nat) (f : Sheaf → Sheaf) : (modSheaf s k f).gangs = s.gangs := rfl
@[simp] theorem modSheaf_launches (s : State) (k : Nat) (f : Sheaf → Sheaf) : (modSheaf s k f).launches = s.launches := rfl
@[simp] theorem modSheaf_parts (s : State) (k : Nat) (f : Sheaf → Sheaf) : (modSheaf s k f).parts = s.parts := rfl
@[simp] theorem modSheaf_tracts (s : State) (k : Nat) (f : Sheaf → Sheaf) : (modSheaf s k f).tracts = s.tracts := rfl
@[simp] theorem modSheaf_quads (s : State) (k : Nat) (f : Sheaf → Sheaf) : (modSheaf s k f).quads = s.quads := rfl
@[simp] theorem modSheaf_dies (s : State) (k : Nat) (f : Sheaf → Sheaf) : (modSheaf s k f).dies = s.dies := rfl
@[simp] theorem modSheaf_homes (s : State) (k : Nat) (f : Sheaf → Sheaf) : (modSheaf s k f).homes = s.homes := rfl
@[simp] theorem modSheaf_net (s : State) (k : Nat) (f : Sheaf → Sheaf) : (modSheaf s k f).net = s.net := rfl
@[simp] theorem modSheaf_origins (s : State) (k : Nat) (f : Sheaf → Sheaf) : (modSheaf s k f).origins = s.origins := rfl
@[simp] theorem modSheaf_module (s : State) (k : Nat) (f : Sheaf → Sheaf) : (modSheaf s k f).module = s.module := rfl
@[simp] theorem modSheaf_sent (s : State) (k : Nat) (f : Sheaf → Sheaf) : (modSheaf s k f).sent = s.sent := rfl

/-! ## modBlock -/

@[simp] theorem modBlock_ctl (s : State) (k : Nat) (f : Block → Block) : (modBlock s k f).ctl = s.ctl := rfl
@[simp] theorem modBlock_now (s : State) (k : Nat) (f : Block → Block) : (modBlock s k f).now = s.now := rfl
@[simp] theorem modBlock_mem (s : State) (k : Nat) (f : Block → Block) : (modBlock s k f).mem = s.mem := rfl
@[simp] theorem modBlock_parity (s : State) (k : Nat) (f : Block → Block) : (modBlock s k f).parity = s.parity := rfl
@[simp] theorem modBlock_badLines (s : State) (k : Nat) (f : Block → Block) : (modBlock s k f).badLines = s.badLines := rfl
@[simp] theorem modBlock_strands (s : State) (k : Nat) (f : Block → Block) : (modBlock s k f).strands = s.strands := rfl
@[simp] theorem modBlock_sheaves (s : State) (k : Nat) (f : Block → Block) : (modBlock s k f).sheaves = s.sheaves := rfl
@[simp] theorem modBlock_blocks (s : State) (k : Nat) (f : Block → Block) : (modBlock s k f).blocks = tmod s.blocks k f := rfl
@[simp] theorem modBlock_cores (s : State) (k : Nat) (f : Block → Block) : (modBlock s k f).cores = s.cores := rfl
@[simp] theorem modBlock_gangs (s : State) (k : Nat) (f : Block → Block) : (modBlock s k f).gangs = s.gangs := rfl
@[simp] theorem modBlock_launches (s : State) (k : Nat) (f : Block → Block) : (modBlock s k f).launches = s.launches := rfl
@[simp] theorem modBlock_parts (s : State) (k : Nat) (f : Block → Block) : (modBlock s k f).parts = s.parts := rfl
@[simp] theorem modBlock_tracts (s : State) (k : Nat) (f : Block → Block) : (modBlock s k f).tracts = s.tracts := rfl
@[simp] theorem modBlock_quads (s : State) (k : Nat) (f : Block → Block) : (modBlock s k f).quads = s.quads := rfl
@[simp] theorem modBlock_dies (s : State) (k : Nat) (f : Block → Block) : (modBlock s k f).dies = s.dies := rfl
@[simp] theorem modBlock_homes (s : State) (k : Nat) (f : Block → Block) : (modBlock s k f).homes = s.homes := rfl
@[simp] theorem modBlock_net (s : State) (k : Nat) (f : Block → Block) : (modBlock s k f).net = s.net := rfl
@[simp] theorem modBlock_origins (s : State) (k : Nat) (f : Block → Block) : (modBlock s k f).origins = s.origins := rfl
@[simp] theorem modBlock_module (s : State) (k : Nat) (f : Block → Block) : (modBlock s k f).module = s.module := rfl
@[simp] theorem modBlock_sent (s : State) (k : Nat) (f : Block → Block) : (modBlock s k f).sent = s.sent := rfl

/-! ## modCore -/

@[simp] theorem modCore_ctl (s : State) (k : Nat) (f : Core → Core) : (modCore s k f).ctl = s.ctl := rfl
@[simp] theorem modCore_now (s : State) (k : Nat) (f : Core → Core) : (modCore s k f).now = s.now := rfl
@[simp] theorem modCore_mem (s : State) (k : Nat) (f : Core → Core) : (modCore s k f).mem = s.mem := rfl
@[simp] theorem modCore_parity (s : State) (k : Nat) (f : Core → Core) : (modCore s k f).parity = s.parity := rfl
@[simp] theorem modCore_badLines (s : State) (k : Nat) (f : Core → Core) : (modCore s k f).badLines = s.badLines := rfl
@[simp] theorem modCore_strands (s : State) (k : Nat) (f : Core → Core) : (modCore s k f).strands = s.strands := rfl
@[simp] theorem modCore_sheaves (s : State) (k : Nat) (f : Core → Core) : (modCore s k f).sheaves = s.sheaves := rfl
@[simp] theorem modCore_blocks (s : State) (k : Nat) (f : Core → Core) : (modCore s k f).blocks = s.blocks := rfl
@[simp] theorem modCore_cores (s : State) (k : Nat) (f : Core → Core) : (modCore s k f).cores = tset s.cores k (f (coreAt s k)) := rfl
@[simp] theorem modCore_gangs (s : State) (k : Nat) (f : Core → Core) : (modCore s k f).gangs = s.gangs := rfl
@[simp] theorem modCore_launches (s : State) (k : Nat) (f : Core → Core) : (modCore s k f).launches = s.launches := rfl
@[simp] theorem modCore_parts (s : State) (k : Nat) (f : Core → Core) : (modCore s k f).parts = s.parts := rfl
@[simp] theorem modCore_tracts (s : State) (k : Nat) (f : Core → Core) : (modCore s k f).tracts = s.tracts := rfl
@[simp] theorem modCore_quads (s : State) (k : Nat) (f : Core → Core) : (modCore s k f).quads = s.quads := rfl
@[simp] theorem modCore_dies (s : State) (k : Nat) (f : Core → Core) : (modCore s k f).dies = s.dies := rfl
@[simp] theorem modCore_homes (s : State) (k : Nat) (f : Core → Core) : (modCore s k f).homes = s.homes := rfl
@[simp] theorem modCore_net (s : State) (k : Nat) (f : Core → Core) : (modCore s k f).net = s.net := rfl
@[simp] theorem modCore_origins (s : State) (k : Nat) (f : Core → Core) : (modCore s k f).origins = s.origins := rfl
@[simp] theorem modCore_module (s : State) (k : Nat) (f : Core → Core) : (modCore s k f).module = s.module := rfl
@[simp] theorem modCore_sent (s : State) (k : Nat) (f : Core → Core) : (modCore s k f).sent = s.sent := rfl

/-! ## modGang -/

@[simp] theorem modGang_ctl (s : State) (k : Nat) (f : Gang → Gang) : (modGang s k f).ctl = s.ctl := rfl
@[simp] theorem modGang_now (s : State) (k : Nat) (f : Gang → Gang) : (modGang s k f).now = s.now := rfl
@[simp] theorem modGang_mem (s : State) (k : Nat) (f : Gang → Gang) : (modGang s k f).mem = s.mem := rfl
@[simp] theorem modGang_parity (s : State) (k : Nat) (f : Gang → Gang) : (modGang s k f).parity = s.parity := rfl
@[simp] theorem modGang_badLines (s : State) (k : Nat) (f : Gang → Gang) : (modGang s k f).badLines = s.badLines := rfl
@[simp] theorem modGang_strands (s : State) (k : Nat) (f : Gang → Gang) : (modGang s k f).strands = s.strands := rfl
@[simp] theorem modGang_sheaves (s : State) (k : Nat) (f : Gang → Gang) : (modGang s k f).sheaves = s.sheaves := rfl
@[simp] theorem modGang_blocks (s : State) (k : Nat) (f : Gang → Gang) : (modGang s k f).blocks = s.blocks := rfl
@[simp] theorem modGang_cores (s : State) (k : Nat) (f : Gang → Gang) : (modGang s k f).cores = s.cores := rfl
@[simp] theorem modGang_gangs (s : State) (k : Nat) (f : Gang → Gang) : (modGang s k f).gangs = tmod s.gangs k f := rfl
@[simp] theorem modGang_launches (s : State) (k : Nat) (f : Gang → Gang) : (modGang s k f).launches = s.launches := rfl
@[simp] theorem modGang_parts (s : State) (k : Nat) (f : Gang → Gang) : (modGang s k f).parts = s.parts := rfl
@[simp] theorem modGang_tracts (s : State) (k : Nat) (f : Gang → Gang) : (modGang s k f).tracts = s.tracts := rfl
@[simp] theorem modGang_quads (s : State) (k : Nat) (f : Gang → Gang) : (modGang s k f).quads = s.quads := rfl
@[simp] theorem modGang_dies (s : State) (k : Nat) (f : Gang → Gang) : (modGang s k f).dies = s.dies := rfl
@[simp] theorem modGang_homes (s : State) (k : Nat) (f : Gang → Gang) : (modGang s k f).homes = s.homes := rfl
@[simp] theorem modGang_net (s : State) (k : Nat) (f : Gang → Gang) : (modGang s k f).net = s.net := rfl
@[simp] theorem modGang_origins (s : State) (k : Nat) (f : Gang → Gang) : (modGang s k f).origins = s.origins := rfl
@[simp] theorem modGang_module (s : State) (k : Nat) (f : Gang → Gang) : (modGang s k f).module = s.module := rfl
@[simp] theorem modGang_sent (s : State) (k : Nat) (f : Gang → Gang) : (modGang s k f).sent = s.sent := rfl

/-! ## modLaunch -/

@[simp] theorem modLaunch_ctl (s : State) (k : Nat) (f : Launch → Launch) : (modLaunch s k f).ctl = s.ctl := rfl
@[simp] theorem modLaunch_now (s : State) (k : Nat) (f : Launch → Launch) : (modLaunch s k f).now = s.now := rfl
@[simp] theorem modLaunch_mem (s : State) (k : Nat) (f : Launch → Launch) : (modLaunch s k f).mem = s.mem := rfl
@[simp] theorem modLaunch_parity (s : State) (k : Nat) (f : Launch → Launch) : (modLaunch s k f).parity = s.parity := rfl
@[simp] theorem modLaunch_badLines (s : State) (k : Nat) (f : Launch → Launch) : (modLaunch s k f).badLines = s.badLines := rfl
@[simp] theorem modLaunch_strands (s : State) (k : Nat) (f : Launch → Launch) : (modLaunch s k f).strands = s.strands := rfl
@[simp] theorem modLaunch_sheaves (s : State) (k : Nat) (f : Launch → Launch) : (modLaunch s k f).sheaves = s.sheaves := rfl
@[simp] theorem modLaunch_blocks (s : State) (k : Nat) (f : Launch → Launch) : (modLaunch s k f).blocks = s.blocks := rfl
@[simp] theorem modLaunch_cores (s : State) (k : Nat) (f : Launch → Launch) : (modLaunch s k f).cores = s.cores := rfl
@[simp] theorem modLaunch_gangs (s : State) (k : Nat) (f : Launch → Launch) : (modLaunch s k f).gangs = s.gangs := rfl
@[simp] theorem modLaunch_launches (s : State) (k : Nat) (f : Launch → Launch) : (modLaunch s k f).launches = tmod s.launches k f := rfl
@[simp] theorem modLaunch_parts (s : State) (k : Nat) (f : Launch → Launch) : (modLaunch s k f).parts = s.parts := rfl
@[simp] theorem modLaunch_tracts (s : State) (k : Nat) (f : Launch → Launch) : (modLaunch s k f).tracts = s.tracts := rfl
@[simp] theorem modLaunch_quads (s : State) (k : Nat) (f : Launch → Launch) : (modLaunch s k f).quads = s.quads := rfl
@[simp] theorem modLaunch_dies (s : State) (k : Nat) (f : Launch → Launch) : (modLaunch s k f).dies = s.dies := rfl
@[simp] theorem modLaunch_homes (s : State) (k : Nat) (f : Launch → Launch) : (modLaunch s k f).homes = s.homes := rfl
@[simp] theorem modLaunch_net (s : State) (k : Nat) (f : Launch → Launch) : (modLaunch s k f).net = s.net := rfl
@[simp] theorem modLaunch_origins (s : State) (k : Nat) (f : Launch → Launch) : (modLaunch s k f).origins = s.origins := rfl
@[simp] theorem modLaunch_module (s : State) (k : Nat) (f : Launch → Launch) : (modLaunch s k f).module = s.module := rfl
@[simp] theorem modLaunch_sent (s : State) (k : Nat) (f : Launch → Launch) : (modLaunch s k f).sent = s.sent := rfl

/-! ## modPart -/

@[simp] theorem modPart_ctl (s : State) (k : Nat) (f : Partition → Partition) : (modPart s k f).ctl = s.ctl := rfl
@[simp] theorem modPart_now (s : State) (k : Nat) (f : Partition → Partition) : (modPart s k f).now = s.now := rfl
@[simp] theorem modPart_mem (s : State) (k : Nat) (f : Partition → Partition) : (modPart s k f).mem = s.mem := rfl
@[simp] theorem modPart_parity (s : State) (k : Nat) (f : Partition → Partition) : (modPart s k f).parity = s.parity := rfl
@[simp] theorem modPart_badLines (s : State) (k : Nat) (f : Partition → Partition) : (modPart s k f).badLines = s.badLines := rfl
@[simp] theorem modPart_strands (s : State) (k : Nat) (f : Partition → Partition) : (modPart s k f).strands = s.strands := rfl
@[simp] theorem modPart_sheaves (s : State) (k : Nat) (f : Partition → Partition) : (modPart s k f).sheaves = s.sheaves := rfl
@[simp] theorem modPart_blocks (s : State) (k : Nat) (f : Partition → Partition) : (modPart s k f).blocks = s.blocks := rfl
@[simp] theorem modPart_cores (s : State) (k : Nat) (f : Partition → Partition) : (modPart s k f).cores = s.cores := rfl
@[simp] theorem modPart_gangs (s : State) (k : Nat) (f : Partition → Partition) : (modPart s k f).gangs = s.gangs := rfl
@[simp] theorem modPart_launches (s : State) (k : Nat) (f : Partition → Partition) : (modPart s k f).launches = s.launches := rfl
@[simp] theorem modPart_parts (s : State) (k : Nat) (f : Partition → Partition) : (modPart s k f).parts = tmod s.parts k f := rfl
@[simp] theorem modPart_tracts (s : State) (k : Nat) (f : Partition → Partition) : (modPart s k f).tracts = s.tracts := rfl
@[simp] theorem modPart_quads (s : State) (k : Nat) (f : Partition → Partition) : (modPart s k f).quads = s.quads := rfl
@[simp] theorem modPart_dies (s : State) (k : Nat) (f : Partition → Partition) : (modPart s k f).dies = s.dies := rfl
@[simp] theorem modPart_homes (s : State) (k : Nat) (f : Partition → Partition) : (modPart s k f).homes = s.homes := rfl
@[simp] theorem modPart_net (s : State) (k : Nat) (f : Partition → Partition) : (modPart s k f).net = s.net := rfl
@[simp] theorem modPart_origins (s : State) (k : Nat) (f : Partition → Partition) : (modPart s k f).origins = s.origins := rfl
@[simp] theorem modPart_module (s : State) (k : Nat) (f : Partition → Partition) : (modPart s k f).module = s.module := rfl
@[simp] theorem modPart_sent (s : State) (k : Nat) (f : Partition → Partition) : (modPart s k f).sent = s.sent := rfl

/-! ## modTract -/

@[simp] theorem modTract_ctl (s : State) (k : Nat) (f : Tract → Tract) : (modTract s k f).ctl = s.ctl := rfl
@[simp] theorem modTract_now (s : State) (k : Nat) (f : Tract → Tract) : (modTract s k f).now = s.now := rfl
@[simp] theorem modTract_mem (s : State) (k : Nat) (f : Tract → Tract) : (modTract s k f).mem = s.mem := rfl
@[simp] theorem modTract_parity (s : State) (k : Nat) (f : Tract → Tract) : (modTract s k f).parity = s.parity := rfl
@[simp] theorem modTract_badLines (s : State) (k : Nat) (f : Tract → Tract) : (modTract s k f).badLines = s.badLines := rfl
@[simp] theorem modTract_strands (s : State) (k : Nat) (f : Tract → Tract) : (modTract s k f).strands = s.strands := rfl
@[simp] theorem modTract_sheaves (s : State) (k : Nat) (f : Tract → Tract) : (modTract s k f).sheaves = s.sheaves := rfl
@[simp] theorem modTract_blocks (s : State) (k : Nat) (f : Tract → Tract) : (modTract s k f).blocks = s.blocks := rfl
@[simp] theorem modTract_cores (s : State) (k : Nat) (f : Tract → Tract) : (modTract s k f).cores = s.cores := rfl
@[simp] theorem modTract_gangs (s : State) (k : Nat) (f : Tract → Tract) : (modTract s k f).gangs = s.gangs := rfl
@[simp] theorem modTract_launches (s : State) (k : Nat) (f : Tract → Tract) : (modTract s k f).launches = s.launches := rfl
@[simp] theorem modTract_parts (s : State) (k : Nat) (f : Tract → Tract) : (modTract s k f).parts = s.parts := rfl
@[simp] theorem modTract_tracts (s : State) (k : Nat) (f : Tract → Tract) : (modTract s k f).tracts = tset s.tracts k (f (tractAt s k)) := rfl
@[simp] theorem modTract_quads (s : State) (k : Nat) (f : Tract → Tract) : (modTract s k f).quads = s.quads := rfl
@[simp] theorem modTract_dies (s : State) (k : Nat) (f : Tract → Tract) : (modTract s k f).dies = s.dies := rfl
@[simp] theorem modTract_homes (s : State) (k : Nat) (f : Tract → Tract) : (modTract s k f).homes = s.homes := rfl
@[simp] theorem modTract_net (s : State) (k : Nat) (f : Tract → Tract) : (modTract s k f).net = s.net := rfl
@[simp] theorem modTract_origins (s : State) (k : Nat) (f : Tract → Tract) : (modTract s k f).origins = s.origins := rfl
@[simp] theorem modTract_module (s : State) (k : Nat) (f : Tract → Tract) : (modTract s k f).module = s.module := rfl
@[simp] theorem modTract_sent (s : State) (k : Nat) (f : Tract → Tract) : (modTract s k f).sent = s.sent := rfl

/-! ## modQuad -/

@[simp] theorem modQuad_ctl (s : State) (k : Nat) (f : Quad → Quad) : (modQuad s k f).ctl = s.ctl := rfl
@[simp] theorem modQuad_now (s : State) (k : Nat) (f : Quad → Quad) : (modQuad s k f).now = s.now := rfl
@[simp] theorem modQuad_mem (s : State) (k : Nat) (f : Quad → Quad) : (modQuad s k f).mem = s.mem := rfl
@[simp] theorem modQuad_parity (s : State) (k : Nat) (f : Quad → Quad) : (modQuad s k f).parity = s.parity := rfl
@[simp] theorem modQuad_badLines (s : State) (k : Nat) (f : Quad → Quad) : (modQuad s k f).badLines = s.badLines := rfl
@[simp] theorem modQuad_strands (s : State) (k : Nat) (f : Quad → Quad) : (modQuad s k f).strands = s.strands := rfl
@[simp] theorem modQuad_sheaves (s : State) (k : Nat) (f : Quad → Quad) : (modQuad s k f).sheaves = s.sheaves := rfl
@[simp] theorem modQuad_blocks (s : State) (k : Nat) (f : Quad → Quad) : (modQuad s k f).blocks = s.blocks := rfl
@[simp] theorem modQuad_cores (s : State) (k : Nat) (f : Quad → Quad) : (modQuad s k f).cores = s.cores := rfl
@[simp] theorem modQuad_gangs (s : State) (k : Nat) (f : Quad → Quad) : (modQuad s k f).gangs = s.gangs := rfl
@[simp] theorem modQuad_launches (s : State) (k : Nat) (f : Quad → Quad) : (modQuad s k f).launches = s.launches := rfl
@[simp] theorem modQuad_parts (s : State) (k : Nat) (f : Quad → Quad) : (modQuad s k f).parts = s.parts := rfl
@[simp] theorem modQuad_tracts (s : State) (k : Nat) (f : Quad → Quad) : (modQuad s k f).tracts = s.tracts := rfl
@[simp] theorem modQuad_quads (s : State) (k : Nat) (f : Quad → Quad) : (modQuad s k f).quads = tset s.quads k (f (quadAt s k)) := rfl
@[simp] theorem modQuad_dies (s : State) (k : Nat) (f : Quad → Quad) : (modQuad s k f).dies = s.dies := rfl
@[simp] theorem modQuad_homes (s : State) (k : Nat) (f : Quad → Quad) : (modQuad s k f).homes = s.homes := rfl
@[simp] theorem modQuad_net (s : State) (k : Nat) (f : Quad → Quad) : (modQuad s k f).net = s.net := rfl
@[simp] theorem modQuad_origins (s : State) (k : Nat) (f : Quad → Quad) : (modQuad s k f).origins = s.origins := rfl
@[simp] theorem modQuad_module (s : State) (k : Nat) (f : Quad → Quad) : (modQuad s k f).module = s.module := rfl
@[simp] theorem modQuad_sent (s : State) (k : Nat) (f : Quad → Quad) : (modQuad s k f).sent = s.sent := rfl

/-! ## modDie -/

@[simp] theorem modDie_ctl (s : State) (k : Nat) (f : Die → Die) : (modDie s k f).ctl = s.ctl := rfl
@[simp] theorem modDie_now (s : State) (k : Nat) (f : Die → Die) : (modDie s k f).now = s.now := rfl
@[simp] theorem modDie_mem (s : State) (k : Nat) (f : Die → Die) : (modDie s k f).mem = s.mem := rfl
@[simp] theorem modDie_parity (s : State) (k : Nat) (f : Die → Die) : (modDie s k f).parity = s.parity := rfl
@[simp] theorem modDie_badLines (s : State) (k : Nat) (f : Die → Die) : (modDie s k f).badLines = s.badLines := rfl
@[simp] theorem modDie_strands (s : State) (k : Nat) (f : Die → Die) : (modDie s k f).strands = s.strands := rfl
@[simp] theorem modDie_sheaves (s : State) (k : Nat) (f : Die → Die) : (modDie s k f).sheaves = s.sheaves := rfl
@[simp] theorem modDie_blocks (s : State) (k : Nat) (f : Die → Die) : (modDie s k f).blocks = s.blocks := rfl
@[simp] theorem modDie_cores (s : State) (k : Nat) (f : Die → Die) : (modDie s k f).cores = s.cores := rfl
@[simp] theorem modDie_gangs (s : State) (k : Nat) (f : Die → Die) : (modDie s k f).gangs = s.gangs := rfl
@[simp] theorem modDie_launches (s : State) (k : Nat) (f : Die → Die) : (modDie s k f).launches = s.launches := rfl
@[simp] theorem modDie_parts (s : State) (k : Nat) (f : Die → Die) : (modDie s k f).parts = s.parts := rfl
@[simp] theorem modDie_tracts (s : State) (k : Nat) (f : Die → Die) : (modDie s k f).tracts = s.tracts := rfl
@[simp] theorem modDie_quads (s : State) (k : Nat) (f : Die → Die) : (modDie s k f).quads = s.quads := rfl
@[simp] theorem modDie_dies (s : State) (k : Nat) (f : Die → Die) : (modDie s k f).dies = tset s.dies k (f (dieAt s k)) := rfl
@[simp] theorem modDie_homes (s : State) (k : Nat) (f : Die → Die) : (modDie s k f).homes = s.homes := rfl
@[simp] theorem modDie_net (s : State) (k : Nat) (f : Die → Die) : (modDie s k f).net = s.net := rfl
@[simp] theorem modDie_origins (s : State) (k : Nat) (f : Die → Die) : (modDie s k f).origins = s.origins := rfl
@[simp] theorem modDie_module (s : State) (k : Nat) (f : Die → Die) : (modDie s k f).module = s.module := rfl
@[simp] theorem modDie_sent (s : State) (k : Nat) (f : Die → Die) : (modDie s k f).sent = s.sent := rfl

/-! ## modHome -/

@[simp] theorem modHome_ctl (s : State) (k : Nat) (f : Home → Home) : (modHome s k f).ctl = s.ctl := rfl
@[simp] theorem modHome_now (s : State) (k : Nat) (f : Home → Home) : (modHome s k f).now = s.now := rfl
@[simp] theorem modHome_mem (s : State) (k : Nat) (f : Home → Home) : (modHome s k f).mem = s.mem := rfl
@[simp] theorem modHome_parity (s : State) (k : Nat) (f : Home → Home) : (modHome s k f).parity = s.parity := rfl
@[simp] theorem modHome_badLines (s : State) (k : Nat) (f : Home → Home) : (modHome s k f).badLines = s.badLines := rfl
@[simp] theorem modHome_strands (s : State) (k : Nat) (f : Home → Home) : (modHome s k f).strands = s.strands := rfl
@[simp] theorem modHome_sheaves (s : State) (k : Nat) (f : Home → Home) : (modHome s k f).sheaves = s.sheaves := rfl
@[simp] theorem modHome_blocks (s : State) (k : Nat) (f : Home → Home) : (modHome s k f).blocks = s.blocks := rfl
@[simp] theorem modHome_cores (s : State) (k : Nat) (f : Home → Home) : (modHome s k f).cores = s.cores := rfl
@[simp] theorem modHome_gangs (s : State) (k : Nat) (f : Home → Home) : (modHome s k f).gangs = s.gangs := rfl
@[simp] theorem modHome_launches (s : State) (k : Nat) (f : Home → Home) : (modHome s k f).launches = s.launches := rfl
@[simp] theorem modHome_parts (s : State) (k : Nat) (f : Home → Home) : (modHome s k f).parts = s.parts := rfl
@[simp] theorem modHome_tracts (s : State) (k : Nat) (f : Home → Home) : (modHome s k f).tracts = s.tracts := rfl
@[simp] theorem modHome_quads (s : State) (k : Nat) (f : Home → Home) : (modHome s k f).quads = s.quads := rfl
@[simp] theorem modHome_dies (s : State) (k : Nat) (f : Home → Home) : (modHome s k f).dies = s.dies := rfl
@[simp] theorem modHome_homes (s : State) (k : Nat) (f : Home → Home) : (modHome s k f).homes = tset s.homes k (f (homeAt s k)) := rfl
@[simp] theorem modHome_net (s : State) (k : Nat) (f : Home → Home) : (modHome s k f).net = s.net := rfl
@[simp] theorem modHome_origins (s : State) (k : Nat) (f : Home → Home) : (modHome s k f).origins = s.origins := rfl
@[simp] theorem modHome_module (s : State) (k : Nat) (f : Home → Home) : (modHome s k f).module = s.module := rfl
@[simp] theorem modHome_sent (s : State) (k : Nat) (f : Home → Home) : (modHome s k f).sent = s.sent := rfl

/-! ## modModule -/

@[simp] theorem modModule_ctl (s : State) (f : Module → Module) : (modModule s f).ctl = s.ctl := rfl
@[simp] theorem modModule_now (s : State) (f : Module → Module) : (modModule s f).now = s.now := rfl
@[simp] theorem modModule_mem (s : State) (f : Module → Module) : (modModule s f).mem = s.mem := rfl
@[simp] theorem modModule_parity (s : State) (f : Module → Module) : (modModule s f).parity = s.parity := rfl
@[simp] theorem modModule_badLines (s : State) (f : Module → Module) : (modModule s f).badLines = s.badLines := rfl
@[simp] theorem modModule_strands (s : State) (f : Module → Module) : (modModule s f).strands = s.strands := rfl
@[simp] theorem modModule_sheaves (s : State) (f : Module → Module) : (modModule s f).sheaves = s.sheaves := rfl
@[simp] theorem modModule_blocks (s : State) (f : Module → Module) : (modModule s f).blocks = s.blocks := rfl
@[simp] theorem modModule_cores (s : State) (f : Module → Module) : (modModule s f).cores = s.cores := rfl
@[simp] theorem modModule_gangs (s : State) (f : Module → Module) : (modModule s f).gangs = s.gangs := rfl
@[simp] theorem modModule_launches (s : State) (f : Module → Module) : (modModule s f).launches = s.launches := rfl
@[simp] theorem modModule_parts (s : State) (f : Module → Module) : (modModule s f).parts = s.parts := rfl
@[simp] theorem modModule_tracts (s : State) (f : Module → Module) : (modModule s f).tracts = s.tracts := rfl
@[simp] theorem modModule_quads (s : State) (f : Module → Module) : (modModule s f).quads = s.quads := rfl
@[simp] theorem modModule_dies (s : State) (f : Module → Module) : (modModule s f).dies = s.dies := rfl
@[simp] theorem modModule_homes (s : State) (f : Module → Module) : (modModule s f).homes = s.homes := rfl
@[simp] theorem modModule_net (s : State) (f : Module → Module) : (modModule s f).net = s.net := rfl
@[simp] theorem modModule_origins (s : State) (f : Module → Module) : (modModule s f).origins = s.origins := rfl
@[simp] theorem modModule_module (s : State) (f : Module → Module) : (modModule s f).module = f s.module := rfl
@[simp] theorem modModule_sent (s : State) (f : Module → Module) : (modModule s f).sent = s.sent := rfl

/-! ## takeOff -/

@[simp] theorem takeOff_ctl (s : State) (k : Nat) : (takeOff s k).ctl = s.ctl := rfl
@[simp] theorem takeOff_now (s : State) (k : Nat) : (takeOff s k).now = s.now := rfl
@[simp] theorem takeOff_mem (s : State) (k : Nat) : (takeOff s k).mem = s.mem := rfl
@[simp] theorem takeOff_parity (s : State) (k : Nat) : (takeOff s k).parity = s.parity := rfl
@[simp] theorem takeOff_badLines (s : State) (k : Nat) : (takeOff s k).badLines = s.badLines := rfl
@[simp] theorem takeOff_strands (s : State) (k : Nat) : (takeOff s k).strands = s.strands := rfl
@[simp] theorem takeOff_sheaves (s : State) (k : Nat) : (takeOff s k).sheaves = s.sheaves := rfl
@[simp] theorem takeOff_blocks (s : State) (k : Nat) : (takeOff s k).blocks = s.blocks := rfl
@[simp] theorem takeOff_cores (s : State) (k : Nat) : (takeOff s k).cores = s.cores := rfl
@[simp] theorem takeOff_gangs (s : State) (k : Nat) : (takeOff s k).gangs = s.gangs := rfl
@[simp] theorem takeOff_launches (s : State) (k : Nat) : (takeOff s k).launches = s.launches := rfl
@[simp] theorem takeOff_parts (s : State) (k : Nat) : (takeOff s k).parts = s.parts := rfl
@[simp] theorem takeOff_tracts (s : State) (k : Nat) : (takeOff s k).tracts = s.tracts := rfl
@[simp] theorem takeOff_quads (s : State) (k : Nat) : (takeOff s k).quads = s.quads := rfl
@[simp] theorem takeOff_dies (s : State) (k : Nat) : (takeOff s k).dies = s.dies := rfl
@[simp] theorem takeOff_homes (s : State) (k : Nat) : (takeOff s k).homes = s.homes := rfl
@[simp] theorem takeOff_net (s : State) (k : Nat) : (takeOff s k).net = terase s.net k := rfl
@[simp] theorem takeOff_origins (s : State) (k : Nat) : (takeOff s k).origins = terase s.origins k := rfl
@[simp] theorem takeOff_module (s : State) (k : Nat) : (takeOff s k).module = s.module := rfl
@[simp] theorem takeOff_sent (s : State) (k : Nat) : (takeOff s k).sent = s.sent := rfl

/-! ## issued -/

@[simp] theorem issued_ctl (s : State) : (issued s).ctl = { s.ctl with bundle := none } := rfl
@[simp] theorem issued_now (s : State) : (issued s).now = s.now := rfl
@[simp] theorem issued_mem (s : State) : (issued s).mem = s.mem := rfl
@[simp] theorem issued_parity (s : State) : (issued s).parity = s.parity := rfl
@[simp] theorem issued_badLines (s : State) : (issued s).badLines = s.badLines := rfl
@[simp] theorem issued_strands (s : State) : (issued s).strands = s.strands := rfl
@[simp] theorem issued_sheaves (s : State) : (issued s).sheaves = s.sheaves := rfl
@[simp] theorem issued_blocks (s : State) : (issued s).blocks = s.blocks := rfl
@[simp] theorem issued_cores (s : State) : (issued s).cores = s.cores := rfl
@[simp] theorem issued_gangs (s : State) : (issued s).gangs = s.gangs := rfl
@[simp] theorem issued_launches (s : State) : (issued s).launches = s.launches := rfl
@[simp] theorem issued_parts (s : State) : (issued s).parts = s.parts := rfl
@[simp] theorem issued_tracts (s : State) : (issued s).tracts = s.tracts := rfl
@[simp] theorem issued_quads (s : State) : (issued s).quads = s.quads := rfl
@[simp] theorem issued_dies (s : State) : (issued s).dies = s.dies := rfl
@[simp] theorem issued_homes (s : State) : (issued s).homes = s.homes := rfl
@[simp] theorem issued_net (s : State) : (issued s).net = s.net := rfl
@[simp] theorem issued_origins (s : State) : (issued s).origins = s.origins := rfl
@[simp] theorem issued_module (s : State) : (issued s).module = s.module := rfl
@[simp] theorem issued_sent (s : State) : (issued s).sent = s.sent := rfl

/-! ## Lookups after updates of other tables -/

@[simp] theorem strandAt_modSheaf (s : State) (k : Nat) (f : Sheaf → Sheaf) (j : Nat) : strandAt (modSheaf s k f) j = strandAt s j := rfl
@[simp] theorem strandAt_modBlock (s : State) (k : Nat) (f : Block → Block) (j : Nat) : strandAt (modBlock s k f) j = strandAt s j := rfl
@[simp] theorem strandAt_modCore (s : State) (k : Nat) (f : Core → Core) (j : Nat) : strandAt (modCore s k f) j = strandAt s j := rfl
@[simp] theorem strandAt_modGang (s : State) (k : Nat) (f : Gang → Gang) (j : Nat) : strandAt (modGang s k f) j = strandAt s j := rfl
@[simp] theorem strandAt_modLaunch (s : State) (k : Nat) (f : Launch → Launch) (j : Nat) : strandAt (modLaunch s k f) j = strandAt s j := rfl
@[simp] theorem strandAt_modPart (s : State) (k : Nat) (f : Partition → Partition) (j : Nat) : strandAt (modPart s k f) j = strandAt s j := rfl
@[simp] theorem strandAt_modTract (s : State) (k : Nat) (f : Tract → Tract) (j : Nat) : strandAt (modTract s k f) j = strandAt s j := rfl
@[simp] theorem strandAt_modQuad (s : State) (k : Nat) (f : Quad → Quad) (j : Nat) : strandAt (modQuad s k f) j = strandAt s j := rfl
@[simp] theorem strandAt_modDie (s : State) (k : Nat) (f : Die → Die) (j : Nat) : strandAt (modDie s k f) j = strandAt s j := rfl
@[simp] theorem strandAt_modHome (s : State) (k : Nat) (f : Home → Home) (j : Nat) : strandAt (modHome s k f) j = strandAt s j := rfl
@[simp] theorem strandAt_modModule (s : State) (f : Module → Module) (j : Nat) : strandAt (modModule s f) j = strandAt s j := rfl
@[simp] theorem strandAt_takeOff (s : State) (k : Nat) (j : Nat) : strandAt (takeOff s k) j = strandAt s j := rfl
@[simp] theorem strandAt_issued (s : State) (j : Nat) : strandAt (issued s) j = strandAt s j := rfl
@[simp] theorem sheafAt_modStrand (s : State) (k : Nat) (f : Strand → Strand) (j : Nat) : sheafAt (modStrand s k f) j = sheafAt s j := rfl
@[simp] theorem sheafAt_modBlock (s : State) (k : Nat) (f : Block → Block) (j : Nat) : sheafAt (modBlock s k f) j = sheafAt s j := rfl
@[simp] theorem sheafAt_modCore (s : State) (k : Nat) (f : Core → Core) (j : Nat) : sheafAt (modCore s k f) j = sheafAt s j := rfl
@[simp] theorem sheafAt_modGang (s : State) (k : Nat) (f : Gang → Gang) (j : Nat) : sheafAt (modGang s k f) j = sheafAt s j := rfl
@[simp] theorem sheafAt_modLaunch (s : State) (k : Nat) (f : Launch → Launch) (j : Nat) : sheafAt (modLaunch s k f) j = sheafAt s j := rfl
@[simp] theorem sheafAt_modPart (s : State) (k : Nat) (f : Partition → Partition) (j : Nat) : sheafAt (modPart s k f) j = sheafAt s j := rfl
@[simp] theorem sheafAt_modTract (s : State) (k : Nat) (f : Tract → Tract) (j : Nat) : sheafAt (modTract s k f) j = sheafAt s j := rfl
@[simp] theorem sheafAt_modQuad (s : State) (k : Nat) (f : Quad → Quad) (j : Nat) : sheafAt (modQuad s k f) j = sheafAt s j := rfl
@[simp] theorem sheafAt_modDie (s : State) (k : Nat) (f : Die → Die) (j : Nat) : sheafAt (modDie s k f) j = sheafAt s j := rfl
@[simp] theorem sheafAt_modHome (s : State) (k : Nat) (f : Home → Home) (j : Nat) : sheafAt (modHome s k f) j = sheafAt s j := rfl
@[simp] theorem sheafAt_modModule (s : State) (f : Module → Module) (j : Nat) : sheafAt (modModule s f) j = sheafAt s j := rfl
@[simp] theorem sheafAt_takeOff (s : State) (k : Nat) (j : Nat) : sheafAt (takeOff s k) j = sheafAt s j := rfl
@[simp] theorem sheafAt_issued (s : State) (j : Nat) : sheafAt (issued s) j = sheafAt s j := rfl
@[simp] theorem blockAt_modStrand (s : State) (k : Nat) (f : Strand → Strand) (j : Nat) : blockAt (modStrand s k f) j = blockAt s j := rfl
@[simp] theorem blockAt_modSheaf (s : State) (k : Nat) (f : Sheaf → Sheaf) (j : Nat) : blockAt (modSheaf s k f) j = blockAt s j := rfl
@[simp] theorem blockAt_modCore (s : State) (k : Nat) (f : Core → Core) (j : Nat) : blockAt (modCore s k f) j = blockAt s j := rfl
@[simp] theorem blockAt_modGang (s : State) (k : Nat) (f : Gang → Gang) (j : Nat) : blockAt (modGang s k f) j = blockAt s j := rfl
@[simp] theorem blockAt_modLaunch (s : State) (k : Nat) (f : Launch → Launch) (j : Nat) : blockAt (modLaunch s k f) j = blockAt s j := rfl
@[simp] theorem blockAt_modPart (s : State) (k : Nat) (f : Partition → Partition) (j : Nat) : blockAt (modPart s k f) j = blockAt s j := rfl
@[simp] theorem blockAt_modTract (s : State) (k : Nat) (f : Tract → Tract) (j : Nat) : blockAt (modTract s k f) j = blockAt s j := rfl
@[simp] theorem blockAt_modQuad (s : State) (k : Nat) (f : Quad → Quad) (j : Nat) : blockAt (modQuad s k f) j = blockAt s j := rfl
@[simp] theorem blockAt_modDie (s : State) (k : Nat) (f : Die → Die) (j : Nat) : blockAt (modDie s k f) j = blockAt s j := rfl
@[simp] theorem blockAt_modHome (s : State) (k : Nat) (f : Home → Home) (j : Nat) : blockAt (modHome s k f) j = blockAt s j := rfl
@[simp] theorem blockAt_modModule (s : State) (f : Module → Module) (j : Nat) : blockAt (modModule s f) j = blockAt s j := rfl
@[simp] theorem blockAt_takeOff (s : State) (k : Nat) (j : Nat) : blockAt (takeOff s k) j = blockAt s j := rfl
@[simp] theorem blockAt_issued (s : State) (j : Nat) : blockAt (issued s) j = blockAt s j := rfl
@[simp] theorem coreAt_modStrand (s : State) (k : Nat) (f : Strand → Strand) (j : Nat) : coreAt (modStrand s k f) j = coreAt s j := rfl
@[simp] theorem coreAt_modSheaf (s : State) (k : Nat) (f : Sheaf → Sheaf) (j : Nat) : coreAt (modSheaf s k f) j = coreAt s j := rfl
@[simp] theorem coreAt_modBlock (s : State) (k : Nat) (f : Block → Block) (j : Nat) : coreAt (modBlock s k f) j = coreAt s j := rfl
@[simp] theorem coreAt_modGang (s : State) (k : Nat) (f : Gang → Gang) (j : Nat) : coreAt (modGang s k f) j = coreAt s j := rfl
@[simp] theorem coreAt_modLaunch (s : State) (k : Nat) (f : Launch → Launch) (j : Nat) : coreAt (modLaunch s k f) j = coreAt s j := rfl
@[simp] theorem coreAt_modPart (s : State) (k : Nat) (f : Partition → Partition) (j : Nat) : coreAt (modPart s k f) j = coreAt s j := rfl
@[simp] theorem coreAt_modTract (s : State) (k : Nat) (f : Tract → Tract) (j : Nat) : coreAt (modTract s k f) j = coreAt s j := rfl
@[simp] theorem coreAt_modQuad (s : State) (k : Nat) (f : Quad → Quad) (j : Nat) : coreAt (modQuad s k f) j = coreAt s j := rfl
@[simp] theorem coreAt_modDie (s : State) (k : Nat) (f : Die → Die) (j : Nat) : coreAt (modDie s k f) j = coreAt s j := rfl
@[simp] theorem coreAt_modHome (s : State) (k : Nat) (f : Home → Home) (j : Nat) : coreAt (modHome s k f) j = coreAt s j := rfl
@[simp] theorem coreAt_modModule (s : State) (f : Module → Module) (j : Nat) : coreAt (modModule s f) j = coreAt s j := rfl
@[simp] theorem coreAt_takeOff (s : State) (k : Nat) (j : Nat) : coreAt (takeOff s k) j = coreAt s j := rfl
@[simp] theorem coreAt_issued (s : State) (j : Nat) : coreAt (issued s) j = coreAt s j := rfl
@[simp] theorem gangAt_modStrand (s : State) (k : Nat) (f : Strand → Strand) (j : Nat) : gangAt (modStrand s k f) j = gangAt s j := rfl
@[simp] theorem gangAt_modSheaf (s : State) (k : Nat) (f : Sheaf → Sheaf) (j : Nat) : gangAt (modSheaf s k f) j = gangAt s j := rfl
@[simp] theorem gangAt_modBlock (s : State) (k : Nat) (f : Block → Block) (j : Nat) : gangAt (modBlock s k f) j = gangAt s j := rfl
@[simp] theorem gangAt_modCore (s : State) (k : Nat) (f : Core → Core) (j : Nat) : gangAt (modCore s k f) j = gangAt s j := rfl
@[simp] theorem gangAt_modLaunch (s : State) (k : Nat) (f : Launch → Launch) (j : Nat) : gangAt (modLaunch s k f) j = gangAt s j := rfl
@[simp] theorem gangAt_modPart (s : State) (k : Nat) (f : Partition → Partition) (j : Nat) : gangAt (modPart s k f) j = gangAt s j := rfl
@[simp] theorem gangAt_modTract (s : State) (k : Nat) (f : Tract → Tract) (j : Nat) : gangAt (modTract s k f) j = gangAt s j := rfl
@[simp] theorem gangAt_modQuad (s : State) (k : Nat) (f : Quad → Quad) (j : Nat) : gangAt (modQuad s k f) j = gangAt s j := rfl
@[simp] theorem gangAt_modDie (s : State) (k : Nat) (f : Die → Die) (j : Nat) : gangAt (modDie s k f) j = gangAt s j := rfl
@[simp] theorem gangAt_modHome (s : State) (k : Nat) (f : Home → Home) (j : Nat) : gangAt (modHome s k f) j = gangAt s j := rfl
@[simp] theorem gangAt_modModule (s : State) (f : Module → Module) (j : Nat) : gangAt (modModule s f) j = gangAt s j := rfl
@[simp] theorem gangAt_takeOff (s : State) (k : Nat) (j : Nat) : gangAt (takeOff s k) j = gangAt s j := rfl
@[simp] theorem gangAt_issued (s : State) (j : Nat) : gangAt (issued s) j = gangAt s j := rfl
@[simp] theorem launchAt_modStrand (s : State) (k : Nat) (f : Strand → Strand) (j : Nat) : launchAt (modStrand s k f) j = launchAt s j := rfl
@[simp] theorem launchAt_modSheaf (s : State) (k : Nat) (f : Sheaf → Sheaf) (j : Nat) : launchAt (modSheaf s k f) j = launchAt s j := rfl
@[simp] theorem launchAt_modBlock (s : State) (k : Nat) (f : Block → Block) (j : Nat) : launchAt (modBlock s k f) j = launchAt s j := rfl
@[simp] theorem launchAt_modCore (s : State) (k : Nat) (f : Core → Core) (j : Nat) : launchAt (modCore s k f) j = launchAt s j := rfl
@[simp] theorem launchAt_modGang (s : State) (k : Nat) (f : Gang → Gang) (j : Nat) : launchAt (modGang s k f) j = launchAt s j := rfl
@[simp] theorem launchAt_modPart (s : State) (k : Nat) (f : Partition → Partition) (j : Nat) : launchAt (modPart s k f) j = launchAt s j := rfl
@[simp] theorem launchAt_modTract (s : State) (k : Nat) (f : Tract → Tract) (j : Nat) : launchAt (modTract s k f) j = launchAt s j := rfl
@[simp] theorem launchAt_modQuad (s : State) (k : Nat) (f : Quad → Quad) (j : Nat) : launchAt (modQuad s k f) j = launchAt s j := rfl
@[simp] theorem launchAt_modDie (s : State) (k : Nat) (f : Die → Die) (j : Nat) : launchAt (modDie s k f) j = launchAt s j := rfl
@[simp] theorem launchAt_modHome (s : State) (k : Nat) (f : Home → Home) (j : Nat) : launchAt (modHome s k f) j = launchAt s j := rfl
@[simp] theorem launchAt_modModule (s : State) (f : Module → Module) (j : Nat) : launchAt (modModule s f) j = launchAt s j := rfl
@[simp] theorem launchAt_takeOff (s : State) (k : Nat) (j : Nat) : launchAt (takeOff s k) j = launchAt s j := rfl
@[simp] theorem launchAt_issued (s : State) (j : Nat) : launchAt (issued s) j = launchAt s j := rfl
@[simp] theorem partAt_modStrand (s : State) (k : Nat) (f : Strand → Strand) (j : Nat) : partAt (modStrand s k f) j = partAt s j := rfl
@[simp] theorem partAt_modSheaf (s : State) (k : Nat) (f : Sheaf → Sheaf) (j : Nat) : partAt (modSheaf s k f) j = partAt s j := rfl
@[simp] theorem partAt_modBlock (s : State) (k : Nat) (f : Block → Block) (j : Nat) : partAt (modBlock s k f) j = partAt s j := rfl
@[simp] theorem partAt_modCore (s : State) (k : Nat) (f : Core → Core) (j : Nat) : partAt (modCore s k f) j = partAt s j := rfl
@[simp] theorem partAt_modGang (s : State) (k : Nat) (f : Gang → Gang) (j : Nat) : partAt (modGang s k f) j = partAt s j := rfl
@[simp] theorem partAt_modLaunch (s : State) (k : Nat) (f : Launch → Launch) (j : Nat) : partAt (modLaunch s k f) j = partAt s j := rfl
@[simp] theorem partAt_modTract (s : State) (k : Nat) (f : Tract → Tract) (j : Nat) : partAt (modTract s k f) j = partAt s j := rfl
@[simp] theorem partAt_modQuad (s : State) (k : Nat) (f : Quad → Quad) (j : Nat) : partAt (modQuad s k f) j = partAt s j := rfl
@[simp] theorem partAt_modDie (s : State) (k : Nat) (f : Die → Die) (j : Nat) : partAt (modDie s k f) j = partAt s j := rfl
@[simp] theorem partAt_modHome (s : State) (k : Nat) (f : Home → Home) (j : Nat) : partAt (modHome s k f) j = partAt s j := rfl
@[simp] theorem partAt_modModule (s : State) (f : Module → Module) (j : Nat) : partAt (modModule s f) j = partAt s j := rfl
@[simp] theorem partAt_takeOff (s : State) (k : Nat) (j : Nat) : partAt (takeOff s k) j = partAt s j := rfl
@[simp] theorem partAt_issued (s : State) (j : Nat) : partAt (issued s) j = partAt s j := rfl
@[simp] theorem tractAt_modStrand (s : State) (k : Nat) (f : Strand → Strand) (j : Nat) : tractAt (modStrand s k f) j = tractAt s j := rfl
@[simp] theorem tractAt_modSheaf (s : State) (k : Nat) (f : Sheaf → Sheaf) (j : Nat) : tractAt (modSheaf s k f) j = tractAt s j := rfl
@[simp] theorem tractAt_modBlock (s : State) (k : Nat) (f : Block → Block) (j : Nat) : tractAt (modBlock s k f) j = tractAt s j := rfl
@[simp] theorem tractAt_modCore (s : State) (k : Nat) (f : Core → Core) (j : Nat) : tractAt (modCore s k f) j = tractAt s j := rfl
@[simp] theorem tractAt_modGang (s : State) (k : Nat) (f : Gang → Gang) (j : Nat) : tractAt (modGang s k f) j = tractAt s j := rfl
@[simp] theorem tractAt_modLaunch (s : State) (k : Nat) (f : Launch → Launch) (j : Nat) : tractAt (modLaunch s k f) j = tractAt s j := rfl
@[simp] theorem tractAt_modPart (s : State) (k : Nat) (f : Partition → Partition) (j : Nat) : tractAt (modPart s k f) j = tractAt s j := rfl
@[simp] theorem tractAt_modQuad (s : State) (k : Nat) (f : Quad → Quad) (j : Nat) : tractAt (modQuad s k f) j = tractAt s j := rfl
@[simp] theorem tractAt_modDie (s : State) (k : Nat) (f : Die → Die) (j : Nat) : tractAt (modDie s k f) j = tractAt s j := rfl
@[simp] theorem tractAt_modHome (s : State) (k : Nat) (f : Home → Home) (j : Nat) : tractAt (modHome s k f) j = tractAt s j := rfl
@[simp] theorem tractAt_modModule (s : State) (f : Module → Module) (j : Nat) : tractAt (modModule s f) j = tractAt s j := rfl
@[simp] theorem tractAt_takeOff (s : State) (k : Nat) (j : Nat) : tractAt (takeOff s k) j = tractAt s j := rfl
@[simp] theorem tractAt_issued (s : State) (j : Nat) : tractAt (issued s) j = tractAt s j := rfl
@[simp] theorem quadAt_modStrand (s : State) (k : Nat) (f : Strand → Strand) (j : Nat) : quadAt (modStrand s k f) j = quadAt s j := rfl
@[simp] theorem quadAt_modSheaf (s : State) (k : Nat) (f : Sheaf → Sheaf) (j : Nat) : quadAt (modSheaf s k f) j = quadAt s j := rfl
@[simp] theorem quadAt_modBlock (s : State) (k : Nat) (f : Block → Block) (j : Nat) : quadAt (modBlock s k f) j = quadAt s j := rfl
@[simp] theorem quadAt_modCore (s : State) (k : Nat) (f : Core → Core) (j : Nat) : quadAt (modCore s k f) j = quadAt s j := rfl
@[simp] theorem quadAt_modGang (s : State) (k : Nat) (f : Gang → Gang) (j : Nat) : quadAt (modGang s k f) j = quadAt s j := rfl
@[simp] theorem quadAt_modLaunch (s : State) (k : Nat) (f : Launch → Launch) (j : Nat) : quadAt (modLaunch s k f) j = quadAt s j := rfl
@[simp] theorem quadAt_modPart (s : State) (k : Nat) (f : Partition → Partition) (j : Nat) : quadAt (modPart s k f) j = quadAt s j := rfl
@[simp] theorem quadAt_modTract (s : State) (k : Nat) (f : Tract → Tract) (j : Nat) : quadAt (modTract s k f) j = quadAt s j := rfl
@[simp] theorem quadAt_modDie (s : State) (k : Nat) (f : Die → Die) (j : Nat) : quadAt (modDie s k f) j = quadAt s j := rfl
@[simp] theorem quadAt_modHome (s : State) (k : Nat) (f : Home → Home) (j : Nat) : quadAt (modHome s k f) j = quadAt s j := rfl
@[simp] theorem quadAt_modModule (s : State) (f : Module → Module) (j : Nat) : quadAt (modModule s f) j = quadAt s j := rfl
@[simp] theorem quadAt_takeOff (s : State) (k : Nat) (j : Nat) : quadAt (takeOff s k) j = quadAt s j := rfl
@[simp] theorem quadAt_issued (s : State) (j : Nat) : quadAt (issued s) j = quadAt s j := rfl
@[simp] theorem dieAt_modStrand (s : State) (k : Nat) (f : Strand → Strand) (j : Nat) : dieAt (modStrand s k f) j = dieAt s j := rfl
@[simp] theorem dieAt_modSheaf (s : State) (k : Nat) (f : Sheaf → Sheaf) (j : Nat) : dieAt (modSheaf s k f) j = dieAt s j := rfl
@[simp] theorem dieAt_modBlock (s : State) (k : Nat) (f : Block → Block) (j : Nat) : dieAt (modBlock s k f) j = dieAt s j := rfl
@[simp] theorem dieAt_modCore (s : State) (k : Nat) (f : Core → Core) (j : Nat) : dieAt (modCore s k f) j = dieAt s j := rfl
@[simp] theorem dieAt_modGang (s : State) (k : Nat) (f : Gang → Gang) (j : Nat) : dieAt (modGang s k f) j = dieAt s j := rfl
@[simp] theorem dieAt_modLaunch (s : State) (k : Nat) (f : Launch → Launch) (j : Nat) : dieAt (modLaunch s k f) j = dieAt s j := rfl
@[simp] theorem dieAt_modPart (s : State) (k : Nat) (f : Partition → Partition) (j : Nat) : dieAt (modPart s k f) j = dieAt s j := rfl
@[simp] theorem dieAt_modTract (s : State) (k : Nat) (f : Tract → Tract) (j : Nat) : dieAt (modTract s k f) j = dieAt s j := rfl
@[simp] theorem dieAt_modQuad (s : State) (k : Nat) (f : Quad → Quad) (j : Nat) : dieAt (modQuad s k f) j = dieAt s j := rfl
@[simp] theorem dieAt_modHome (s : State) (k : Nat) (f : Home → Home) (j : Nat) : dieAt (modHome s k f) j = dieAt s j := rfl
@[simp] theorem dieAt_modModule (s : State) (f : Module → Module) (j : Nat) : dieAt (modModule s f) j = dieAt s j := rfl
@[simp] theorem dieAt_takeOff (s : State) (k : Nat) (j : Nat) : dieAt (takeOff s k) j = dieAt s j := rfl
@[simp] theorem dieAt_issued (s : State) (j : Nat) : dieAt (issued s) j = dieAt s j := rfl
@[simp] theorem homeAt_modStrand (s : State) (k : Nat) (f : Strand → Strand) (j : Nat) : homeAt (modStrand s k f) j = homeAt s j := rfl
@[simp] theorem homeAt_modSheaf (s : State) (k : Nat) (f : Sheaf → Sheaf) (j : Nat) : homeAt (modSheaf s k f) j = homeAt s j := rfl
@[simp] theorem homeAt_modBlock (s : State) (k : Nat) (f : Block → Block) (j : Nat) : homeAt (modBlock s k f) j = homeAt s j := rfl
@[simp] theorem homeAt_modCore (s : State) (k : Nat) (f : Core → Core) (j : Nat) : homeAt (modCore s k f) j = homeAt s j := rfl
@[simp] theorem homeAt_modGang (s : State) (k : Nat) (f : Gang → Gang) (j : Nat) : homeAt (modGang s k f) j = homeAt s j := rfl
@[simp] theorem homeAt_modLaunch (s : State) (k : Nat) (f : Launch → Launch) (j : Nat) : homeAt (modLaunch s k f) j = homeAt s j := rfl
@[simp] theorem homeAt_modPart (s : State) (k : Nat) (f : Partition → Partition) (j : Nat) : homeAt (modPart s k f) j = homeAt s j := rfl
@[simp] theorem homeAt_modTract (s : State) (k : Nat) (f : Tract → Tract) (j : Nat) : homeAt (modTract s k f) j = homeAt s j := rfl
@[simp] theorem homeAt_modQuad (s : State) (k : Nat) (f : Quad → Quad) (j : Nat) : homeAt (modQuad s k f) j = homeAt s j := rfl
@[simp] theorem homeAt_modDie (s : State) (k : Nat) (f : Die → Die) (j : Nat) : homeAt (modDie s k f) j = homeAt s j := rfl
@[simp] theorem homeAt_modModule (s : State) (f : Module → Module) (j : Nat) : homeAt (modModule s f) j = homeAt s j := rfl
@[simp] theorem homeAt_takeOff (s : State) (k : Nat) (j : Nat) : homeAt (takeOff s k) j = homeAt s j := rfl
@[simp] theorem homeAt_issued (s : State) (j : Nat) : homeAt (issued s) j = homeAt s j := rfl

/-! ## What a step of a strand leaves, and what a step of a home does -/

@[simp] theorem quiet_mem (s t : State) : (quiet s t).mem = s.mem := rfl
@[simp] theorem quiet_badLines (s t : State) : (quiet s t).badLines = s.badLines := rfl
@[simp] theorem commit_mem (s : State) (r : State × List MemEffect) : (commit s r).mem = memApply s.mem r.2 := rfl
@[simp] theorem quiet_bundle (s t : State) : (quiet s t).ctl.bundle = keptBundle s t := rfl
@[simp] theorem executed_bundle (s t : State) : (executed s t).ctl.bundle = none := rfl
@[simp] theorem atIssue_bundle (s t : State) : (atIssue s t).ctl.bundle = t.ctl.bundle.map (soundBundle t) := rfl
@[simp] theorem commit_bundle (s : State) (r : State × List MemEffect) : (commit s r).ctl.bundle = keptBundle s r.1 := rfl
@[simp] theorem executed_mem (s t : State) : (executed s t).mem = s.mem := rfl
@[simp] theorem executed_badLines (s t : State) : (executed s t).badLines = s.badLines := rfl
@[simp] theorem executed_now (s t : State) : (executed s t).now = t.now := rfl
@[simp] theorem executed_parity (s t : State) : (executed s t).parity = t.parity := rfl
@[simp] theorem executed_strands (s t : State) : (executed s t).strands = t.strands := rfl
@[simp] theorem executed_sheaves (s t : State) : (executed s t).sheaves = t.sheaves := rfl
@[simp] theorem executed_blocks (s t : State) : (executed s t).blocks = t.blocks := rfl
@[simp] theorem executed_cores (s t : State) : (executed s t).cores = t.cores := rfl
@[simp] theorem executed_gangs (s t : State) : (executed s t).gangs = t.gangs := rfl
@[simp] theorem executed_launches (s t : State) : (executed s t).launches = t.launches := rfl
@[simp] theorem executed_parts (s t : State) : (executed s t).parts = t.parts := rfl
@[simp] theorem executed_tracts (s t : State) : (executed s t).tracts = t.tracts := rfl
@[simp] theorem executed_quads (s t : State) : (executed s t).quads = t.quads := rfl
@[simp] theorem executed_dies (s t : State) : (executed s t).dies = t.dies := rfl
@[simp] theorem executed_homes (s t : State) : (executed s t).homes = t.homes := rfl
@[simp] theorem executed_net (s t : State) : (executed s t).net = t.net := rfl
@[simp] theorem executed_origins (s t : State) : (executed s t).origins = t.origins := rfl
@[simp] theorem executed_module (s t : State) : (executed s t).module = t.module := rfl
@[simp] theorem executed_sent (s t : State) : (executed s t).sent = t.sent := rfl
@[simp] theorem atIssue_mem (s t : State) : (atIssue s t).mem = s.mem := rfl
@[simp] theorem atIssue_badLines (s t : State) : (atIssue s t).badLines = s.badLines := rfl
@[simp] theorem atIssue_now (s t : State) : (atIssue s t).now = t.now := rfl
@[simp] theorem atIssue_parity (s t : State) : (atIssue s t).parity = t.parity := rfl
@[simp] theorem atIssue_strands (s t : State) : (atIssue s t).strands = t.strands := rfl
@[simp] theorem atIssue_sheaves (s t : State) : (atIssue s t).sheaves = t.sheaves := rfl
@[simp] theorem atIssue_blocks (s t : State) : (atIssue s t).blocks = t.blocks := rfl
@[simp] theorem atIssue_cores (s t : State) : (atIssue s t).cores = t.cores := rfl
@[simp] theorem atIssue_gangs (s t : State) : (atIssue s t).gangs = t.gangs := rfl
@[simp] theorem atIssue_launches (s t : State) : (atIssue s t).launches = t.launches := rfl
@[simp] theorem atIssue_parts (s t : State) : (atIssue s t).parts = t.parts := rfl
@[simp] theorem atIssue_tracts (s t : State) : (atIssue s t).tracts = t.tracts := rfl
@[simp] theorem atIssue_quads (s t : State) : (atIssue s t).quads = t.quads := rfl
@[simp] theorem atIssue_dies (s t : State) : (atIssue s t).dies = t.dies := rfl
@[simp] theorem atIssue_homes (s t : State) : (atIssue s t).homes = t.homes := rfl
@[simp] theorem atIssue_net (s t : State) : (atIssue s t).net = t.net := rfl
@[simp] theorem atIssue_origins (s t : State) : (atIssue s t).origins = t.origins := rfl
@[simp] theorem atIssue_module (s t : State) : (atIssue s t).module = t.module := rfl
@[simp] theorem atIssue_sent (s t : State) : (atIssue s t).sent = t.sent := rfl
@[simp] theorem quiet_now (s t : State) : (quiet s t).now = t.now := rfl
@[simp] theorem quiet_parity (s t : State) : (quiet s t).parity = t.parity := rfl
@[simp] theorem quiet_strands (s t : State) : (quiet s t).strands = t.strands := rfl
@[simp] theorem quiet_sheaves (s t : State) : (quiet s t).sheaves = t.sheaves := rfl
@[simp] theorem quiet_blocks (s t : State) : (quiet s t).blocks = t.blocks := rfl
@[simp] theorem quiet_cores (s t : State) : (quiet s t).cores = t.cores := rfl
@[simp] theorem quiet_gangs (s t : State) : (quiet s t).gangs = t.gangs := rfl
@[simp] theorem quiet_launches (s t : State) : (quiet s t).launches = t.launches := rfl
@[simp] theorem quiet_parts (s t : State) : (quiet s t).parts = t.parts := rfl
@[simp] theorem quiet_tracts (s t : State) : (quiet s t).tracts = t.tracts := rfl
@[simp] theorem quiet_quads (s t : State) : (quiet s t).quads = t.quads := rfl
@[simp] theorem quiet_dies (s t : State) : (quiet s t).dies = t.dies := rfl
@[simp] theorem quiet_homes (s t : State) : (quiet s t).homes = t.homes := rfl
@[simp] theorem quiet_net (s t : State) : (quiet s t).net = t.net := rfl
@[simp] theorem quiet_origins (s t : State) : (quiet s t).origins = t.origins := rfl
@[simp] theorem quiet_module (s t : State) : (quiet s t).module = t.module := rfl
@[simp] theorem quiet_sent (s t : State) : (quiet s t).sent = t.sent := rfl
@[simp] theorem commit_now (s : State) (r : State × List MemEffect) : (commit s r).now = r.1.now := rfl
@[simp] theorem commit_parity (s : State) (r : State × List MemEffect) : (commit s r).parity = r.1.parity := rfl
@[simp] theorem commit_badLines (s : State) (r : State × List MemEffect) : (commit s r).badLines = r.1.badLines := rfl
@[simp] theorem commit_strands (s : State) (r : State × List MemEffect) : (commit s r).strands = r.1.strands := rfl
@[simp] theorem commit_sheaves (s : State) (r : State × List MemEffect) : (commit s r).sheaves = r.1.sheaves := rfl
@[simp] theorem commit_blocks (s : State) (r : State × List MemEffect) : (commit s r).blocks = r.1.blocks := rfl
@[simp] theorem commit_cores (s : State) (r : State × List MemEffect) : (commit s r).cores = r.1.cores := rfl
@[simp] theorem commit_gangs (s : State) (r : State × List MemEffect) : (commit s r).gangs = r.1.gangs := rfl
@[simp] theorem commit_launches (s : State) (r : State × List MemEffect) : (commit s r).launches = r.1.launches := rfl
@[simp] theorem commit_parts (s : State) (r : State × List MemEffect) : (commit s r).parts = r.1.parts := rfl
@[simp] theorem commit_tracts (s : State) (r : State × List MemEffect) : (commit s r).tracts = r.1.tracts := rfl
@[simp] theorem commit_quads (s : State) (r : State × List MemEffect) : (commit s r).quads = r.1.quads := rfl
@[simp] theorem commit_dies (s : State) (r : State × List MemEffect) : (commit s r).dies = r.1.dies := rfl
@[simp] theorem commit_homes (s : State) (r : State × List MemEffect) : (commit s r).homes = r.1.homes := rfl
@[simp] theorem commit_net (s : State) (r : State × List MemEffect) : (commit s r).net = r.1.net := rfl
@[simp] theorem commit_origins (s : State) (r : State × List MemEffect) : (commit s r).origins = r.1.origins := rfl
@[simp] theorem commit_module (s : State) (r : State × List MemEffect) : (commit s r).module = r.1.module := rfl
@[simp] theorem commit_sent (s : State) (r : State × List MemEffect) : (commit s r).sent = r.1.sent := rfl
@[simp] theorem strandAt_quiet (s t : State) (j : Nat) : strandAt (quiet s t) j = strandAt t j := rfl
@[simp] theorem strandAt_executed (s t : State) (j : Nat) : strandAt (executed s t) j = strandAt t j := rfl
@[simp] theorem strandAt_atIssue (s t : State) (j : Nat) : strandAt (atIssue s t) j = strandAt t j := rfl
@[simp] theorem strandAt_commit (s : State) (r : State × List MemEffect) (j : Nat) : strandAt (commit s r) j = strandAt r.1 j := rfl
@[simp] theorem sheafAt_quiet (s t : State) (j : Nat) : sheafAt (quiet s t) j = sheafAt t j := rfl
@[simp] theorem sheafAt_executed (s t : State) (j : Nat) : sheafAt (executed s t) j = sheafAt t j := rfl
@[simp] theorem sheafAt_atIssue (s t : State) (j : Nat) : sheafAt (atIssue s t) j = sheafAt t j := rfl
@[simp] theorem sheafAt_commit (s : State) (r : State × List MemEffect) (j : Nat) : sheafAt (commit s r) j = sheafAt r.1 j := rfl
@[simp] theorem blockAt_quiet (s t : State) (j : Nat) : blockAt (quiet s t) j = blockAt t j := rfl
@[simp] theorem blockAt_executed (s t : State) (j : Nat) : blockAt (executed s t) j = blockAt t j := rfl
@[simp] theorem blockAt_atIssue (s t : State) (j : Nat) : blockAt (atIssue s t) j = blockAt t j := rfl
@[simp] theorem blockAt_commit (s : State) (r : State × List MemEffect) (j : Nat) : blockAt (commit s r) j = blockAt r.1 j := rfl
@[simp] theorem coreAt_quiet (s t : State) (j : Nat) : coreAt (quiet s t) j = coreAt t j := rfl
@[simp] theorem coreAt_executed (s t : State) (j : Nat) : coreAt (executed s t) j = coreAt t j := rfl
@[simp] theorem coreAt_atIssue (s t : State) (j : Nat) : coreAt (atIssue s t) j = coreAt t j := rfl
@[simp] theorem coreAt_commit (s : State) (r : State × List MemEffect) (j : Nat) : coreAt (commit s r) j = coreAt r.1 j := rfl
@[simp] theorem gangAt_quiet (s t : State) (j : Nat) : gangAt (quiet s t) j = gangAt t j := rfl
@[simp] theorem gangAt_executed (s t : State) (j : Nat) : gangAt (executed s t) j = gangAt t j := rfl
@[simp] theorem gangAt_atIssue (s t : State) (j : Nat) : gangAt (atIssue s t) j = gangAt t j := rfl
@[simp] theorem gangAt_commit (s : State) (r : State × List MemEffect) (j : Nat) : gangAt (commit s r) j = gangAt r.1 j := rfl
@[simp] theorem launchAt_quiet (s t : State) (j : Nat) : launchAt (quiet s t) j = launchAt t j := rfl
@[simp] theorem launchAt_executed (s t : State) (j : Nat) : launchAt (executed s t) j = launchAt t j := rfl
@[simp] theorem launchAt_atIssue (s t : State) (j : Nat) : launchAt (atIssue s t) j = launchAt t j := rfl
@[simp] theorem launchAt_commit (s : State) (r : State × List MemEffect) (j : Nat) : launchAt (commit s r) j = launchAt r.1 j := rfl
@[simp] theorem partAt_quiet (s t : State) (j : Nat) : partAt (quiet s t) j = partAt t j := rfl
@[simp] theorem partAt_executed (s t : State) (j : Nat) : partAt (executed s t) j = partAt t j := rfl
@[simp] theorem partAt_atIssue (s t : State) (j : Nat) : partAt (atIssue s t) j = partAt t j := rfl
@[simp] theorem partAt_commit (s : State) (r : State × List MemEffect) (j : Nat) : partAt (commit s r) j = partAt r.1 j := rfl
@[simp] theorem tractAt_quiet (s t : State) (j : Nat) : tractAt (quiet s t) j = tractAt t j := rfl
@[simp] theorem tractAt_executed (s t : State) (j : Nat) : tractAt (executed s t) j = tractAt t j := rfl
@[simp] theorem tractAt_atIssue (s t : State) (j : Nat) : tractAt (atIssue s t) j = tractAt t j := rfl
@[simp] theorem tractAt_commit (s : State) (r : State × List MemEffect) (j : Nat) : tractAt (commit s r) j = tractAt r.1 j := rfl
@[simp] theorem quadAt_quiet (s t : State) (j : Nat) : quadAt (quiet s t) j = quadAt t j := rfl
@[simp] theorem quadAt_executed (s t : State) (j : Nat) : quadAt (executed s t) j = quadAt t j := rfl
@[simp] theorem quadAt_atIssue (s t : State) (j : Nat) : quadAt (atIssue s t) j = quadAt t j := rfl
@[simp] theorem quadAt_commit (s : State) (r : State × List MemEffect) (j : Nat) : quadAt (commit s r) j = quadAt r.1 j := rfl
@[simp] theorem dieAt_quiet (s t : State) (j : Nat) : dieAt (quiet s t) j = dieAt t j := rfl
@[simp] theorem dieAt_executed (s t : State) (j : Nat) : dieAt (executed s t) j = dieAt t j := rfl
@[simp] theorem dieAt_atIssue (s t : State) (j : Nat) : dieAt (atIssue s t) j = dieAt t j := rfl
@[simp] theorem dieAt_commit (s : State) (r : State × List MemEffect) (j : Nat) : dieAt (commit s r) j = dieAt r.1 j := rfl
@[simp] theorem homeAt_quiet (s t : State) (j : Nat) : homeAt (quiet s t) j = homeAt t j := rfl
@[simp] theorem homeAt_executed (s t : State) (j : Nat) : homeAt (executed s t) j = homeAt t j := rfl
@[simp] theorem homeAt_atIssue (s t : State) (j : Nat) : homeAt (atIssue s t) j = homeAt t j := rfl
@[simp] theorem homeAt_commit (s : State) (r : State × List MemEffect) (j : Nat) : homeAt (commit s r) j = homeAt r.1 j := rfl

end Sys2Proof.Laws
end

