-- ==== Sys2Proof/Laws/Table.lean ====
section
/-! SUPPORT. Laws of tables and of memory: a read after a write, and the canonical form that every operation keeps. -/

namespace Sys2Proof.Laws
open Sys2Proof Sys2Proof.Machine

variable {α : Type}

/-! ## Look up after set, change, erase -/

@[simp] theorem tfind_tset_same (t : List (Nat × α)) (k : Nat) (v : α) : tfind (tset t k v) k = some v := by
  induction t with
  | nil => simp [tset, tfind]
  | cons p rest ih =>
    obtain ⟨j, w⟩ := p
    simp only [tset]
    split
    · simp [tfind]
    · split
      · simp [tfind]
      · next h => simp only [tfind, if_neg (Ne.symm h), ih]

theorem tfind_tset_ne (t : List (Nat × α)) {k j : Nat} (h : j ≠ k) (v : α) : tfind (tset t k v) j = tfind t j := by
  induction t with
  | nil => simp [tset, tfind, h.symm]
  | cons p rest ih =>
    obtain ⟨i, w⟩ := p
    simp only [tset]
    split
    · simp [tfind, h.symm]
    · split
      · next e => subst e; simp [tfind, h.symm]
      · simp only [tfind, ih]

theorem tfind_tset (t : List (Nat × α)) (k j : Nat) (v : α) : tfind (tset t k v) j = if j = k then some v else tfind t j := by
  split
  · next h => subst h; exact tfind_tset_same t j v
  · next h => exact tfind_tset_ne t h v

@[simp] theorem tget_tset_same (t : List (Nat × α)) (k : Nat) (v d : α) : tget (tset t k v) k d = v := by simp [tget]

theorem tget_tset_ne (t : List (Nat × α)) {k j : Nat} (h : j ≠ k) (v d : α) : tget (tset t k v) j d = tget t j d := by
  simp [tget, tfind_tset_ne t h]

theorem tfind_tmod_ne (t : List (Nat × α)) {k j : Nat} (h : j ≠ k) (f : α → α) : tfind (tmod t k f) j = tfind t j := by
  simp only [tmod]
  split
  · exact tfind_tset_ne t h _
  · rfl

@[simp] theorem tfind_tmod_same (t : List (Nat × α)) (k : Nat) (f : α → α) : tfind (tmod t k f) k = (tfind t k).map f := by
  simp only [tmod]
  split
  · next v e => simp [e]
  · next e => simp [e]

theorem tget_tmod_ne (t : List (Nat × α)) {k j : Nat} (h : j ≠ k) (f : α → α) (d : α) : tget (tmod t k f) j d = tget t j d := by
  simp [tget, tfind_tmod_ne t h]

theorem tget_tmod_same (t : List (Nat × α)) (k : Nat) (f : α → α) (d : α) (h : (tfind t k).isSome) :
    tget (tmod t k f) k d = f (tget t k d) := by
  obtain ⟨v, e⟩ := Option.isSome_iff_exists.mp h
  simp [tget, e]

theorem tfind_terase_ne (t : List (Nat × α)) {k j : Nat} (h : j ≠ k) : tfind (terase t k) j = tfind t j := by
  induction t with
  | nil => rfl
  | cons p rest ih =>
    obtain ⟨i, w⟩ := p
    simp only [terase]
    split
    · next e => subst e; simp [tfind, h.symm]
    · simp only [tfind, ih]

/-! ## Keys rising -/

/-- Every key of a table is above a bound. -/
def Above (b : Nat) (t : List (Nat × α)) : Prop := ∀ p ∈ t, b < p.1

theorem keysRise_cons (j : Nat) (w : α) (t : List (Nat × α)) :
    keysRise ((j, w) :: t) = true ↔ Above j t ∧ keysRise t = true := by
  induction t generalizing j w with
  | nil => simp [keysRise, Above]
  | cons p rest ih =>
    obtain ⟨i, v⟩ := p
    rw [keysRise, Bool.and_eq_true, decide_eq_true_iff]
    constructor
    · rintro ⟨h1, h2⟩
      refine ⟨?_, h2⟩
      intro q hq
      rcases List.mem_cons.mp hq with rfl | hq
      · exact h1
      · exact lt_trans h1 (((ih i v).mp h2).1 q hq)
    · rintro ⟨h1, h2⟩
      exact ⟨h1 (i, v) (by simp), h2⟩

theorem above_tset {b k : Nat} {v : α} {t : List (Nat × α)} (h : Above b t) (hk : b < k) : Above b (tset t k v) := by
  induction t with
  | nil => intro p hp; simp [tset] at hp; subst hp; exact hk
  | cons q rest ih =>
    obtain ⟨j, w⟩ := q
    have hr : Above b rest := fun p hp => h p (List.mem_cons_of_mem _ hp)
    have hj : b < j := h (j, w) (by simp)
    simp only [tset]
    split
    · intro p hp
      rcases List.mem_cons.mp hp with rfl | hp
      · exact hk
      · exact h p hp
    · split
      · intro p hp
        rcases List.mem_cons.mp hp with rfl | hp
        · exact hk
        · exact hr p hp
      · intro p hp
        rcases List.mem_cons.mp hp with rfl | hp
        · exact hj
        · exact ih hr p hp

theorem keysRise_tset {t : List (Nat × α)} (h : keysRise t = true) (k : Nat) (v : α) : keysRise (tset t k v) = true := by
  induction t with
  | nil => rfl
  | cons q rest ih =>
    obtain ⟨j, w⟩ := q
    obtain ⟨ha, hr⟩ := (keysRise_cons j w rest).mp h
    simp only [tset]
    split
    · next hk =>
      refine (keysRise_cons _ _ _).mpr ⟨?_, h⟩
      intro p hp
      rcases List.mem_cons.mp hp with rfl | hp
      · exact hk
      · exact lt_trans hk (ha p hp)
    · split
      · next e => subst e; exact (keysRise_cons _ _ _).mpr ⟨ha, hr⟩
      · exact (keysRise_cons _ _ _).mpr ⟨above_tset ha (by omega), ih hr⟩

theorem mem_terase {t : List (Nat × α)} {k : Nat} {p : Nat × α} (h : p ∈ terase t k) : p ∈ t := by
  induction t with
  | nil => exact h
  | cons q rest ih =>
    obtain ⟨j, w⟩ := q
    simp only [terase] at h
    split at h
    · exact List.mem_cons_of_mem _ h
    · rcases List.mem_cons.mp h with rfl | h
      · simp
      · exact List.mem_cons_of_mem _ (ih h)

theorem keysRise_terase {t : List (Nat × α)} (h : keysRise t = true) (k : Nat) : keysRise (terase t k) = true := by
  induction t with
  | nil => rfl
  | cons q rest ih =>
    obtain ⟨j, w⟩ := q
    obtain ⟨ha, hr⟩ := (keysRise_cons j w rest).mp h
    simp only [terase]
    split
    · exact hr
    · exact (keysRise_cons _ _ _).mpr ⟨fun p hp => ha p (mem_terase hp), ih hr⟩

theorem keysRise_filter {t : List (Nat × α)} (h : keysRise t = true) (f : Nat × α → Bool) : keysRise (t.filter f) = true := by
  induction t with
  | nil => rfl
  | cons q rest ih =>
    obtain ⟨j, w⟩ := q
    obtain ⟨ha, hr⟩ := (keysRise_cons j w rest).mp h
    simp only [List.filter]
    split
    · exact (keysRise_cons _ _ _).mpr ⟨fun p hp => ha p (List.mem_of_mem_filter hp), ih hr⟩
    · exact ih hr

theorem tfind_none_of_above {t : List (Nat × α)} {b k : Nat} (h : Above b t) (hk : k ≤ b) : tfind t k = none := by
  induction t with
  | nil => rfl
  | cons q rest ih =>
    obtain ⟨j, w⟩ := q
    have hj : b < j := h (j, w) (by simp)
    simp only [tfind, if_neg (show j ≠ k by omega)]
    exact ih fun p hp => h p (List.mem_cons_of_mem _ hp)

theorem tfind_terase_same {t : List (Nat × α)} (h : keysRise t = true) (k : Nat) : tfind (terase t k) k = none := by
  induction t with
  | nil => rfl
  | cons q rest ih =>
    obtain ⟨j, w⟩ := q
    obtain ⟨ha, hr⟩ := (keysRise_cons j w rest).mp h
    simp only [terase]
    split
    · next e => subst e; exact tfind_none_of_above ha (le_refl _)
    · next e => simp only [tfind, if_neg e]; exact ih hr

/-! ## Memory: a read after a write -/

theorem memRead_memWrite_same {m : Memory} (h : m.wf = true) (a : Nat) (v : Byte) : memRead (memWrite m a v) a = v := by
  have hr : keysRise m = true := by simp only [Memory.wf, Bool.and_eq_true] at h; exact h.1
  simp only [memWrite, memRead, tget]
  split
  · next e => rw [tfind_terase_same hr, e]; rfl
  · simp

theorem memRead_memWrite_ne (m : Memory) {a b : Nat} (h : b ≠ a) (v : Byte) : memRead (memWrite m a v) b = memRead m b := by
  simp only [memWrite, memRead, tget]
  split
  · rw [tfind_terase_ne m h]
  · rw [tfind_tset_ne m h]

/-- A store of bytes leaves every other address alone. -/
theorem memRead_memWriteList_out (bs : List Byte) (m : Memory) (a b : Nat) (h : b < a ∨ a + bs.length ≤ b) :
    memRead (memWriteList m a bs) b = memRead m b := by
  induction bs generalizing m a with
  | nil => rfl
  | cons v vs ih =>
    simp only [List.length_cons] at h
    rw [memWriteList, ih (memWrite m a v) (a + 1) (by omega), memRead_memWrite_ne m (by omega)]

/-! ## Memory: the canonical form -/

theorem wf_iff (m : Memory) : m.wf = true ↔ keysRise m = true ∧ ∀ c ∈ m, c.2 ≠ Memory.unlisted := by
  simp [Memory.wf, List.all_eq_true]

theorem mem_tset {t : List (Nat × α)} {k : Nat} {v : α} {p : Nat × α} (h : p ∈ tset t k v) : p = (k, v) ∨ p ∈ t := by
  induction t with
  | nil => simp [tset] at h; exact .inl h
  | cons q rest ih =>
    obtain ⟨j, w⟩ := q
    simp only [tset] at h
    split at h
    · rcases List.mem_cons.mp h with rfl | h
      · exact .inl rfl
      · exact .inr h
    · split at h
      · rcases List.mem_cons.mp h with rfl | h
        · exact .inl rfl
        · exact .inr (List.mem_cons_of_mem _ h)
      · rcases List.mem_cons.mp h with rfl | h
        · exact .inr (by simp)
        · rcases ih h with h | h
          · exact .inl h
          · exact .inr (List.mem_cons_of_mem _ h)

/-- A byte store keeps the canonical form. -/
theorem wf_memWrite {m : Memory} (h : m.wf = true) (a : Nat) (v : Byte) : (memWrite m a v).wf = true := by
  rw [wf_iff] at h ⊢
  simp only [memWrite]
  split
  · exact ⟨keysRise_terase h.1 a, fun c hc => h.2 c (mem_terase hc)⟩
  · next hv =>
    refine ⟨keysRise_tset h.1 a v, fun c hc => ?_⟩
    rcases mem_tset hc with rfl | hc
    · exact hv
    · exact h.2 c hc

/-- A store of bytes keeps the canonical form. -/
theorem wf_memWriteList (bs : List Byte) {m : Memory} (h : m.wf = true) (a : Nat) : (memWriteList m a bs).wf = true := by
  induction bs generalizing m a with
  | nil => exact h
  | cons v vs ih => exact ih (wf_memWrite h a v) (a + 1)

/-- Zeroing a range keeps the canonical form. -/
theorem wf_memZero {m : Memory} (h : m.wf = true) (lo hi : Nat) : (memZero m lo hi).wf = true := by
  rw [wf_iff] at h ⊢
  exact ⟨keysRise_filter h.1 _, fun c hc => h.2 c (List.mem_of_mem_filter hc)⟩

/-- One effect keeps the canonical form. -/
theorem wf_apply {m : Memory} (h : m.wf = true) (e : MemEffect) : (e.apply m).wf = true := by
  cases e with
  | store a bytes => exact wf_memWriteList bytes h a
  | zero lo hi => exact wf_memZero h lo hi

/-- Effects keep the canonical form. -/
theorem wf_memApply (es : List MemEffect) {m : Memory} (h : m.wf = true) : (memApply m es).wf = true := by
  induction es generalizing m with
  | nil => exact h
  | cons e es ih => exact ih (wf_apply h e)

end Sys2Proof.Laws
end

