-- ==== Sys2Proof/Laws/Bundle.lean ====
section
/-! SUPPORT. What a bundle's execution does once its checks find nothing, and what folds over strands leave. -/

namespace Sys2Proof.Laws
open Sys2Proof.Machine

/-! ## Lists without repeats -/

theorem mem_nub {x : Nat} : ∀ {l : List Nat}, x ∈ nub l ↔ x ∈ l
  | [] => by simp [nub]
  | y :: ys => by
    by_cases h : x = y
    · simp [nub, h]
    · simp [nub, mem_nub (l := ys), h]

theorem nodup_nub : ∀ l : List Nat, (nub l).Nodup
  | [] => by simp [nub]
  | y :: ys => by
    simp only [nub, List.nodup_cons]
    exact ⟨by simp, (nodup_nub ys).filter _⟩

/-! ## Strands in ascending home lane (R10, R147) -/

theorem mem_insertLane {s : State} {k x : Nat} : ∀ {l : List Nat}, x ∈ insertLane s k l → x = k ∨ x ∈ l
  | [], h => by simpa [insertLane] using h
  | j :: js, h => by
    simp only [insertLane] at h
    split at h
    · simpa using h
    · split at h
      · exact .inr h
      · rcases List.mem_cons.1 h with rfl | h
        · simp
        · rcases mem_insertLane h with h | h <;> simp [h]

theorem insertLane_order {s : State} {k : Nat} : ∀ {l : List Nat}, LaneOrder s l → LaneOrder s (insertLane s k l)
  | [], _ => by simp [insertLane]
  | j :: js, h => by
    obtain ⟨hj, hs⟩ := List.pairwise_cons.1 h
    simp only [insertLane]
    split
    · next hk => exact List.pairwise_cons.2 ⟨fun x hx => by
        rcases List.mem_cons.1 hx with rfl | hx
        · exact hk
        · exact Nat.lt_trans hk (hj x hx), h⟩
    · split
      · exact h
      · next h1 h2 => exact List.pairwise_cons.2 ⟨fun x hx => by
          rcases mem_insertLane hx with rfl | hx
          · omega
          · exact hj x hx, insertLane_order hs⟩

theorem byLane_order (s : State) : ∀ ks : List Nat, LaneOrder s (byLane s ks)
  | [] => List.Pairwise.nil
  | _ :: ks => insertLane_order (byLane_order s ks)

theorem mem_byLane {s : State} {x : Nat} : ∀ {ks : List Nat}, x ∈ byLane s ks → x ∈ ks
  | [], h => h
  | _ :: _, h => by
    rcases mem_insertLane h with rfl | h
    · simp
    · exact List.mem_cons_of_mem _ (mem_byLane h)

theorem LaneOrder.nodup {s : State} {ks : List Nat} (h : LaneOrder s ks) : ks.Nodup :=
  List.Pairwise.imp (fun h => by rintro rfl; omega) h

/-! ## Checks -/

theorem cause_ok : Verdict.ok.cause = none := rfl

/-- Checks that find nothing decide to go on. -/
theorem decideAll_go {ps : List Nat} {check : Nat → Verdict} (h : AllPass ps check) : decideAll ps check = .go := by
  have hb : (ps.filterMap fun k => (check k).cause.map fun c => (k, c)) = [] := by
    rw [List.filterMap_eq_nil_iff]; intro k hk; rw [h k hk]; rfl
  have hp : (ps.any fun k => (check k).poison) = false := by
    rw [List.any_eq_false]; intro k hk; rw [h k hk]; decide
  have hf : (ps.any fun k => (check k).fenced) = false := by
    rw [List.any_eq_false]; intro k hk; rw [h k hk]; decide
  have hv : (ps.flatMap fun k => (check k).faults) = [] := by
    rw [List.flatMap_eq_nil_iff]; intro k hk; rw [h k hk]; rfl
  simp [decideAll, hb, hp, hf, hv, nub]

/-- Checks that find nothing log no walk. -/
theorem logWalks_pass (s : State) (core : Nat) : ∀ {ps : List Nat} {check : Nat → Verdict}, AllPass ps check →
    logWalks s core (ps.map check) = s
  | [], _, _ => rfl
  | k :: ks, check, h => by
    have hk : check k = Verdict.ok := h k (by simp)
    have := logWalks_pass s core (ps := ks) (check := check) fun j hj => h j (by simp [hj])
    simpa [logWalks, hk, Verdict.ok] using this

/-- A bundle whose participants pass the checks: the bystanders advance, then the effect. -/
theorem runBundle_pass {s : State} {b : Bundle} {g : Guard} {len : Nat} {acc : Access} {check : State → Nat → Verdict}
    {effect : State → Bundle → List Nat → State} (hb : s.ctl.bundle = some b)
    (h : AllPass (participants s b g) (check (issued s))) :
    runBundle s g len acc check effect = effect (advanceAll (issued s) len (bystanders s b g)) b (participants s b g) := by
  have hp : participants (issued s) b g = participants s b g := rfl
  have hy : bystanders (issued s) b g = bystanders s b g := rfl
  simp only [runBundle, hb, hp, hy, decideAll_go h, logWalks_pass _ _ h, act]

/-! ## Folds over strands -/

/-- A fold of per-strand updates over strands without repeats, each of which the table holds. -/
theorem strandAt_foldl_modStrand (f : Nat → Strand → Strand) : ∀ {ks : List Nat} {s : State}, ks.Nodup →
    (∀ k ∈ ks, (tfind s.strands k).isSome) → ∀ j,
    strandAt (ks.foldl (fun t k => modStrand t k (f k)) s) j = if j ∈ ks then f j (strandAt s j) else strandAt s j
  | [], _, _, _, _ => by simp
  | k :: ks, s, hn, hs, j => by
    have hn' := List.nodup_cons.mp hn
    have hk := hs k (by simp)
    have hs' : ∀ i ∈ ks, (tfind (modStrand s k (f k)).strands i).isSome := by
      intro i hi
      have hne : i ≠ k := fun e => hn'.1 (e ▸ hi)
      simpa [tfind_tmod_ne _ hne] using hs i (by simp [hi])
    rw [List.foldl_cons, strandAt_foldl_modStrand f hn'.2 hs' j]
    by_cases hj : j = k
    · subst hj
      simp [hn'.1, strandAt, tget_tmod_same _ _ _ _ hk]
    · simp [hj, strandAt, tget_tmod_ne _ hj]

/-- Such a fold changes nothing but strands. -/
theorem foldl_modStrand_rest (f : Nat → Strand → Strand) : ∀ (ks : List Nat) (s : State),
    ks.foldl (fun t k => modStrand t k (f k)) s = { s with strands := (ks.foldl (fun t k => modStrand t k (f k)) s).strands }
  | [], _ => rfl
  | k :: ks, s => by
    rw [List.foldl_cons, foldl_modStrand_rest f ks (modStrand s k (f k))]
    rfl

theorem strandAt_advanceAll {ks : List Nat} {s : State} (len : Nat) (hn : ks.Nodup)
    (hs : ∀ k ∈ ks, (tfind s.strands k).isSome) (j : Nat) :
    strandAt (advanceAll s len ks) j = if j ∈ ks then (strandAt s j).past len else strandAt s j := by
  simpa [advanceAll, advance, Strand.past] using strandAt_foldl_modStrand (fun _ x => Strand.past x len) hn hs j

theorem advanceAll_rest (s : State) (len : Nat) (ks : List Nat) :
    advanceAll s len ks = { s with strands := (advanceAll s len ks).strands } :=
  foldl_modStrand_rest (fun _ x => Strand.past x len) ks s

theorem isSome_tmod {α : Type} (t : List (Nat × α)) (k j : Nat) (f : α → α) : (tfind (tmod t k f) j).isSome = (tfind t j).isSome := by
  by_cases h : j = k
  · subst h; simp
  · rw [tfind_tmod_ne _ h]

theorem isSome_foldl_modStrand (f : Nat → Strand → Strand) : ∀ (ks : List Nat) (s : State) (j : Nat),
    (tfind (ks.foldl (fun t k => modStrand t k (f k)) s).strands j).isSome = (tfind s.strands j).isSome
  | [], _, _ => rfl
  | k :: ks, s, j => by
    rw [List.foldl_cons, isSome_foldl_modStrand f ks, modStrand_strands, isSome_tmod]

/-! ## Standing bundles -/

theorem standing_present {s : State} {b : Bundle} (h : Standing s b) {k : Nat} (hk : k ∈ b.strands) :
    (tfind s.strands k).isSome := by
  have := h.2.2.2 k hk; simp only [standsIn, Bool.and_eq_true] at this; exact this.1.1.1.1.1.1.1

theorem standing_sheaf {s : State} {b : Bundle} (h : Standing s b) {k : Nat} (hk : k ∈ b.strands) :
    (tfind s.sheaves (sheafOf k)).isSome := by
  have := h.2.2.2 k hk; simp only [standsIn, Bool.and_eq_true] at this; exact this.1.1.1.1.1.1.2

theorem standing_inWidth {s : State} {b : Bundle} (h : Standing s b) {k : Nat} (hk : k ∈ b.strands) :
    k % 64 < (sheafAt s (sheafOf k)).width := by
  have := h.2.2.2 k hk; simp only [standsIn, Bool.and_eq_true, decide_eq_true_eq] at this; exact this.1.1.1.1.1.2

theorem standing_block {s : State} {b : Bundle} (h : Standing s b) {k : Nat} (hk : k ∈ b.strands) : blockOf s k = b.block := by
  have := h.2.2.2 k hk; simp only [standsIn, Bool.and_eq_true, beq_iff_eq] at this; exact this.1.1.1.1.2

theorem standing_core {s : State} {b : Bundle} (h : Standing s b) {k : Nat} (hk : k ∈ b.strands) : coreOf k = b.core := by
  have := h.2.2.2 k hk; simp only [standsIn, Bool.and_eq_true, beq_iff_eq] at this; exact this.1.1.2

theorem standing_pc {s : State} {b : Bundle} (h : Standing s b) {k : Nat} (hk : k ∈ b.strands) : (strandAt s k).pc = b.pc := by
  have := h.2.2.2 k hk; simp only [standsIn, Bool.and_eq_true, beq_iff_eq] at this; exact this.1.2

theorem participants_sub {s : State} {b : Bundle} {g : Guard} {k : Nat} (h : k ∈ participants s b g) : k ∈ b.strands :=
  (List.mem_filter.mp h).1

theorem bystanders_sub {s : State} {b : Bundle} {g : Guard} {k : Nat} (h : k ∈ bystanders s b g) : k ∈ b.strands :=
  (List.mem_filter.mp h).1

theorem mem_bystanders {s : State} {b : Bundle} {g : Guard} {k : Nat} :
    k ∈ bystanders s b g ↔ k ∈ b.strands ∧ k ∉ participants s b g := by
  simp only [bystanders, participants, List.mem_filter, Bool.not_eq_true', not_and, Bool.not_eq_true]
  exact ⟨fun h => ⟨h.1, fun _ => h.2⟩, fun h => ⟨h.1, h.2 h.1⟩⟩

theorem standing_participants_nodup {s : State} {b : Bundle} (h : Standing s b) (g : Guard) : (participants s b g).Nodup :=
  h.2.1.filter _

theorem standing_bystanders_nodup {s : State} {b : Bundle} (h : Standing s b) (g : Guard) : (bystanders s b g).Nodup :=
  h.2.1.filter _

/-- Bystanders advance, and each participant becomes what f makes of it: the whole bundle after a step that acts on strands
alone. -/
theorem bundleBecomes_fold {s : State} {b : Bundle} (h : Standing s b) (g : Guard) (len : Nat) (f : Nat → Strand → Strand) :
    BundleBecomes s
      ((participants s b g).foldl (fun t k => modStrand t k (f k)) (advanceAll (issued s) len (bystanders s b g)))
      b (participants s b g) len f := by
  intro j
  have hb : ∀ k ∈ bystanders s b g, (tfind (issued s).strands k).isSome := fun k hk => standing_present h (bystanders_sub hk)
  have hadv : ∀ i, (tfind (advanceAll (issued s) len (bystanders s b g)).strands i).isSome = (tfind s.strands i).isSome := by
    intro i; exact isSome_foldl_modStrand (fun _ x => Strand.past x len) _ (issued s) i
  rw [strandAt_foldl_modStrand f (standing_participants_nodup h g) (fun k hk => by rw [hadv]; exact standing_present h (participants_sub hk)),
    strandAt_advanceAll len (standing_bystanders_nodup h g) hb]
  have he : strandAt (issued s) j = strandAt s j := rfl
  rw [he]
  by_cases hj : j ∈ participants s b g
  · have hy : j ∉ bystanders s b g := fun hm => (mem_bystanders.mp hm).2 hj
    simp only [hj, hy, if_true, if_false]
  · by_cases hs : j ∈ b.strands
    · have hy : j ∈ bystanders s b g := mem_bystanders.mpr ⟨hs, hj⟩
      simp only [hj, hy, hs, if_true, if_false]
    · have hy : j ∉ bystanders s b g := fun hm => hs (mem_bystanders.mp hm).1
      simp only [hj, hy, hs, if_false]

/-- The same for an effect that first advances the participants. -/
theorem foldl_modStrand_comp (f g : Nat → Strand → Strand) {ks : List Nat} {s : State} (hn : ks.Nodup)
    (hs : ∀ k ∈ ks, (tfind s.strands k).isSome) (j : Nat) :
    strandAt (ks.foldl (fun t k => modStrand t k (f k)) (ks.foldl (fun t k => modStrand t k (g k)) s)) j =
      if j ∈ ks then f j (g j (strandAt s j)) else strandAt s j := by
  rw [strandAt_foldl_modStrand f hn (fun k hk => by rw [isSome_foldl_modStrand]; exact hs k hk),
    strandAt_foldl_modStrand g hn hs]
  split <;> simp [*]

end Sys2Proof.Laws
end

