-- ==== Sys2Proof/Laws/Ops.lean ====
section
/-! SUPPORT. What shared operations can do: what loads have returned (R177), ticks that pass (R26, R30), the arbiter's pool
(R29), redirects (R61), stores into a scratchpad that commands race with (R389), fills of a slice's ways (R70, R307). -/

namespace Sys2Proof.Laws
open Sys2Proof.Machine

/-! ## What a strand's loads have returned -/

@[simp] theorem noteSeen_mem (s : State) (k born : Nat) (pas : List Nat) : (noteSeen s k born pas).mem = s.mem := rfl
@[simp] theorem noteSeen_cores (s : State) (k born : Nat) (pas : List Nat) : (noteSeen s k born pas).cores = s.cores := rfl
@[simp] theorem noteSeen_net (s : State) (k born : Nat) (pas : List Nat) : (noteSeen s k born pas).net = s.net := rfl
@[simp] theorem noteSeen_blocks (s : State) (k born : Nat) (pas : List Nat) : (noteSeen s k born pas).blocks = s.blocks := rfl
@[simp] theorem noteSeen_sheaves (s : State) (k born : Nat) (pas : List Nat) : (noteSeen s k born pas).sheaves = s.sheaves := rfl

/-- Of a strand only what its loads have returned changes. -/
theorem strandAt_noteSeen (s : State) (k born : Nat) (pas : List Nat) (j : Nat) :
    strandAt (noteSeen s k born pas) j = { strandAt s j with seen := (strandAt (noteSeen s k born pas) j).seen } := by
  unfold strandAt noteSeen
  simp only [modStrand_strands]
  by_cases hj : j = k
  · subst hj
    unfold tget
    rw [tfind_tmod_same]
    cases tfind s.strands j <;> rfl
  · rw [tget_tmod_ne _ hj]

/-! ## Ticks -/

/-- Where ticks pass, DT does. -/
theorem passTicks_now (s : State) (n : Nat) : (passTicks s n).now = s.now + n := by
  unfold passTicks
  split
  · omega
  · dsimp only
    split <;> rfl

@[simp] theorem passTicks_mem (s : State) (n : Nat) : (passTicks s n).mem = s.mem := by
  unfold passTicks
  split
  · rfl
  · dsimp only
    split <;> rfl

@[simp] theorem passTicks_strands (s : State) (n : Nat) : (passTicks s n).strands = s.strands := by
  unfold passTicks
  split
  · rfl
  · dsimp only
    split <;> rfl

@[simp] theorem passTicks_ctl (s : State) (n : Nat) : (passTicks s n).ctl = s.ctl := by
  unfold passTicks
  split
  · rfl
  · dsimp only
    split <;> rfl

@[simp] theorem passTicks_zero (s : State) : passTicks s 0 = s := rfl

/-- A quad that holds no cycle has had none. -/
theorem cyclesBetween_self (a : Nat) : cyclesBetween a a = 0 := by simp [cyclesBetween]

/-! ## The arbiter's pool -/

/-- No bid gets more than its room. -/
theorem levels_le (total m : Nat) (b : Bid) : b.levels total m ≤ b.room := Nat.min_le_left _ _

/-- What the rate spends is never more than the pool. -/
theorem spent_poolRate {pool total : Nat} {bids : List Bid} : ∀ {n m : Nat}, spent total m bids ≤ pool →
    spent total (poolRate pool total bids n m) bids ≤ pool
  | 0, _, h => h
  | n + 1, m, h => by
    unfold poolRate
    apply spent_poolRate
    split
    · assumption
    · exact h

/-- The bids keep their quads where they are put in the arbiter's order. -/
theorem mem_insertBid {n : Nat} {a b : Bid} : ∀ {l : List Bid}, a ∈ insertBid n b l ↔ a = b ∨ a ∈ l
  | [] => by simp [insertBid]
  | c :: cs => by
    unfold insertBid
    dsimp only
    split
    · simp
    · simp only [List.mem_cons, mem_insertBid]
      exact or_left_comm

/-! ## Scratchpad stores -/

/-- A free choice changes nothing but the counter of free values. -/
theorem choose_eq (s : State) : (choose s).2 = { s with ctl := { s.ctl with free := s.ctl.free + 1 } } := rfl

/-- Settling what the copy commands have passed changes nothing but the counter of free values. -/
theorem passedGranules_eq (s : State) (b : Nat) (gs : List Nat) :
    ∃ n, (passedGranules s b gs).2 = { s with ctl := { s.ctl with free := n } } := by
  unfold passedGranules
  suffices h : ∀ (l : List Nat) (r : List Nat × State), (∃ n, r.2 = { s with ctl := { s.ctl with free := n } }) →
      ∃ n, (l.foldl (fun (r : List Nat × State) g =>
        if (coreAt r.2 (b / 4)).queue.any (copyCovers r.2 b g) then
          let (hit, t) := choose r.2
          (if hit then r.1 ++ [g] else r.1, t)
        else r) r).2 = { s with ctl := { s.ctl with free := n } } from h gs ([], s) ⟨s.ctl.free, rfl⟩
  intro l
  induction l with
  | nil => exact fun _ h => h
  | cons g gs ih =>
    intro r h
    rw [List.foldl_cons]
    apply ih
    obtain ⟨n, h⟩ := h
    dsimp only
    split
    · exact ⟨n + 1, by simp only [choose_eq, h]⟩
    · exact ⟨n, h⟩

/-! ## What a slice's ways do leaves the stored bytes alone -/

theorem postFrom_mem (s : State) (die port : Option Nat) (m : Msg) : (postFrom s die port m).mem = s.mem := rfl

theorem foldl_mem {α : Type} (f : State → α → State) (hf : ∀ s a, (f s a).mem = s.mem) :
    ∀ (l : List α) (s : State), (l.foldl f s).mem = s.mem
  | [], _ => rfl
  | a :: l, s => (foldl_mem f hf l (f s a)).trans (hf s a)

theorem raiseHorizon_mem (s : State) (q line h : Nat) : (raiseHorizon s q line h).mem = s.mem := by
  unfold raiseHorizon
  dsimp only
  split
  · rfl
  · rw [modQuad_mem]

theorem endTracker_mem (s : State) (line : Nat) : (endTracker s line).mem = s.mem := by
  unfold endTracker
  split
  · rw [modHome_mem, raiseHorizon_mem]
  · rfl

theorem tellDie_mem (s : State) (h : Nat) (m : Nat → Msg) : (tellDie s h m).mem = s.mem :=
  foldl_mem _ (fun _ _ => postFrom_mem _ _ _ _) _ _

theorem leaveWay_mem (s : State) (q : Nat) (c : SliceCopy) : (leaveWay s q c).mem = s.mem := by
  unfold leaveWay
  dsimp only
  split
  · rw [endTracker_mem, modQuad_mem]
  · rw [modQuad_mem]
  · rw [post, postFrom_mem, tellDie_mem, modQuad_mem]

/-- A fill changes no stored byte: whatever it displaces goes by messages and trackers alone. -/
theorem fillWay_mem (s : State) (q mask : Nat) (c : SliceCopy) : (fillWay s q mask c).mem = s.mem := by
  unfold fillWay
  split
  · rw [modQuad_mem]
  · split
    · rfl
    · dsimp only
      rw [modQuad_mem]
      split
      · rw [leaveWay_mem]
      · rfl

theorem serveWay_mem (s : State) (q line : Nat) (k : Option Keeper) : (serveWay s q line k).mem = s.mem := by
  cases k with
  | none => exact modQuad_mem _ _ _
  | some k => rw [serveWay, keepHomed, fillWay_mem]

end Sys2Proof.Laws
end

