-- ==== Sys2Proof/Laws/PerInstr.lean ====
section
/-! SUPPORT. Statements per instruction: View, that a row's stem and code give the row back. -/

namespace Sys2Proof.Laws

/-- The stem and the code of an instruction row give that row; an event row has none (R228 to R237). -/
def View.Statement (i : Instr) : Prop :=
  match i.view with
  | some (stem, code) => Instr.ofCode stem code = some i
  | none => encode i = []

theorem View.orderlyShutdown (cause : ShutdownCause) : View.Statement (.orderlyShutdown cause) := Eq.refl _
theorem View.thermalSensorCrossing (die sensor : Nat) (temp : Int) : View.Statement (.thermalSensorCrossing die sensor temp) := Eq.refl _
theorem View.powerEpochStart (env : Environment) : View.Statement (.powerEpochStart env) := Eq.refl _
theorem View.rmaWrite (part : Nat) (pa : Nat) (data : List Byte) (tag : DWord) : View.Statement (.rmaWrite part pa data tag) := Eq.refl _
theorem View.rmaWriteCompletion (tag : DWord) : View.Statement (.rmaWriteCompletion tag) := Eq.refl _
theorem View.rmaRead (part : Nat) (pa len : Nat) (tag : DWord) : View.Statement (.rmaRead part pa len tag) := Eq.refl _
theorem View.transportAtomic (part : Nat) (pa : Nat) (op : AtomOp) (ty : BitVec 4) (value expected : DWord) (tag : DWord) : View.Statement (.transportAtomic part pa op ty value expected tag) := Eq.refl _
theorem View.unknownOpcode (h : CmdHeader) (opcode : Byte) : View.Statement (.unknownOpcode h opcode) := Eq.refl _
theorem View.launch (h : CmdHeader) (r : LaunchRecord) : View.Statement (.launch h r) := Eq.refl _
theorem View.abort (h : CmdHeader) (id rsv : Word) : View.Statement (.abort h id rsv) := Eq.refl _
theorem View.preemptSuspend (h : CmdHeader) (id : Word) (rsv : BitVec 24) : View.Statement (.preemptSuspend h id rsv) := Eq.refl _
theorem View.preemptResume (h : CmdHeader) (id : Word) (rsv : BitVec 24) : View.Statement (.preemptResume h id rsv) := Eq.refl _
theorem View.shoot (h : CmdHeader) (ctx count : Word) (va : DWord) : View.Statement (.shoot h ctx count va) := Eq.refl _
theorem View.shootResponse (part : Nat) (seq : DWord) : View.Statement (.shootResponse part seq) := Eq.refl _
theorem View.resetPartition (h : CmdHeader) (flags : Byte) (rsv : Half) (index : Word) : View.Statement (.resetPartition h flags rsv index) := Eq.refl _
theorem View.resetCopyEngine (h : CmdHeader) (flags : Byte) (rsv : Half) (index : Word) : View.Statement (.resetCopyEngine h flags rsv index) := Eq.refl _
theorem View.resetMatrixEngine (h : CmdHeader) (flags : Byte) (rsv : Half) (index : Word) : View.Statement (.resetMatrixEngine h flags rsv index) := Eq.refl _
theorem View.resetLink (h : CmdHeader) (flags : Byte) (rsv : Half) (index : Word) : View.Statement (.resetLink h flags rsv index) := Eq.refl _
theorem View.queryModule (h : CmdHeader) (rsv : BitVec 24) (index : Word) : View.Statement (.queryModule h rsv index) := Eq.refl _
theorem View.queryPartition (h : CmdHeader) (rsv : BitVec 24) (index : Word) : View.Statement (.queryPartition h rsv index) := Eq.refl _
theorem View.queryTract (h : CmdHeader) (rsv : BitVec 24) (index : Word) : View.Statement (.queryTract h rsv index) := Eq.refl _
theorem View.queryLink (h : CmdHeader) (rsv : BitVec 24) (index : Word) : View.Statement (.queryLink h rsv index) := Eq.refl _
theorem View.queryPort (h : CmdHeader) (rsv : BitVec 24) (index : Word) : View.Statement (.queryPort h rsv index) := Eq.refl _
theorem View.queryLaunch (h : CmdHeader) (rsv : BitVec 24) (index : Word) : View.Statement (.queryLaunch h rsv index) := Eq.refl _
theorem View.queryRasLog (h : CmdHeader) (rsv : BitVec 24) (index : Word) : View.Statement (.queryRasLog h rsv index) := Eq.refl _
theorem View.qosAssign (h : CmdHeader) (rsv : BitVec 56) (x : AssignArgs) : View.Statement (.qosAssign h rsv x) := Eq.refl _
theorem View.qosShare (h : CmdHeader) (rsv : BitVec 56) (part weight : Byte) : View.Statement (.qosShare h rsv part weight) := Eq.refl _
theorem View.qosChannel (h : CmdHeader) (rsv : BitVec 56) (part weight : Byte) : View.Statement (.qosChannel h rsv part weight) := Eq.refl _
theorem View.qosWays (h : CmdHeader) (rsv : BitVec 56) (ctx : Byte) (mask : Half) (allowance : Byte) : View.Statement (.qosWays h rsv ctx mask allowance) := Eq.refl _
theorem View.qosCtxtable (h : CmdHeader) (rsv : BitVec 56) (base : DWord) (count : Byte) : View.Statement (.qosCtxtable h rsv base count) := Eq.refl _
theorem View.qosCode (h : CmdHeader) (rsv : BitVec 56) (ctx : Byte) (va : DWord) : View.Statement (.qosCode h rsv ctx va) := Eq.refl _
theorem View.qosRelease (h : CmdHeader) (rsv : BitVec 56) (part : Byte) : View.Statement (.qosRelease h rsv part) := Eq.refl _
theorem View.qosMgmtkey (h : CmdHeader) (rsv : BitVec 56) (key : BitVec 256) : View.Statement (.qosMgmtkey h rsv key) := Eq.refl _
theorem View.qosPkey (h : CmdHeader) (rsv : BitVec 56) (part : Byte) (key : BitVec 256) : View.Statement (.qosPkey h rsv part key) := Eq.refl _
theorem View.eventcfg (h : CmdHeader) (rsv : BitVec 24) (x : EventSlotArgs) : View.Statement (.eventcfg h rsv x) := Eq.refl _
theorem View.attest (h : CmdHeader) (request : List Byte) : View.Statement (.attest h request) := Eq.refl _
theorem View.fwload (h : CmdHeader) (x : FwChunk) : View.Statement (.fwload h x) := Eq.refl _
theorem View.fwloadFinal (h : CmdHeader) (x : FwChunk) : View.Statement (.fwloadFinal h x) := Eq.refl _
theorem View.controlParityError (core slot : Nat) (entry : Option Nat) : View.Statement (.controlParityError core slot entry) := Eq.refl _
theorem View.rlimWrite (core slot : Nat) (v : Byte) : View.Statement (.rlimWrite core slot v) := Eq.refl _
theorem View.einjDisarm (core slot : Nat) (unit : BitVec 4) : View.Statement (.einjDisarm core slot unit) := Eq.refl _
theorem View.einjArmCorrected (core slot : Nat) (unit : BitVec 4) : View.Statement (.einjArmCorrected core slot unit) := Eq.refl _
theorem View.einjArmUncorrected (core slot : Nat) (unit : BitVec 4) : View.Statement (.einjArmUncorrected core slot unit) := Eq.refl _
theorem View.einjArmControl (core slot : Nat) (unit : BitVec 4) : View.Statement (.einjArmControl core slot unit) := Eq.refl _
theorem View.specialRegisterWrite (strand : Nat) (index : BitVec 9) (v : DWord) : View.Statement (.specialRegisterWrite strand index v) := Eq.refl _
theorem View.nop (x : Code) : View.Statement (.nop x) := Eq.refl _
theorem View.bra (x : Short) : View.Statement (.bra x) := Eq.refl _
theorem View.braW (x : Long) : View.Statement (.braW x) := Eq.refl _
theorem View.brx (x : Short) : View.Statement (.brx x) := Eq.refl _
theorem View.brxW (x : Long) : View.Statement (.brxW x) := Eq.refl _
theorem View.call (x : Short) : View.Statement (.call x) := Eq.refl _
theorem View.callW (x : Long) : View.Statement (.callW x) := Eq.refl _
theorem View.callx (x : Short) : View.Statement (.callx x) := Eq.refl _
theorem View.callxW (x : Long) : View.Statement (.callxW x) := Eq.refl _
theorem View.ret (x : Code) : View.Statement (.ret x) := Eq.refl _
theorem View.yield (x : Code) : View.Statement (.yield x) := Eq.refl _
theorem View.rgn (x : Short) : View.Statement (.rgn x) := Eq.refl _
theorem View.rgnW (x : Long) : View.Statement (.rgnW x) := Eq.refl _
theorem View.itend (x : Code) : View.Statement (.itend x) := Eq.refl _
theorem View.rfl (x : Short) : View.Statement (.rfl x) := Eq.refl _
theorem View.rflW (x : Long) : View.Statement (.rflW x) := Eq.refl _
theorem View.exit (x : Code) : View.Statement (.exit x) := Eq.refl _
theorem View.trap (x : Short) : View.Statement (.trap x) := Eq.refl _
theorem View.trapW (x : Long) : View.Statement (.trapW x) := Eq.refl _
theorem View.bkpt (x : Code) : View.Statement (.bkpt x) := Eq.refl _
theorem View.tret (x : Code) : View.Statement (.tret x) := Eq.refl _
theorem View.pdone (x : Code) : View.Statement (.pdone x) := Eq.refl _
theorem View.join (x : Code) : View.Statement (.join x) := Eq.refl _
theorem View.leave (x : Code) : View.Statement (.leave x) := Eq.refl _
theorem View.waitm (x : Code) : View.Statement (.waitm x) := Eq.refl _
theorem View.mmov (x : Short) : View.Statement (.mmov x) := Eq.refl _
theorem View.mmovW (x : Long) : View.Statement (.mmovW x) := Eq.refl _
theorem View.mlog (x : Short) : View.Statement (.mlog x) := Eq.refl _
theorem View.mlogW (x : Long) : View.Statement (.mlogW x) := Eq.refl _
theorem View.mfrp (x : Code) : View.Statement (.mfrp x) := Eq.refl _
theorem View.vote (x : Short) : View.Statement (.vote x) := Eq.refl _
theorem View.voteW (x : Long) : View.Statement (.voteW x) := Eq.refl _
theorem View.shfl (x : Short) : View.Statement (.shfl x) := Eq.refl _
theorem View.shflW (x : Long) : View.Statement (.shflW x) := Eq.refl _
theorem View.sred (x : Short) : View.Statement (.sred x) := Eq.refl _
theorem View.sredW (x : Long) : View.Statement (.sredW x) := Eq.refl _
theorem View.sscan (x : Short) : View.Statement (.sscan x) := Eq.refl _
theorem View.sscanW (x : Long) : View.Statement (.sscanW x) := Eq.refl _
theorem View.bar (x : Code) : View.Statement (.bar x) := Eq.refl _
theorem View.gbar (x : Code) : View.Statement (.gbar x) := Eq.refl _
theorem View.iadd (x : Short) : View.Statement (.iadd x) := Eq.refl _
theorem View.iaddW (x : Long) : View.Statement (.iaddW x) := Eq.refl _
theorem View.isub (x : Short) : View.Statement (.isub x) := Eq.refl _
theorem View.isubW (x : Long) : View.Statement (.isubW x) := Eq.refl _
theorem View.imul (x : Short) : View.Statement (.imul x) := Eq.refl _
theorem View.imulW (x : Long) : View.Statement (.imulW x) := Eq.refl _
theorem View.imulh (x : Short) : View.Statement (.imulh x) := Eq.refl _
theorem View.imulhW (x : Long) : View.Statement (.imulhW x) := Eq.refl _
theorem View.imad (x : Short) : View.Statement (.imad x) := Eq.refl _
theorem View.imadW (x : Long) : View.Statement (.imadW x) := Eq.refl _
theorem View.idiv (x : Short) : View.Statement (.idiv x) := Eq.refl _
theorem View.idivW (x : Long) : View.Statement (.idivW x) := Eq.refl _
theorem View.irem (x : Short) : View.Statement (.irem x) := Eq.refl _
theorem View.iremW (x : Long) : View.Statement (.iremW x) := Eq.refl _
theorem View.imin (x : Short) : View.Statement (.imin x) := Eq.refl _
theorem View.iminW (x : Long) : View.Statement (.iminW x) := Eq.refl _
theorem View.imax (x : Short) : View.Statement (.imax x) := Eq.refl _
theorem View.imaxW (x : Long) : View.Statement (.imaxW x) := Eq.refl _
theorem View.iabs (x : Short) : View.Statement (.iabs x) := Eq.refl _
theorem View.iabsW (x : Long) : View.Statement (.iabsW x) := Eq.refl _
theorem View.and (x : Short) : View.Statement (.and x) := Eq.refl _
theorem View.andW (x : Long) : View.Statement (.andW x) := Eq.refl _
theorem View.or (x : Short) : View.Statement (.or x) := Eq.refl _
theorem View.orW (x : Long) : View.Statement (.orW x) := Eq.refl _
theorem View.xor (x : Short) : View.Statement (.xor x) := Eq.refl _
theorem View.xorW (x : Long) : View.Statement (.xorW x) := Eq.refl _
theorem View.not (x : Short) : View.Statement (.not x) := Eq.refl _
theorem View.notW (x : Long) : View.Statement (.notW x) := Eq.refl _
theorem View.shl (x : Short) : View.Statement (.shl x) := Eq.refl _
theorem View.shlW (x : Long) : View.Statement (.shlW x) := Eq.refl _
theorem View.shr (x : Short) : View.Statement (.shr x) := Eq.refl _
theorem View.shrW (x : Long) : View.Statement (.shrW x) := Eq.refl _
theorem View.sra (x : Short) : View.Statement (.sra x) := Eq.refl _
theorem View.sraW (x : Long) : View.Statement (.sraW x) := Eq.refl _
theorem View.rot (x : Short) : View.Statement (.rot x) := Eq.refl _
theorem View.rotW (x : Long) : View.Statement (.rotW x) := Eq.refl _
theorem View.popc (x : Short) : View.Statement (.popc x) := Eq.refl _
theorem View.popcW (x : Long) : View.Statement (.popcW x) := Eq.refl _
theorem View.clz (x : Short) : View.Statement (.clz x) := Eq.refl _
theorem View.clzW (x : Long) : View.Statement (.clzW x) := Eq.refl _
theorem View.brev (x : Short) : View.Statement (.brev x) := Eq.refl _
theorem View.brevW (x : Long) : View.Statement (.brevW x) := Eq.refl _
theorem View.bfx (x : Short) : View.Statement (.bfx x) := Eq.refl _
theorem View.bfxW (x : Long) : View.Statement (.bfxW x) := Eq.refl _
theorem View.bfi (x : Short) : View.Statement (.bfi x) := Eq.refl _
theorem View.bfiW (x : Long) : View.Statement (.bfiW x) := Eq.refl _
theorem View.sel (x : Three) : View.Statement (.sel x) := Eq.refl _
theorem View.icmp (x : Short) : View.Statement (.icmp x) := Eq.refl _
theorem View.icmpW (x : Long) : View.Statement (.icmpW x) := Eq.refl _
theorem View.mov (x : Short) : View.Statement (.mov x) := Eq.refl _
theorem View.movW (x : Long) : View.Statement (.movW x) := Eq.refl _
theorem View.movi (x : Short) : View.Statement (.movi x) := Eq.refl _
theorem View.moviW (x : Long) : View.Statement (.moviW x) := Eq.refl _
theorem View.lea (x : Short) : View.Statement (.lea x) := Eq.refl _
theorem View.leaW (x : Long) : View.Statement (.leaW x) := Eq.refl _
theorem View.fadd (x : Short) : View.Statement (.fadd x) := Eq.refl _
theorem View.faddW (x : Long) : View.Statement (.faddW x) := Eq.refl _
theorem View.fsub (x : Short) : View.Statement (.fsub x) := Eq.refl _
theorem View.fsubW (x : Long) : View.Statement (.fsubW x) := Eq.refl _
theorem View.fmul (x : Short) : View.Statement (.fmul x) := Eq.refl _
theorem View.fmulW (x : Long) : View.Statement (.fmulW x) := Eq.refl _
theorem View.ffma (x : Short) : View.Statement (.ffma x) := Eq.refl _
theorem View.ffmaW (x : Long) : View.Statement (.ffmaW x) := Eq.refl _
theorem View.fmin (x : Short) : View.Statement (.fmin x) := Eq.refl _
theorem View.fminW (x : Long) : View.Statement (.fminW x) := Eq.refl _
theorem View.fmax (x : Short) : View.Statement (.fmax x) := Eq.refl _
theorem View.fmaxW (x : Long) : View.Statement (.fmaxW x) := Eq.refl _
theorem View.fcmp (x : Short) : View.Statement (.fcmp x) := Eq.refl _
theorem View.fcmpW (x : Long) : View.Statement (.fcmpW x) := Eq.refl _
theorem View.fclass (x : Short) : View.Statement (.fclass x) := Eq.refl _
theorem View.fclassW (x : Long) : View.Statement (.fclassW x) := Eq.refl _
theorem View.frnd (x : Short) : View.Statement (.frnd x) := Eq.refl _
theorem View.frndW (x : Long) : View.Statement (.frndW x) := Eq.refl _
theorem View.fscl (x : Short) : View.Statement (.fscl x) := Eq.refl _
theorem View.fsclW (x : Long) : View.Statement (.fsclW x) := Eq.refl _
theorem View.fdot2 (x : Short) : View.Statement (.fdot2 x) := Eq.refl _
theorem View.fdot2W (x : Long) : View.Statement (.fdot2W x) := Eq.refl _
theorem View.rcp (x : Short) : View.Statement (.rcp x) := Eq.refl _
theorem View.rcpW (x : Long) : View.Statement (.rcpW x) := Eq.refl _
theorem View.rsq (x : Short) : View.Statement (.rsq x) := Eq.refl _
theorem View.rsqW (x : Long) : View.Statement (.rsqW x) := Eq.refl _
theorem View.sqrt (x : Short) : View.Statement (.sqrt x) := Eq.refl _
theorem View.sqrtW (x : Long) : View.Statement (.sqrtW x) := Eq.refl _
theorem View.ex2 (x : Short) : View.Statement (.ex2 x) := Eq.refl _
theorem View.ex2W (x : Long) : View.Statement (.ex2W x) := Eq.refl _
theorem View.lg2 (x : Short) : View.Statement (.lg2 x) := Eq.refl _
theorem View.lg2W (x : Long) : View.Statement (.lg2W x) := Eq.refl _
theorem View.sin (x : Short) : View.Statement (.sin x) := Eq.refl _
theorem View.sinW (x : Long) : View.Statement (.sinW x) := Eq.refl _
theorem View.cos (x : Short) : View.Statement (.cos x) := Eq.refl _
theorem View.cosW (x : Long) : View.Statement (.cosW x) := Eq.refl _
theorem View.tanh (x : Short) : View.Statement (.tanh x) := Eq.refl _
theorem View.tanhW (x : Long) : View.Statement (.tanhW x) := Eq.refl _
theorem View.fcvt (x : Three) : View.Statement (.fcvt x) := Eq.refl _
theorem View.f2i (x : Three) : View.Statement (.f2i x) := Eq.refl _
theorem View.i2f (x : Three) : View.Statement (.i2f x) := Eq.refl _
theorem View.pack (x : Short) : View.Statement (.pack x) := Eq.refl _
theorem View.packW (x : Long) : View.Statement (.packW x) := Eq.refl _
theorem View.unpk (x : Short) : View.Statement (.unpk x) := Eq.refl _
theorem View.unpkW (x : Long) : View.Statement (.unpkW x) := Eq.refl _
theorem View.plog (x : Short) : View.Statement (.plog x) := Eq.refl _
theorem View.plogW (x : Long) : View.Statement (.plogW x) := Eq.refl _
theorem View.pmov (x : Short) : View.Statement (.pmov x) := Eq.refl _
theorem View.pmovW (x : Long) : View.Statement (.pmovW x) := Eq.refl _
theorem View.ld (x : Short) : View.Statement (.ld x) := Eq.refl _
theorem View.ldW (x : Long) : View.Statement (.ldW x) := Eq.refl _
theorem View.st (x : Short) : View.Statement (.st x) := Eq.refl _
theorem View.stW (x : Long) : View.Statement (.stW x) := Eq.refl _
theorem View.pref (x : Short) : View.Statement (.pref x) := Eq.refl _
theorem View.prefW (x : Long) : View.Statement (.prefW x) := Eq.refl _
theorem View.xst (x : Short) : View.Statement (.xst x) := Eq.refl _
theorem View.xstW (x : Long) : View.Statement (.xstW x) := Eq.refl _
theorem View.rdrain (x : Code) : View.Statement (.rdrain x) := Eq.refl _
theorem View.rinv (x : Short) : View.Statement (.rinv x) := Eq.refl _
theorem View.rinvW (x : Long) : View.Statement (.rinvW x) := Eq.refl _
theorem View.fence (x : Short) : View.Statement (.fence x) := Eq.refl _
theorem View.fenceW (x : Long) : View.Statement (.fenceW x) := Eq.refl _
theorem View.waitc (x : Short) : View.Statement (.waitc x) := Eq.refl _
theorem View.waitcW (x : Long) : View.Statement (.waitcW x) := Eq.refl _
theorem View.atom (x : Three) : View.Statement (.atom x) := Eq.refl _
theorem View.cas (x : Three) : View.Statement (.cas x) := Eq.refl _
theorem View.red (x : Short) : View.Statement (.red x) := Eq.refl _
theorem View.redW (x : Long) : View.Statement (.redW x) := Eq.refl _
theorem View.regx (x : Short) : View.Statement (.regx x) := Eq.refl _
theorem View.regxW (x : Long) : View.Statement (.regxW x) := Eq.refl _
theorem View.regf (x : Short) : View.Statement (.regf x) := Eq.refl _
theorem View.regfW (x : Long) : View.Statement (.regfW x) := Eq.refl _
theorem View.shmap (x : Three) : View.Statement (.shmap x) := Eq.refl _
theorem View.shunm (x : Three) : View.Statement (.shunm x) := Eq.refl _
theorem View.shwr (x : Three) : View.Statement (.shwr x) := Eq.refl _
theorem View.shrd (x : Three) : View.Statement (.shrd x) := Eq.refl _
theorem View.csrr (x : Three) : View.Statement (.csrr x) := Eq.refl _
theorem View.csrw (x : Three) : View.Statement (.csrw x) := Eq.refl _
theorem View.csrs (x : Three) : View.Statement (.csrs x) := Eq.refl _
theorem View.csrc (x : Three) : View.Statement (.csrc x) := Eq.refl _
theorem View.tdef (x : Code) : View.Statement (.tdef x) := Eq.refl _
theorem View.tfree (x : Code) : View.Statement (.tfree x) := Eq.refl _
theorem View.tstat (x : Short) : View.Statement (.tstat x) := Eq.refl _
theorem View.tstatW (x : Long) : View.Statement (.tstatW x) := Eq.refl _
theorem View.tmark (x : Code) : View.Statement (.tmark x) := Eq.refl _
theorem View.cpy (x : Three) : View.Statement (.cpy x) := Eq.refl _
theorem View.cpo (x : Three) : View.Statement (.cpo x) := Eq.refl _
theorem View.cpr (x : Three) : View.Statement (.cpr x) := Eq.refl _
theorem View.mxe (x : Code) : View.Statement (.mxe x) := Eq.refl _
theorem View.mma (x : Three) : View.Statement (.mma x) := Eq.refl _
theorem View.mxp (x : Short) : View.Statement (.mxp x) := Eq.refl _
theorem View.mxpW (x : Long) : View.Statement (.mxpW x) := Eq.refl _
theorem View.acco (x : Three) : View.Statement (.acco x) := Eq.refl _
theorem View.accc (x : Short) : View.Statement (.accc x) := Eq.refl _
theorem View.acccW (x : Long) : View.Statement (.acccW x) := Eq.refl _
theorem View.accr (x : Short) : View.Statement (.accr x) := Eq.refl _
theorem View.accrW (x : Long) : View.Statement (.accrW x) := Eq.refl _
theorem View.acca (x : Short) : View.Statement (.acca x) := Eq.refl _
theorem View.accaW (x : Long) : View.Statement (.accaW x) := Eq.refl _
theorem View.accz (x : Short) : View.Statement (.accz x) := Eq.refl _
theorem View.acczW (x : Long) : View.Statement (.acczW x) := Eq.refl _
theorem View.powerUp : View.Statement (.powerUp) := Eq.refl _
theorem View.powerLoss : View.Statement (.powerLoss) := Eq.refl _
theorem View.junctionOvertempTimeout : View.Statement (.junctionOvertempTimeout) := Eq.refl _
theorem View.demandReport : View.Statement (.demandReport) := Eq.refl _
theorem View.budgetSend : View.Statement (.budgetSend) := Eq.refl _
theorem View.withheldCycle : View.Statement (.withheldCycle) := Eq.refl _
theorem View.issueCycle : View.Statement (.issueCycle) := Eq.refl _
theorem View.timingReplay : View.Statement (.timingReplay) := Eq.refl _
theorem View.linkCrcRetry : View.Statement (.linkCrcRetry) := Eq.refl _
theorem View.linkLaneFailure : View.Statement (.linkLaneFailure) := Eq.refl _
theorem View.linkDown : View.Statement (.linkDown) := Eq.refl _
theorem View.linkTrainingDone : View.Statement (.linkTrainingDone) := Eq.refl _
theorem View.dtLockLoss : View.Statement (.dtLockLoss) := Eq.refl _
theorem View.snpDeadline : View.Statement (.snpDeadline) := Eq.refl _
theorem View.dieRejoin : View.Statement (.dieRejoin) := Eq.refl _
theorem View.portDown : View.Statement (.portDown) := Eq.refl _
theorem View.leaseGrant : View.Statement (.leaseGrant) := Eq.refl _
theorem View.nearCopyInstall : View.Statement (.nearCopyInstall) := Eq.refl _
theorem View.leaseExpiry : View.Statement (.leaseExpiry) := Eq.refl _
theorem View.drainArrival : View.Statement (.drainArrival) := Eq.refl _
theorem View.snpInvalidation : View.Statement (.snpInvalidation) := Eq.refl _
theorem View.loanRecall : View.Statement (.loanRecall) := Eq.refl _
theorem View.ackArrival : View.Statement (.ackArrival) := Eq.refl _
theorem View.loanReturn : View.Statement (.loanReturn) := Eq.refl _
theorem View.loanInstall : View.Statement (.loanInstall) := Eq.refl _
theorem View.completionTimeArrival : View.Statement (.completionTimeArrival) := Eq.refl _
theorem View.queuedRequestServe : View.Statement (.queuedRequestServe) := Eq.refl _
theorem View.retryResend : View.Statement (.retryResend) := Eq.refl _
theorem View.reservedQueueEntryTimeout : View.Statement (.reservedQueueEntryTimeout) := Eq.refl _
theorem View.parityDelta : View.Statement (.parityDelta) := Eq.refl _
theorem View.sliceMapChange : View.Statement (.sliceMapChange) := Eq.refl _
theorem View.stubPowerOff : View.Statement (.stubPowerOff) := Eq.refl _
theorem View.remapResend : View.Statement (.remapResend) := Eq.refl _
theorem View.preemptSuspendResponse : View.Statement (.preemptSuspendResponse) := Eq.refl _
theorem View.launchCompletion : View.Statement (.launchCompletion) := Eq.refl _
theorem View.batchForm : View.Statement (.batchForm) := Eq.refl _
theorem View.batchQueueEntryFreed : View.Statement (.batchQueueEntryFreed) := Eq.refl _
theorem View.slotReturnSend : View.Statement (.slotReturnSend) := Eq.refl _
theorem View.gangPlacement : View.Statement (.gangPlacement) := Eq.refl _
theorem View.blockSetup : View.Statement (.blockSetup) := Eq.refl _
theorem View.blockRetire : View.Statement (.blockRetire) := Eq.refl _
theorem View.recordDrainTimer : View.Statement (.recordDrainTimer) := Eq.refl _
theorem View.drainSend : View.Statement (.drainSend) := Eq.refl _
theorem View.regxGrant : View.Statement (.regxGrant) := Eq.refl _
theorem View.barRelease : View.Statement (.barRelease) := Eq.refl _
theorem View.gbarComplete : View.Statement (.gbarComplete) := Eq.refl _
theorem View.waitmRelease : View.Statement (.waitmRelease) := Eq.refl _
theorem View.loadReply : View.Statement (.loadReply) := Eq.refl _
theorem View.atomicAtHome : View.Statement (.atomicAtHome) := Eq.refl _
theorem View.reductionAtHome : View.Statement (.reductionAtHome) := Eq.refl _
theorem View.xstLanding : View.Statement (.xstLanding) := Eq.refl _
theorem View.copyCommandStart : View.Statement (.copyCommandStart) := Eq.refl _
theorem View.copySourceReadDone : View.Statement (.copySourceReadDone) := Eq.refl _
theorem View.copyEngineFault : View.Statement (.copyEngineFault) := Eq.refl _
theorem View.tableEntry : View.Statement (.tableEntry) := Eq.refl _
theorem View.passGrant : View.Statement (.passGrant) := Eq.refl _
theorem View.priorityAging : View.Statement (.priorityAging) := Eq.refl _
theorem View.passEnd : View.Statement (.passEnd) := Eq.refl _
theorem View.passFault : View.Statement (.passFault) := Eq.refl _
theorem View.abacusOpAtHome : View.Statement (.abacusOpAtHome) := Eq.refl _
theorem View.gangKill : View.Statement (.gangKill) := Eq.refl _
theorem View.killStopDeadline : View.Statement (.killStopDeadline) := Eq.refl _
theorem View.gangRelaunch : View.Statement (.gangRelaunch) := Eq.refl _
theorem View.quadRetirement : View.Statement (.quadRetirement) := Eq.refl _
theorem View.preemptStop : View.Statement (.preemptStop) := Eq.refl _
theorem View.preemptDeadline : View.Statement (.preemptDeadline) := Eq.refl _
theorem View.preemptionComplete : View.Statement (.preemptionComplete) := Eq.refl _
theorem View.pseudoChannelFailure : View.Statement (.pseudoChannelFailure) := Eq.refl _
theorem View.portUp : View.Statement (.portUp) := Eq.refl _
theorem View.hostStoreTransportCompletion : View.Statement (.hostStoreTransportCompletion) := Eq.refl _
theorem View.engineWriteAtHome : View.Statement (.engineWriteAtHome) := Eq.refl _

end Sys2Proof.Laws
end

