-- ==== Sys2Proof/Tests/Slice0.lean ====
section
/-! SUPPORT. Tests against the manual's worked encodings and examples, and a witness for the hypotheses of every statement. -/

namespace Sys2Proof.Tests
set_option Elab.async false
open Sys2Proof Sys2Proof.Machine

/-! ## Small states -/

/-- A one-word instruction, unguarded: S, B, A, D. -/
def sh (s : Bool) (b a d : BitVec 5) : Short := ⟨⟨7, false⟩, false, s, b, a, d⟩

/-- A three-word instruction, unguarded: D, A, B, C, MOD, SC, TY. -/
def th (d a b c : Operand) (mod : BitVec 9) (sc : BitVec 3) (ty : BitVec 4) : Three :=
  ⟨⟨7, false⟩, false, d, a, b, c, mod, 0, 0, sc, 0, ty⟩

/-- Eight strands of one block at a nop, about to run it. -/
def stage : State := State.reset.withFetchWord 32 0x38

/-- The bundle of those eight strands. -/
def all8 : Bundle := { core := 0, block := 0, pc := 0x10000, strands := List.range 8 }

/-- The bundle of the first strand alone. -/
def lone : Bundle := { core := 0, block := 0, pc := 0x10000, strands := [0] }

/-- The first strand alone is about to run. -/
def solo (s : State) : State := { s with ctl := { s.ctl with bundle := some lone } }

/-- No strand is about to run. -/
def idled (s : State) : State := { s with ctl := { s.ctl with bundle := none } }

/-- The first strand has vector registers. -/
def regs (vs : Tab Word) (s : State) : State := modStrand s 0 fun x => { x with v := vs }

/-- The sheaf has uniform registers. -/
def uni (ws : Tab DWord) (s : State) : State := modSheaf s 0 fun x => { x with w := ws }

/-- Every strand of the stage is changed so. -/
def each (f : Strand → Strand) (s : State) : State := { s with strands := s.strands.map fun p => (p.1, f p.2) }

/-- The launch record of the stage is changed so. -/
def ruled (f : LaunchRecord → LaunchRecord) (s : State) : State := modLaunch s (2 ^ 32 + 1) fun l => { l with record := f l.record }

/-- The numbers that an event acts on. -/
def on (f : List Nat) (s : State) : State := { s with ctl := { s.ctl with focus := f } }

/-- One message is on its way, as number 0. -/
def sends (m : Msg) (s : State) : State := { s with net := [(0, m)] }

/-- The next state. -/
def after (i : Instr) (s : State) : State := match exec i s with | .next t => t | _ => s

/-- A command header, received on an endpoint. -/
def header (endpoint : Nat) (len : Word) : CmdHeader :=
  { endpoint := endpoint, src := { addr := 1, job := 0, pid := 0 }, version := 1, rsv0 := 0, len := len, seq := 5, tag := 6, rsv1 := 0 }

/-- A store-record entry of one byte. -/
def entry : RecEntry :=
  { seq := 1, line := 0x1000400, cls := 0, data := [(63, 7)], poison := [], block := 0, gang := 1, launch := 1, part := 1, state := .opened,
    alloc := 0, due := false, loads := [] }

/-- A request of core 0 for a line of tract 0. -/
def want : ReadReq :=
  { core := 0, line := 0x1000400, cls := 0, lease := 512, age := 0, part := 1, ctx := 0, near := none, l2only := false, block := 0, gang := 1, hint := 0,
    stale := false, waiters := [(0, 1)] }

/-- A line of zeros. -/
def zeros64 : List Byte := List.replicate 64 0

/-- A tile of 32 rows of 512 bf16 elements at 0x8000, a 32 by 512 panel (R324, the example after R325). -/
def panel : DWord := 0x00207FC07C008000

/-! ## A word of every instruction, written field by field -/

/-- The words of nop, bra, brx, call, callx, ret, yield, rgn, itend, field by field (R219 to R236). -/
theorem test_decode_1 :
    decodeTableWord 32 0x00000038 = some (.nop (.short (sh false 0 0 0))) ∧
    decodeTableWord 32 0x001400B8 = some (.bra (sh false 0 0 20)) ∧
    decodeTableWord 96 0x0000000000200000200000B9 = some (.braW (.three (th .none .none (.imm 8) .none 0 0 0))) ∧
    decodeTableWord 32 0x00800138 = some (.brx (sh false 0 4 0)) ∧
    decodeTableWord 96 0x000000000000080000400139 = some (.brxW (.three (th .none (.b 4) .none .none 0 0 0))) ∧
    decodeTableWord 32 0x001401B8 = some (.call (sh false 0 0 20)) ∧
    decodeTableWord 96 0x0000000000200000200001B9 = some (.callW (.three (th .none .none (.imm 8) .none 0 0 0))) ∧
    decodeTableWord 32 0x00800238 = some (.callx (sh false 0 4 0)) ∧
    decodeTableWord 96 0x000000000000080000400239 = some (.callxW (.three (th .none (.b 4) .none .none 0 0 0))) ∧
    decodeTableWord 32 0x000002B8 = some (.ret (.short (sh false 0 0 0))) ∧
    decodeTableWord 32 0x00000338 = some (.yield (.short (sh false 0 0 0))) ∧
    decodeTableWord 32 0x084003B8 = some (.rgn (sh false 2 2 0)) ∧
    decodeTableWord 96 0x0000000000E05000042003B9 = some (.rgnW (.three (th .none (.v 40) (.v 56) .none 0 0 0))) ∧
    decodeTableWord 32 0x00000438 = some (.itend (.short (sh false 0 0 0))) := by
  decide +kernel

/-- The words of rfl, exit, trap, bkpt, tret, pdone, join, leave, waitm, mmov, mlog, field by field (R219 to R236). -/
theorem test_decode_2 :
    decodeTableWord 32 0x084004B8 = some (.rfl (sh false 2 2 0)) ∧
    decodeTableWord 96 0x0000000000E05000042004B9 = some (.rflW (.three (th .none (.v 40) (.v 56) .none 0 0 0))) ∧
    decodeTableWord 32 0x00000538 = some (.exit (.short (sh false 0 0 0))) ∧
    decodeTableWord 32 0x022005B8 = some (.trap (sh false 0 17 0)) ∧
    decodeTableWord 96 0x000000000000C800010005B9 = some (.trapW (.three (th .none (.imm 100) .none .none 0 0 0))) ∧
    decodeTableWord 32 0x00000638 = some (.bkpt (.short (sh false 0 0 0))) ∧
    decodeTableWord 32 0x000006B8 = some (.tret (.short (sh false 0 0 0))) ∧
    decodeTableWord 32 0x00000738 = some (.pdone (.short (sh false 0 0 0))) ∧
    decodeTableWord 32 0x00602038 = some (.join (.short (sh false 0 3 0))) ∧
    decodeTableWord 32 0x006020B8 = some (.leave (.short (sh false 0 3 0))) ∧
    decodeTableWord 32 0x00602138 = some (.waitm (.short (sh false 0 3 0))) ∧
    decodeTableWord 32 0x006321B8 = some (.mmov (sh false 0 3 3)) ∧
    decodeTableWord 96 0x000000000000040100A521B9 = some (.mmovW (.three (th (.m 1) (.m 2) .none .none 0 0 0))) ∧
    decodeTableWord 32 0x8C632238 = some (.mlog (sh true 3 3 3)) := by
  decide +kernel

/-- The words of mlog, mfrp, vote, shfl, sred, sscan, bar, gbar, iadd, field by field (R219 to R236). -/
theorem test_decode_3 :
    decodeTableWord 96 0x00800000000C040114A52239 = some (.mlogW (.three (th (.m 1) (.m 2) (.m 3) .none 1 0 0))) ∧
    decodeTableWord 32 0x002322B8 = some (.mfrp (.short (sh false 0 1 3))) ∧
    decodeTableWord 32 0x80212338 = some (.vote (sh true 0 1 1)) ∧
    decodeTableWord 96 0x008000000000040100842339 = some (.voteW (.three (th (.p 1) (.p 2) .none .none 1 0 0))) ∧
    decodeTableWord 32 0x948223B8 = some (.shfl (sh true 5 4 2)) ∧
    decodeTableWord 96 0x0080000000A00802044223B9 = some (.shflW (.three (th (.b 2) (.b 4) (.v 40) .none 1 0 0))) ∧
    decodeTableWord 32 0x80822438 = some (.sred (sh true 0 4 2)) ∧
    decodeTableWord 96 0x008004000000080200422439 = some (.sredW (.three (th (.b 2) (.b 4) .none .none 1 0 2))) ∧
    decodeTableWord 32 0x808224B8 = some (.sscan (sh true 0 4 2)) ∧
    decodeTableWord 96 0x0080040000000802004224B9 = some (.sscanW (.three (th (.b 2) (.b 4) .none .none 1 0 2))) ∧
    decodeTableWord 32 0x00002538 = some (.bar (.short (sh false 0 0 0))) ∧
    decodeTableWord 32 0x000025B8 = some (.gbar (.short (sh false 0 0 0))) ∧
    decodeTableWord 32 0x14824038 = some (.iadd (sh false 5 4 2)) ∧
    decodeTableWord 96 0x0000040000A0080204424039 = some (.iaddW (.three (th (.b 2) (.b 4) (.v 40) .none 0 0 2))) := by
  decide +kernel

/-- The words of isub, imul, imulh, imad, idiv, irem, imin, field by field (R219 to R236). -/
theorem test_decode_4 :
    decodeTableWord 32 0x148240B8 = some (.isub (sh false 5 4 2)) ∧
    decodeTableWord 96 0x0000040000A00802044240B9 = some (.isubW (.three (th (.b 2) (.b 4) (.v 40) .none 0 0 2))) ∧
    decodeTableWord 32 0x14824138 = some (.imul (sh false 5 4 2)) ∧
    decodeTableWord 96 0x0000040000A0080204424139 = some (.imulW (.three (th (.b 2) (.b 4) (.v 40) .none 0 0 2))) ∧
    decodeTableWord 32 0x148241B8 = some (.imulh (sh false 5 4 2)) ∧
    decodeTableWord 96 0x0000040000A00802044241B9 = some (.imulhW (.three (th (.b 2) (.b 4) (.v 40) .none 0 0 2))) ∧
    decodeTableWord 32 0x14824238 = some (.imad (sh false 5 4 2)) ∧
    decodeTableWord 96 0x0000040518A0080204424239 = some (.imadW (.three (th (.b 2) (.b 4) (.v 40) (.w 5) 0 0 2))) ∧
    decodeTableWord 32 0x148242B8 = some (.idiv (sh false 5 4 2)) ∧
    decodeTableWord 96 0x0000040000A00802044242B9 = some (.idivW (.three (th (.b 2) (.b 4) (.v 40) .none 0 0 2))) ∧
    decodeTableWord 32 0x14824338 = some (.irem (sh false 5 4 2)) ∧
    decodeTableWord 96 0x0000040000A0080204424339 = some (.iremW (.three (th (.b 2) (.b 4) (.v 40) .none 0 0 2))) ∧
    decodeTableWord 32 0x148243B8 = some (.imin (sh false 5 4 2)) ∧
    decodeTableWord 96 0x0000040000A00802044243B9 = some (.iminW (.three (th (.b 2) (.b 4) (.v 40) .none 0 0 2))) := by
  decide +kernel

/-- The words of imax, iabs, and, or, xor, not, shl, field by field (R219 to R236). -/
theorem test_decode_5 :
    decodeTableWord 32 0x14824438 = some (.imax (sh false 5 4 2)) ∧
    decodeTableWord 96 0x0000040000A0080204424439 = some (.imaxW (.three (th (.b 2) (.b 4) (.v 40) .none 0 0 2))) ∧
    decodeTableWord 32 0x008244B8 = some (.iabs (sh false 0 4 2)) ∧
    decodeTableWord 96 0x0000040000000802004244B9 = some (.iabsW (.three (th (.b 2) (.b 4) .none .none 0 0 2))) ∧
    decodeTableWord 32 0x14824538 = some (.and (sh false 5 4 2)) ∧
    decodeTableWord 96 0x0000000000A0080204424539 = some (.andW (.three (th (.b 2) (.b 4) (.v 40) .none 0 0 0))) ∧
    decodeTableWord 32 0x148245B8 = some (.or (sh false 5 4 2)) ∧
    decodeTableWord 96 0x0000000000A00802044245B9 = some (.orW (.three (th (.b 2) (.b 4) (.v 40) .none 0 0 0))) ∧
    decodeTableWord 32 0x14824638 = some (.xor (sh false 5 4 2)) ∧
    decodeTableWord 96 0x0000000000A0080204424639 = some (.xorW (.three (th (.b 2) (.b 4) (.v 40) .none 0 0 0))) ∧
    decodeTableWord 32 0x008246B8 = some (.not (sh false 0 4 2)) ∧
    decodeTableWord 96 0x0000000000000802004246B9 = some (.notW (.three (th (.b 2) (.b 4) .none .none 0 0 0))) ∧
    decodeTableWord 32 0x14824738 = some (.shl (sh false 5 4 2)) ∧
    decodeTableWord 96 0x0000000000A0080204424739 = some (.shlW (.three (th (.b 2) (.b 4) (.v 40) .none 0 0 0))) := by
  decide +kernel

/-- The words of shr, sra, rot, popc, clz, brev, bfx, field by field (R219 to R236). -/
theorem test_decode_6 :
    decodeTableWord 32 0x148247B8 = some (.shr (sh false 5 4 2)) ∧
    decodeTableWord 96 0x0000000000A00802044247B9 = some (.shrW (.three (th (.b 2) (.b 4) (.v 40) .none 0 0 0))) ∧
    decodeTableWord 32 0x14824838 = some (.sra (sh false 5 4 2)) ∧
    decodeTableWord 96 0x0000040000A0080204424839 = some (.sraW (.three (th (.b 2) (.b 4) (.v 40) .none 0 0 2))) ∧
    decodeTableWord 32 0x148248B8 = some (.rot (sh false 5 4 2)) ∧
    decodeTableWord 96 0x0000000000A00802044248B9 = some (.rotW (.three (th (.b 2) (.b 4) (.v 40) .none 0 0 0))) ∧
    decodeTableWord 32 0x00824938 = some (.popc (sh false 0 4 2)) ∧
    decodeTableWord 96 0x000000000000080200424939 = some (.popcW (.three (th (.b 2) (.b 4) .none .none 0 0 0))) ∧
    decodeTableWord 32 0x008249B8 = some (.clz (sh false 0 4 2)) ∧
    decodeTableWord 96 0x0000000000000802004249B9 = some (.clzW (.three (th (.b 2) (.b 4) .none .none 0 0 0))) ∧
    decodeTableWord 32 0x00824A38 = some (.brev (sh false 0 4 2)) ∧
    decodeTableWord 96 0x000000000000080200424A39 = some (.brevW (.three (th (.b 2) (.b 4) .none .none 0 0 0))) ∧
    decodeTableWord 32 0x14824AB8 = some (.bfx (sh false 5 4 2)) ∧
    decodeTableWord 96 0x0000060000A0080204424AB9 = some (.bfxW (.three (th (.b 2) (.b 4) (.v 40) .none 0 0 3))) := by
  decide +kernel

/-- The words of bfi, sel, icmp, mov, movi, lea, fadd, fsub, field by field (R219 to R236). -/
theorem test_decode_7 :
    decodeTableWord 32 0x14824B38 = some (.bfi (sh false 5 4 2)) ∧
    decodeTableWord 96 0x0000000000A0080204424B39 = some (.bfiW (.three (th (.b 2) (.b 4) (.v 40) .none 0 0 0))) ∧
    decodeTableWord 96 0x0000000420A0080204424BB9 = some (.sel (th (.b 2) (.b 4) (.v 40) (.p 4) 0 0 0)) ∧
    decodeTableWord 32 0x94814C38 = some (.icmp (sh true 5 4 1)) ∧
    decodeTableWord 96 0x0080040000A0080104444C39 = some (.icmpW (.three (th (.p 1) (.b 4) (.v 40) .none 1 0 2))) ∧
    decodeTableWord 32 0x00824CB8 = some (.mov (sh false 0 4 2)) ∧
    decodeTableWord 96 0x000000000000080200424CB9 = some (.movW (.three (th (.b 2) (.b 4) .none .none 0 0 0))) ∧
    decodeTableWord 32 0x14024D38 = some (.movi (sh false 5 0 2)) ∧
    decodeTableWord 96 0x0000000000A0000204024D39 = some (.moviW (.three (th (.b 2) .none (.v 40) .none 0 0 0))) ∧
    decodeTableWord 32 0x18824DB8 = some (.lea (sh false 6 4 2)) ∧
    decodeTableWord 96 0x000002000018080208624DB9 = some (.leaW (.three (th (.b 2) (.w 4) (.b 6) .none 0 0 1))) ∧
    decodeTableWord 32 0x14826038 = some (.fadd (sh false 5 4 2)) ∧
    decodeTableWord 96 0x00000C0000A0080204426039 = some (.faddW (.three (th (.b 2) (.b 4) (.v 40) .none 0 0 6))) ∧
    decodeTableWord 32 0x148260B8 = some (.fsub (sh false 5 4 2)) := by
  decide +kernel

/-- The words of fsub, fmul, ffma, fmin, fmax, fcmp, fclass, frnd, field by field (R219 to R236). -/
theorem test_decode_8 :
    decodeTableWord 96 0x00000C0000A00802044260B9 = some (.fsubW (.three (th (.b 2) (.b 4) (.v 40) .none 0 0 6))) ∧
    decodeTableWord 32 0x14826138 = some (.fmul (sh false 5 4 2)) ∧
    decodeTableWord 96 0x00000C0000A0080204426139 = some (.fmulW (.three (th (.b 2) (.b 4) (.v 40) .none 0 0 6))) ∧
    decodeTableWord 32 0x148261B8 = some (.ffma (sh false 5 4 2)) ∧
    decodeTableWord 96 0x00000C0518A00802044261B9 = some (.ffmaW (.three (th (.b 2) (.b 4) (.v 40) (.w 5) 0 0 6))) ∧
    decodeTableWord 32 0x14826238 = some (.fmin (sh false 5 4 2)) ∧
    decodeTableWord 96 0x00000C0000A0080204426239 = some (.fminW (.three (th (.b 2) (.b 4) (.v 40) .none 0 0 6))) ∧
    decodeTableWord 32 0x148262B8 = some (.fmax (sh false 5 4 2)) ∧
    decodeTableWord 96 0x00000C0000A00802044262B9 = some (.fmaxW (.three (th (.b 2) (.b 4) (.v 40) .none 0 0 6))) ∧
    decodeTableWord 32 0x94816338 = some (.fcmp (sh true 5 4 1)) ∧
    decodeTableWord 96 0x00800C0000A0080104446339 = some (.fcmpW (.three (th (.p 1) (.b 4) (.v 40) .none 1 0 6))) ∧
    decodeTableWord 32 0x148163B8 = some (.fclass (sh false 5 4 1)) ∧
    decodeTableWord 96 0x00000C0000A00801044463B9 = some (.fclassW (.three (th (.p 1) (.b 4) (.v 40) .none 0 0 6))) ∧
    decodeTableWord 32 0x00826438 = some (.frnd (sh false 0 4 2)) := by
  decide +kernel

/-- The words of frnd, fscl, fdot2, rcp, rsq, sqrt, ex2, lg2, field by field (R219 to R236). -/
theorem test_decode_9 :
    decodeTableWord 96 0x00000C000000080200426439 = some (.frndW (.three (th (.b 2) (.b 4) .none .none 0 0 6))) ∧
    decodeTableWord 32 0x148264B8 = some (.fscl (sh false 5 4 2)) ∧
    decodeTableWord 96 0x00000C0000A00802044264B9 = some (.fsclW (.three (th (.b 2) (.b 4) (.v 40) .none 0 0 6))) ∧
    decodeTableWord 32 0x14826538 = some (.fdot2 (sh false 5 4 2)) ∧
    decodeTableWord 96 0x0000100518A0080204426539 = some (.fdot2W (.three (th (.b 2) (.b 4) (.v 40) (.w 5) 0 0 8))) ∧
    decodeTableWord 32 0x00828038 = some (.rcp (sh false 0 4 2)) ∧
    decodeTableWord 96 0x00000C000000080200428039 = some (.rcpW (.three (th (.b 2) (.b 4) .none .none 0 0 6))) ∧
    decodeTableWord 32 0x008280B8 = some (.rsq (sh false 0 4 2)) ∧
    decodeTableWord 96 0x00000C0000000802004280B9 = some (.rsqW (.three (th (.b 2) (.b 4) .none .none 0 0 6))) ∧
    decodeTableWord 32 0x00828138 = some (.sqrt (sh false 0 4 2)) ∧
    decodeTableWord 96 0x00000C000000080200428139 = some (.sqrtW (.three (th (.b 2) (.b 4) .none .none 0 0 6))) ∧
    decodeTableWord 32 0x008281B8 = some (.ex2 (sh false 0 4 2)) ∧
    decodeTableWord 96 0x00000C0000000802004281B9 = some (.ex2W (.three (th (.b 2) (.b 4) .none .none 0 0 6))) ∧
    decodeTableWord 32 0x00828238 = some (.lg2 (sh false 0 4 2)) := by
  decide +kernel

/-- The words of lg2, sin, cos, tanh, fcvt, f2i, i2f, pack, unpk, field by field (R219 to R236). -/
theorem test_decode_10 :
    decodeTableWord 96 0x00000C000000080200428239 = some (.lg2W (.three (th (.b 2) (.b 4) .none .none 0 0 6))) ∧
    decodeTableWord 32 0x008282B8 = some (.sin (sh false 0 4 2)) ∧
    decodeTableWord 96 0x00000C0000000802004282B9 = some (.sinW (.three (th (.b 2) (.b 4) .none .none 0 0 6))) ∧
    decodeTableWord 32 0x00828338 = some (.cos (sh false 0 4 2)) ∧
    decodeTableWord 96 0x00000C000000080200428339 = some (.cosW (.three (th (.b 2) (.b 4) .none .none 0 0 6))) ∧
    decodeTableWord 32 0x008283B8 = some (.tanh (sh false 0 4 2)) ∧
    decodeTableWord 96 0x00000C0000000802004283B9 = some (.tanhW (.three (th (.b 2) (.b 4) .none .none 0 0 6))) ∧
    decodeTableWord 96 0x03000C000000080200428439 = some (.fcvt (th (.b 2) (.b 4) .none .none 6 0 6)) ∧
    decodeTableWord 96 0x0300040000000802004284B9 = some (.f2i (th (.b 2) (.b 4) .none .none 6 0 2)) ∧
    decodeTableWord 96 0x01000C000000080200428539 = some (.i2f (th (.b 2) (.b 4) .none .none 2 0 6)) ∧
    decodeTableWord 32 0x148285B8 = some (.pack (sh false 5 4 2)) ∧
    decodeTableWord 96 0x0000100000A00802044285B9 = some (.packW (.three (th (.b 2) (.b 4) (.v 40) .none 0 0 8))) ∧
    decodeTableWord 32 0x80828638 = some (.unpk (sh true 0 4 2)) ∧
    decodeTableWord 96 0x008010000000080200428639 = some (.unpkW (.three (th (.b 2) (.b 4) .none .none 1 0 8))) := by
  decide +kernel

/-- The words of plog, pmov, ld, st, pref, xst, rdrain, rinv, field by field (R219 to R236). -/
theorem test_decode_11 :
    decodeTableWord 32 0x842186B8 = some (.plog (sh true 1 1 1)) ∧
    decodeTableWord 96 0x00800000000C0401108486B9 = some (.plogW (.three (th (.p 1) (.p 2) (.p 3) .none 1 0 0))) ∧
    decodeTableWord 32 0x00218738 = some (.pmov (sh false 0 1 1)) ∧
    decodeTableWord 96 0x000000000000040100848739 = some (.pmovW (.three (th (.p 1) (.p 2) .none .none 0 0 0))) ∧
    decodeTableWord 32 0x1882A038 = some (.ld (sh false 6 4 2)) ∧
    decodeTableWord 96 0x00000000001808020862A039 = some (.ldW (.three (th (.b 2) (.w 4) (.b 6) .none 0 0 0))) ∧
    decodeTableWord 32 0x1888A0B8 = some (.st (sh false 6 4 8)) ∧
    decodeTableWord 96 0x00000000001808080862A0B9 = some (.stW (.three (th (.b 8) (.w 4) (.b 6) .none 0 0 0))) ∧
    decodeTableWord 32 0x1880A138 = some (.pref (sh false 6 4 0)) ∧
    decodeTableWord 96 0x00000000001808000860A139 = some (.prefW (.three (th .none (.w 4) (.b 6) .none 0 0 0))) ∧
    decodeTableWord 32 0x1488A1B8 = some (.xst (sh false 5 4 8)) ∧
    decodeTableWord 96 0x0000000000A008080442A1B9 = some (.xstW (.three (th (.b 8) (.b 4) (.v 40) .none 0 0 0))) ∧
    decodeTableWord 32 0x0000A238 = some (.rdrain (.short (sh false 0 0 0))) ∧
    decodeTableWord 32 0x1880A2B8 = some (.rinv (sh false 6 4 0)) := by
  decide +kernel

/-- The words of rinv, fence, waitc, atom, cas, red, regx, regf, shmap, field by field (R219 to R236). -/
theorem test_decode_12 :
    decodeTableWord 96 0x00000000001808000860A2B9 = some (.rinvW (.three (th .none (.w 4) (.b 6) .none 0 0 0))) ∧
    decodeTableWord 32 0x0000A338 = some (.fence (sh false 0 0 0)) ∧
    decodeTableWord 96 0x00000000000000000000A339 = some (.fenceW (.three (th .none .none .none .none 0 0 0))) ∧
    decodeTableWord 32 0x0220A3B8 = some (.waitc (sh false 0 17 0)) ∧
    decodeTableWord 96 0x000000000000C8000100A3B9 = some (.waitcW (.three (th .none (.imm 100) .none .none 0 0 0))) ∧
    decodeTableWord 96 0x00800405181808020862C039 = some (.atom (th (.b 2) (.w 4) (.b 6) (.w 5) 1 0 2)) ∧
    decodeTableWord 96 0x0000000518A008020462C0B9 = some (.cas (th (.b 2) (.w 4) (.v 40) (.w 5) 0 0 0)) ∧
    decodeTableWord 32 0x9888C138 = some (.red (sh true 6 4 8)) ∧
    decodeTableWord 96 0x00800400001808080862C139 = some (.redW (.three (th (.b 8) (.w 4) (.b 6) .none 1 0 2))) ∧
    decodeTableWord 32 0x0221C438 = some (.regx (sh false 0 17 1)) ∧
    decodeTableWord 96 0x000000000000C8010104C439 = some (.regxW (.three (th (.p 1) (.imm 100) .none .none 0 0 0))) ∧
    decodeTableWord 32 0x0220C4B8 = some (.regf (sh false 0 17 0)) ∧
    decodeTableWord 96 0x000000000000C8000100C4B9 = some (.regfW (.three (th .none (.imm 100) .none .none 0 0 0))) ∧
    decodeTableWord 96 0x00000005182062212021C539 = some (.shmap (th (.v 33) (.v 49) (.imm 8) (.w 5) 0 0 0)) := by
  decide +kernel

/-- The words of shunm, shwr, shrd, csrr, csrw, csrs, csrc, tdef, tfree, tstat, tmark, cpy, cpo, field by field (R219 to R236). -/
theorem test_decode_13 :
    decodeTableWord 96 0x00000000000062000020C5B9 = some (.shunm (th .none (.v 49) .none .none 0 0 0)) ∧
    decodeTableWord 96 0x00000000000008210041C639 = some (.shwr (th (.v 33) (.b 4) .none .none 0 0 0)) ∧
    decodeTableWord 96 0x00000000000062020022C6B9 = some (.shrd (th (.b 2) (.v 49) .none .none 0 0 0)) ∧
    decodeTableWord 96 0x00000000000026020122C839 = some (.csrr (th (.b 2) (.special 19) .none .none 0 0 0)) ∧
    decodeTableWord 96 0x00000000000012130069C8B9 = some (.csrw (th (.special 19) (.w 9) .none .none 0 0 0)) ∧
    decodeTableWord 96 0x00000000000012130069C939 = some (.csrs (th (.special 19) (.w 9) .none .none 0 0 0)) ∧
    decodeTableWord 96 0x00000000000012130069C9B9 = some (.csrc (th (.special 19) (.w 9) .none .none 0 0 0)) ∧
    decodeTableWord 32 0x1461E038 = some (.tdef (.short (sh false 5 3 1))) ∧
    decodeTableWord 32 0x0060E0B8 = some (.tfree (.short (sh false 0 3 0))) ∧
    decodeTableWord 32 0x0062E138 = some (.tstat (sh false 0 3 2)) ∧
    decodeTableWord 96 0x000000000000060200C2E139 = some (.tstatW (.three (th (.b 2) (.t 3) .none .none 0 0 0))) ∧
    decodeTableWord 32 0x0060E1B8 = some (.tmark (.short (sh false 0 3 0))) ∧
    decodeTableWord 96 0x00000008181808030866E239 = some (.cpy (th (.t 3) (.w 4) (.b 6) (.w 8) 0 0 0)) ∧
    decodeTableWord 96 0x00000008181808030866E2B9 = some (.cpo (th (.t 3) (.w 4) (.b 6) (.w 8) 0 0 0)) := by
  decide +kernel

/-- The words of cpr, mxe, mma, mxp, acco, accc, accr, acca, accz, field by field (R219 to R236). -/
theorem test_decode_14 :
    decodeTableWord 96 0x00800C08181808030866E339 = some (.cpr (th (.t 3) (.w 4) (.b 6) (.w 8) 1 0 6)) ∧
    decodeTableWord 32 0x00A0E438 = some (.mxe (.short (sh false 0 5 0))) ∧
    decodeTableWord 96 0x00001008181C0C030C66E4B9 = some (.mma (th (.t 3) (.w 6) (.w 7) (.w 8) 0 0 8)) ∧
    decodeTableWord 32 0x0080E538 = some (.mxp (sh false 0 4 0)) ∧
    decodeTableWord 96 0x00000000000008000040E539 = some (.mxpW (.three (th .none (.b 4) .none .none 0 0 0))) ∧
    decodeTableWord 96 0x0000000518A00C000460E839 = some (.acco (th .none (.w 6) (.v 40) (.w 5) 0 0 0)) ∧
    decodeTableWord 32 0x1882E8B8 = some (.accc (sh false 6 4 2)) ∧
    decodeTableWord 96 0x00000C00001808020862E8B9 = some (.acccW (.three (th (.b 2) (.w 4) (.b 6) .none 0 0 6))) ∧
    decodeTableWord 32 0x1882E938 = some (.accr (sh false 6 4 2)) ∧
    decodeTableWord 96 0x00000C00001808020862E939 = some (.accrW (.three (th (.b 2) (.w 4) (.b 6) .none 0 0 6))) ∧
    decodeTableWord 32 0x1888E9B8 = some (.acca (sh false 6 4 8)) ∧
    decodeTableWord 96 0x00000C00001808080862E9B9 = some (.accaW (.three (th (.b 8) (.w 4) (.b 6) .none 0 0 6))) ∧
    decodeTableWord 32 0x1880EA38 = some (.accz (sh false 6 4 0)) ∧
    decodeTableWord 96 0x00000000001808000860EA39 = some (.acczW (.three (th .none (.w 4) (.b 6) .none 0 0 0))) := by
  decide +kernel

/-! ## The manual's worked words -/

/-- ffma, bra and bra.yld, ld.g, the atom example word by word, csrw of %rlim (the examples after R241, R344). -/
theorem test_decode_worked :
    decodeTableWord 32 0x0C4161B8 = some (.ffma (sh false 3 2 1)) ∧
    decodeTableWord 32 0x7FF400B8 = some (.bra (sh false 31 31 20)) ∧
    decodeTableWord 32 0xFFF400B8 = some (.bra (sh true 31 31 20)) ∧
    decodeTableWord 32 0x9881A038 = some (.ld (sh true 6 4 1)) ∧
    decodeTableWord 96 0x00830406101404040862C059 =
      some (.atom { th (.b 4) (.w 2) (.b 5) (.b 6) 1 3 Ty.i32 with g := ⟨3, true⟩ }) ∧
    decodeTableWord 96 0x00000000000008180109C8B9 = some (.csrw (th (.special 0x18) (.imm 4) .none .none 0 0 0)) ∧
    decodeTableWord 96 0x00000000000186A00041403A = some (.iaddW (.lit (sh false 0 2 1) 100000)) ∧
    decodeTableWord 96 0x000004000190040120424039 = some (.iaddW (.three (th (.b 1) (.b 2) (.imm 100) .none 0 0 Ty.i32))) ∧
    decodeTableWord 96 0x008B0000001808010862A039 =
      some (.ldW (.three { th (.b 1) (.w 4) (.b 6) .none 1 3 Ty.b32 with ord := 1 })) := by
  decide +kernel

/-! ## Ill-formed terms, one for each check -/

/-- The checks of R221 to R227, R237 and R238 each refuse a term: the reserved guard; U where it is not permitted; MOD, TY, RM,
SC, ORD and CH of another row; an unused field; m0 as a destination; a slot beyond 31; an odd register for a pair; a kind its
role does not take; a literal that is no extension; two literals; a literal form whose B is not 0; no one-word form; a scope of
another row. -/
theorem test_illFormed :
    Instr.wf (.iadd { sh false 3 2 1 with g := ⟨7, true⟩ }) = false ∧
    Instr.wf (.icmp { sh true 3 2 1 with u := true }) = false ∧
    Instr.wf (.vote (sh false 0 2 1)) = false ∧
    Instr.wf (.iaddW (.three (th (.b 1) (.b 2) (.b 3) .none 2 0 Ty.i32))) = false ∧
    Instr.wf (.iaddW (.three (th (.b 1) (.b 2) (.b 3) .none 0 0 Ty.f32))) = false ∧
    Instr.wf (.faddW (.three { th (.b 1) (.b 2) (.b 3) .none 0 0 Ty.f32 with rm := 5 })) = false ∧
    Instr.wf (.fenceW (.three (th .none .none .none .none 0 5 0))) = false ∧
    Instr.wf (.ldW (.three { th (.b 1) (.w 4) (.b 6) .none 1 3 Ty.b32 with ord := 2 })) = false ∧
    Instr.wf (.prefW (.three { th .none (.w 4) (.b 6) .none 0 0 0 with ch := 3 })) = false ∧
    Instr.wf (.nop (.short (sh false 0 0 1))) = false ∧
    Instr.wf (.join (.short (sh false 0 0 0))) = false ∧
    Instr.wf (.iaddW (.three (th (.b 32) (.b 2) (.b 3) .none 0 0 Ty.i32))) = false ∧
    Instr.wf (.iaddW (.three (th (.b 3) (.b 2) (.b 4) .none 0 0 Ty.i64))) = false ∧
    Instr.wf (.iaddW (.three (th (.w 3) (.b 2) (.b 4) .none 0 0 Ty.i32))) = false ∧
    Instr.wf (.iaddW (.three (th (.b 1) (.b 2) (.lit 0x100000000) .none 0 0 Ty.i32))) = false ∧
    Instr.wf (.iaddW (.three (th (.b 1) (.lit 1) (.lit 1) .none 0 0 Ty.i32))) = false ∧
    Instr.wf (.iaddW (.lit (sh false 1 2 1) 1)) = false ∧
    Instr.wf (.rgnW (.three (th .none (.v 4) (.v 8) .none 0 0 0))) = false ∧
    Instr.wf (.red (sh false 5 2 6)) = false ∧
    Instr.wf (.iadd (sh false 3 2 1)) = true := by
  decide +kernel

/-- Words that are no instruction are refused by name (R237): an opcode of no row; the reserved guard; U not permitted; a form
the row has not; bit 31 of a three-word form; a kind of no code; a literal too many; a field of another row; bytes too few. -/
theorem test_rejects :
    decode (wordBytes 0x0000FFB8) = .error .unassigned ∧
    decode (wordBytes 0x00004078) = .error .reservedGuard ∧
    decode (wordBytes 0x80004C3C) = .error .uniformNotPermitted ∧
    decode (wordBytes 0x00004BB8) = .error .noBaseForm ∧
    decode (wordBytes 0x88424039 ++ wordBytes 0 ++ wordBytes 0) = .error .reservedBit31 ∧
    decode (wordBytes 0x28424039 ++ wordBytes 0 ++ wordBytes 0) = .error .reservedKind ∧
    decode (wordBytes 0x1C424039 ++ wordBytes 0 ++ wordBytes 0) = .error .literalCount ∧
    decode (wordBytes 0x00002338) = .error .fieldCheck ∧
    decode (wordBytes 0x08424039) = .error .truncated := by
  decide +kernel

/-! ## One step of an instruction (the examples of the instruction chapters) -/

/-- v3 of the first strand after an instruction, with v1 and v2 given. -/
def gives (i : Instr) (a b : Word) : Nat × Nat :=
  let t := after i (solo (regs [(1, a), (2, b)] stage))
  ((readV t 0 3).1.toNat, (strandAt t 0).fstat.toNat)

/-- The integer examples of the arithmetic chapter: a wrap, and saturation, which is reported. -/
theorem test_iadd : gives (.iadd (sh false 2 1 3)) 0x7FFFFFF0 0x20 = (0x80000010, 0) ∧
    (gives (.iadd (sh true 2 1 3)) 0x7FFFFFF0 0x20).1 = 0x7FFFFFFF := by decide +kernel

/-- imulh and idiv by 0 and of the minimum by −1, bfx and sra, from the same table. -/
theorem test_integer :
    (gives (.imulh (sh false 2 1 3)) 0xFFFFFFFD 0x40000000).1 = 0xFFFFFFFF ∧
    (gives (.idiv (sh false 2 1 3)) 9 0).1 = 0xFFFFFFFF ∧ (gives (.irem (sh false 2 1 3)) 9 0).1 = 9 ∧
    gives (.idiv (sh false 2 1 3)) 0x80000000 0xFFFFFFFF = (0x80000000, 0) ∧
    (gives (.sra (sh false 2 1 3)) 0x80000000 40).1 = 0xFFFFFFFF := by decide +kernel

/-- The example after R298: a tie goes to the even neighbour with NX; a sum of opposites is +0. -/
theorem test_float :
    gives (.fmul (sh false 1 1 3)) 0x3F800800 0 = (0x3F801000, 0x10) ∧
    gives (.fadd (sh false 2 1 3)) 0x3F801000 0xBF801000 = (0, 0) := by decide +kernel

/-- A destination that is also a source is read first. -/
theorem test_source_is_destination :
    (readV (after (.isub (sh false 2 1 2)) (solo (regs [(1, 7), (2, 3)] stage))) 0 2).1 = 4 := by decide +kernel

/-- bra goes to its own address plus the offset; yld makes the strand Deferred (R261). -/
theorem test_bra :
    (strandAt (after (.bra (sh true 31 31 20)) (solo stage)) 0).pc = 0xFFF4 ∧
    (strandAt (after (.bra (sh true 31 31 20)) (solo stage)) 0).cond = .deferred := by decide +kernel

/-- A store goes to the record and a load of the same strand reads it there; memory stays (R163, R174). -/
theorem test_store_then_load :
    let s := uni [(4, 0x2003C)] (regs [(1, 0xA1B2C3D4)] stage)
    let t := after (.st (sh true 0 4 1)) (solo s)
    let u := after (.ld (sh true 0 4 3)) (solo (modStrand t 0 fun x => { x with pc := 0x10000 }))
    (readV u 0 3).1 = 0xA1B2C3D4 ∧ memRead u.mem 0x4002003C = 0 ∧ ((coreAt t 0).record.map (·.line)) = [0x1000800] := by
  decide +kernel

/-- A drain's bytes reach memory at the home, at the last byte of the line. -/
theorem test_drain :
    memRead (after .drainArrival (on [0, 0] (sends (.drain 17 0 entry 0) State.reset))).mem (64 * 0x1000400 + 63) = 7 := by decide +kernel

/-- A misaligned load takes ALIGN with the lanes that took it, and the strand goes to its handler (R306, R354, R356). -/
theorem test_align :
    let t := after (.ld (sh true 0 4 3)) (solo (uni [(4, 0x20001)] (ruled (fun r => { r with trapOff := 0x200 }) stage)))
    (strandAt t 0).tcause = 3 ∧ (strandAt t 0).tdet = 1 ∧ (strandAt t 0).trpc = 0x10000 ∧ (strandAt t 0).pc = 0x10200 := by decide +kernel

/-- A call and its return: the return address is on the stack, then the pc (R262). -/
theorem test_call_ret :
    let t := after (.call (sh false 0 4 0)) (solo stage)
    let u := after (.ret (.short (sh false 0 0 0))) { t with ctl := { t.ctl with bundle := some { lone with pc := 0x10080 } } }
    (strandAt t 0).pc = 0x10080 ∧ (strandAt t 0).depth = 1 ∧ (strandAt u 0).pc = 0x10004 ∧ (strandAt u 0).depth = 0 := by decide +kernel

/-! ## Witnesses -/

/-- The leaf of the stage's first gibibyte. -/
def page : Leaf := { cls := 0, fail := false, w := true, x := true, base := 0x40000000, size := 0x40000000 }

/-- A leaf of an Abacus page. -/
def abacus : Leaf := { cls := 3, fail := false, w := true, x := false, base := 0x50000, size := 65536 }

/-- Eight registers shared by two sheaves. -/
def mapping : SharedMap := { a := 0, f := 32, b := 1, g := 64, n := 8, full := [], queue := [] }

/-- A fan-out that waits for one slice. -/
def transaction : Txn := { tarr := 0, missing := [17], hall := 0, snp := true, deadline := 10000, notify := .nobody, resume := none, holds := none }

/-- A near copy at quad 0 of a line of tract 1. -/
def nearCopy : SliceCopy := { line := 0x80000000, kind := .near, part := 1, ctx := 0, way := 0, used := 0, bytes := zeros64, poison := false }

/-- One is added to a word. -/
def plusOne : LaneOp := { strand := 0, pa := 0x4001003C, op := .add, ty := Ty.i32, value := 1, expected := 0, poison := false }

/-- What a slice knows of a request to read. -/
def readRequest : Request := { slice := 17, line := 0x1000400, age := 0, agent := 0, gang := some 1 }

/-- A load of v511 under way. -/
def pending : PendingLoad := { id := 1, pa := 0x4001003C, dest := .v 511, ty := 0, known := List.replicate 4 none, acquire := false }

/-- One launch waits for the dispatcher. -/
def queued : State := { idled stage with launches := [(2 ^ 32 + 1, { Launch.blank with part := 1, id := 1, record := fetchRecord, root := 0x10000 })], gangs := [], blocks := [], strands := [], sheaves := [], tracts := [(0, { Tract.reset with owner := 1, credit := 512 })] }

/-- A copy of a canonical image into tile 3. -/
def copy : CopyCmd := { kind := .cpy, block := 0, sheaf := 0, tile := 3, va := 0x20000, fmt := 0, ty := Ty.f32, hint := 0, op := 9, started := false, lines := [], awaited := 0, image := [], imagePoison := [], seen := [], touched := [], places := [], poison := false, fault := none, ec := 0 }

/-- A panel that is being filled. -/
def filling : Tile := { desc := panel, state := .filling, f := false, p := false, ec := 0 }

/-- A tile of one f32, being filled. -/
def small : Tile := { desc := 0x18000000000000 + 0x8000, state := .filling, f := false, p := false, ec := 0 }

/-- A copy of one f32 from memory. -/
def dense : CopyCmd := { copy with kind := .cpo }

/-- A sheaf at its latch. -/
def arrival : Arrival :=
  { sheaf := 0, ens := 0x2000000004000, tile := 3, tileDesc := panel, ty := Ty.bf16, b := 0x20000, c := 0x50000, k := 16, stride := 64, mxp := 0, prio := 0, id := 0 }

/-- An entry of the reservation table. -/
def listed1 : TableEntry := { members := [arrival, { arrival with sheaf := 64 }], row := 0, entered := 0, granted := 0, aged := 0, checked := true }

/-- Its first pass. -/
def firstPass : Pass := { entry := 0, row := 0, stop := 16, grids := [] }

/-- An entry whose B no page maps. -/
def unmapped : TableEntry := { listed1 with members := [{ arrival with b := 0x80000000 }] }

/-- The stage under a launch that may be pre-empted. -/
def saves : State := { modLaunch (idled stage) (2 ^ 32 + 1) (fun l => { l with record := { l.record with save := 0x20000000, handler := 0x100, resume := 0x200, flags := 2 } }) with ctl := (idled stage).ctl }

/-- A suspend that waits. -/
def suspending1 : Waiting := { opcode := 3, h := header 1 8, target := 1, resume := false, count := 0, entries := [], ops := [], loads := [], copies := [], rewalks := [], mmas := [], horizon := 0, ready := none }

/-- A write whose line is visible. -/
def finished : RmaPending := { tag := 6, lines := 0, horizon := 9, data := [], range := none, got := [], poison := false, port := 0 }

/-- The stage's partition with a context table of one entry. -/
def contexts : State := modPart { idled stage with mem := memWriteList stage.mem 0x40000000 (leBytes 8 0x10000 ++ leBytes 2 0 ++ [1]) } 1 fun p => { p with ctxBase := 0x40000000, ctxCount := 1 }

/-- The nop of the stage. -/
def aNop : Instr := .nop (.short (sh false 0 0 0))

theorem witness_DecodeOfEncode_0 : ∃ i : Instr, WellFormed i ∧ i.encodable = true :=
  ⟨aNop, by simp only [WellFormed]; decide +kernel⟩

theorem witness_EncodeOfDecode_0 : ∃ (bs rest : List Byte) (i : Instr), decode bs = .ok (i, rest) :=
  ⟨wordBytes 0x38, [], aNop, by decide +kernel⟩

theorem stage_fetches : fetchInstr stage all8 = .run aNop := by rfl

theorem witness_StepRunsDecoded_0 : ∃ s b i, s.ctl.bundle = some b ∧ fetchInstr s b = .run i :=
  ⟨stage, all8, aNop, by decide +kernel, stage_fetches⟩

theorem witness_StepRunsDecoded_1 : ∃ (s : State) (b : Bundle) (i : Instr) (rest : List Byte), s.ctl.bundle = some b ∧
    (fetchUnit s b.core (launchOf s (blockAt s b.block)) b.pc.toNat).1 = Verdict.ok ∧
    decode (fetchUnit s b.core (launchOf s (blockAt s b.block)) b.pc.toNat).2 = .ok (i, rest) :=
  ⟨stage, all8, aNop, [], by decide +kernel⟩

theorem witness_IllegalTraps_0 : ∃ (s : State) (b : Bundle) (bs : List Byte) (e : Reject), s.ctl.bundle = some b ∧
    fetchUnit s b.core (launchOf s (blockAt s b.block)) b.pc.toNat = (Verdict.ok, bs) ∧ decode bs = .error e :=
  ⟨State.reset.withFetchWord 32 0xFFB8, all8, [0xB8, 0xFF, 0, 0], .unassigned, by decide +kernel⟩

theorem witness_StepKeepsInv_0 : ∃ s t, StepInv s ∧ step s = .next t :=
  ⟨stage, _, by
    refine ⟨by decide +kernel, fun b hb => ?_⟩
    obtain rfl : all8 = b := Option.some.inj hb
    simp only [Standing]; decide +kernel, rfl⟩

theorem witness_MemoryChangesAtHomes_0 : ∃ (i : Instr) (s t : State), i.encodable = true ∧ exec i s = .next t :=
  ⟨aNop, stage, _, by decide +kernel, rfl⟩

theorem witness_MemoryChangesAtHomes_1 : ∃ (i : Instr) (s t : State), mayChangeMemory i = false ∧ exec i s = .next t :=
  ⟨aNop, stage, _, by decide +kernel, rfl⟩

theorem witness_AluFrame_0 : ∃ (i : Instr) (stem : Stem) (code : Code) (r : AluRow) (s t : State) (b : Bundle),
    i.view = some (stem, code) ∧ codeOk stem code = true ∧ aluRow stem = some r ∧ Standing s b ∧ Unmapped s b ∧
    (let x := code.norm stem
     let ps := participants s b x.g
     AllPass ps (aluCheck stem x r.readsD r.moves s) ∧ exec i s = .next t ∧
     (∃ k, k ∉ b.strands) ∧ (∃ n, ∀ k ∈ ps, n ∉ destNames s k (r.dty x) x.d) ∧ (∃ k, k ∉ ps) ∧ x.d ≠ .w 63) :=
  ⟨.iadd (sh true 5 4 3), .iadd, .short (sh true 5 4 3), plainRow iaddFn, stage, _, all8, rfl, rfl, rfl,
    by simp only [Standing]; decide +kernel, by simp only [Unmapped]; decide +kernel,
    by simp only [AllPass]; decide +kernel, rfl, ⟨8, by decide +kernel⟩, ⟨511, by decide +kernel⟩, ⟨8, by decide +kernel⟩,
    by decide +kernel⟩

theorem witness_AluFrame_1 : ∃ (i : Instr) (code : Code) (s t : State) (b : Bundle),
    i.view = some (.lea, code) ∧ codeOk .lea code = true ∧ Standing s b ∧ Unmapped s b ∧
    AllPass (participants s b (code.norm .lea).g) (fun k => (Verdict.trapIf (rangeFails .lea (code.norm .lea) s k) .regrange).and
      (Verdict.poisonIf (leaValue (code.norm .lea) s k).2)) ∧ exec i s = .next t :=
  ⟨.lea (sh false 6 4 2), .short (sh false 6 4 2), stage, _, all8, rfl, by decide +kernel, by simp only [Standing]; decide +kernel,
    by simp only [Unmapped]; decide +kernel, by simp only [AllPass]; decide +kernel, rfl⟩

/-- Two sheaves of one core: the first waits at a bar, the second stands at the nop. -/
def second : State :=
  let x := blockAt stage 0
  on [0, 0] (idled { stage with
    blocks := [(0, { x with sheafSlots := [0, 1] })]
    sheaves := [(0, { sheafAt stage 0 with log2w := 3 }), (1, { sheafAt stage 0 with idx := 1, slot := 1, context := 1 })]
    strands := (List.range 8).map (fun i => (i, { strandAt stage i with cond := .waiting .bar })) ++
      (List.range 8).map fun i => (64 + i, { strandAt stage i with cond := .running }) })

/-- The bundle of the second sheaf. -/
def all8' : Bundle := { core := 0, block := 0, pc := 0x10000, strands := (List.range 8).map (64 + ·) }

/-- The core has begun its cycle. -/
def begun : State := completeTraps (spendCycle (enterCycle second 0) 0) 0

theorem first_has_none : candidate begun 0 = none := by decide +kernel

theorem first_does_not_issue : NoneIssues begun 0 [0] := by
  intro before slot after b h hc
  cases before with
  | nil =>
    obtain ⟨rfl, rfl⟩ : slot = 0 ∧ after = [] := by simpa [eq_comm] using h
    rw [List.foldl_nil] at hc
    exact absurd (first_has_none.symm.trans hc) (by simp)
  | cons x xs => simp at h

theorem witness_CoreEvents_0 : ∃ (s : State) (before : List Nat) (slot : Nat) (rest : List Nat) (b : Bundle),
    let s' := completeTraps (spendCycle (enterCycle s (s.arg 0)) (s.arg 0)) (s.arg 0)
    let u := before.foldl (holdSlot (s.arg 0)) s'
    s.ctl.bundle = none ∧ allowed (enterCycle s (s.arg 0)) (s.arg 0 / 4) = true ∧ s.arg 1 = 0 ∧
    slotOrder s' (s.arg 0) = before ++ slot :: rest ∧ NoneIssues s' (s.arg 0) before ∧
    candidate u (64 * s.arg 0 + slot) = some b ∧ (canIssue u b).1 = true :=
  ⟨second, [0], 1, [], all8', by decide +kernel, by decide +kernel, by decide +kernel, by decide +kernel, first_does_not_issue,
    by decide +kernel, by decide +kernel⟩

theorem witness_Loads_0 : ∃ (i : Instr) (code : Code) (s : State) (b : Bundle),
    i.view = some (.ld, code) ∧ codeOk .ld code = true ∧ Standing s b ∧ Unmapped s b ∧
    (let x := code.norm .ld
     let ps := participants s b x.g
     AllPass ps (memCheck .ld x s) ∧ (∀ k ∈ ps, ∃ off, (memTarget .ld x s k).1 = .scratch off) ∧
     (∀ c ∈ (coreAt s (b.block / 4)).queue, c.block ≠ b.block)) :=
  ⟨.ldW (.three (th (.b 2) (.w 0) (.imm 0xFC) .none 2 0 0)), .long (.three (th (.b 2) (.w 0) (.imm 0xFC) .none 2 0 0)), stage, all8,
    rfl, by decide +kernel, by simp only [Standing]; decide +kernel, by simp only [Unmapped]; decide +kernel,
    by simp only [AllPass]; decide +kernel,
    fun k hk => ⟨252, (show ∀ k ∈ participants stage all8 ⟨7, false⟩,
      (memTarget .ld (th (.b 2) (.w 0) (.imm 0xFC) .none 2 0 0) stage k).1 = .scratch 252 by decide +kernel) k hk⟩,
    by decide +kernel⟩

theorem witness_Tiles_2 : ∃ (i : Instr) (code : Code) (s : State) (b : Bundle),
    i.view = some (.tstat, code) ∧ codeOk .tstat code = true ∧ Standing s b ∧ Unmapped s b ∧
    (let x := code.norm .tstat
     let ps := participants s b x.g
     ∀ k ∈ ps, rangeFails .tstat x s k = false) :=
  ⟨.tstat (sh false 0 3 1), .short (sh false 0 3 1), stage, all8,
    rfl, by decide +kernel, by simp only [Standing]; decide +kernel, by simp only [Unmapped]; decide +kernel, by decide +kernel⟩

/-- A tile's status bits at their largest. -/
theorem witness_Tiles_2_status : ∃ t : Tile, t.ec < 8 := ⟨{ filling with ec := 7 }, by decide +kernel⟩


/-! ## Signatures (R97): the digest of `abc` is FIPS 180-4's own example. -/

theorem test_sha384_abc : sha384 [0x61, 0x62, 0x63] =
    beBytes 48 0xcb00753f45a35e8bb5a03d699ac65007272c32ab0eded1631a8b605a43ff5bed8086072ba1e7cc2358baeca134c825a7 := by decide +kernel

/-- Twice and three times the base point, worked out outside the model. -/
theorem test_curve_double : CurvePoint.base.double.hasX
    0x2282bc382a2f4dfcb95c3495d7b4fd590ad520b3eb6be4d6ec2f80c4e0f70df87c4ba74a09b553ebb427b58df9d59fca = true := by decide +kernel

theorem test_curve_add : (CurvePoint.base.double.add CurvePoint.base).hasX
    0x7b63205bf00ddae73b17452b6a27ebf53df581348c6949f83ee1b6fcc7463bbe3c11ef6596a3b8897d7cc85b3035f11f = true := by decide +kernel

/-- No signature has a first number of 0. -/
theorem test_signature_zero : ecdsaOk (beBytes 97 4) [0x61] 0 1 = false := by decide +kernel

/-- A signature block (R249): the code's bounds, its digest, and the two numbers of the signature, each with its first byte highest. -/
theorem test_parse_block :
    parseBlock ([0x50, 0x53, 0x49, 0x47, 1, 0, 0, 0] ++ leBytes 8 0x20000 ++ leBytes 8 0x100 ++ List.replicate 48 7 ++
      List.replicate 47 0 ++ [5] ++ [1] ++ List.replicate 47 0 ++ List.replicate 8 0) =
    some { start := 0x20000, len := 0x100, digest := List.replicate 48 7, r := 5, s := 256 ^ 47 } := by decide +kernel

theorem witness_YieldDefers_0 : ∃ (s : State), ∃ (b : Bundle),
    (Standing s b) :=
  ⟨stage, all8, by (try simp only [Standing, AllPass, Unmapped, canTrap, ServesNow, Received, SheafRecordGood]); decide +kernel⟩

theorem witness_BranchesTake_0 : ∃ (i : Instr), ∃ (stem : Stem), ∃ (code : Code), ∃ (s : State), ∃ (b : Bundle),
    (i.view = some (stem, code)) ∧ ((stem = .bra ∨ stem = .brx)) ∧ (Standing s b) ∧ let x := code.norm stem; let ps := participants s b x.g; ((stem = .brx → AllPass ps (indirectCheck .brx x s))) :=
  ⟨.bra (sh false 0 0 0), .bra, (.short (sh false 0 0 0)), stage, all8, by (try simp only [Standing, AllPass, Unmapped, canTrap, ServesNow, Received, SheafRecordGood]); decide +kernel⟩

theorem witness_Calls_0 : ∃ (i : Instr), ∃ (stem : Stem), ∃ (code : Code), ∃ (s : State), ∃ (b : Bundle),
    (i.view = some (stem, code)) ∧ ((stem = .call ∨ stem = .callx)) ∧ (Standing s b) ∧ let x := code.norm stem; let ps := participants s b x.g; ((stem = .callx → AllPass ps (indirectCheck .callx x s))) ∧ ((∀ k ∈ ps, spillPlan s k = .room)) :=
  ⟨.call (sh false 0 4 0), .call, (.short (sh false 0 4 0)), stage, all8, by (try simp only [Standing, AllPass, Unmapped, canTrap, ServesNow, Received, SheafRecordGood]); decide +kernel⟩

theorem witness_Calls_1 : ∃ (i : Instr), ∃ (stem : Stem), ∃ (code : Code), ∃ (s : State), ∃ (b : Bundle), ∃ k, ∃ pa, ∃ cls, ∃ oldest, ∃ rest,
    (i.view = some (stem, code)) ∧ ((stem = .call ∨ stem = .callx)) ∧ (Standing s b) ∧ (participants s b (code.norm stem).g = [k]) ∧ ((stem = .callx → indirectCheck .callx (code.norm stem) s k = Verdict.ok)) ∧ (spillPlan s k = .store pa cls) ∧ (pushFull s k (.store pa cls) = false) ∧ ((strandAt s k).stack = oldest :: rest) ∧ ((blockAt s b.block).armed = none) :=
  ⟨.call (sh false 0 4 0), .call, (.short (sh false 0 4 0)), (modStrand (solo stage) 0 fun x => { x with stack := List.replicate 4 { ret := 0x10004, x := 0, y := 16 }, depth := 4, csp := 0x20000 }), lone, 0, 0x40020000, 0, { ret := 0x10004, x := 0, y := 16 }, List.replicate 3 { ret := 0x10004, x := 0, y := 16 }, by (try simp only [Standing, AllPass, Unmapped, canTrap, ServesNow, Received, SheafRecordGood]); decide +kernel⟩

theorem witness_RetPops_0 : ∃ (x : Code), ∃ (s : State), ∃ (b : Bundle),
    (Standing s b) ∧ let ps := participants s b (x.norm .ret).g; ((∀ k ∈ ps, (strandAt s k).stack ≠ [] ∧ (strandAt s k).depth ≠ 0)) :=
  ⟨(.short (sh false 0 0 0)), each (fun x => { x with stack := [{ ret := 0x10004, x := 0, y := 16 }], depth := 1 }) stage, all8, by (try simp only [Standing, AllPass, Unmapped, canTrap, ServesNow, Received, SheafRecordGood]); decide +kernel⟩

theorem witness_RetPops_1 : ∃ (x : Code), ∃ (s : State), ∃ (b : Bundle), ∃ k, ∃ pa, ∃ cls,
    (Standing s b) ∧ (participants s b (x.norm .ret).g = [k]) ∧ ((strandAt s k).stack = []) ∧ (fillPlan s k = .store pa cls) ∧ ((fillBytes s k pa cls).2 = false) :=
  ⟨(.short (sh false 0 0 0)), modStrand (solo stage) 0 fun x => { x with depth := 1, csp := 0x20010 }, lone, 0, 0x40020000, 0, by (try simp only [Standing, AllPass, Unmapped, canTrap, ServesNow, Received, SheafRecordGood]); decide +kernel⟩

theorem witness_RetPops_2 : ∃ (x : Code), ∃ (s : State), ∃ (b : Bundle), ∃ k,
    (Standing s b) ∧ (participants s b (x.norm .ret).g = [k]) ∧ ((strandAt s k).stack = []) ∧ (canTrap s k) ∧ (((strandAt s k).depth = 0 ∨ (strandAt s k).csp.toNat % 16 ≠ 0)) :=
  ⟨(.short (sh false 0 0 0)), modStrand (solo (ruled (fun r => { r with trapOff := 0x200 }) stage)) 0 fun x => { x with csp := 8 }, lone, 0, by (try simp only [Standing, AllPass, Unmapped, canTrap, ServesNow, Received, SheafRecordGood]); decide +kernel⟩

theorem witness_MapsAndRefill_0 : ∃ (i : Instr), ∃ (stem : Stem), ∃ (code : Code), ∃ (s : State), ∃ (b : Bundle),
    (i.view = some (stem, code)) ∧ ((stem = .rgn ∨ (stem = .rfl ∧ bundleAtRefill s = false))) ∧ (Standing s b) ∧ let x := code.norm stem; let ps := participants s b x.g; (AllPass ps (mapCheck x s)) :=
  ⟨.rgn (sh false 4 2 0), .rgn, (.short (sh false 4 2 0)), stage, all8, by (try simp only [Standing, AllPass, Unmapped, canTrap, ServesNow, Received, SheafRecordGood]); decide +kernel⟩

theorem witness_MapsAndRefill_1 : ∃ (i : Instr), ∃ (code : Code), ∃ (s : State), ∃ (b : Bundle),
    (i.view = some (.rfl, code)) ∧ (Standing s b) ∧ (bundleAtRefill s = true) ∧ let x := code.norm .rfl; let group := drawGroup s b; (AllPass b.strands (mapCheck x s)) ∧ ((tfind s.blocks b.block).isSome) ∧ ((blockAt s b.block).next + group.length ≤ (blockAt s b.block).last) :=
  ⟨.rfl (sh false 1 0 0), (.short (sh false 1 0 0)), modBlock (each (fun x => { x with cond := .parked }) (ruled (fun r => { r with refill := 0 }) stage)) 0 fun x => { x with last := 8 }, all8, by (try simp only [Standing, AllPass, Unmapped, canTrap, ServesNow, Received, SheafRecordGood]); decide +kernel⟩

theorem witness_StrandsFinish_0 : ∃ (x : Code), ∃ (s : State), ∃ (b : Bundle), ∃ l,
    (Standing s b) ∧ (refillPoint (launchOf s (blockAt s b.block)) = some l) ∧ let ps := participants s b (x.norm .itend).g; ((∀ k ∈ ps, reports s k = false)) :=
  ⟨(.short (sh false 0 0 0)), ruled (fun r => { r with refill := 0x100 }) stage, all8, 0x10100, by (try simp only [Standing, AllPass, Unmapped, canTrap, ServesNow, Received, SheafRecordGood]); decide +kernel⟩

theorem witness_StrandsFinish_1 : ∃ (i : Instr), ∃ (stem : Stem), ∃ (code : Code), ∃ (s : State), ∃ (b : Bundle),
    (i.view = some (stem, code)) ∧ ((stem = .exit ∨ (stem = .itend ∧ refillPoint (launchOf s (blockAt s b.block)) = none))) ∧ (Standing s b) ∧ let ps := participants s b (code.norm stem).g; ((∀ k ∈ ps, reports s k = false)) ∧ ((blockAt s b.block).shared = []) ∧ ((∀ k ∈ ps, (sheafAt s (sheafOf k)).phase ≠ .resume ∨ ∃ j ∈ sheafStrands s (sheafOf k), j ∉ ps ∧ (strandAt s j).cond ≠ .done ∧ (strandAt s j).cond ≠ .saved)) :=
  ⟨.exit (.short (sh false 0 0 0)), .exit, (.short (sh false 0 0 0)), stage, all8, by (try simp only [Standing, AllPass, Unmapped, canTrap, ServesNow, Received, SheafRecordGood]); decide +kernel⟩

theorem witness_StrandsFinish_2 : ∃ (i : Instr), ∃ (stem : Stem), ∃ (code : Code), ∃ (s : State), ∃ (b : Bundle), ∃ k, ∃ j,
    (i.view = some (stem, code)) ∧ ((stem = .exit ∨ (stem = .itend ∧ refillPoint (launchOf s (blockAt s b.block)) = none))) ∧ (Standing s b) ∧ let f := sheafOf k; (participants s b (code.norm stem).g = [k]) ∧ (reports s k = false) ∧ ((blockAt s b.block).shared = []) ∧ ((sheafAt s f).phase = .resume) ∧ ((blockAt s b.block).undrawn = false) ∧ ((strandAt s k).recorded = none) ∧ ((∀ i ∈ sheafStrands s f, i ≠ k → (strandAt s i).cond = .done ∨ ((strandAt s i).cond = .saved ∧ (strandAt s i).recorded.isSome))) ∧ (((sheafStrands s f).find? fun i => (strandAt s i).cond == .saved) = some j) ∧ (SheafRecordGood s j) :=
  ⟨.exit (.short (sh false 0 0 0)), .exit, (.short (sh false 0 0 0)), solo (modStrand (each (fun x => { x with cond := .saved, recorded := some .running }) (modSheaf (ruled (fun r => { r with save := 0x30000000, handler := 0, resume := 0 }) stage) 0 fun x => { x with phase := .resume })) 0 fun x => { x with cond := .running, recorded := none }), lone, 0, 1, by (try simp only [Standing, AllPass, Unmapped, canTrap, ServesNow, Received, SheafRecordGood]); decide +kernel⟩

theorem witness_BarriersWait_0 : ∃ (x : Code), ∃ (s : State), ∃ (b : Bundle),
    (Standing s b) ∧ ((∀ k ∈ participants s b (x.norm .bar).g, reports s k = false)) :=
  ⟨(.short (sh false 0 0 0)), stage, all8, by (try simp only [Standing, AllPass, Unmapped, canTrap, ServesNow, Received, SheafRecordGood]); decide +kernel⟩

theorem witness_BarriersWait_1 : ∃ (x : Code), ∃ (s : State), ∃ (b : Bundle),
    (Standing s b) ∧ ((∀ k ∈ participants s b (x.norm .gbar).g, reports s k = false)) :=
  ⟨(.short (sh false 0 0 0)), stage, all8, by (try simp only [Standing, AllPass, Unmapped, canTrap, ServesNow, Received, SheafRecordGood]); decide +kernel⟩

theorem witness_BarriersWait_2 : ∃ (s : State), ∃ (b : Bundle),
    (Standing s b) :=
  ⟨stage, all8, by (try simp only [Standing, AllPass, Unmapped, canTrap, ServesNow, Received, SheafRecordGood]); decide +kernel⟩

theorem witness_SoftwareTraps_0 : ∃ (i : Instr), ∃ (stem : Stem), ∃ (code : Code), ∃ (s : State), ∃ (b : Bundle),
    (i.view = some (stem, code)) ∧ ((stem = .trap ∨ stem = .bkpt)) ∧ (Standing s b) ∧ let x := code.norm stem; let ps := participants s b x.g; ((∀ k ∈ ps, canTrap s k)) :=
  ⟨.trap (sh false 0 31 0), .trap, (.short (sh false 0 31 0)), ruled (fun r => { r with trapOff := 0x200 }) stage, all8, by (try simp only [Standing, AllPass, Unmapped, canTrap, ServesNow, Received, SheafRecordGood]); decide +kernel⟩

theorem witness_UntrappedKills_0 : ∃ (s : State), ∃ k, ∃ (c : Cause), ∃ trpc, ∃ tdet,
    ((launchOf s (blockAt s (blockOf s k))).record.trapOff = 0xFFFFFFFF ∨ (strandAt s k).trapDepth ≠ 0 ∨ (sheafAt s (sheafOf k)).phase ≠ .normal) ∧ let g := (blockAt s (blockOf s k)).gang; ((gangAt s g).state.live = true) ∧ ((tfind s.gangs g).isSome) ∧ let t := trapEntry s k c trpc tdet; True :=
  ⟨stage, 0, .illegal, 0x10000, 0, by (try simp only [Standing, AllPass, Unmapped, canTrap, ServesNow, Received, SheafRecordGood]); decide +kernel⟩

theorem witness_ChecksTrap_0 : ∃ (i : Instr), ∃ (stem : Stem), ∃ (code : Code), ∃ r, ∃ (s : State), ∃ (b : Bundle),
    (i.view = some (stem, code)) ∧ (aluRow stem = some r) ∧ (Standing s b) ∧ let x := code.norm stem; let ps := participants s b x.g; let bad := ps.filter (rangeFails stem x s); (bad ≠ []) ∧ ((∀ k ∈ bad, canTrap s k)) :=
  ⟨.iadd (sh false 5 4 3), .iadd, (.short (sh false 5 4 3)), plainRow iaddFn, modSheaf (ruled (fun r => { r with trapOff := 0x200 }) stage) 0 fun x => { x with alloc := 0 }, all8, by refine ⟨rfl, rfl, ?_⟩; (try simp only [Standing, AllPass, Unmapped, canTrap, ServesNow, Received, SheafRecordGood]); decide +kernel⟩

theorem witness_ChecksTrap_1 : ∃ (i : Instr), ∃ (stem : Stem), ∃ (code : Code), ∃ (s : State), ∃ (b : Bundle), ∃ c, ∃ n,
    (i.view = some (stem, code)) ∧ (stem ∈ addressRows) ∧ ((c, n) ∈ [(Cause.regrange, 2), (Cause.align, 3)]) ∧ (Standing s b) ∧ let x := code.norm stem; let ps := participants s b x.g; let check := addressCheck stem x s ps; let bad := ps.filter fun k => (check k).cause = some c; (bad ≠ []) ∧ ((∀ k ∈ ps, k ∉ bad → (check k).cause = none ∧ (check k).walk = none)) ∧ ((∀ k ∈ bad, canTrap s k ∧ (check k).walk = none)) :=
  ⟨.ld (sh false 1 0 2), .ld, (.short (sh false 1 0 2)), uni [(0, 0x20001)] (ruled (fun r => { r with trapOff := 0x200 }) stage), all8, .align, 3, by (try simp only [Standing, AllPass, Unmapped, canTrap, ServesNow, Received, SheafRecordGood]); decide +kernel⟩

theorem witness_ArithmeticReports_0 : ∃ (i : Instr), ∃ (stem : Stem), ∃ (code : Code), ∃ (s : State), ∃ (b : Bundle),
    (i.view = some (stem, code)) ∧ ((stem = .bar ∨ stem = .gbar ∨ stem = .itend ∨ stem = .exit)) ∧ (Standing s b) ∧ let ps := participants s b (code.norm stem).g; (ps ≠ []) ∧ ((∀ k ∈ ps, reports s k = true ∧ canTrap s k)) :=
  ⟨.bar (.short (sh false 0 0 0)), .bar, (.short (sh false 0 0 0)), each (fun x => { x with fstat := 4, fmask := 4 }) (ruled (fun r => { r with trapOff := 0x200 }) stage), all8, by (try simp only [Standing, AllPass, Unmapped, canTrap, ServesNow, Received, SheafRecordGood]); decide +kernel⟩

theorem witness_Masks_0 : ∃ (i : Instr), ∃ (stem : Stem), ∃ (code : Code), ∃ (s : State), ∃ (b : Bundle),
    (i.view = some (stem, code)) ∧ ((stem = .join ∨ stem = .leave)) ∧ (Standing s b) ∧ let x := code.norm stem; let ps := participants s b x.g; let n := maskNumber x.a; (n ≠ 0) :=
  ⟨.join (.short (sh false 0 11 0)), .join, (.short (sh false 0 11 0)), stage, all8, by (try simp only [Standing, AllPass, Unmapped, canTrap, ServesNow, Received, SheafRecordGood]); decide +kernel⟩

theorem witness_Masks_1 : ∃ (i : Instr), ∃ (stem : Stem), ∃ (code : Code), ∃ (s : State), ∃ (b : Bundle),
    (i.view = some (stem, code)) ∧ ((stem = .mfrp ∨ stem = .mlog ∨ stem = .mmov)) ∧ (codeOk stem code = true) ∧ (Standing s b) ∧ let x := code.norm stem; let ps := participants s b x.g; ((stem = .mmov → x.mod ≠ 2 ∧ ∀ k ∈ ps, (valueAt .mmov x s k .a).2 = false)) ∧ (maskNumber x.d ≠ 0) ∧ ((∃ n, x.d = .m n)) :=
  ⟨.mfrp (.short (sh false 0 1 11)), .mfrp, (.short (sh false 0 1 11)), stage, all8, by (try simp only [Standing, AllPass, Unmapped, canTrap, ServesNow, Received, SheafRecordGood]); decide +kernel⟩

theorem witness_Masks_2 : ∃ (i : Instr), ∃ (code : Code), ∃ (s : State), ∃ (b : Bundle), ∃ n, ∃ w,
    (i.view = some (.mmov, code)) ∧ (Standing s b) ∧ let x := code.norm .mmov; let ps := participants s b x.g; (x.mod = 2) ∧ (x.a = .m n) ∧ (x.d = .w w) :=
  ⟨.mmovW (.three (th (.w 2) (.m 11) .none .none 2 0 0)), (.long (.three (th (.w 2) (.m 11) .none .none 2 0 0))), stage, all8, 11, 2, by (try simp only [Standing, AllPass, Unmapped, canTrap, ServesNow, Received, SheafRecordGood]); decide +kernel⟩

theorem witness_Collectives_0 : ∃ (i : Instr), ∃ (code : Code), ∃ (s : State), ∃ (b : Bundle), ∃ d,
    (i.view = some (.vote, code)) ∧ (codeOk .vote code = true) ∧ (Standing s b) ∧ let x := code.norm .vote; let ps := participants s b x.g; (x.d = .p d) :=
  ⟨.vote (sh true 0 2 1), (.short (sh true 0 2 1)), stage, all8, 1, by (try simp only [Standing, AllPass, Unmapped, canTrap, ServesNow, Received, SheafRecordGood]); decide +kernel⟩

theorem witness_Collectives_1 : ∃ (i : Instr), ∃ (code : Code), ∃ (s : State), ∃ (b : Bundle),
    (i.view = some (.shfl, code)) ∧ (codeOk .shfl code = true) ∧ (Standing s b) ∧ (Unmapped s b) ∧ let x := code.norm .shfl; let ps := participants s b x.g; (AllPass ps (fun k => (Verdict.trapIf (rangeFails .shfl x s k) .regrange).and (Verdict.poisonIf (valueAt .shfl x s k .b).2))) :=
  ⟨.shfl (sh true 2 1 3), (.short (sh true 2 1 3)), stage, all8, by (try simp only [Standing, AllPass, Unmapped, canTrap, ServesNow, Received, SheafRecordGood]); decide +kernel⟩

theorem witness_ReductionResults_0 : ∃ (i : Instr), ∃ (stem : Stem), ∃ (code : Code), ∃ (s : State), ∃ (b : Bundle),
    (i.view = some (stem, code)) ∧ ((stem = .sred ∨ stem = .sscan)) ∧ (codeOk stem code = true) ∧ (Standing s b) ∧ (Unmapped s b) ∧ let x := code.norm stem; let ps := participants s b x.g; (AllPass ps (fun k => (Verdict.trapIf (rangeFails stem x s k) .regrange).and (Verdict.poisonIf (valueAt stem x s k .a).2))) :=
  ⟨.sred (sh true 0 1 3), .sred, (.short (sh true 0 1 3)), stage, all8, by (try simp only [Standing, AllPass, Unmapped, canTrap, ServesNow, Received, SheafRecordGood]); decide +kernel⟩

theorem witness_RegisterResults_0 : ∃ (i : Instr), ∃ (stem : Stem), ∃ (code : Code), ∃ r, ∃ (s : State), ∃ (b : Bundle),
    (i.view = some (stem, code)) ∧ (codeOk stem code = true) ∧ (aluRow stem = some r) ∧ (Standing s b) ∧ let x := code.norm stem; (AllPass (participants s b x.g) (aluCheck stem x r.readsD r.moves s)) :=
  ⟨.iadd (sh true 5 4 3), .iadd, (.short (sh true 5 4 3)), plainRow iaddFn, stage, all8, by refine ⟨rfl, rfl, rfl, ?_⟩; (try simp only [Standing, AllPass, Unmapped, canTrap, ServesNow, Received, SheafRecordGood]); decide +kernel⟩

theorem witness_RegisterResults_1 : ∃ (i : Instr), ∃ (stem : Stem), ∃ (code : Code), ∃ (s : State), ∃ (b : Bundle),
    (i.view = some (stem, code)) ∧ (codeOk stem code = true) ∧ (stem ∈ integerRows) ∧ (Standing s b) ∧ let x := code.norm stem; let src := srcOf stem code s; let rule := fun k => integerRule stem x (src k .a) (src k .b) (src k .c) (src k .d); (AllPass (participants s b x.g) (aluCheck stem x (stem == .bfi) (stem == .mov) s)) :=
  ⟨.iadd (sh true 5 4 3), .iadd, (.short (sh true 5 4 3)), stage, all8, by (try simp only [Standing, AllPass, Unmapped, canTrap, ServesNow, Received, SheafRecordGood]); decide +kernel⟩

theorem witness_RegisterResults_2 : ∃ (i : Instr), ∃ (code : Code), ∃ (s : State), ∃ (b : Bundle),
    (i.view = some (.lea, code)) ∧ (codeOk .lea code = true) ∧ (Standing s b) ∧ let x := code.norm .lea; (AllPass (participants s b x.g) (fun k => (Verdict.trapIf (rangeFails .lea x s k) .regrange).and (Verdict.poisonIf (leaValue x s k).2))) :=
  ⟨.lea (sh false 6 4 2), (.short (sh false 6 4 2)), stage, all8, by (try simp only [Standing, AllPass, Unmapped, canTrap, ServesNow, Received, SheafRecordGood]); decide +kernel⟩

theorem witness_Division_0 : ∃ (i : Instr), ∃ (stem : Stem), ∃ (code : Code), ∃ (s : State), ∃ (b : Bundle),
    (i.view = some (stem, code)) ∧ ((stem = .idiv ∨ stem = .irem)) ∧ (codeOk stem code = true) ∧ (Standing s b) ∧ let x := code.norm stem; let w := tyWidth x.ty; let a := fun k => intVal x.ty (srcOf stem code s k .a); let c := fun k => intVal x.ty (srcOf stem code s k .b); ((x.u = true → ∀ n, x.a ≠ .special n ∧ x.b ≠ .special n)) ∧ (AllPass (participants s b x.g) (aluCheck stem x false false s)) :=
  ⟨.idiv (sh false 2 1 3), .idiv, (.short (sh false 2 1 3)), stage, all8, by (try simp only [Standing, AllPass, Unmapped, canTrap, ServesNow, Received, SheafRecordGood]); decide +kernel⟩

theorem witness_Loads_1 : ∃ (i : Instr), ∃ (code : Code), ∃ (s : State), ∃ (b : Bundle), ∃ k, ∃ va, ∃ pa, ∃ (leaf : Leaf),
    (i.view = some (.ld, code)) ∧ (codeOk .ld code = true) ∧ (Standing s b) ∧ (Unmapped s b) ∧ let x := code.norm .ld; (participants s b x.g = [k]) ∧ (memCheck .ld x s k = Verdict.ok) ∧ ((memTarget .ld x s k).1 = .global va) ∧ (memTranslate .ld s k va = .ok pa leaf) ∧ ((∀ j < accessBytes x.ty, (nearByte s (coreOf k) (pa + j) (l1Serves s k pa (accessBytes x.ty) leaf.cls)).isSome)) :=
  ⟨.ld (sh false 1 0 2), (.short (sh false 1 0 2)), solo (modCore (uni [(0, 0x20000)] stage) 0 fun c => { c with record := [{ entry with line := 0x1000800, data := [(0, 1), (1, 2), (2, 3), (3, 4)] }] }), lone, 0, 0x20000, 0x40020000, page, by (try simp only [Standing, AllPass, Unmapped, canTrap, ServesNow, Received, SheafRecordGood]); decide +kernel⟩

theorem witness_Loads_2 : ∃ (i : Instr), ∃ (code : Code), ∃ (s : State), ∃ (b : Bundle), ∃ k, ∃ va, ∃ pa, ∃ (leaf : Leaf),
    (i.view = some (.ld, code)) ∧ (Standing s b) ∧ let x := code.norm .ld; (participants s b x.g = [k]) ∧ (memCheck .ld x s k = Verdict.ok) ∧ ((memTarget .ld x s k).1 = .global va) ∧ (memTranslate .ld s k va = .ok pa leaf) ∧ ((∃ j < accessBytes x.ty, nearByte s (coreOf k) (pa + j) (l1Serves s k pa (accessBytes x.ty) leaf.cls) = none)) :=
  ⟨.ld (sh false 1 0 2), (.short (sh false 1 0 2)), solo (uni [(0, 0x20000)] stage), lone, 0, 0x20000, 0x40020000, page, by (try simp only [Standing, AllPass, Unmapped, canTrap, ServesNow, Received, SheafRecordGood]); decide +kernel⟩

theorem witness_Stores_0 : ∃ (i : Instr), ∃ (code : Code), ∃ (s : State), ∃ (b : Bundle), ∃ k, ∃ off,
    (i.view = some (.st, code)) ∧ (Standing s b) ∧ ((tfind s.blocks b.block).isSome) ∧ let x := code.norm .st; (participants s b x.g = [k]) ∧ (memCheck .st x s k = Verdict.ok) ∧ ((memTarget .st x s k).1 = .scratch off) :=
  ⟨.st (sh false 1 0 2), (.short (sh false 1 0 2)), solo (uni [(0, 0xFFFFFFFC03FFC)] stage), lone, 0, 0x3FFC, by (try simp only [Standing, AllPass, Unmapped, canTrap, ServesNow, Received, SheafRecordGood]); decide +kernel⟩

theorem witness_Stores_1 : ∃ (i : Instr), ∃ (code : Code), ∃ (s : State), ∃ (b : Bundle), ∃ k, ∃ va, ∃ pa, ∃ (leaf : Leaf),
    (i.view = some (.st, code)) ∧ (Standing s b) ∧ ((blockAt s b.block).armed = none) ∧ let x := code.norm .st; (participants s b x.g = [k]) ∧ (memCheck .st x s k = Verdict.ok) ∧ ((memTarget .st x s k).1 = .global va) ∧ (memTranslate .st s k va = .ok pa leaf) ∧ (recordFull s b.block (pa / 64) = false) :=
  ⟨.st (sh false 1 0 2), (.short (sh false 1 0 2)), solo (uni [(0, 0x2003C)] stage), lone, 0, 0x2003C, 0x4002003C, page, by (try simp only [Standing, AllPass, Unmapped, canTrap, ServesNow, Received, SheafRecordGood]); decide +kernel⟩

theorem witness_Stores_2 : ∃ (i : Instr), ∃ (code : Code), ∃ (s : State), ∃ (b : Bundle), ∃ k, ∃ va, ∃ pa, ∃ (leaf : Leaf),
    (i.view = some (.st, code)) ∧ (Standing s b) ∧ let x := code.norm .st; (participants s b x.g = [k]) ∧ (memCheck .st x s k = Verdict.ok) ∧ ((memTarget .st x s k).1 = .global va) ∧ (memTranslate .st s k va = .ok pa leaf) ∧ (recordFull s b.block (pa / 64) = true) :=
  ⟨.st (sh false 1 0 2), (.short (sh false 1 0 2)), modBlock (modCore (solo (uni [(0, 0x20000)] stage)) 0 fun c => { c with record := [entry] }) 0 fun x => { x with rlim := 1 }, lone, 0, 0x20000, 0x40020000, page, by (try simp only [Standing, AllPass, Unmapped, canTrap, ServesNow, Received, SheafRecordGood]); decide +kernel⟩

theorem witness_CacheControl_0 : ∃ (i : Instr), ∃ (code : Code), ∃ (s : State), ∃ (b : Bundle), ∃ k,
    (i.view = some (.pref, code)) ∧ (Standing s b) ∧ let x := code.norm .pref; (participants s b x.g = [k]) ∧ (prefCheck x s k = Verdict.ok) :=
  ⟨.pref (sh false 1 0 0), (.short (sh false 1 0 0)), solo (uni [(0, 0x20000)] stage), lone, 0, by (try simp only [Standing, AllPass, Unmapped, canTrap, ServesNow, Received, SheafRecordGood]); decide +kernel⟩

theorem witness_CacheControl_1 : ∃ (i : Instr), ∃ (code : Code), ∃ (s : State), ∃ (b : Bundle), ∃ k,
    (i.view = some (.rinv, code)) ∧ (Standing s b) ∧ let x := code.norm .rinv; (participants s b x.g = [k]) ∧ ((Verdict.trapIf (rangeFails .rinv x s k) .regrange).and (Verdict.poisonIf (rinvRange x s k).2.2) = Verdict.ok) :=
  ⟨.rinv (sh false 1 4 0), (.short (sh false 1 4 0)), solo (regs [(1, 262144)] stage), lone, 0, by (try simp only [Standing, AllPass, Unmapped, canTrap, ServesNow, Received, SheafRecordGood]); decide +kernel⟩

theorem witness_ExchangeStoresSend_0 : ∃ (i : Instr), ∃ (code : Code), ∃ (s : State), ∃ (b : Bundle),
    (i.view = some (.xst, code)) ∧ (Standing s b) ∧ let x := code.norm .xst; let ps := participants s b x.g; (AllPass ps (xstCheck x s)) :=
  ⟨.xst (sh false 3 2 1), (.short (sh false 3 2 1)), modBlock stage 0 fun x => { x with xBytes := 1024 }, all8, by (try simp only [Standing, AllPass, Unmapped, canTrap, ServesNow, Received, SheafRecordGood]); decide +kernel⟩

theorem witness_ExchangeStoresSend_1 : ∃ (i : Instr), ∃ (code : Code), ∃ (s : State), ∃ (b : Bundle), ∃ k,
    (i.view = some (.xst, code)) ∧ (Standing s b) ∧ let x := code.norm .xst; (participants s b x.g = [k]) ∧ (xstCheck x s k = Verdict.ok) :=
  ⟨.xst (sh false 3 2 1), (.short (sh false 3 2 1)), solo (modBlock stage 0 fun x => { x with xBytes := 1024 }), lone, 0, by (try simp only [Standing, AllPass, Unmapped, canTrap, ServesNow, Received, SheafRecordGood]); decide +kernel⟩

theorem witness_DrainsAndFences_0 : ∃ (x : Code), ∃ (s : State), ∃ (b : Bundle),
    (Standing s b) ∧ let ps := participants s b (x.norm .rdrain).g; True :=
  ⟨(.short (sh false 0 0 0)), stage, all8, by (try simp only [Standing, AllPass, Unmapped, canTrap, ServesNow, Received, SheafRecordGood]); decide +kernel⟩

theorem witness_DrainsAndFences_1 : ∃ (i : Instr), ∃ (code : Code), ∃ (s : State), ∃ (b : Bundle), ∃ k,
    (i.view = some (.fence, code)) ∧ (Standing s b) ∧ let x := code.norm .fence; (participants s b x.g = [k]) :=
  ⟨.fence (sh false 0 0 0), (.short (sh false 0 0 0)), solo stage, lone, 0, by (try simp only [Standing, AllPass, Unmapped, canTrap, ServesNow, Received, SheafRecordGood]); decide +kernel⟩

theorem witness_DrainsAndFences_2 : ∃ (i : Instr), ∃ (code : Code), ∃ (s : State), ∃ (b : Bundle),
    (i.view = some (.waitc, code)) ∧ (Standing s b) ∧ let x := code.norm .waitc; let ps := participants s b x.g; ((∀ k ∈ ps, (sheafAt s (sheafOf k)).copies ≤ waitcCount x.a)) :=
  ⟨.waitc (sh false 0 31 0), (.short (sh false 0 31 0)), modSheaf stage 0 fun x => { x with copies := 16 }, all8, by (try simp only [Standing, AllPass, Unmapped, canTrap, ServesNow, Received, SheafRecordGood]); decide +kernel⟩

theorem witness_DrainsAndFences_3 : ∃ (s : State), ∃ (b : Bundle),
    (Standing s b) :=
  ⟨stage, all8, by (try simp only [Standing, AllPass, Unmapped, canTrap, ServesNow, Received, SheafRecordGood]); decide +kernel⟩

theorem witness_AtomicsOnScratchpad_0 : ∃ (i : Instr), ∃ (stem : Stem), ∃ (code : Code), ∃ (s : State), ∃ (b : Bundle), ∃ k, ∃ off,
    (i.view = some (stem, code)) ∧ ((stem = .atom ∨ stem = .cas ∨ stem = .red)) ∧ (codeOk stem code = true) ∧ (Standing s b) ∧ (Unmapped s b) ∧ ((tfind s.blocks b.block).isSome) ∧ ((∀ c ∈ (coreAt s (b.block / 4)).queue, c.block ≠ b.block)) ∧ let x := code.norm stem; (participants s b x.g = [k]) ∧ (memCheck stem x s k = Verdict.ok) ∧ ((memTarget stem x s k).1 = .scratch off) ∧ let n := accessBytes x.ty; let old := leNat ((List.range n).map fun j => (readPad s b.block (off.toNat + j)).1); let new := atomNew (atomOpOf stem x) x.ty old (valueAt stem x s k (if stem = .red then .d else .c)).1 (if stem = .cas then (valueAt stem x s k .b).1 else 0); True :=
  ⟨.red (sh true 5 2 6), .red, (.short (sh true 5 2 6)), solo (uni [(2, 0xFFFFFFFC00000)] stage), lone, 0, 0, by (try simp only [Standing, AllPass, Unmapped, canTrap, ServesNow, Received, SheafRecordGood]); decide +kernel⟩

theorem witness_AtomicsGoHome_0 : ∃ (i : Instr), ∃ (stem : Stem), ∃ (code : Code), ∃ (s : State), ∃ (b : Bundle), ∃ k, ∃ va, ∃ pa, ∃ (leaf : Leaf),
    (i.view = some (stem, code)) ∧ ((stem = .atom ∨ stem = .cas ∨ stem = .red)) ∧ (Standing s b) ∧ ((tfind s.blocks b.block).isSome) ∧ let x := code.norm stem; (participants s b x.g = [k]) ∧ (memCheck stem x s k = Verdict.ok) ∧ ((memTarget stem x s k).1 = .global va) ∧ (memTranslate stem s k va = .ok pa leaf) :=
  ⟨.red (sh true 5 2 6), .red, (.short (sh true 5 2 6)), solo (uni [(2, 0x20000)] stage), lone, 0, 0x20000, 0x40020000, page, by (try simp only [Standing, AllPass, Unmapped, canTrap, ServesNow, Received, SheafRecordGood]); decide +kernel⟩

theorem witness_RegisterFile_0 : ∃ (i : Instr), ∃ (code : Code), ∃ (s : State), ∃ (b : Bundle), ∃ f,
    (i.view = some (.regx, code)) ∧ (codeOk .regx code = true) ∧ (Standing s b) ∧ let x := code.norm .regx; let ps := participants s b x.g; let n := (countOperand s (ps.headD 0) x.a).1; (ps ≠ []) ∧ ((∀ k ∈ ps, sheafOf k = f)) ∧ (AllPass ps (fun k => (Verdict.trapIf (rangeFails .regx x s (sheafLead ps k)) .regrange).and (Verdict.poisonIf (countOperand s (sheafLead ps k) x.a).2))) ∧ (n = 0 ∨ 512 < (sheafAt s f).alloc + 32 * n) :=
  ⟨.regx (sh false 0 1 1), (.short (sh false 0 1 1)), stage, all8, 0, by (try simp only [Standing, AllPass, Unmapped, canTrap, ServesNow, Received, SheafRecordGood]); decide +kernel⟩

theorem witness_RegisterFile_1 : ∃ (i : Instr), ∃ (code : Code), ∃ (s : State), ∃ (b : Bundle), ∃ f,
    (i.view = some (.regx, code)) ∧ (codeOk .regx code = true) ∧ (Standing s b) ∧ let x := code.norm .regx; let ps := participants s b x.g; let n := (countOperand s (ps.headD 0) x.a).1; (ps ≠ []) ∧ ((∀ k ∈ ps, sheafOf k = f)) ∧ (AllPass ps (fun k => (Verdict.trapIf (rangeFails .regx x s (sheafLead ps k)) .regrange).and (Verdict.poisonIf (countOperand s (sheafLead ps k) x.a).2))) ∧ (n ≠ 0) ∧ ((sheafAt s f).alloc + 32 * n ≤ 512) :=
  ⟨.regx (sh false 0 4 1), (.short (sh false 0 4 1)), modSheaf stage 0 fun x => { x with alloc := 384 }, all8, 0, by (try simp only [Standing, AllPass, Unmapped, canTrap, ServesNow, Received, SheafRecordGood]); decide +kernel⟩

theorem witness_RegisterFile_2 : ∃ (i : Instr), ∃ (code : Code), ∃ (s : State), ∃ (b : Bundle), ∃ f,
    (i.view = some (.regf, code)) ∧ (Standing s b) ∧ let x := code.norm .regf; let ps := participants s b x.g; let n := (countOperand s (ps.headD 0) x.a).1; (ps ≠ []) ∧ ((∀ k ∈ ps, sheafOf k = f)) ∧ (AllPass ps (fun k => regfCheck x s (sheafLead ps k))) :=
  ⟨.regf (sh false 0 1 0), (.short (sh false 0 1 0)), stage, all8, 0, by (try simp only [Standing, AllPass, Unmapped, canTrap, ServesNow, Received, SheafRecordGood]); decide +kernel⟩

theorem witness_Mappings_0 : ∃ (i : Instr), ∃ (code : Code), ∃ (s : State), ∃ (b : Bundle), ∃ f, ∃ p,
    (i.view = some (.shmap, code)) ∧ (Standing s b) ∧ ((tfind s.blocks b.block).isSome) ∧ let x := code.norm .shmap; let ps := participants s b x.g; let k := ps.headD 0; (ps ≠ []) ∧ ((∀ k ∈ ps, sheafOf k = f)) ∧ (AllPass ps (fun k => shmapCheck x s (sheafLead ps k))) ∧ (livePartner s b.block (valueAt .shmap x s k .c).1 = some p) :=
  ⟨.shmap (th (.v 32) (.v 64) (.imm 8) (.imm 1) 0 0 0), (.long (.three (th (.v 32) (.v 64) (.imm 8) (.imm 1) 0 0 0))), { modBlock stage 0 (fun x => { x with sheafSlots := [0, 1] }) with sheaves := tset (tset stage.sheaves 0 { Sheaf.blank with alloc := 512 }) 1 { Sheaf.blank with alloc := 512, idx := 1, slot := 1, context := 1 }, strands := stage.strands ++ (List.range 8).map fun i => (64 + i, { Strand.blank with lane := 8 + i, sidx := i, cond := .running }) }, all8, 0, 1, by (try simp only [Standing, AllPass, Unmapped, canTrap, ServesNow, Received, SheafRecordGood]); decide +kernel⟩

theorem witness_Mappings_1 : ∃ (i : Instr), ∃ (code : Code), ∃ (s : State), ∃ (b : Bundle), ∃ f, ∃ m,
    (i.view = some (.shunm, code)) ∧ (Standing s b) ∧ ((tfind s.blocks b.block).isSome) ∧ let x := code.norm .shunm; let ps := participants s b x.g; (ps ≠ []) ∧ ((∀ k ∈ ps, sheafOf k = f)) ∧ (mappingNamed s f (regName x.a) = some m) ∧ (m.queue = []) :=
  ⟨.shunm (th .none (.v 32) .none .none 0 0 0), (.long (.three (th .none (.v 32) .none .none 0 0 0))), modBlock stage 0 fun x => { x with shared := [mapping] }, all8, 0, mapping, by (try simp only [Standing, AllPass, Unmapped, canTrap, ServesNow, Received, SheafRecordGood]); decide +kernel⟩

theorem witness_SharedHandover_0 : ∃ (i : Instr), ∃ (stem : Stem), ∃ (code : Code), ∃ (s : State), ∃ (b : Bundle), ∃ k, ∃ m, ∃ pos,
    (i.view = some (stem, code)) ∧ ((stem = .shwr ∨ stem = .shrd)) ∧ (codeOk stem code = true) ∧ (Standing s b) ∧ ((tfind s.blocks b.block).isSome) ∧ let x := code.norm stem; let r := regName (if stem = .shrd then x.a else x.d); (participants s b x.g = [k]) ∧ (rangeFails stem x s k = false) ∧ (outOfRange s k r = false) ∧ (mappingAt s (sheafOf k) r = some (m, pos)) ∧ ((blockAt s b.block).shared = [m]) ∧ (m.full.contains (k % 64, pos) = decide (stem = .shwr)) :=
  ⟨.shrd (th (.b 2) (.v 32) .none .none 0 0 0), .shrd, (.long (.three (th (.b 2) (.v 32) .none .none 0 0 0))), solo (modBlock stage 0 fun x => { x with shared := [mapping] }), lone, 0, mapping, 0, by (try simp only [Standing, AllPass, Unmapped, canTrap, ServesNow, Received, SheafRecordGood]); decide +kernel⟩

theorem witness_SharedHandover_1 : ∃ (i : Instr), ∃ (stem : Stem), ∃ (code : Code), ∃ (s : State), ∃ (b : Bundle), ∃ f, ∃ m, ∃ pos,
    (i.view = some (stem, code)) ∧ ((stem = .shwr ∨ stem = .shrd)) ∧ (codeOk stem code = true) ∧ (Standing s b) ∧ ((tfind s.blocks b.block).isSome) ∧ ((blockAt s b.block).armed = none) ∧ let x := code.norm stem; let ps := participants s b x.g; let r := regName (if stem = .shrd then x.a else x.d); ((∀ k ∈ ps, sheafOf k = f ∧ rangeFails stem x s k = false ∧ outOfRange s k r = false)) ∧ (mappingAt s f r = some (m, pos)) ∧ ((blockAt s b.block).shared = [m]) ∧ (m.queue = []) ∧ ((∀ k ∈ ps, m.full.contains (k % 64, pos) ≠ decide (stem = .shwr))) :=
  ⟨.shwr (th (.v 39) (.b 2) .none .none 0 0 0), .shwr, (.long (.three (th (.v 39) (.b 2) .none .none 0 0 0))), solo (modBlock stage 0 fun x => { x with shared := [mapping] }), lone, 0, mapping, 7, by (try simp only [Standing, AllPass, Unmapped, canTrap, ServesNow, Received, SheafRecordGood]); decide +kernel⟩

theorem witness_SpecialRegisters_0 : ∃ (i : Instr), ∃ (code : Code), ∃ (s : State), ∃ (b : Bundle), ∃ r,
    (i.view = some (.csrr, code)) ∧ (codeOk .csrr code = true) ∧ (Standing s b) ∧ (Unmapped s b) ∧ let x := code.norm .csrr; let ps := participants s b x.g; (x.a = .special r) ∧ ((∀ k ∈ ps, rangeFails .csrr x s k = false)) :=
  ⟨.csrr (th (.b 1) (.special 0) .none .none 0 0 0), (.long (.three (th (.b 1) (.special 0) .none .none 0 0 0))), stage, all8, 0, by (try simp only [Standing, AllPass, Unmapped, canTrap, ServesNow, Received, SheafRecordGood]); decide +kernel⟩

theorem witness_SpecialRegisters_1 : ∃ (i : Instr), ∃ (stem : Stem), ∃ (code : Code), ∃ (s : State), ∃ (b : Bundle), ∃ k, ∃ r,
    (i.view = some (stem, code)) ∧ ((stem = .csrw ∨ stem = .csrs ∨ stem = .csrc)) ∧ (Standing s b) ∧ ((tfind s.blocks b.block).isSome) ∧ let x := code.norm stem; (participants s b x.g = [k]) ∧ (x.d = .special r) ∧ (rangeFails stem x s k = false) ∧ ((valueAt stem x s k .a).2 = false) :=
  ⟨.csrw (th (.special 0x18) (.imm 48) .none .none 0 0 0), .csrw, (.long (.three (th (.special 0x18) (.imm 48) .none .none 0 0 0))), solo stage, lone, 0, 0x18, by (try simp only [Standing, AllPass, Unmapped, canTrap, ServesNow, Received, SheafRecordGood]); decide +kernel⟩

theorem witness_SpecialRegisters_2 : ∃ (i : Instr), ∃ (stem : Stem), ∃ (code : Code), ∃ (s : State), ∃ (b : Bundle), ∃ r,
    (i.view = some (stem, code)) ∧ ((stem = .csrw ∨ stem = .csrs ∨ stem = .csrc)) ∧ (Standing s b) ∧ ((tfind s.blocks b.block).isSome) ∧ let x := code.norm stem; let ps := participants s b x.g; let new := fun k (cur : Nat) => specialAfter r cur (csrNew stem (BitVec.ofNat 64 cur) (BitVec.ofNat 64 (valueAt stem x s k .a).1)).toNat; (x.d = .special r) ∧ ((∀ k ∈ ps, rangeFails stem x s k = false ∧ (valueAt stem x s k .a).2 = false)) :=
  ⟨.csrw (th (.special 0x18) (.imm 48) .none .none 0 0 0), .csrw, (.long (.three (th (.special 0x18) (.imm 48) .none .none 0 0 0))), stage, all8, 0x18, by (try simp only [Standing, AllPass, Unmapped, canTrap, ServesNow, Received, SheafRecordGood]); decide +kernel⟩

theorem witness_Tiles_0 : ∃ (i : Instr), ∃ (code : Code), ∃ (s : State), ∃ (b : Bundle), ∃ f,
    (i.view = some (.tdef, code)) ∧ (codeOk .tdef code = true) ∧ (Standing s b) ∧ ((tfind s.blocks b.block).isSome) ∧ let x := code.norm .tdef; let ps := participants s b x.g; (ps ≠ []) ∧ ((∀ k ∈ ps, sheafOf k = f)) ∧ (AllPass ps (fun k => tdefCheck ps x s (sheafLead ps k))) :=
  ⟨.tdef (.short (sh false 5 3 1)), (.short (sh false 5 3 1)), uni [(5, panel)] (modBlock stage 0 fun x => { x with padBytes := 196608 }), all8, 0, by (try simp only [Standing, AllPass, Unmapped, canTrap, ServesNow, Received, SheafRecordGood]); decide +kernel⟩

theorem witness_Tiles_1 : ∃ (i : Instr), ∃ (stem : Stem), ∃ (code : Code), ∃ (s : State), ∃ (b : Bundle), ∃ tile,
    (i.view = some (stem, code)) ∧ ((stem = .tfree ∨ stem = .tmark)) ∧ (Standing s b) ∧ ((tfind s.blocks b.block).isSome) ∧ let x := code.norm stem; let ps := participants s b x.g; (ps ≠ []) ∧ (AllPass ps (fun k => boundCheck ps x s (sheafLead ps k))) ∧ (tileAt s b.block (tileNumber x.a) = some tile) ∧ ((tile.state = .empty ∨ tile.state = .ready)) :=
  ⟨.tfree (.short (sh false 0 3 0)), .tfree, (.short (sh false 0 3 0)), (modBlock stage 0 fun x => { x with padBytes := 196608, tiles := [(3, { desc := panel, state := .ready, f := false, p := false, ec := 0 })] }), all8, { desc := panel, state := .ready, f := false, p := false, ec := 0 }, by (try simp only [Standing, AllPass, Unmapped, canTrap, ServesNow, Received, SheafRecordGood]); decide +kernel⟩

theorem witness_CopiesQueue_0 : ∃ (i : Instr), ∃ (stem : Stem), ∃ (code : Code), ∃ (s : State), ∃ (b : Bundle), ∃ f, ∃ tile,
    (i.view = some (stem, code)) ∧ ((stem = .cpy ∨ stem = .cpo ∨ stem = .cpr)) ∧ (Standing s b) ∧ ((tfind s.blocks b.block).isSome) ∧ let x := code.norm stem; let ps := participants s b x.g; (ps ≠ []) ∧ ((∀ k ∈ ps, sheafOf k = f)) ∧ (AllPass ps (fun k => copyCheck stem ps x s (sheafLead ps k))) ∧ (tileAt s b.block (tileNumber x.d) = some tile) ∧ ((tile.state = .empty ∨ tile.state = .ready)) ∧ ((coreAt s b.core).queue.length < Config.copyQueue) :=
  ⟨.cpy (th (.t 3) (.w 4) (.b 6) (.w 7) 0 0 0), .cpy, (.long (.three (th (.t 3) (.w 4) (.b 6) (.w 7) 0 0 0))), uni [(4, 0x20000)] (modBlock stage 0 fun x => { x with padBytes := 196608, tiles := [(3, { desc := panel, state := .ready, f := false, p := false, ec := 0 })] }), all8, 0, { desc := panel, state := .ready, f := false, p := false, ec := 0 }, by (try simp only [Standing, AllPass, Unmapped, canTrap, ServesNow, Received, SheafRecordGood]); decide +kernel⟩

theorem witness_MatrixInstructions_0 : ∃ (i : Instr), ∃ (stem : Stem), ∃ (code : Code), ∃ (s : State), ∃ (b : Bundle), ∃ f,
    (i.view = some (stem, code)) ∧ ((stem = .mxe ∨ stem = .mxp)) ∧ (Standing s b) ∧ let x := code.norm stem; let ps := participants s b x.g; let v := (valueAt stem x s (ps.headD 0) .a); (ps ≠ []) ∧ ((∀ k ∈ ps, sheafOf k = f)) ∧ ((sheafAt s f).pendingMma = false) ∧ (v.2 = false) ∧ ((stem = .mxe → ensValid (BitVec.ofNat 64 v.1) = true)) ∧ ((stem = .mxp → v.1 % 16 = 0 ∧ rangeFails .mxp x s (ps.headD 0) = false)) :=
  ⟨.mxp (sh false 0 4 0), .mxp, (.short (sh false 0 4 0)), stage, all8, 0, by (try simp only [Standing, AllPass, Unmapped, canTrap, ServesNow, Received, SheafRecordGood]); decide +kernel⟩

theorem witness_MatrixInstructions_1 : ∃ (x : Three), ∃ (s : State), ∃ (b : Bundle), ∃ f, ∃ tile,
    (Standing s b) ∧ ((tfind s.blocks b.block).isSome) ∧ let ps := participants s b x.g; (ps ≠ []) ∧ ((∀ k ∈ ps, sheafOf k = f)) ∧ (AllPass ps (fun k => mmaCheck x s (sheafLead ps k))) ∧ ((sheafAt s f).pendingMma = false) ∧ (tileAt s b.block (tileNumber x.d) = some tile) ∧ (tile.state = .ready) ∧ ((quadAt s (sheafQuad f)).latches = []) :=
  ⟨(th (.t 3) (.w 4) (.w 5) (.w 6) 0 0 8), uni [(4, 0x20000), (5, 0x50000), (6, 0x1000000080)] (modSheaf (modCore (modBlock stage 0 fun x => { x with padBytes := 196608, tiles := [(3, { desc := panel, state := .ready, f := false, p := false, ec := 0 })] }) 0 fun c => { c with tlb := [{ part := 1, ctx := 0, root := 0x10000, va := 0x50000, leaf := abacus }] }) 0 fun x => { x with ens := 0x2000000004000 }), all8, 0, { desc := panel, state := .ready, f := false, p := false, ec := 0 }, by (try simp only [Standing, AllPass, Unmapped, canTrap, ServesNow, Received, SheafRecordGood]); decide +kernel⟩

theorem witness_AbacusInstructions_0 : ∃ (i : Instr), ∃ (stem : Stem), ∃ (code : Code), ∃ (s : State), ∃ (b : Bundle),
    (i.view = some (stem, code)) ∧ ((stem = .acca ∨ stem = .accz ∨ stem = .accr ∨ stem = .accc)) ∧ (Standing s b) ∧ let x := code.norm stem; (AllPass (participants s b x.g) (accCheck stem x s)) :=
  ⟨.acca (sh false 2 4 1), .acca, (.short (sh false 2 4 1)), solo (uni [(4, 0x50000 + 0xF7F8)] (modCore stage 0 fun c => { c with tlb := [{ part := 1, ctx := 0, root := 0x10000, va := 0x50000, leaf := abacus }] })), lone, by (try simp only [Standing, AllPass, Unmapped, canTrap, ServesNow, Received, SheafRecordGood]); decide +kernel⟩

theorem witness_AbacusInstructions_1 : ∃ (i : Instr), ∃ (stem : Stem), ∃ (code : Code), ∃ (s : State), ∃ (b : Bundle), ∃ k, ∃ va, ∃ pa, ∃ (leaf : Leaf),
    (i.view = some (stem, code)) ∧ ((stem = .acca ∨ stem = .accz ∨ stem = .accr ∨ stem = .accc)) ∧ (Standing s b) ∧ ((tfind s.blocks b.block).isSome) ∧ let x := code.norm stem; let id := s.ctl.nextId; (participants s b x.g = [k]) ∧ (accCheck stem x s k = Verdict.ok) ∧ ((memTarget stem x s k).1 = .global va) ∧ (memTranslate stem s k va = .ok pa leaf) :=
  ⟨.acca (sh false 2 4 1), .acca, (.short (sh false 2 4 1)), solo (uni [(4, 0x50000 + 0xF7F8)] (modCore stage 0 fun c => { c with tlb := [{ part := 1, ctx := 0, root := 0x10000, va := 0x50000, leaf := abacus }] })), lone, 0, 0x5F7F8, 0x5F7F8, abacus, by (try simp only [Standing, AllPass, Unmapped, canTrap, ServesNow, Received, SheafRecordGood]); decide +kernel⟩

theorem witness_AbacusInstructions_2 : ∃ (x : Three), ∃ (s : State), ∃ (b : Bundle),
    (Standing s b) ∧ let ps := participants s b x.g; (AllPass ps (fun k => accoCheck x s (sheafLead ps k))) :=
  ⟨(th .none (.w 4) (.b 1) (.b 2) 0 0 0), solo (uni [(4, 0x50000)] (regs [(1, 0xF800)] (modCore stage 0 fun c => { c with tlb := [{ part := 1, ctx := 0, root := 0x10000, va := 0x50000, leaf := abacus }] }))), lone, by (try simp only [Standing, AllPass, Unmapped, canTrap, ServesNow, Received, SheafRecordGood]); decide +kernel⟩

theorem witness_AbacusInstructions_3 : ∃ (x : Three), ∃ (s : State), ∃ (b : Bundle), ∃ k,
    (Standing s b) ∧ ((tfind s.blocks b.block).isSome) ∧ let a := accoArgs x s k; let l := strandLaunch s k; (participants s b x.g = [k]) ∧ (accoCheck x s k = Verdict.ok) :=
  ⟨(th .none (.w 4) (.b 1) (.b 2) 0 0 0), solo (uni [(4, 0x50000)] (regs [(1, 0xF800)] (modCore stage 0 fun c => { c with tlb := [{ part := 1, ctx := 0, root := 0x10000, va := 0x50000, leaf := abacus }] }))), lone, 0, by (try simp only [Standing, AllPass, Unmapped, canTrap, ServesNow, Received, SheafRecordGood]); decide +kernel⟩

theorem witness_SavesAndResumes_0 : ∃ (x : Code), ∃ (s : State), ∃ (b : Bundle),
    (Standing s b) ∧ let ps := participants s b (x.norm .pdone).g; ((∀ k ∈ ps, (sheafAt s (sheafOf k)).phase = .handler)) :=
  ⟨(.short (sh false 0 0 0)), modSheaf stage 0 fun x => { x with phase := .handler }, all8, by (try simp only [Standing, AllPass, Unmapped, canTrap, ServesNow, Received, SheafRecordGood]); decide +kernel⟩

theorem witness_SavesAndResumes_1 : ∃ (x : Code), ∃ (s : State), ∃ (b : Bundle),
    (Standing s b) ∧ let ps := participants s b (x.norm .pdone).g; let bad := ps.filter fun k => (sheafAt s (sheafOf k)).phase != .handler; (bad ≠ []) ∧ ((∀ k ∈ bad, canTrap s k)) :=
  ⟨(.short (sh false 0 0 0)), ruled (fun r => { r with trapOff := 0x200 }) stage, all8, by (try simp only [Standing, AllPass, Unmapped, canTrap, ServesNow, Received, SheafRecordGood]); decide +kernel⟩

theorem witness_SavesAndResumes_2 : ∃ (x : Code), ∃ (s : State), ∃ (b : Bundle), ∃ k,
    (Standing s b) ∧ (participants s b (x.norm .tret).g = [k]) ∧ (tretCheck s k = Verdict.ok) ∧ (recordIllegal s k = false) ∧ ((∃ j ∈ sheafStrands s (sheafOf k), j ≠ k ∧ (strandAt s j).cond ≠ .done ∧ (strandAt s j).recorded = none)) ∧ let r := strandRecordVa s k; True :=
  ⟨(.short (sh false 0 0 0)), solo (modSheaf (ruled (fun r => { r with save := 0x30000000, handler := 0, resume := 0 }) (modStrand stage 0 fun x => x)) 0 fun x => { x with phase := .resume }), lone, 0, by (try simp only [Standing, AllPass, Unmapped, canTrap, ServesNow, Received, SheafRecordGood]); decide +kernel⟩

theorem witness_SavesAndResumes_3 : ∃ (x : Code), ∃ (s : State), ∃ (b : Bundle), ∃ k,
    (Standing s b) ∧ (participants s b (x.norm .tret).g = [k]) ∧ (tretCheck s k = Verdict.ok) ∧ (recordIllegal s k = false) ∧ let f := sheafOf k; let r := sheafRecordVa s k; let va := saveVa (strandLaunch s k) (indexOf s k); ((∀ j ∈ sheafStrands s f, j ≠ k → (strandAt s j).cond = .done ∨ (strandAt s j).recorded.isSome)) ∧ (SheafRecordGood s k) ∧ ((blockAt s (blockOf s k)).undrawn = false) :=
  ⟨(.short (sh false 0 0 0)), solo (each (fun x => { x with recorded := some .running }) (modSheaf (ruled (fun r => { r with save := 0x30000000, handler := 0, resume := 0 }) stage) 0 fun x => { x with phase := .resume })), lone, 0, by (try simp only [Standing, AllPass, Unmapped, canTrap, ServesNow, Received, SheafRecordGood]); decide +kernel⟩

theorem witness_PowerChanges_0 : ∃ (s : State),
    (s.module.power ≠ .on) ∧ (outside (startEnvironment s) [] = none) :=
  ⟨{ State.reset with module := { State.reset.module with power := .off } }, by (try simp only [Standing, AllPass, Unmapped, canTrap, ServesNow, Received, SheafRecordGood]); decide +kernel⟩

theorem witness_PowerChanges_1 : ∃ (s : State),
    (s.module.power ≠ .on) ∧ ((outside (startEnvironment s) []).isSome) :=
  ⟨on [401, 5000, 54000, 420000] { State.reset with module := { State.reset.module with power := .off } }, by (try simp only [Standing, AllPass, Unmapped, canTrap, ServesNow, Received, SheafRecordGood]); decide +kernel⟩

theorem witness_PowerChanges_4 : ∃ (s : State), ∃ since,
    (tfind (dieAt s (s.arg 0)).hotSince (s.arg 1) = some since) ∧ (since + 10000000 ≤ s.now) :=
  ⟨on [0, 3] { State.reset with now := 10000000, dies := [(0, { Die.reset with hotSince := [(3, 0)] })] }, 0, by (try simp only [Standing, AllPass, Unmapped, canTrap, ServesNow, Received, SheafRecordGood]); decide +kernel⟩

theorem witness_PowerChanges_5 : ∃ die, ∃ sensor,
    (die < 8) ∧ (sensor < 16) :=
  ⟨7, 15, by (try simp only [Standing, AllPass, Unmapped, canTrap, ServesNow, Received, SheafRecordGood]); decide +kernel⟩

theorem witness_PowerEpochs_0 : ∃ (s : State),
    (s.module.epochsBegun < s.now / 1000) :=
  ⟨{ State.reset with now := 1000 }, by (try simp only [Standing, AllPass, Unmapped, canTrap, ServesNow, Received, SheafRecordGood]); decide +kernel⟩

theorem witness_PowerEpochs_1 : ∃ (s : State),
    (s.now % 1000 = 600) ∧ (s.arg 0 < 512) :=
  ⟨on [511, 3, 4] { State.reset with now := 600 }, by (try simp only [Standing, AllPass, Unmapped, canTrap, ServesNow, Received, SheafRecordGood]); decide +kernel⟩

theorem witness_PowerEpochs_2 : ∃ (s : State),
    (900 ≤ s.now % 1000) ∧ (s.module.budgetsSent ≤ s.now / 1000) :=
  ⟨{ State.reset with now := 900 }, by (try simp only [Standing, AllPass, Unmapped, canTrap, ServesNow, Received, SheafRecordGood]); decide +kernel⟩

theorem witness_PowerEpochs_3 : ∃ (s : State),
    (s.arg 0 < 512) ∧ (allowed s (s.arg 0) = false) :=
  ⟨on [511] (modQuad State.reset 511 fun q => { q with cycle := 16 }), by (try simp only [Standing, AllPass, Unmapped, canTrap, ServesNow, Received, SheafRecordGood]); decide +kernel⟩

theorem witness_PowerEpochs_4 : ∃ (s : State),
    (s.arg 0 < 512) :=
  ⟨on [511] State.reset, by (try simp only [Standing, AllPass, Unmapped, canTrap, ServesNow, Received, SheafRecordGood]); decide +kernel⟩

theorem witness_LinkEvents_0 : ∃ (s : State),
    (s.arg 0 < 14) :=
  ⟨on [13] State.reset, by (try simp only [Standing, AllPass, Unmapped, canTrap, ServesNow, Received, SheafRecordGood]); decide +kernel⟩

theorem witness_LinkEvents_1 : ∃ (s : State),
    (s.arg 0 < 14) ∧ (linkIsDown s (s.arg 0) = false) ∧ (s.arg 1 ≠ 0) :=
  ⟨on [13, 1] State.reset, by (try simp only [Standing, AllPass, Unmapped, canTrap, ServesNow, Received, SheafRecordGood]); decide +kernel⟩

theorem witness_LinkEvents_2 : ∃ (s : State),
    (s.arg 0 < 14) ∧ (linkIsDown s (s.arg 0) = false) :=
  ⟨on [13] State.reset, by (try simp only [Standing, AllPass, Unmapped, canTrap, ServesNow, Received, SheafRecordGood]); decide +kernel⟩

theorem witness_LinkEvents_3 : ∃ (s : State),
    (s.arg 0 < 14) ∧ (linkIsDown s (s.arg 0) = true) :=
  ⟨on [13, 32] { State.reset with module := { State.reset.module with links := [(13, { Link.reset with state := .down })] } }, by (try simp only [Standing, AllPass, Unmapped, canTrap, ServesNow, Received, SheafRecordGood]); decide +kernel⟩

theorem witness_DieEvents_0 : ∃ (s : State),
    (s.arg 0 < 10) :=
  ⟨on [7] State.reset, by (try simp only [Standing, AllPass, Unmapped, canTrap, ServesNow, Received, SheafRecordGood]); decide +kernel⟩

theorem witness_DieEvents_1 : ∃ (s : State), ∃ x,
    ((homeAt s (s.arg 0)).txn = some x) ∧ (x.deadline ≤ s.now) :=
  ⟨on [0x1000400] { State.reset with now := 10000, homes := [(0x1000400, { Home.reset with txn := some transaction })], module := { State.reset.module with links := [(13, { Link.reset with state := .down })] } }, transaction, by (try simp only [Standing, AllPass, Unmapped, canTrap, ServesNow, Received, SheafRecordGood]); decide +kernel⟩

theorem witness_DieEvents_2 : ∃ (s : State),
    (s.arg 1 = 1) ∧ (s.arg 0 < 10) :=
  ⟨on [7, 1] State.reset, by (try simp only [Standing, AllPass, Unmapped, canTrap, ServesNow, Received, SheafRecordGood]); decide +kernel⟩

theorem witness_DieEvents_3 : ∃ (s : State),
    (s.arg 1 ≠ 1) ∧ ((dieAt s (s.arg 0)).locked = false) :=
  ⟨on [7] { State.reset with dies := [(7, { Die.reset with locked := false })] }, by (try simp only [Standing, AllPass, Unmapped, canTrap, ServesNow, Received, SheafRecordGood]); decide +kernel⟩

theorem witness_DieEvents_4 : ∃ (s : State),
    (s.arg 1 ≠ 1) ∧ (s.arg 0 < 10) ∧ ((dieAt s (s.arg 0)).fenced = true) ∧ ((dieAt s (s.arg 0)).locked = true) ∧ ((∀ n ∈ linksOf (s.arg 0), linkIsDown s n = false)) ∧ ((s.arg 0 < 8 → cutFrom s (s.arg 0) = [])) ∧ ((∀ p ∈ s.blocks, p.1 / 1024 ≠ s.arg 0)) :=
  ⟨on [7] { State.reset with dies := [(7, { Die.reset with fenced := true })] }, by (try simp only [Standing, AllPass, Unmapped, canTrap, ServesNow, Received, SheafRecordGood]); decide +kernel⟩

theorem witness_DieEvents_5 : ∃ (s : State),
    (s.arg 1 ≠ 1) ∧ (s.arg 0 < 8) ∧ (cutFrom s (s.arg 0) ≠ []) :=
  ⟨on [0, 0] { State.reset with module := { State.reset.module with links := (List.range 14).map fun n => (n, { Link.reset with state := .down }) } }, by (try simp only [Standing, AllPass, Unmapped, canTrap, ServesNow, Received, SheafRecordGood]); decide +kernel⟩

theorem witness_DieEvents_6 : ∃ (s : State), ∃ io,
    ((s.arg 0, io) ∈ portList s) ∧ ((tget s.module.ports (s.arg 0) Port.reset).state = .up) :=
  ⟨on [7] State.reset, 1, by (try simp only [Standing, AllPass, Unmapped, canTrap, ServesNow, Received, SheafRecordGood]); decide +kernel⟩

theorem witness_DieEvents_7 : ∃ (s : State),
    ((tget s.module.ports (s.arg 0) Port.reset).state ≠ .up) :=
  ⟨on [7] { State.reset with module := { State.reset.module with ports := [(7, { Port.reset with state := .down })] } }, by (try simp only [Standing, AllPass, Unmapped, canTrap, ServesNow, Received, SheafRecordGood]); decide +kernel⟩

theorem witness_DieEvents_8 : ∃ (s : State),
    (s.arg 0 < 16) ∧ (s.arg 1 < 256) ∧ (s.arg 1 ∉ (tractAt s (s.arg 0)).failedChannels) :=
  ⟨on [15, 255] State.reset, by (try simp only [Standing, AllPass, Unmapped, canTrap, ServesNow, Received, SheafRecordGood]); decide +kernel⟩

theorem witness_DieEvents_9 : ∃ (s : State),
    (s.arg 0 < 512) ∧ (mustRetire s (s.arg 0) = true) :=
  ⟨on [511] (modQuad State.reset 511 fun q => { q with controls := [0, 0] }), by (try simp only [Standing, AllPass, Unmapped, canTrap, ServesNow, Received, SheafRecordGood]); decide +kernel⟩

theorem witness_DieEvents_10 : ∃ (s : State), ∃ h,
    ((quadAt s (s.arg 0)).stub = some h) ∧ (h ≤ s.now) :=
  ⟨on [511] (modQuad { State.reset with now := 9 } 511 fun q => { q with stub := some 9 }), 9, by (try simp only [Standing, AllPass, Unmapped, canTrap, ServesNow, Received, SheafRecordGood]); decide +kernel⟩

theorem witness_DieEvents_11 : ∃ (s : State),
    (s.module.newRetired = []) ∧ (s.module.newDetour = true) :=
  ⟨{ State.reset with module := { State.reset.module with newDetour := true } }, by (try simp only [Standing, AllPass, Unmapped, canTrap, ServesNow, Received, SheafRecordGood]); decide +kernel⟩

theorem witness_SliceReads_0 : ∃ (s : State), ∃ q, ∃ r, ∃ c,
    (arriving s (s.arg 0) = some (.read q r)) ∧ (s.arg 1 = 0) ∧ (awaitsEntry s (s.arg 0) = false) ∧ (q / 32 ≠ tractOfPa (64 * r.line)) ∧ ((q = r.core / 4 → wayMask s q r.part r.ctx ≠ 0)) ∧ (slotOf s q r.line = some c) ∧ (r.l2only = false) :=
  ⟨on [0, 0] (sends (.read 0 { want with line := 0x80000000 }) (modQuad stage 0 fun q => { q with copies := [nearCopy], gated := false })), 0, { want with line := 0x80000000 }, nearCopy, by (try simp only [Standing, AllPass, Unmapped, canTrap, ServesNow, Received, SheafRecordGood]); decide +kernel⟩

theorem witness_SliceReads_1 : ∃ (s : State), ∃ q, ∃ r,
    (arriving s (s.arg 0) = some (.read q r)) ∧ (s.arg 1 = 0) ∧ (awaitsEntry s (s.arg 0) = false) ∧ (q / 32 ≠ tractOfPa (64 * r.line)) ∧ (q = r.core / 4) ∧ (wayMask s q r.part r.ctx = 0) :=
  ⟨on [0, 0] (sends (.read 0 { want with line := 0x80000000 }) (modQuad State.reset 0 fun q => { q with gated := true })), 0, { want with line := 0x80000000 }, by (try simp only [Standing, AllPass, Unmapped, canTrap, ServesNow, Received, SheafRecordGood]); decide +kernel⟩

theorem witness_SliceReads_2 : ∃ (s : State), ∃ q, ∃ r,
    (arriving s (s.arg 0) = some (.read q r)) ∧ (s.arg 1 = 0) ∧ (awaitsEntry s (s.arg 0) = false) ∧ (q / 32 = tractOfPa (64 * r.line)) ∧ (ServesNow s q r.line) ∧ (r.near = none) ∧ (r.l2only = false) ∧ ((homeAt s r.line).tracker = none) :=
  ⟨on [0, 0] (sends (.read 17 want) State.reset), 17, want, by (try simp only [Standing, AllPass, Unmapped, canTrap, ServesNow, Received, SheafRecordGood]); decide +kernel⟩

theorem witness_SliceReads_3 : ∃ (s : State), ∃ q, ∃ r, ∃ bytes, ∃ poison, ∃ expiry, ∃ mask,
    (arriving s (s.arg 0) = some (.data (some q) r bytes poison expiry mask)) ∧ (r.l2only = false) :=
  ⟨on [0] (sends (.data (some 0) want zeros64 false (some 5) none) State.reset), 0, want, zeros64, false, some 5, none, by (try simp only [Standing, AllPass, Unmapped, canTrap, ServesNow, Received, SheafRecordGood]); decide +kernel⟩

theorem witness_SliceReads_4 : ∃ (s : State),
    ((∃ e ∈ (coreAt s (s.arg 0)).l1, e.line = s.arg 1 ∧ ∃ x, e.expiry = some x ∧ x ≤ s.now)) :=
  ⟨on [0, 5] (modCore { State.reset with now := 9 } 0 fun c => { c with l1 := [{ line := 5, bytes := zeros64, poison := false, expiry := some 9, mask := none, hint := 0, used := 0 }] }), by (try simp only [Standing, AllPass, Unmapped, canTrap, ServesNow, Received, SheafRecordGood]); decide +kernel⟩

theorem witness_SliceReads_5 : ∃ (s : State), ∃ line, ∃ q,
    (arriving s (s.arg 0) = some (.inval line q)) :=
  ⟨on [0] (sends (.inval 5 511) State.reset), 5, 511, by (try simp only [Standing, AllPass, Unmapped, canTrap, ServesNow, Received, SheafRecordGood]); decide +kernel⟩

theorem witness_SliceReads_6 : ∃ (s : State), ∃ line, ∃ q,
    (arriving s (s.arg 0) = some (.recall line q)) :=
  ⟨on [0] (sends (.recall 5 511) State.reset), 5, 511, by (try simp only [Standing, AllPass, Unmapped, canTrap, ServesNow, Received, SheafRecordGood]); decide +kernel⟩

theorem witness_SliceReads_7 : ∃ (s : State), ∃ line, ∃ q, ∃ h, ∃ x,
    (arriving s (s.arg 0) = some (.ack line q h)) ∧ ((homeAt s line).txn = some x) ∧ (q ∈ x.missing) :=
  ⟨on [0] (sends (.ack 0x1000400 17 3) { State.reset with homes := [(0x1000400, { Home.reset with txn := some transaction })] }), 0x1000400, 17, 3, transaction, by (try simp only [Standing, AllPass, Unmapped, canTrap, ServesNow, Received, SheafRecordGood]); decide +kernel⟩

theorem witness_SliceReads_8 : ∃ (s : State), ∃ line, ∃ q, ∃ h,
    (arriving s (s.arg 0) = some (.loanReturn line q h)) :=
  ⟨on [0] (sends (.loanReturn 5 511 3) State.reset), 5, 511, 3, by (try simp only [Standing, AllPass, Unmapped, canTrap, ServesNow, Received, SheafRecordGood]); decide +kernel⟩

theorem witness_SliceReads_9 : ∃ (s : State), ∃ line, ∃ q, ∃ bytes, ∃ poison,
    (arriving s (s.arg 0) = some (.loanPush line q bytes poison)) :=
  ⟨on [0] (sends (.loanPush 5 511 zeros64 false) State.reset), 5, 511, zeros64, false, by (try simp only [Standing, AllPass, Unmapped, canTrap, ServesNow, Received, SheafRecordGood]); decide +kernel⟩

theorem witness_SliceReads_10 : ∃ (s : State), ∃ line, ∃ helper, ∃ q,
    (arriving s (s.arg 0) = some (.redirect line helper q)) :=
  ⟨on [0] (sends (.redirect 5 511 3) State.reset), 5, 511, 3, by (try simp only [Standing, AllPass, Unmapped, canTrap, ServesNow, Received, SheafRecordGood]); decide +kernel⟩

theorem witness_SliceReads_11 : ∃ (s : State), ∃ line, ∃ helper, ∃ q,
    (arriving s (s.arg 0) = some (.unredirect line helper q)) :=
  ⟨on [0] (sends (.unredirect 5 511 3) State.reset), 5, 511, 3, by (try simp only [Standing, AllPass, Unmapped, canTrap, ServesNow, Received, SheafRecordGood]); decide +kernel⟩

theorem witness_HomeWrites_0 : ∃ (s : State), ∃ q, ∃ core, ∃ e, ∃ age,
    (s.mem.wf = true) ∧ (arriving s (s.arg 0) = some (.drain q core e age)) ∧ (s.arg 1 = 0) ∧ (ServesNow s q e.line) ∧ (lineLost s e.line = false) :=
  ⟨on [0, 0] (sends (.drain 17 0 entry 0) State.reset), 17, 0, entry, 0, by (try simp only [Standing, AllPass, Unmapped, canTrap, ServesNow, Received, SheafRecordGood]); decide +kernel⟩

theorem witness_HomeWrites_1 : ∃ (s : State), ∃ q, ∃ line, ∃ data, ∃ poison, ∃ n, ∃ age, ∃ cls,
    (s.mem.wf = true) ∧ (arriving s (s.arg 0) = some (.engineWrite q line data poison n age cls)) ∧ (s.arg 1 = 0) ∧ (ServesNow s q line) ∧ (lineLost s line = false) :=
  ⟨on [0, 0] (sends (.engineWrite 17 0x1000400 [(0, 1)] false .nobody 0 0) State.reset), 17, 0x1000400, [(0, 1)], false, .nobody, 0, 0, by (try simp only [Standing, AllPass, Unmapped, canTrap, ServesNow, Received, SheafRecordGood]); decide +kernel⟩

theorem witness_HomeWrites_2 : ∃ (s : State), ∃ q, ∃ line, ∃ data, ∃ tag, ∃ age,
    (s.mem.wf = true) ∧ (arriving s (s.arg 0) = some (.rmaWrite q line data tag age)) ∧ (s.arg 1 = 0) ∧ (ServesNow s q line) ∧ (lineLost s line = false) :=
  ⟨on [0, 0] (sends (.rmaWrite 17 0x1000400 [(0, 1)] 6 0) State.reset), 17, 0x1000400, [(0, 1)], 6, 0, by (try simp only [Standing, AllPass, Unmapped, canTrap, ServesNow, Received, SheafRecordGood]); decide +kernel⟩

theorem witness_HomeWrites_3 : ∃ (s : State), ∃ q, ∃ b, ∃ o, ∃ op, ∃ age, ∃ cls, ∃ tail,
    (s.mem.wf = true) ∧ (arriving s (s.arg 0) = some (.atomic q b [o] op age cls tail)) ∧ (s.arg 1 = 0) ∧ (ServesNow s q (o.pa / 64)) ∧ (lineLost s (o.pa / 64) = false) :=
  ⟨on [0, 0] (sends (.atomic 17 0 [plusOne] 0 0 0 none) State.reset), 17, 0, plusOne, 0, 0, 0, none, by (try simp only [Standing, AllPass, Unmapped, canTrap, ServesNow, Received, SheafRecordGood]); decide +kernel⟩

theorem witness_HomeWrites_4 : ∃ (s : State), ∃ q, ∃ n, ∃ o, ∃ age, ∃ cls,
    (s.mem.wf = true) ∧ (arriving s (s.arg 0) = some (.red q n [o] age cls)) ∧ (s.arg 1 = 0) ∧ (ServesNow s q (o.pa / 64)) ∧ (lineLost s (o.pa / 64) = false) :=
  ⟨on [0, 0] (sends (.red 17 .nobody [plusOne] 0 0) State.reset), 17, .nobody, plusOne, 0, 0, by (try simp only [Standing, AllPass, Unmapped, canTrap, ServesNow, Received, SheafRecordGood]); decide +kernel⟩

theorem witness_HomeWrites_5 : ∃ (s : State), ∃ q, ∃ line, ∃ off, ∃ ty, ∃ v, ∃ n, ∃ age, ∃ part, ∃ ctx,
    (s.mem.wf = true) ∧ (arriving s (s.arg 0) = some (.abacus q line (.add off ty v) n age part ctx)) ∧ (s.arg 1 = 0) ∧ (ServesNow s q line) ∧ (lineLost s line = false) ∧ (64 * line % 65536 < 0xF800) ∧ (off < 64) ∧ (statusOpen (statusOf s line) = true) :=
  ⟨on [0, 0] (sends (.abacus 17 0x1000400 (.add 56 Ty.f32 0) .nobody 0 1 0) { State.reset with mem := memWriteList [] 0x4001F801 [0x80] }), 17, 0x1000400, 56, Ty.f32, 0, .nobody, 0, 1, 0, by (try simp only [Standing, AllPass, Unmapped, canTrap, ServesNow, Received, SheafRecordGood]); decide +kernel⟩

theorem witness_HomeWrites_6 : ∃ (s : State), ∃ id, ∃ q, ∃ core, ∃ e, ∃ age,
    (s.mem.wf = true) ∧ ((homeAt s (s.arg 0)).txn = none) ∧ (transactions s (homeSlice s (s.arg 0)) < 64) ∧ (nextQueued s (s.arg 0) = some id) ∧ (tfind s.net id = some (.drain q core e age)) ∧ (e.line = s.arg 0) ∧ (s.arg 1 = 0) ∧ (lineLost s e.line = false) :=
  ⟨on [0x1000400, 0] (sends (.drain 17 0 entry 0) { State.reset with homes := [(0x1000400, { Home.reset with queue := [0] })] }), 0, 17, 0, entry, 0, by (try simp only [Standing, AllPass, Unmapped, canTrap, ServesNow, Received, SheafRecordGood]); decide +kernel⟩

theorem witness_HomeWrites_7 : ∃ (s : State), ∃ m, ∃ since, ∃ r,
    (arriving s (s.arg 0) = some (.retry m since)) ∧ (since + 8 ≤ s.now) ∧ (requestOf s m = some r) :=
  ⟨on [0] (sends (.retry (.read 17 want) 0) { State.reset with now := 8 }), .read 17 want, 0, readRequest, by (try simp only [Standing, AllPass, Unmapped, canTrap, ServesNow, Received, SheafRecordGood]); decide +kernel⟩

theorem witness_HomeWrites_8 : ∃ (s : State), ∃ m, ∃ epoch, ∃ r,
    (arriving s (s.arg 0) = some (.remap m epoch)) ∧ (requestOf s m = some r) :=
  ⟨on [0] (sends (.remap (.read 17 want) 1) State.reset), .read 17 want, 1, readRequest, by (try simp only [Standing, AllPass, Unmapped, canTrap, ServesNow, Received, SheafRecordGood]); decide +kernel⟩

theorem witness_HomeWrites_10 : ∃ (s : State), ∃ line, ∃ delta,
    (s.parity.wf = true) ∧ (arriving s (s.arg 0) = some (.parity line delta)) ∧ (s.arg 1 = 0) ∧ ((dieAt s ((placeOf line).2.2 / 2)).fenced = false) :=
  ⟨on [0, 0] (sends (.parity 0x1000400 (List.replicate 64 1)) State.reset), 0x1000400, List.replicate 64 1, by (try simp only [Standing, AllPass, Unmapped, canTrap, ServesNow, Received, SheafRecordGood]); decide +kernel⟩

theorem witness_Replies_0 : ∃ (s : State), ∃ core, ∃ seq, ∃ c, ∃ e,
    (arriving s (s.arg 0) = some (.ctl (.entry core seq) c)) ∧ (((coreAt s core).record.find? fun e => e.seq == seq) = some e) :=
  ⟨on [0] (sends (.ctl (.entry 0 1) 9) (modCore State.reset 0 fun c => { c with record := [{ entry with state := .sent }] })), 0, 1, 9, { entry with state := .sent }, by (try simp only [Standing, AllPass, Unmapped, canTrap, ServesNow, Received, SheafRecordGood]); decide +kernel⟩

theorem witness_Replies_1 : ∃ (s : State), ∃ b, ∃ id, ∃ c,
    (arriving s (s.arg 0) = some (.ctl (.op b id) c)) ∧ ((tfind s.blocks b).isSome) ∧ ((∃ o ∈ (blockAt s b).ops, o.id = id)) ∧ ((∀ o ∈ (blockAt s b).ops, o.id = id → o.kind ≠ .tail)) :=
  ⟨on [0] (sends (.ctl (.op 0 4) 9) (modBlock stage 0 fun x => { x with ops := [{ id := 4, kind := .red, sourceRead := false, count := 1 }] })), 0, 4, 9, by (try simp only [Standing, AllPass, Unmapped, canTrap, ServesNow, Received, SheafRecordGood]); decide +kernel⟩

theorem witness_Replies_2 : ∃ (s : State), ∃ r, ∃ bytes, ∃ poison, ∃ expiry, ∃ mask, ∃ k, ∃ id, ∃ p, ∃ n,
    (arriving s (s.arg 0) = some (.data none r bytes poison expiry mask)) ∧ (r.l2only = false) ∧ (r.waiters = [(k, id)]) ∧ (replyOlder s r.born (k, id) = false) ∧ (pendingOf s k id = some p) ∧ (p.dest = .v n) ∧ (tyWidth p.ty ≤ 32) ∧ ((tfind s.strands k).isSome) ∧ ((blockAt s (blockOf s k)).shared = []) ∧ ((blockAt s (blockOf s k)).armed = none) ∧ ((blockAt s r.block).armed = none) :=
  ⟨on [0] (sends (.data none want zeros64 false (some 5) none) (modStrand stage 0 fun x => { x with loads := [pending] })), want, zeros64, false, some 5, none, 0, 1, pending, 511, by (try simp only [Standing, AllPass, Unmapped, canTrap, ServesNow, Received, SheafRecordGood]); decide +kernel⟩

theorem witness_Replies_3 : ∃ (s : State), ∃ g, ∃ rank, ∃ off, ∃ bytes, ∃ poison, ∃ src, ∃ b,
    (arriving s (s.arg 0) = some (.xst g rank [(off, bytes, poison)] src)) ∧ (((gangBlocks s g).find? fun b => (blockAt s b).grank == rank) = some b) :=
  ⟨on [0] (sends (.xst 1 0 [(0, [1, 2, 3, 4], false)] 0) (modBlock stage 0 fun x => { x with xBytes := 1024 })), 1, 0, 0, [1, 2, 3, 4], false, 0, 0, by (try simp only [Standing, AllPass, Unmapped, canTrap, ServesNow, Received, SheafRecordGood]); decide +kernel⟩

theorem witness_Replies_4 : ∃ (s : State), ∃ core, ∃ e, ∃ x,
    (arriving s (s.arg 0) = some (.hostStore core e)) ∧ (((coreAt s core).record.find? fun x => x.seq == e.seq) = some x) :=
  ⟨on [0] (sends (.hostStore 0 { entry with state := .sent }) (modCore State.reset 0 fun c => { c with record := [{ entry with state := .sent }] })), 0, { entry with state := .sent }, { entry with state := .sent }, by (try simp only [Standing, AllPass, Unmapped, canTrap, ServesNow, Received, SheafRecordGood]); decide +kernel⟩

theorem witness_Replies_5 : ∃ (s : State), ∃ core, ∃ e,
    (tfind s.net (s.arg 0) = some (.hostStore core e)) ∧ (hostReach s = false) :=
  ⟨on [0] (sends (.hostStore 0 entry) { State.reset with module := { State.reset.module with ports := (List.range 8).map fun n => (n, { Port.reset with state := .down }) } }), 0, entry, by (try simp only [Standing, AllPass, Unmapped, canTrap, ServesNow, Received, SheafRecordGood]); decide +kernel⟩

theorem witness_Replies_6 : ∃ (s : State),
    ((∃ e ∈ (coreAt s (s.arg 0)).record, e.seq = s.arg 1 ∧ e.state = .opened ∧ e.alloc + 100 ≤ s.now)) :=
  ⟨on [0, 1] (modCore { State.reset with now := 100 } 0 fun c => { c with record := [entry] }), by (try simp only [Standing, AllPass, Unmapped, canTrap, ServesNow, Received, SheafRecordGood]); decide +kernel⟩

theorem witness_Replies_7 : ∃ (s : State), ∃ e,
    (((coreAt s (s.arg 0)).record.countP fun e => e.state == .sent) < 8) ∧ (((coreAt s (s.arg 0)).record.find? fun e => e.state == .draining) = some e) :=
  ⟨on [0] (modCore State.reset 0 fun c => { c with record := [{ entry with state := .draining }] }), { entry with state := .draining }, by (try simp only [Standing, AllPass, Unmapped, canTrap, ServesNow, Received, SheafRecordGood]); decide +kernel⟩

theorem witness_GangEvents_0 : ∃ (s : State), ∃ (key : Nat), ∃ t,
    (nextBatch s (s.arg 0) = some (key, t)) ∧ (nextServed s = some (s.arg 0)) ∧ (s.module.dispatchAt ≤ s.now) :=
  ⟨on [1] queued, 2 ^ 32 + 1, 0, by (try simp only [Standing, AllPass, Unmapped, canTrap, ServesNow, Received, SheafRecordGood]); decide +kernel⟩

theorem witness_GangEvents_1 : ∃ (s : State),
    (nextServed s ≠ some (s.arg 0)) :=
  ⟨on [2] queued, by (try simp only [Standing, AllPass, Unmapped, canTrap, ServesNow, Received, SheafRecordGood]); decide +kernel⟩

theorem witness_GangEvents_2 : ∃ (s : State),
    ((tractAt s (s.arg 0)).freedEntries ≠ 0) :=
  ⟨on [15] (modTract State.reset 15 fun t => { t with freedEntries := 1 }), by (try simp only [Standing, AllPass, Unmapped, canTrap, ServesNow, Received, SheafRecordGood]); decide +kernel⟩

theorem witness_GangEvents_3 : ∃ (s : State),
    ((tractAt s (s.arg 0)).returns ≠ 0) ∧ ((16 ≤ (tractAt s (s.arg 0)).returns ∨ (tractAt s (s.arg 0)).returnsSince + 256 ≤ s.now)) :=
  ⟨on [15] (modTract State.reset 15 fun t => { t with returns := 16 }), by (try simp only [Standing, AllPass, Unmapped, canTrap, ServesNow, Received, SheafRecordGood]); decide +kernel⟩

theorem witness_GangEvents_4 : ∃ (s : State), ∃ g, ∃ before, ∃ f,
    ((∀ g ∈ (tractAt s (s.arg 0)).pending, (gangAt s g).state = .pending → ∃ u ∈ (partAt s (gangAt s g).part).tracts, windows s u (gangAt s g).size ≠ [])) ∧ (scan s (s.arg 0) [] (tractAt s (s.arg 0)).pending = some (g, before, f)) ∧ ((tfind s.gangs g).isSome) ∧ ((tractAt s (s.arg 0)).placeAt ≤ s.now) :=
  ⟨on [0] (modTract { queued with gangs := [(7, { Gang.blank with part := 1, launch := 1, state := .pending })] } 0 fun t => { t with pending := [7] }), 7, [], 0, by (try simp only [Standing, AllPass, Unmapped, canTrap, ServesNow, Received, SheafRecordGood]); decide +kernel⟩

theorem witness_GangEvents_5 : ∃ (s : State),
    let b := 4 * s.arg 0 + s.arg 1; ((tfind s.blocks b).isSome) ∧ ((blockAt s b).ready = false) ∧ (setupHeld s b = false) ∧ ((blockAt s b).fault = none) ∧ ((∀ h ∈ (gangAt s (blockAt s b).gang).shapes, h.index ≠ (blockAt s b).index)) ∧ (refillPoint (launchOf s (blockAt s b)) = none) :=
  ⟨on [0, 0] (modBlock (idled stage) 0 fun x => { x with ready := false }), by (try simp only [Standing, AllPass, Unmapped, canTrap, ServesNow, Received, SheafRecordGood]); decide +kernel⟩

theorem witness_GangEvents_6 : ∃ (s : State),
    let b := 4 * s.arg 0 + s.arg 1; ((tfind s.blocks b).isSome) ∧ ((blockAt s b).ready = true) ∧ (blockDone s b = true) ∧ ((∀ c ∈ (coreAt s (b / 4)).queue, c.block ≠ b)) ∧ ((∀ w ∈ (coreAt s (b / 4)).writes, w.1 ≠ b)) ∧ (listed s b = false) ∧ ((gangAt s (blockAt s b).gang).state = .placed) ∧ ((∀ h ∈ (gangAt s (blockAt s b).gang).shapes, h.index ≠ (blockAt s b).index)) :=
  ⟨on [0, 0] (idled (each (fun x => { x with cond := .done }) stage)), by (try simp only [Standing, AllPass, Unmapped, canTrap, ServesNow, Received, SheafRecordGood]); decide +kernel⟩

theorem witness_GangEvents_7 : ∃ (s : State),
    let key := 2 ^ 32 * s.arg 0 + s.arg 1; let l := launchAt s key; ((tfind s.launches key).isSome) ∧ (hostReach s = true) ∧ (l.ready = none) ∧ (launchReady s key = true) :=
  ⟨on [1, 1] { queued with launches := [(2 ^ 32 + 1, { Launch.blank with part := 1, id := 1, record := fetchRecord, root := 0x10000, nextBlock := 1, retiredBlocks := 1 })] }, by (try simp only [Standing, AllPass, Unmapped, canTrap, ServesNow, Received, SheafRecordGood]); decide +kernel⟩

theorem witness_KillEvents_0 : ∃ (s : State), ∃ tk,
    ((gangAt s (s.arg 0)).state = .killing tk) :=
  ⟨on [1] (modGang stage 1 fun g => { g with state := .killing 0 }), 0, by (try simp only [Standing, AllPass, Unmapped, canTrap, ServesNow, Received, SheafRecordGood]); decide +kernel⟩

theorem witness_KillEvents_1 : ∃ (s : State), ∃ tk,
    ((gangAt s (s.arg 0)).state = .killing tk) ∧ (tk + 1000 ≤ s.now) :=
  ⟨on [1] { modGang stage 1 fun g => { g with state := .killing 0 } with now := 1000 }, 0, by (try simp only [Standing, AllPass, Unmapped, canTrap, ServesNow, Received, SheafRecordGood]); decide +kernel⟩

theorem witness_KillEvents_2 : ∃ (s : State),
    ((gangAt s (s.arg 0)).state = .killed) ∧ ((gangAt s (s.arg 0)).final = false) ∧ (settled s (s.arg 0) = true) :=
  ⟨on [1] { modGang stage 1 (fun g => { g with state := .killed }) with blocks := [], strands := [], sheaves := [] }, by (try simp only [Standing, AllPass, Unmapped, canTrap, ServesNow, Received, SheafRecordGood]); decide +kernel⟩

theorem witness_KillEvents_3 : ∃ core, ∃ slot, ∃ (s : State), ∃ b,
    (tfind s.blocks (4 * core + slot) = some b) ∧ ((gangAt s b.gang).state.live = true) ∧ ((tfind s.gangs b.gang).isSome) :=
  ⟨0, 0, stage, blockAt stage 0, by (try simp only [Standing, AllPass, Unmapped, canTrap, ServesNow, Received, SheafRecordGood]); decide +kernel⟩

theorem witness_KillEvents_4 : ∃ core, ∃ seq, ∃ (s : State), ∃ e,
    (((coreAt s core).record.find? fun e => e.seq == seq) = some e) :=
  ⟨0, 1, modCore stage 0 fun c => { c with record := [entry] }, entry, by (try simp only [Standing, AllPass, Unmapped, canTrap, ServesNow, Received, SheafRecordGood]); decide +kernel⟩

theorem witness_CoreEvents_1 : ∃ (s : State),
    (s.ctl.bundle = none) ∧ (allowed (enterCycle s (s.arg 0)) (s.arg 0 / 4) = false) :=
  ⟨on [0] (idled (modQuad stage 0 fun q => { q with cycle := 63 })), by (try simp only [Standing, AllPass, Unmapped, canTrap, ServesNow, Received, SheafRecordGood]); decide +kernel⟩

theorem witness_CoreEvents_2 : ∃ (s : State), ∃ f, ∃ rest, ∃ r,
    ((coreAt s (s.arg 0)).regxQueue = f :: rest) ∧ (f / 64 = s.arg 0) ∧ ((sheafAt s f).regx = some r) ∧ (regxFits s f r.granules = true) :=
  ⟨on [0] (modCore (modSheaf stage 0 fun x => { x with alloc := 384, regx := some { granules := 4, pred := 1, len := 4, strands := [0] } }) 0 fun c => { c with regxQueue := [0] }), 0, [], { granules := 4, pred := 1, len := 4, strands := [0] }, by (try simp only [Standing, AllPass, Unmapped, canTrap, ServesNow, Received, SheafRecordGood]); decide +kernel⟩

theorem witness_CoreEvents_3 : ∃ (s : State),
    let ks := blockStrands s (4 * s.arg 0 + s.arg 1); (allArrived s .bar ks = true) ∧ (saving s (4 * s.arg 0 + s.arg 1) = false) ∧ (ks.Nodup) :=
  ⟨on [0, 0] (idled (each (fun x => { x with cond := .waiting .bar }) stage)), by (try simp only [Standing, AllPass, Unmapped, canTrap, ServesNow, Received, SheafRecordGood]); decide +kernel⟩

theorem witness_CoreEvents_4 : ∃ (s : State),
    (gbarReady s (s.arg 0) = true) :=
  ⟨on [1] (idled (each (fun x => { x with cond := .waiting .gbar }) stage)), by (try simp only [Standing, AllPass, Unmapped, canTrap, ServesNow, Received, SheafRecordGood]); decide +kernel⟩

theorem witness_CoreEvents_5 : ∃ (s : State),
    let f := 64 * s.arg 0 + s.arg 1; let ws := waitersAt s (.waitm (s.arg 2)) (sheafStrands s f); (allArrived s (.waitm (s.arg 2)) ((sheafStrands s f).filter fun k => (readM s f (s.arg 2)).getLsbD (k % 64)) = true) ∧ ((∀ k ∈ ws, loading s k = false)) ∧ (saving s (sheafAt s f).block = false) :=
  ⟨on [0, 0, 11] (idled (modSheaf (each (fun x => { x with cond := .waiting (.waitm 11) }) stage) 0 fun x => { x with masks := [(11, 0xFF)] })), by (try simp only [Standing, AllPass, Unmapped, canTrap, ServesNow, Received, SheafRecordGood]); decide +kernel⟩

theorem witness_EngineEvents_0 : ∃ (s : State), ∃ c, ∃ rest,
    ((coreAt s (s.arg 0)).queue = c :: rest) ∧ (c.started = false) ∧ (c.fault = none) ∧ (c.awaited = 0) ∧ (headerFails s c = false) ∧ let lines := nextLines s c; ((∀ line ∈ lines, walkHeld s (s.arg 0 / 256) (.engine (s.arg 0)) (copyLaunch s c) (64 * line) = false)) ∧ (copyObstacle s c lines = none) :=
  ⟨on [0] (modCore (modBlock stage 0 fun x => { x with padBytes := 196608, tiles := [(3, small)] }) 0 fun c => { c with queue := [dense] }), dense, [], by (try simp only [Standing, AllPass, Unmapped, canTrap, ServesNow, Received, SheafRecordGood]); decide +kernel⟩

theorem witness_EngineEvents_1 : ∃ (s : State), ∃ c, ∃ rest,
    ((coreAt s (s.arg 0)).queue = c :: rest) ∧ (c.started = false) ∧ (c.fault = none) ∧ (c.awaited = 0) ∧ (headerFails s c = true) ∧ ((∀ line ∈ nextLines s c, walkHeld s (s.arg 0 / 256) (.engine (s.arg 0)) (copyLaunch s c) (64 * line) = false)) :=
  ⟨on [0] (modCore (modBlock stage 0 fun x => { x with padBytes := 196608, tiles := [(3, small)] }) 0 fun c => { c with queue := [{ copy with lines := [(0x800, zeros64, false)] }] }), { copy with lines := [(0x800, zeros64, false)] }, [], by (try simp only [Standing, AllPass, Unmapped, canTrap, ServesNow, Received, SheafRecordGood]); decide +kernel⟩

theorem witness_EngineEvents_2 : ∃ (s : State), ∃ core, ∃ op, ∃ line, ∃ bytes, ∃ poison, ∃ c,
    (arriving s (s.arg 0) = some (.engineData core op line bytes poison)) ∧ ((coreAt s core).queue = [c]) ∧ (c.op = op) :=
  ⟨on [0] (sends (.engineData 0 9 0x800 zeros64 false) (modCore stage 0 fun c => { c with queue := [copy] })), 0, 9, 0x800, zeros64, false, copy, by (try simp only [Standing, AllPass, Unmapped, canTrap, ServesNow, Received, SheafRecordGood]); decide +kernel⟩

theorem witness_EngineEvents_3 : ∃ (s : State), ∃ c, ∃ rest,
    ((coreAt s (s.arg 0)).queue = c :: rest) ∧ (s.arg 1 = 0) ∧ (c.started = true) ∧ (c.ec = 0) ∧ (c.awaited = 0) ∧ (c.kind = .cpy) ∧ (c.image = []) ∧ (c.touched = []) :=
  ⟨on [0] (modCore (modBlock stage 0 fun x => { x with padBytes := 196608, tiles := [(3, filling)] }) 0 fun c => { c with queue := [{ copy with started := true }] }), { copy with started := true }, [], by (try simp only [Standing, AllPass, Unmapped, canTrap, ServesNow, Received, SheafRecordGood]); decide +kernel⟩

theorem witness_EngineEvents_4 : ∃ (s : State), ∃ c, ∃ rest, ∃ tile,
    ((coreAt s (s.arg 0)).queue = c :: rest) ∧ (s.arg 1 = 0) ∧ (c.started = true) ∧ (c.ec = 0) ∧ (c.awaited = 0) ∧ ((c.kind = .cpy → c.image ≠ [])) ∧ (tileAt s c.block c.tile = some tile) :=
  ⟨on [0] (modCore (modBlock stage 0 fun x => { x with padBytes := 196608, tiles := [(3, filling)] }) 0 fun c => { c with queue := [{ copy with started := true, image := [(0x8000, 1)] }] }), { copy with started := true, image := [(0x8000, 1)] }, [], filling, by (try simp only [Standing, AllPass, Unmapped, canTrap, ServesNow, Received, SheafRecordGood]); decide +kernel⟩

theorem witness_EngineEvents_5 : ∃ (s : State), ∃ w, ∃ rest,
    ((coreAt s (s.arg 0)).writes = w :: rest) ∧ (s.arg 1 ≠ 0) :=
  ⟨on [0, 1] (modCore stage 0 fun c => { c with writes := [(0, 9, .engineWrite 17 0x1000400 [(0, 1)] false (.engine 0 9) 0 0)] }), (0, 9, .engineWrite 17 0x1000400 [(0, 1)] false (.engine 0 9) 0 0), [], by (try simp only [Standing, AllPass, Unmapped, canTrap, ServesNow, Received, SheafRecordGood]); decide +kernel⟩

theorem witness_EngineEvents_6 : ∃ (s : State), ∃ c, ∃ rest, ∃ tile,
    ((coreAt s (s.arg 0)).queue = c :: rest) ∧ (c.started = true) ∧ (c.ec ≠ 0) ∧ (c.awaited = 0) ∧ (tileAt s c.block c.tile = some tile) :=
  ⟨on [0] (modCore (modBlock stage 0 fun x => { x with padBytes := 196608, tiles := [(3, filling)] }) 0 fun c => { c with queue := [{ copy with started := true, ec := 7 }] }), { copy with started := true, ec := 7 }, [], filling, by (try simp only [Standing, AllPass, Unmapped, canTrap, ServesNow, Received, SheafRecordGood]); decide +kernel⟩

theorem witness_EngineEvents_7 : ∃ (s : State), ∃ l,
    ((quadAt s (s.arg 0)).latches[s.arg 1]? = some l) ∧ (l.full (s.arg 0) = true) ∧ (arrivalsAgree l = true) ∧ ((quadAt s (s.arg 0)).table.length < Config.latches) :=
  ⟨on [0, 0] (modQuad State.reset 0 fun q => { q with latches := [{ ens := 0x2000000004000, arrivals := [arrival, { arrival with sheaf := 64 }] }] }), { ens := 0x2000000004000, arrivals := [arrival, { arrival with sheaf := 64 }] }, by (try simp only [Standing, AllPass, Unmapped, canTrap, ServesNow, Received, SheafRecordGood]); decide +kernel⟩

theorem witness_EngineEvents_8 : ∃ (s : State), ∃ e,
    (granted s (s.arg 0) = some e) ∧ ((quadAt s (s.arg 0)).pass = none) ∧ (allowed s (s.arg 0) = true) ∧ (grantHeld s (s.arg 0) e = false) ∧ ((e.checked = true ∨ ((translateB s e e.first.b).failure e.first.b = none ∧ mismatchB s e = false))) :=
  ⟨on [0] (modQuad stage 0 fun q => { q with table := [listed1] }), listed1, by (try simp only [Standing, AllPass, Unmapped, canTrap, ServesNow, Received, SheafRecordGood]); decide +kernel⟩

theorem witness_EngineEvents_9 : ∃ (s : State), ∃ e,
    ((quadAt s (s.arg 0)).table[s.arg 1]? = some e) ∧ (e.granted + 4096 * (e.aged + 1) ≤ s.now) ∧ (e.aged < 7) :=
  ⟨on [0, 0] (modQuad { State.reset with now := 7 * 4096 } 0 fun q => { q with table := [{ listed1 with aged := 6 }] }), { listed1 with aged := 6 }, by (try simp only [Standing, AllPass, Unmapped, canTrap, ServesNow, Received, SheafRecordGood]); decide +kernel⟩

theorem witness_EngineEvents_10 : ∃ (s : State), ∃ p, ∃ e,
    (passEntry s (s.arg 0) = some (p, e)) ∧ (failingRow s e p = none) ∧ (passHeld s (s.arg 0) e p = false) :=
  ⟨on [0] (modQuad stage 0 fun q => { q with table := [listed1], pass := some firstPass }), firstPass, listed1, by (try simp only [Standing, AllPass, Unmapped, canTrap, ServesNow, Received, SheafRecordGood]); decide +kernel⟩

theorem witness_EngineEvents_11 : ∃ (s : State), ∃ p, ∃ e, ∃ row, ∃ why,
    (passEntry s (s.arg 0) = some (p, e)) ∧ (failingRow s e p = some (row, why)) ∧ (passHeld s (s.arg 0) e p = false) :=
  ⟨on [0] (modQuad stage 0 fun q => { q with table := [unmapped], pass := some firstPass }), firstPass, unmapped, 0, .fault 0x80000040, by (try simp only [Standing, AllPass, Unmapped, canTrap, ServesNow, Received, SheafRecordGood]); decide +kernel⟩

theorem witness_Preemption_0 : ∃ (h : CmdHeader), ∃ (id : Word), ∃ (s : State),
    let key := 2 ^ 32 * h.endpoint + id.toNat; (Received s h 8) ∧ (h.endpoint ≠ 0) ∧ ((tfind s.launches key).isSome) ∧ ((launchAt s key).ready = none) ∧ ((launchAt s key).aborted = false) ∧ (preemptible (launchAt s key).record = true) ∧ ((launchAt s key).suspended = false) :=
  ⟨header 1 8, 1, saves, by (try simp only [Standing, AllPass, Unmapped, canTrap, ServesNow, Received, SheafRecordGood]); decide +kernel⟩

theorem witness_Preemption_1 : ∃ (s : State), ∃ w,
    ((partAt s (s.arg 0)).waiting = [w]) ∧ (w.opcode = 3) ∧ (w.target = s.arg 1) ∧ (w.resume = false) ∧ (w.ready = none) ∧ (hostReach s = true) ∧ (gangsSettled s (2 ^ 32 * s.arg 0 + s.arg 1) = true) :=
  ⟨on [1, 1] (modPart { saves with gangs := [] } 1 fun p => { p with waiting := [suspending1] }), suspending1, by (try simp only [Standing, AllPass, Unmapped, canTrap, ServesNow, Received, SheafRecordGood]); decide +kernel⟩

theorem witness_Preemption_2 : ∃ (h : CmdHeader), ∃ (id : Word), ∃ (s : State),
    let key := 2 ^ 32 * h.endpoint + id.toNat; (Received s h 8) ∧ (h.endpoint ≠ 0) ∧ ((tfind s.launches key).isSome) ∧ ((launchAt s key).ready = none) ∧ ((launchAt s key).suspended = true) ∧ ((launchAt s key).resuming = false) ∧ (suspending s h.endpoint id.toNat = false) :=
  ⟨header 1 8, 1, modLaunch { saves with gangs := [] } (2 ^ 32 + 1) fun l => { l with suspended := true }, by (try simp only [Standing, AllPass, Unmapped, canTrap, ServesNow, Received, SheafRecordGood]); decide +kernel⟩

theorem witness_Preemption_3 : ∃ (s : State),
    let b := 4 * s.arg 0 + s.arg 1; let u := leaveEngine s b; let v := storeFrame b ((frameGranules u b).drop (blockAt u b).framed) (if (blockAt u b).framed = 0 then startFrame u b else u); ((tfind s.blocks b).isSome) ∧ (stopReady u b = true) ∧ (tilesQuiet u b = true) ∧ ((blockAt u b).fault = none) ∧ ((frameGranules u b).length ≤ (blockAt v b).framed) ∧ (stopping v (blockAt v b).gang = true) :=
  ⟨on [0, 0] (modBlock (modGang saves 1 fun g => { g with state := .stopping 0 }) 0 fun x => { x with stopped := true, framed := 891 }), by (try simp only [Standing, AllPass, Unmapped, canTrap, ServesNow, Received, SheafRecordGood]); decide +kernel⟩

theorem witness_Preemption_4 : ∃ (s : State), ∃ g, ∃ rest, ∃ pa, ∃ (leaf : Leaf),
    let b := 4 * s.arg 0 + s.arg 1; let u := leaveEngine s b; let v := if (blockAt u b).framed = 0 then startFrame u b else u; ((tfind s.blocks b).isSome) ∧ (stopReady u b = true) ∧ (tilesQuiet u b = true) ∧ ((blockAt u b).fault = none) ∧ ((frameGranules u b).drop (blockAt u b).framed = g :: rest) ∧ (walkHeld v (b / 1024) (.strands (b / 4)) (launchOf v (blockAt v b)) g.1 = false) ∧ (translateFrame v (.strands (b / 4)) (launchOf v (blockAt v b)) g.1 .write = .ok pa leaf) ∧ (recordFull v b (pa / 64) = true) :=
  ⟨on [0, 0] (modCore (modBlock (modGang saves 1 fun g => { g with state := .stopping 0 }) 0 fun x => { x with stopped := true, framed := 891, rlim := 1 }) 0 fun c => { c with record := [entry] }), (0x20001DF8, (zeros 8, false)), [], 0x60001DF8, page, by (try simp only [Standing, AllPass, Unmapped, canTrap, ServesNow, Received, SheafRecordGood]); decide +kernel⟩

theorem witness_Preemption_5 : ∃ (s : State), ∃ tp,
    ((gangAt s (s.arg 0)).state = .stopping tp) ∧ (tp + 100000 ≤ s.now) ∧ (gangEnded s (s.arg 0) = false) ∧ (gangBlocks s (s.arg 0) ≠ []) :=
  ⟨on [1] { modGang saves 1 (fun g => { g with state := .stopping 0 }) with now := 100000 }, 0, by (try simp only [Standing, AllPass, Unmapped, canTrap, ServesNow, Received, SheafRecordGood]); decide +kernel⟩

theorem witness_Preemption_6 : ∃ (s : State), ∃ tp,
    ((gangAt s (s.arg 0)).state = .stopping tp) ∧ (gangBlocks s (s.arg 0) ≠ []) ∧ (gangEnded s (s.arg 0) = true) ∧ (gangQuiet s (s.arg 0) = true) :=
  ⟨on [1] (modSheaf (each (fun x => { x with cond := .saved }) (modGang saves 1 fun g => { g with state := .stopping 0, shapes := [{ index := 0, next := 0, tailRecord := [], overflow := false, replay := [], sheaves := [] }] })) 0 fun x => { x with phase := .handler }), 0, by (try simp only [Standing, AllPass, Unmapped, canTrap, ServesNow, Received, SheafRecordGood]); decide +kernel⟩

theorem witness_RemoteMemory_0 : ∃ part, ∃ pa, ∃ (data : List Byte), ∃ line, ∃ (s : State),
    (s.mem.wf = true) ∧ (rmaOpen s part = true) ∧ (rmaLegal s part pa data.length = true) ∧ (linesOf pa data.length = [line]) ∧ (s.arg 0 ≠ 1) ∧ ((∀ p ∈ s.module.links, p.2.state ≠ .down)) ∧ (homeBusy s line = false) ∧ (lineLost s line = false) :=
  ⟨1, 0x4001003F, [7], 0x1000400, stage, by (try simp only [Standing, AllPass, Unmapped, canTrap, ServesNow, Received, SheafRecordGood]); decide +kernel⟩

theorem witness_RemoteMemory_1 : ∃ part, ∃ pa, ∃ (data : List Byte), ∃ line, ∃ (s : State),
    (rmaOpen s part = true) ∧ (rmaLegal s part pa data.length = true) ∧ (linesOf pa data.length = [line]) ∧ (s.arg 0 = 1) :=
  ⟨1, 0x4001003F, [7], 0x1000400, on [1] stage, by (try simp only [Standing, AllPass, Unmapped, canTrap, ServesNow, Received, SheafRecordGood]); decide +kernel⟩

theorem witness_RemoteMemory_2 : ∃ part, ∃ pa, ∃ (data : List Byte), ∃ (s : State),
    (rmaOpen s part = true) ∧ (rmaLegal s part pa data.length = false) :=
  ⟨1, 0x1180000000, [7], stage, by (try simp only [Standing, AllPass, Unmapped, canTrap, ServesNow, Received, SheafRecordGood]); decide +kernel⟩

theorem witness_RemoteMemory_3 : ∃ (tag : DWord), ∃ (s : State), ∃ r,
    ((s.module.rma.find? fun r => r.tag == tag && r.lines == 0 && decide (r.horizon ≤ s.now)) = some r) ∧ (hostReach s = true) :=
  ⟨6, { State.reset with now := 9, module := { State.reset.module with rma := [finished] } }, finished, by (try simp only [Standing, AllPass, Unmapped, canTrap, ServesNow, Received, SheafRecordGood]); decide +kernel⟩

theorem witness_RemoteMemory_4 : ∃ part, ∃ pa, ∃ len, ∃ (tag : DWord), ∃ (s : State),
    (rmaOpen s part = true) ∧ (rmaLegal s part pa len = true) ∧ (s.arg 0 ≠ 1) ∧ ((∀ p ∈ s.module.links, p.2.state ≠ .down)) ∧ ((∀ line ∈ linesOf pa len, homeBusy s line = false)) ∧ ((∀ r ∈ s.module.rma, r.tag ≠ tag)) :=
  ⟨1, 0x4001003F, 1, 6, stage, by (try simp only [Standing, AllPass, Unmapped, canTrap, ServesNow, Received, SheafRecordGood]); decide +kernel⟩

theorem witness_RemoteMemory_5 : ∃ part, ∃ pa, ∃ len, ∃ (s : State),
    (rmaOpen s part = true) ∧ (rmaLegal s part pa len = false) :=
  ⟨1, 0x1180000000, 1, stage, by (try simp only [Standing, AllPass, Unmapped, canTrap, ServesNow, Received, SheafRecordGood]); decide +kernel⟩

theorem witness_RemoteMemory_6 : ∃ part, ∃ pa, ∃ (ty : BitVec 4), ∃ (s : State),
    (s.mem.wf = true) ∧ (s.arg 0 ≠ 1) ∧ ((∀ p ∈ s.module.links, p.2.state ≠ .down)) ∧ (rmaOpen s part = true) ∧ (rmaLegal s part pa (tyWidth ty / 8) = true) ∧ (tyWidth ty / 8 ≠ 0) ∧ (pa % (tyWidth ty / 8) = 0) ∧ (homeBusy s (pa / 64) = false) ∧ (lineLost s (pa / 64) = false) :=
  ⟨1, 0x40010038, Ty.b64, stage, by (try simp only [Standing, AllPass, Unmapped, canTrap, ServesNow, Received, SheafRecordGood]); decide +kernel⟩

theorem witness_Commands_2 : ∃ (h : CmdHeader), ∃ (s : State),
    (received s h = true) ∧ ((h.endpoint ≠ 0 → (partAt s h.endpoint).waiting.length < 64)) :=
  ⟨header 0 0, State.reset, by (try simp only [Standing, AllPass, Unmapped, canTrap, ServesNow, Received, SheafRecordGood]); decide +kernel⟩

theorem witness_Commands_3 : ∃ (h : CmdHeader), ∃ (r : LaunchRecord), ∃ (s : State), ∃ root, ∃ lease,
    (Received s h 128) ∧ (h.endpoint ≠ 0) ∧ (recordLegal r = true) ∧ (contextUnreadable s h.endpoint r.ctx.toNat = none) ∧ (contextOf s h.endpoint r.ctx.toNat = some (root, lease)) ∧ (launchHeld s h.endpoint r = false) ∧ (tailOutside s h.endpoint root r = false) ∧ (((partAt s h.endpoint).signedCode = true → codeSigned s h.endpoint r = true)) ∧ ((partLaunches s h.endpoint).length < 256) :=
  ⟨header 1 128, { LaunchRecord.blank with blocks := 1, items := 1, regs := 32, xpad := 16 }, contexts, 0x10000, 512, by (try simp only [Standing, AllPass, Unmapped, canTrap, ServesNow, Received, SheafRecordGood]); decide +kernel⟩

theorem witness_Commands_4 : ∃ (h : CmdHeader), ∃ (id : Word), ∃ (s : State),
    let key := 2 ^ 32 * h.endpoint + id.toNat; (Received s h 8) ∧ (h.endpoint ≠ 0) ∧ ((tfind s.launches key).isSome) ∧ ((launchAt s key).ready = none) ∧ ((launchAt s key).aborted = false) :=
  ⟨header 1 8, 1, stage, by (try simp only [Standing, AllPass, Unmapped, canTrap, ServesNow, Received, SheafRecordGood]); decide +kernel⟩

theorem witness_Commands_5 : ∃ (h : CmdHeader), ∃ (ctx : Word), ∃ (va : DWord), ∃ (s : State),
    (Received s h 16) ∧ (h.endpoint ≠ 0) ∧ (ctx.toNat < 64) ∧ (va.toNat % 65536 = 0) ∧ (va.toNat < 2 ^ 52) ∧ (ctx.toNat < (partAt s h.endpoint).ctxCount) :=
  ⟨header 1 16, 0, 0x30000, contexts, by (try simp only [Standing, AllPass, Unmapped, canTrap, ServesNow, Received, SheafRecordGood]); decide +kernel⟩

theorem witness_Commands_6 : ∃ part, ∃ (seq : DWord), ∃ (s : State), ∃ w,
    ((partAt s part).waiting = [w]) ∧ (w.opcode = 4) ∧ (w.h.seq = seq) ∧ (w.ready = none) ∧ (shootReady s w = true) ∧ (hostReach s = true) :=
  ⟨1, 5, modPart stage 1 fun p => { p with waiting := [{ suspending1 with opcode := 4, target := 0 }] }, { suspending1 with opcode := 4, target := 0 }, by (try simp only [Standing, AllPass, Unmapped, canTrap, ServesNow, Received, SheafRecordGood]); decide +kernel⟩

theorem witness_Commands_7 : ∃ (h : CmdHeader), ∃ (x : EventSlotArgs), ∃ (s : State),
    (Received s h 32) ∧ (x.slot.toNat < 16) ∧ (x.job.toNat < 2 ^ 24) ∧ (x.pid.toNat < 2 ^ 12) ∧ (x.index.toNat < 2 ^ 12) :=
  ⟨header 0 32, { slot := 15, mask := 0, addr := 1, job := 0xFFFFFF, pid := 0xFFF, index := 0xFFF }, State.reset, by (try simp only [Standing, AllPass, Unmapped, canTrap, ServesNow, Received, SheafRecordGood]); decide +kernel⟩

theorem witness_Commands_8 : ∃ (h : CmdHeader), ∃ (request : List Byte), ∃ (s : State),
    (Received s h request.length) ∧ (request ≠ []) :=
  ⟨header 0 1, [0x13], State.reset, by (try simp only [Standing, AllPass, Unmapped, canTrap, ServesNow, Received, SheafRecordGood]); decide +kernel⟩

theorem witness_Commands_9 : ∃ (h : CmdHeader), ∃ (x : FwChunk), ∃ (s : State),
    (Received s h (16 + x.data.length)) ∧ (h.endpoint = 0) ∧ (x.rsv = 0) ∧ (x.flags = 0) ∧ (x.length.toNat = x.data.length) ∧ ((s.module.fwOpen = none ∧ x.offset = 0 ∨ s.module.fwOpen = some (h.src, x.offset.toNat))) :=
  ⟨header 0 17, { offset := 0, length := 1, flags := 0, rsv := 0, data := [1] }, State.reset, by (try simp only [Standing, AllPass, Unmapped, canTrap, ServesNow, Received, SheafRecordGood]); decide +kernel⟩

theorem witness_Commands_10 : ∃ (h : CmdHeader), ∃ (x : FwChunk), ∃ (s : State),
    (Received s h (16 + x.data.length)) ∧ (h.endpoint = 0) ∧ (x.rsv = 0) ∧ (x.flags.toNat < 2) ∧ (x.length.toNat = x.data.length) ∧ ((s.module.fwOpen = none ∧ x.offset = 0 ∨ s.module.fwOpen = some (h.src, x.offset.toNat))) :=
  ⟨header 0 17, { offset := 0, length := 1, flags := 1, rsv := 0, data := [1] }, State.reset, by (try simp only [Standing, AllPass, Unmapped, canTrap, ServesNow, Received, SheafRecordGood]); decide +kernel⟩

theorem witness_Resets_0 : ∃ (h : CmdHeader), ∃ (flags : Byte), ∃ (index : Word), ∃ (s : State),
    (Received s h 8) ∧ (flags.toNat < 2) ∧ let p := resetTarget h index.toNat; ((h.endpoint ≠ 0 → p = h.endpoint)) ∧ ((tfind s.parts p).isSome) :=
  ⟨header 0 8, 1, 1, stage, by (try simp only [Standing, AllPass, Unmapped, canTrap, ServesNow, Received, SheafRecordGood]); decide +kernel⟩

theorem witness_Resets_1 : ∃ (h : CmdHeader), ∃ (index : Word), ∃ (s : State),
    (Received s h 8) ∧ (index.toNat < 2048) ∧ ((h.endpoint ≠ 0 → (tractAt s (index.toNat / 128)).owner = h.endpoint)) :=
  ⟨header 0 8, 2047, State.reset, by (try simp only [Standing, AllPass, Unmapped, canTrap, ServesNow, Received, SheafRecordGood]); decide +kernel⟩

theorem witness_Resets_2 : ∃ (h : CmdHeader), ∃ (index : Word), ∃ (s : State),
    (Received s h 8) ∧ (index.toNat < 512) ∧ ((h.endpoint ≠ 0 → (tractAt s (index.toNat / 32)).owner = h.endpoint)) :=
  ⟨header 0 8, 511, State.reset, by (try simp only [Standing, AllPass, Unmapped, canTrap, ServesNow, Received, SheafRecordGood]); decide +kernel⟩

theorem witness_Resets_3 : ∃ (h : CmdHeader), ∃ (index : Word), ∃ (s : State),
    (Received s h 8) ∧ (h.endpoint = 0) ∧ (index.toNat < 14) :=
  ⟨header 0 8, 13, State.reset, by (try simp only [Standing, AllPass, Unmapped, canTrap, ServesNow, Received, SheafRecordGood]); decide +kernel⟩

theorem witness_Queries_0 : ∃ (h : CmdHeader), ∃ (s : State),
    (Received s h 8) :=
  ⟨header 0 8, State.reset, by (try simp only [Standing, AllPass, Unmapped, canTrap, ServesNow, Received, SheafRecordGood]); decide +kernel⟩

theorem witness_Queries_1 : ∃ (h : CmdHeader), ∃ (index : Word), ∃ (s : State),
    (Received s h 8) ∧ ((h.endpoint ≠ 0 → index.toNat = h.endpoint)) ∧ ((tfind s.parts index.toNat).isSome) :=
  ⟨header 1 8, 1, stage, by (try simp only [Standing, AllPass, Unmapped, canTrap, ServesNow, Received, SheafRecordGood]); decide +kernel⟩

theorem witness_Queries_2 : ∃ (h : CmdHeader), ∃ (index : Word), ∃ (s : State),
    (Received s h 8) ∧ (index.toNat < 16) ∧ ((h.endpoint ≠ 0 → index.toNat ∈ (partAt s h.endpoint).tracts)) :=
  ⟨header 0 8, 15, State.reset, by (try simp only [Standing, AllPass, Unmapped, canTrap, ServesNow, Received, SheafRecordGood]); decide +kernel⟩

theorem witness_Queries_3 : ∃ (h : CmdHeader), ∃ (index : Word), ∃ (s : State),
    (Received s h 8) ∧ (index.toNat < 14) :=
  ⟨header 0 8, 13, State.reset, by (try simp only [Standing, AllPass, Unmapped, canTrap, ServesNow, Received, SheafRecordGood]); decide +kernel⟩

theorem witness_Queries_4 : ∃ (h : CmdHeader), ∃ (index : Word), ∃ (s : State), ∃ io,
    (Received s h 8) ∧ ((index.toNat, io) ∈ portList s) :=
  ⟨header 0 8, 7, State.reset, 1, by (try simp only [Standing, AllPass, Unmapped, canTrap, ServesNow, Received, SheafRecordGood]); decide +kernel⟩

theorem witness_Queries_5 : ∃ (h : CmdHeader), ∃ (index : Word), ∃ (s : State),
    (Received s h 8) ∧ (h.endpoint ≠ 0) ∧ ((tfind s.launches (2 ^ 32 * h.endpoint + index.toNat)).isSome) :=
  ⟨header 1 8, 1, stage, by (try simp only [Standing, AllPass, Unmapped, canTrap, ServesNow, Received, SheafRecordGood]); decide +kernel⟩

theorem witness_Queries_6 : ∃ (h : CmdHeader), ∃ (index : Word), ∃ (s : State), ∃ e,
    (Received s h 8) ∧ (s.module.ras[index.toNat]? = some e) ∧ ((h.endpoint ≠ 0 → e.tract ∈ (partAt s h.endpoint).tracts)) :=
  ⟨header 0 8, 0, { State.reset with module := { State.reset.module with ras := [{ dt := 0, cls := .link, injected := false, die := 255, tract := 255, quad := 65535, core := 65535, agent := none, detail := (0, 0) }] } }, { dt := 0, cls := .link, injected := false, die := 255, tract := 255, quad := 65535, core := 65535, agent := none, detail := (0, 0) }, by (try simp only [Standing, AllPass, Unmapped, canTrap, ServesNow, Received, SheafRecordGood]); decide +kernel⟩

theorem witness_QualityOfService_0 : ∃ (h : CmdHeader), ∃ (x : AssignArgs), ∃ (s : State),
    (Received s h 161) ∧ (h.endpoint = 0) ∧ (assignBad x = false) ∧ ((partAt s x.part.toNat).tracts = []) ∧ (((tfind s.parts x.part.toNat).isSome → idlePart s x.part.toNat = true)) ∧ ((∀ u ∈ tractsOf x.tracts.toNat, (tractAt s u).owner = 0 ∨ (tractAt s u).owner = x.part.toNat)) :=
  ⟨header 0 161, { part := 1, ways := 4, flags := 0, tracts := 0x8001, addr := 1, codeKey := 0, key := 1 }, State.reset, by (try simp only [Standing, AllPass, Unmapped, canTrap, ServesNow, Received, SheafRecordGood]); decide +kernel⟩

theorem witness_QualityOfService_1 : ∃ (h : CmdHeader), ∃ (part : Byte), ∃ (weight : Byte), ∃ (s : State),
    (Received s h 10) ∧ (h.endpoint = 0) ∧ (partBad part = false) ∧ (weight ≠ 0) ∧ ((tfind s.parts part.toNat).isSome) :=
  ⟨header 0 10, 1, 255, stage, by (try simp only [Standing, AllPass, Unmapped, canTrap, ServesNow, Received, SheafRecordGood]); decide +kernel⟩

theorem witness_QualityOfService_2 : ∃ (h : CmdHeader), ∃ (part : Byte), ∃ (weight : Byte), ∃ (s : State),
    (Received s h 10) ∧ (h.endpoint = 0) ∧ (partBad part = false) ∧ (weight ≠ 0) ∧ (weight.toNat ≤ 15) ∧ ((tfind s.parts part.toNat).isSome) :=
  ⟨header 0 10, 1, 15, stage, by (try simp only [Standing, AllPass, Unmapped, canTrap, ServesNow, Received, SheafRecordGood]); decide +kernel⟩

theorem witness_QualityOfService_3 : ∃ (h : CmdHeader), ∃ (ctx : Byte), ∃ (mask : Half), ∃ (allow : Byte), ∃ (s : State),
    (Received s h 12) ∧ (h.endpoint ≠ 0) ∧ (ctx.toNat < 64) ∧ (mask.toNat &&& cacheMask (partAt s h.endpoint).ways = mask.toNat) ∧ (allow.toNat ≤ (partAt s h.endpoint).ways) :=
  ⟨header 1 12, 63, 0, 0, stage, by (try simp only [Standing, AllPass, Unmapped, canTrap, ServesNow, Received, SheafRecordGood]); decide +kernel⟩

theorem witness_QualityOfService_4 : ∃ (h : CmdHeader), ∃ (base : DWord), ∃ (count : Byte), ∃ (s : State),
    (Received s h 17) ∧ (h.endpoint ≠ 0) ∧ (base.toNat % 32 = 0) ∧ (count ≠ 0) ∧ (count.toNat ≤ 64) ∧ (ownPa s h.endpoint base.toNat = true) ∧ (ownPa s h.endpoint (base.toNat + 32 * count.toNat - 1) = true) :=
  ⟨header 1 17, 0x40000000, 64, stage, by (try simp only [Standing, AllPass, Unmapped, canTrap, ServesNow, Received, SheafRecordGood]); decide +kernel⟩

theorem witness_QualityOfService_5 : ∃ (h : CmdHeader), ∃ (ctx : Byte), ∃ (va : DWord), ∃ (s : State), ∃ root, ∃ lease,
    (Received s h 17) ∧ (h.endpoint ≠ 0) ∧ (ctx.toNat < 64) ∧ (va.toNat % 8 = 0) ∧ (contextOf s h.endpoint ctx.toNat = some (root, lease)) ∧ (contextHeld s h.endpoint ctx.toNat = false) ∧ let found := (checkCode s h.endpoint ctx.toNat root va.toNat).2; (found ≠ .held) :=
  ⟨header 1 17, 0, 0x30000, contexts, 0x10000, 512, by (try simp only [Standing, AllPass, Unmapped, canTrap, ServesNow, Received, SheafRecordGood]); decide +kernel⟩

theorem witness_QualityOfService_6 : ∃ (h : CmdHeader), ∃ (part : Byte), ∃ (s : State),
    (Received s h 9) ∧ (h.endpoint = 0) ∧ (partBad part = false) ∧ ((tfind s.parts part.toNat).isSome) ∧ (idlePart s part.toNat = true) :=
  ⟨header 0 9, 1, { stage with launches := [], gangs := [], blocks := [], strands := [], sheaves := [] }, by (try simp only [Standing, AllPass, Unmapped, canTrap, ServesNow, Received, SheafRecordGood]); decide +kernel⟩

theorem witness_QualityOfService_7 : ∃ (h : CmdHeader), ∃ (key : BitVec 256), ∃ (s : State),
    (Received s h 40) ∧ (h.endpoint = 0) ∧ (key ≠ 0) :=
  ⟨header 0 40, 1, State.reset, by (try simp only [Standing, AllPass, Unmapped, canTrap, ServesNow, Received, SheafRecordGood]); decide +kernel⟩

theorem witness_QualityOfService_8 : ∃ (h : CmdHeader), ∃ (part : Byte), ∃ (key : BitVec 256), ∃ (s : State),
    (Received s h 41) ∧ (h.endpoint = 0) ∧ (partBad part = false) ∧ (key ≠ 0) ∧ ((tfind s.parts part.toNat).isSome) :=
  ⟨header 0 41, 1, 1, stage, by (try simp only [Standing, AllPass, Unmapped, canTrap, ServesNow, Received, SheafRecordGood]); decide +kernel⟩

theorem witness_SpecialWriteEvents_0 : ∃ core, ∃ slot, ∃ (s : State),
    ((tfind s.blocks (4 * core + slot)).isSome) :=
  ⟨0, 0, stage, by (try simp only [Standing, AllPass, Unmapped, canTrap, ServesNow, Received, SheafRecordGood]); decide +kernel⟩

theorem witness_SpecialWriteEvents_1 : ∃ core, ∃ slot, ∃ (s : State),
    ((tfind s.blocks (4 * core + slot)).isSome) :=
  ⟨0, 0, stage, by (try simp only [Standing, AllPass, Unmapped, canTrap, ServesNow, Received, SheafRecordGood]); decide +kernel⟩

theorem witness_SpecialWriteEvents_2 : ∃ core, ∃ slot, ∃ (unit : BitVec 4), ∃ (s : State),
    ((tfind s.blocks (4 * core + slot)).isSome) ∧ (unit.toNat ≤ 6) :=
  ⟨0, 0, 6, stage, by (try simp only [Standing, AllPass, Unmapped, canTrap, ServesNow, Received, SheafRecordGood]); decide +kernel⟩

theorem witness_SpecialWriteEvents_3 : ∃ core, ∃ slot, ∃ (unit : BitVec 4), ∃ (s : State),
    ((tfind s.blocks (4 * core + slot)).isSome) ∧ (unit.toNat ≤ 6) :=
  ⟨0, 0, 6, stage, by (try simp only [Standing, AllPass, Unmapped, canTrap, ServesNow, Received, SheafRecordGood]); decide +kernel⟩

theorem witness_SpecialWriteEvents_4 : ∃ core, ∃ slot, ∃ (s : State),
    ((tfind s.blocks (4 * core + slot)).isSome) :=
  ⟨0, 0, stage, by (try simp only [Standing, AllPass, Unmapped, canTrap, ServesNow, Received, SheafRecordGood]); decide +kernel⟩

theorem witness_SpecialWriteEvents_5 : ∃ k, ∃ (s : State),
    ((tfind s.strands k).isSome) ∧ ((tfind s.blocks (blockOf s k)).isSome) :=
  ⟨0, stage, by (try simp only [Standing, AllPass, Unmapped, canTrap, ServesNow, Received, SheafRecordGood]); decide +kernel⟩

end Sys2Proof.Tests
end

section
/-! SUPPORT. Reset (R33, R94): what the manual says it leaves, and the invariant of every step. -/

namespace Sys2Proof.Proofs
open Sys2Proof Sys2Proof.Machine Sys2Proof.Laws

/-- Settles O7: memory lists nothing after reset, and no bundle stands at the issue stage. -/
theorem resetInv : Obligations.ResetInv := by
  refine ⟨rfl, fun b hb => ?_⟩
  cases hb

/-- Settles O8: every table is empty after reset, so each lookup finds its reset value. -/
theorem resetValues : Obligations.ResetValues :=
  ⟨rfl, rfl, rfl, rfl, rfl, fun _ => rfl, fun _ => rfl, fun _ => show (63 + 1) % 64 = 0 from rfl, fun _ => rfl, fun _ => rfl, fun _ => rfl⟩

end Sys2Proof.Proofs
end

section
/-! SUPPORT. What telling the host leaves alone (R25, R81, R86, R99, R125): messages, events, responses and RAS entries change the
ports' counts, the streams, the log and what was sent, and nothing else. -/

namespace Sys2Proof.Proofs
open Sys2Proof Sys2Proof.Machine Sys2Proof.Laws

/-! ## Folds and tables -/

/-- A fold of steps, each of which a transitive relation holds of, is in the relation. -/
theorem foldl_related {σ α : Type} {R : σ → σ → Prop} (hrefl : ∀ s, R s s) (htrans : ∀ {s t u}, R s t → R t u → R s u)
    {f : σ → α → σ} (hf : ∀ s a, R s (f s a)) : ∀ (l : List α) (s : σ), R s (l.foldl f s)
  | [], s => hrefl s
  | a :: l, s => htrans (hf s a) (foldl_related hrefl htrans hf l (f s a))

theorem tget_tset {α : Type} (t : List (Nat × α)) (k j : Nat) (v d : α) : tget (tset t k v) j d = if j = k then v else tget t j d := by
  split
  · next h => rw [h, tget_tset_same]
  · next h => exact tget_tset_ne t h v d

theorem tget_tmod {α : Type} (t : List (Nat × α)) (k j : Nat) (f : α → α) (d : α) :
    tget (tmod t k f) j d = if j = k ∧ (tfind t k).isSome then f (tget t k d) else tget t j d := by
  by_cases h : j = k
  · subst h
    cases e : tfind t j with
    | none => simp [tget, e]
    | some v => simp [tget, e]
  · rw [tget_tmod_ne t h, if_neg (fun c => h c.1)]

theorem tmod_nil {α : Type} (k : Nat) (f : α → α) : tmod ([] : List (Nat × α)) k f = [] := rfl

theorem dieAt_modDie (s : State) (d : Nat) (f : Die → Die) (x : Nat) :
    dieAt (modDie s d f) x = if x = d then f (dieAt s d) else dieAt s x := tget_tset _ _ _ _ _

theorem quadAt_modQuad (s : State) (q : Nat) (f : Quad → Quad) (x : Nat) :
    quadAt (modQuad s q f) x = if x = q then f (quadAt s q) else quadAt s x := tget_tset _ _ _ _ _

theorem tractAt_modTract (s : State) (u : Nat) (f : Tract → Tract) (x : Nat) :
    tractAt (modTract s u f) x = if x = u then f (tractAt s u) else tractAt s x := tget_tset _ _ _ _ _

theorem coreAt_modCore (s : State) (c : Nat) (f : Core → Core) (x : Nat) :
    coreAt (modCore s c f) x = if x = c then f (coreAt s c) else coreAt s x := tget_tset _ _ _ _ _

theorem partAt_modPart (s : State) (p : Nat) (f : Partition → Partition) (x : Nat) :
    partAt (modPart s p f) x = if x = p ∧ (tfind s.parts p).isSome then f (partAt s p) else partAt s x := tget_tmod _ _ _ _ _

theorem gangAt_modGang (s : State) (g : Nat) (f : Gang → Gang) (x : Nat) :
    gangAt (modGang s g f) x = if x = g ∧ (tfind s.gangs g).isSome then f (gangAt s g) else gangAt s x := tget_tmod _ _ _ _ _

/-! ## The ports -/

/-- A port of the module (R23). -/
def portAt (s : State) (n : Nat) : Port := tget s.module.ports n Port.reset

theorem portAt_modPort (s : State) (n : Nat) (f : Port → Port) (x : Nat) :
    portAt (modPort s n f) x = if x = n then f (portAt s n) else portAt s x := tget_tset _ _ _ _ _

/-- A frame count never falls (R99). -/
theorem le_moreFrames (x : DWord) (least more : Nat) : x.toNat ≤ (moreFrames x least more).toNat := by
  have hx := x.isLt
  simp only [moreFrames, BitVec.toNat_ofNat]
  omega

/-! ## What the host is told -/

/-- A state differs from another by what telling the host and logging change: the ports' counts, the streams of the partitions,
what was sent, the RAS log. -/
structure Reported (s t : State) : Prop where
  frame : t = { s with
    ctl := { s.ctl with free := t.ctl.free }
    parts := t.parts
    sent := t.sent
    module := { s.module with ports := t.module.ports, mgmtSeq := t.module.mgmtSeq, ras := t.module.ras } }
  port_state : ∀ n, (portAt t n).state = (portAt s n).state
  port_sent : ∀ n, (portAt s n).sent.toNat ≤ (portAt t n).sent.toNat
  part : ∀ p, partAt t p = { partAt s p with
    waiting := (partAt t p).waiting, eventSeq := (partAt t p).eventSeq, lastSeq := (partAt t p).lastSeq }
  part_isSome : ∀ p, (tfind t.parts p).isSome = (tfind s.parts p).isSome
  parts_nil : s.parts = [] → t.parts = []
  sent : s.sent <+: t.sent
  ras : s.module.ras <+: t.module.ras

namespace Reported

theorem refl (s : State) : Reported s s where
  frame := rfl
  port_state _ := rfl
  port_sent _ := le_refl _
  part _ := rfl
  part_isSome _ := rfl
  parts_nil h := h
  sent := List.prefix_rfl
  ras := List.prefix_rfl

theorem trans {s t u : State} (h : Reported s t) (k : Reported t u) : Reported s u where
  frame := by rw [k.frame, h.frame]
  port_state n := (k.port_state n).trans (h.port_state n)
  port_sent n := le_trans (h.port_sent n) (k.port_sent n)
  part p := by rw [k.part, h.part]
  part_isSome p := (k.part_isSome p).trans (h.part_isSome p)
  parts_nil e := k.parts_nil (h.parts_nil e)
  sent := h.sent.trans k.sent
  ras := h.ras.trans k.ras

variable {s t : State}

theorem ctl (h : Reported s t) : t.ctl = { s.ctl with free := t.ctl.free } := congrArg State.ctl h.frame
theorem now (h : Reported s t) : t.now = s.now := by rw [h.frame]
theorem mem (h : Reported s t) : t.mem = s.mem := by rw [h.frame]
theorem strands (h : Reported s t) : t.strands = s.strands := by rw [h.frame]
theorem sheaves (h : Reported s t) : t.sheaves = s.sheaves := by rw [h.frame]
theorem blocks (h : Reported s t) : t.blocks = s.blocks := by rw [h.frame]
theorem cores (h : Reported s t) : t.cores = s.cores := by rw [h.frame]
theorem gangs (h : Reported s t) : t.gangs = s.gangs := by rw [h.frame]
theorem launches (h : Reported s t) : t.launches = s.launches := by rw [h.frame]
theorem tracts (h : Reported s t) : t.tracts = s.tracts := by rw [h.frame]
theorem quads (h : Reported s t) : t.quads = s.quads := by rw [h.frame]
theorem dies (h : Reported s t) : t.dies = s.dies := by rw [h.frame]
theorem homes (h : Reported s t) : t.homes = s.homes := by rw [h.frame]
theorem net (h : Reported s t) : t.net = s.net := by rw [h.frame]
theorem module (h : Reported s t) :
    t.module = { s.module with ports := t.module.ports, mgmtSeq := t.module.mgmtSeq, ras := t.module.ras } := congrArg State.module h.frame
theorem links (h : Reported s t) : t.module.links = s.module.links := by rw [h.module]

theorem linkState (h : Reported s t) (n : Nat) : linkState t n = linkState s n := by simp only [Machine.linkState, h.links]
theorem dieAt (h : Reported s t) (d : Nat) : dieAt t d = dieAt s d := by simp only [Machine.dieAt, h.dies]
theorem quadAt (h : Reported s t) (q : Nat) : quadAt t q = quadAt s q := by simp only [Machine.quadAt, h.quads]
theorem tractAt (h : Reported s t) (u : Nat) : tractAt t u = tractAt s u := by simp only [Machine.tractAt, h.tracts]
theorem coreAt (h : Reported s t) (c : Nat) : coreAt t c = coreAt s c := by simp only [Machine.coreAt, h.cores]
theorem gangAt (h : Reported s t) (g : Nat) : gangAt t g = gangAt s g := by simp only [Machine.gangAt, h.gangs]
theorem blockAt (h : Reported s t) (b : Nat) : blockAt t b = blockAt s b := by simp only [Machine.blockAt, h.blocks]
theorem homeAt (h : Reported s t) (l : Nat) : homeAt t l = homeAt s l := by simp only [Machine.homeAt, h.homes]

end Reported

theorem Reported.ite {s t u : State} {c : Prop} [Decidable c] (h : Reported s t) (k : Reported s u) : Reported s (if c then t else u) := by
  split
  · exact h
  · exact k

/-! ## Each way of telling -/

theorem reported_nextChoices (s : State) : Reported s (nextChoices s) := { Reported.refl s with frame := rfl }

/-- A port whose state stays and whose count of sent frames does not fall. -/
theorem reported_modPort (s : State) (n : Nat) (f : Port → Port) (hf : ∀ x, (f x).state = x.state ∧ x.sent.toNat ≤ (f x).sent.toNat) :
    Reported s (modPort s n f) :=
  { Reported.refl s with
    frame := rfl
    port_state := fun x => by
      rw [portAt_modPort]
      split
      · next h => rw [(hf _).1, h]
      · rfl
    port_sent := fun x => by
      rw [portAt_modPort]
      split
      · next h => rw [h]; exact (hf _).2
      · exact le_refl _ }

theorem reported_countFrames (s : State) (p : Option Nat) (out : Bool) : Reported s (countFrames s p out) := by
  cases p with
  | none => exact .refl s
  | some n =>
    unfold countFrames
    dsimp only
    refine .trans (reported_modPort s n _ fun x => ?_) (reported_nextChoices _)
    cases out
    · simp
    · simp [le_moreFrames]

theorem reported_hears (s : State) : Reported s (hears s) := reported_countFrames _ _ _

theorem reported_emit (s : State) (m : Sent) : Reported s (emit s m) :=
  (reported_countFrames s (hostPort s) true).trans
    { Reported.refl _ with frame := rfl, sent := List.prefix_append _ _ }

theorem emit_sent (s : State) (m : Sent) : (emit s m).sent = s.sent ++ [m] := by
  have h : (countFrames s (hostPort s) true).sent = s.sent := by cases hostPort s <;> rfl
  simp only [emit, h]

theorem emit_ras (s : State) (m : Sent) : (emit s m).module.ras = s.module.ras := by
  unfold emit
  cases hostPort s <;> rfl

/-- A partition whose stream alone changes. -/
theorem reported_modPart (s : State) (p : Nat) (f : Partition → Partition)
    (hf : ∀ x, f x = { x with waiting := (f x).waiting, eventSeq := (f x).eventSeq, lastSeq := (f x).lastSeq }) :
    Reported s (modPart s p f) :=
  { Reported.refl s with
    frame := rfl
    part := fun x => by
      rw [partAt_modPart]
      split
      · next h => rw [h.1]; exact hf _
      · rfl
    part_isSome := fun x => isSome_tmod _ _ _ _
    parts_nil := fun e => by rw [modPart_parts, e, tmod_nil] }

/-- The slots of an endpoint that an event reaches, and the number it bears there. -/
theorem sendEvent_eq (s : State) (e code severity part : Nat) (loc : Loc) (detail : DWord) :
    ∃ (hit : List (Nat × EventSlot)) (m : Nat × EventSlot → Sent),
      sendEvent s e code severity part loc detail = s ∨
      sendEvent s e code severity part loc detail = modModule (hit.foldl (fun u p => emit u (m p)) s) (fun x => { x with mgmtSeq := (x.mgmtSeq + 1) % 2 ^ 32 }) ∨
      sendEvent s e code severity part loc detail = modPart (hit.foldl (fun u p => emit u (m p)) s) e fun x => { x with eventSeq := (x.eventSeq + 1) % 2 ^ 32 } := by
  unfold sendEvent
  dsimp only
  generalize hh : (List.filter (fun p : Nat × EventSlot => p.2.mask.getLsbD (code - 1))
    (if e = 0 then s.module.mgmtSlots else (partAt s e).slots)) = hit
  refine ⟨hit, fun p => .event e p.1 code severity part (if e = 0 then s.module.mgmtSeq else (partAt s e).eventSeq) s.now loc.die
    loc.tract loc.quad loc.core detail, ?_⟩
  by_cases hn : (hit.isEmpty || !hostReach s) = true
  · exact .inl (if_pos hn)
  · rw [if_neg hn]
    by_cases he : e = 0
    · exact .inr (.inl (if_pos he))
    · exact .inr (.inr (if_neg he))

theorem reported_emits {α : Type} (m : α → Sent) (l : List α) (s : State) : Reported s (l.foldl (fun u p => emit u (m p)) s) :=
  foldl_related Reported.refl Reported.trans (fun u p => reported_emit u (m p)) l s

theorem reported_sendEvent (s : State) (e code severity part : Nat) (loc : Loc) (detail : DWord) :
    Reported s (sendEvent s e code severity part loc detail) := by
  obtain ⟨hit, m, h | h | h⟩ := sendEvent_eq s e code severity part loc detail
  · rw [h]; exact .refl s
  · rw [h]; exact (reported_emits m hit s).trans { Reported.refl _ with frame := rfl }
  · rw [h]; exact (reported_emits m hit s).trans (reported_modPart _ _ _ fun _ => rfl)

theorem reported_raise (s : State) (code severity part : Nat) (loc : Loc) (detail : DWord) :
    Reported s (raise s code severity part loc detail) := by
  unfold raise
  dsimp only
  have h := reported_sendEvent s 0 code severity part loc detail
  generalize (if part ≠ 0 then part else if loc.tract < Config.tracts then (tractAt _ loc.tract).owner else 0) = owner
  by_cases ho : owner = 0
  · rw [if_pos ho]; exact h
  · rw [if_neg ho]; exact h.trans (reported_sendEvent _ _ _ _ _ _ _)

theorem emits_ras {α : Type} (m : α → Sent) (l : List α) (s : State) :
    (l.foldl (fun u p => emit u (m p)) s).module.ras = s.module.ras :=
  foldl_related (R := fun s t => t.module.ras = s.module.ras) (fun _ => rfl) (by intro _ _ _ h k; exact k.trans h) (fun u p => emit_ras u (m p)) l s

theorem sendEvent_ras (s : State) (e code severity part : Nat) (loc : Loc) (detail : DWord) :
    (sendEvent s e code severity part loc detail).module.ras = s.module.ras := by
  obtain ⟨hit, m, h | h | h⟩ := sendEvent_eq s e code severity part loc detail
  · rw [h]
  · rw [h]; exact emits_ras m hit s
  · rw [h]; exact emits_ras m hit s

theorem raise_ras (s : State) (code severity part : Nat) (loc : Loc) (detail : DWord) :
    (raise s code severity part loc detail).module.ras = s.module.ras := by
  unfold raise
  dsimp only
  generalize (if part ≠ 0 then part else if loc.tract < Config.tracts then (tractAt _ loc.tract).owner else 0) = owner
  by_cases ho : owner = 0
  · rw [if_pos ho, sendEvent_ras]
  · rw [if_neg ho, sendEvent_ras, sendEvent_ras]

/-! ## Streams -/

theorem reported_sendReady (p : Nat) : ∀ (n : Nat) (s : State), Reported s (sendReady n p s)
  | 0, s => .refl s
  | n + 1, s => by
    unfold sendReady
    split
    · split
      · exact ((reported_emit s _).trans (reported_modPart _ _ _ fun _ => rfl)).trans (reported_sendReady p n _)
      · exact .refl s
    · exact .refl s

theorem reported_sendStream (s : State) (p : Nat) : Reported s (sendStream s p) := by
  unfold sendStream
  split
  · exact reported_sendReady p _ s
  · exact .refl s

theorem reported_sendStreams (s : State) : Reported s (sendStreams s) :=
  foldl_related Reported.refl Reported.trans reported_sendStream _ s

theorem reported_settleWaiting (s : State) (p : Nat) (w : Waiting) (r : Nat) : Reported s (settleWaiting s p w r) :=
  reported_modPart _ _ _ fun _ => rfl

theorem reported_endWaiting (s : State) (p : Nat) : Reported s (endWaiting s p) := by
  refine (foldl_related Reported.refl Reported.trans (fun u w => ?_) _ s).trans (reported_sendStream _ p)
  split
  · exact reported_settleWaiting _ _ _ _
  · exact .refl u

theorem reported_reply (s : State) (h : CmdHeader) (op : Nat) (c : CmdStatus) : Reported s (reply s h op c) := by
  unfold reply answer
  dsimp only
  split
  · exact reported_emit _ _
  · exact (reported_modPart _ _ _ fun _ => rfl).trans (reported_sendStream _ _)

theorem reported_noteSeq (s : State) (h : CmdHeader) : Reported s (noteSeq s h) := by
  unfold noteSeq
  split
  · exact .refl s
  · exact reported_modPart _ _ _ fun _ => rfl

/-- The host is reached as before (R25). -/
theorem Reported.hostReach {s t : State} (h : Reported s t) : hostReach t = hostReach s := by
  have hs : ∀ io, ioSplit t io = ioSplit s io := fun io => by unfold ioSplit; rw [h.module]
  have hl : portList t = portList s := by simp only [portList, hs]
  have hu : portUsable t = portUsable s := funext fun p => by
    simp only [portUsable, ioReach, h.dieAt, h.linkState]
    rw [show tget t.module.ports p.1 Port.reset = portAt t p.1 from rfl, h.port_state]
    rfl
  simp only [Machine.hostReach, hl, hu]

/-! ## The RAS log -/

/-- The classes whose entries count for a quad's retirement (R141). -/
def countsForQuad (c : RasClass) : Bool := c == .uncorrected || c == .control

theorem countError_of_not_counts {c : RasClass} (hc : countsForQuad c = false) (s : State) (loc : Loc) : countError s c loc = s := by
  unfold countError
  split
  · cases c <;> simp [countsForQuad] at hc ⊢
  · rfl

/-- The entry that a class of error leaves in the log at a location (R125). -/
def rasEntry (s : State) (c : RasClass) (injected : Bool) (loc : Loc) (d0 d1 : DWord) : RasEntry :=
  { dt := s.now, cls := c, injected := injected, die := loc.die, tract := loc.tract, quad := loc.quad, core := loc.core,
    agent := rasAgent c loc, detail := (d0, d1) }

theorem reported_logRas {c : RasClass} (hc : countsForQuad c = false) (s : State) (injected : Bool) (loc : Loc) (d0 d1 : DWord) :
    Reported s (logRas s c injected loc d0 d1) := by
  have hlog : ∀ e, Reported s (modModule s fun m => { m with ras := m.ras ++ [e] }) := fun e =>
    { Reported.refl s with frame := rfl, ras := List.prefix_append _ _ }
  unfold logRas
  dsimp only
  rw [countError_of_not_counts hc]
  split
  · exact (hlog _).trans (reported_raise _ _ _ _ _ _)
  · exact hlog _

theorem logRas_ras (s : State) (c : RasClass) (injected : Bool) (loc : Loc) (d0 d1 : DWord) :
    (logRas s c injected loc d0 d1).module.ras = s.module.ras ++ [rasEntry s c injected loc d0 d1] := by
  have hm : (countError s c loc).module = s.module := by
    unfold countError
    split
    · cases c <;> rfl
    · rfl
  unfold logRas
  dsimp only
  split
  · rw [raise_ras, modModule_module, hm]; rfl
  · rw [modModule_module, hm]; rfl

end Sys2Proof.Proofs
end

section
/-! SUPPORT. What a kill, a fence and a link that goes Down leave alone (R20, R21, R50, R68, R134): the parts of the state that they
change, the gangs that a kill reaches, and the die that a fence takes out of service. -/

namespace Sys2Proof.Proofs
open Sys2Proof Sys2Proof.Machine Sys2Proof.Laws

/-! ## Kills (R134) -/

theorem Reported.withGangs {s t : State} (h : Reported s t) (gs : List (Nat × Gang)) :
    Reported { s with gangs := gs } { t with gangs := gs } where
  frame := by rw [h.frame]
  port_state := h.port_state
  port_sent := h.port_sent
  part := h.part
  part_isSome := h.part_isSome
  parts_nil := h.parts_nil
  sent := h.sent
  ras := h.ras

/-- The kill of a gang tells of itself, and changes the gang's entry. -/
theorem reported_startKill {c : RasClass} (hc : countsForQuad c = false) (s : State) (g : Nat) (injected : Bool) (loc : Loc) :
    Reported { s with gangs := (startKill s g (some c) injected loc).gangs } (startKill s g (some c) injected loc) := by
  unfold startKill
  split
  · have h := reported_logRas hc (modGang s g fun x => { x with state := .killing s.now, cause := some c }) injected loc
      (BitVec.ofNat 64 ((gangAt s g).launch + 2 ^ 32 * (gangAt s g).first)) 0
    have hg := h.gangs
    unfold killNow
    dsimp only
    rw [hg]
    exact h
  · exact .refl s

/-- A gang that can still be killed is, from now on; no other gang changes. -/
theorem gangAt_startKill {c : RasClass} (hc : countsForQuad c = false) (s : State) (g : Nat) (injected : Bool) (loc : Loc) (x : Nat) :
    gangAt (startKill s g (some c) injected loc) x = if x = g ∧ (tfind s.gangs g).isSome ∧ (gangAt s g).state.live = true then
      { gangAt s g with state := .killing s.now, cause := some c } else gangAt s x := by
  unfold startKill killNow
  by_cases hl : (gangAt s g).state.live = true
  · rw [if_pos hl]
    dsimp only
    rw [(reported_logRas hc _ injected loc _ _).gangAt, gangAt_modGang]
    simp only [hl, and_true]
  · rw [if_neg hl, if_neg (fun h => hl h.2.2)]

theorem isSome_gangs_startKill {c : RasClass} (hc : countsForQuad c = false) (s : State) (g : Nat) (injected : Bool) (loc : Loc) (x : Nat) :
    (tfind (startKill s g (some c) injected loc).gangs x).isSome = (tfind s.gangs x).isSome := by
  unfold startKill killNow
  split
  · dsimp only
    rw [(reported_logRas hc _ injected loc _ _).gangs, modGang_gangs, isSome_tmod]
  · rfl

/-- The kills of some gangs, one after another. -/
def killAll (s : State) (gs : List Nat) (c : RasClass) (loc : Loc) : State :=
  gs.foldl (fun u g => startKill u g (some c) false loc) s

theorem reported_killAll {c : RasClass} (hc : countsForQuad c = false) (loc : Loc) : ∀ (gs : List Nat) (s : State),
    Reported { s with gangs := (killAll s gs c loc).gangs } (killAll s gs c loc)
  | [], s => .refl s
  | g :: gs, s => by
    have h1 := reported_startKill hc s g false loc
    have h2 := reported_killAll hc loc gs (startKill s g (some c) false loc)
    exact (h1.withGangs (killAll s (g :: gs) c loc).gangs).trans h2

theorem killAll_cons (s : State) (g : Nat) (gs : List Nat) (c : RasClass) (loc : Loc) :
    killAll s (g :: gs) c loc = killAll (startKill s g (some c) false loc) gs c loc := rfl

/-- A gang that is killed already stays so, from the tick of its kill. -/
theorem killAll_keeps_killing {c : RasClass} (hc : countsForQuad c = false) (loc : Loc) {g tk : Nat} (gs : List Nat) (s : State)
    (h : (gangAt s g).state = .killing tk) : (gangAt (killAll s gs c loc) g).state = .killing tk := by
  induction gs generalizing s with
  | nil => exact h
  | cons k gs ih =>
    rw [killAll_cons]
    refine ih _ ?_
    rw [gangAt_startKill hc]
    split
    · next e =>
      obtain ⟨rfl, -, hl⟩ := e
      simp [h, GangState.live] at hl
    · exact h

/-- Each of the gangs that can still be killed is, from this tick on. -/
theorem killAll_state {c : RasClass} (hc : countsForQuad c = false) (loc : Loc) {g : Nat} (gs : List Nat) (s : State)
    (hm : g ∈ gs) (hl : (gangAt s g).state.live = true) (hp : (tfind s.gangs g).isSome) :
    (gangAt (killAll s gs c loc) g).state = .killing s.now := by
  induction gs generalizing s with
  | nil => cases hm
  | cons k gs ih =>
    have hnow : (startKill s k (some c) false loc).now = s.now := (reported_startKill hc s k false loc).now
    rw [killAll_cons]
    by_cases hk : g = k
    · subst hk
      refine killAll_keeps_killing hc loc gs _ ?_
      rw [gangAt_startKill hc, if_pos ⟨rfl, hp, hl⟩]
    · have hg : gangAt (startKill s k (some c) false loc) g = gangAt s g := by
        rw [gangAt_startKill hc, if_neg (fun e => hk e.1)]
      rw [ih _ ((List.mem_cons.1 hm).resolve_left hk) (by rw [hg]; exact hl) (by rw [isSome_gangs_startKill hc]; exact hp), hnow]

/-! ## Homes (R50) -/

/-- A state differs from another by what the homes and slices of lines hold, and by messages. -/
def HomesMoved (s t : State) : Prop :=
  t = { s with ctl := { s.ctl with nextId := t.ctl.nextId }, quads := t.quads, homes := t.homes, net := t.net, origins := t.origins }

namespace HomesMoved

theorem refl (s : State) : HomesMoved s s := rfl

theorem trans {s t u : State} (h : HomesMoved s t) (k : HomesMoved t u) : HomesMoved s u := by
  unfold HomesMoved at *
  rw [k, h]

end HomesMoved

theorem homesMoved_modQuad (s : State) (q : Nat) (f : Quad → Quad) : HomesMoved s (modQuad s q f) := rfl
theorem homesMoved_modHome (s : State) (line : Nat) (f : Home → Home) : HomesMoved s (modHome s line f) := rfl
theorem homesMoved_dropMsgs (s : State) (gone : Nat → Msg → Bool) : HomesMoved s (dropMsgs s gone) := rfl
theorem homesMoved_postFrom (s : State) (die port : Option Nat) (m : Msg) : HomesMoved s (postFrom s die port m) := rfl

theorem homesMoved_raiseHorizon (s : State) (q line h : Nat) : HomesMoved s (raiseHorizon s q line h) := by
  unfold raiseHorizon
  dsimp only
  split
  · exact .refl s
  · exact homesMoved_modQuad _ _ _

theorem homesMoved_sendC (s : State) (line : Nat) (n : Notify) (c : Nat) : HomesMoved s (sendC s line n c) := by
  unfold sendC
  split
  · exact .refl s
  · exact homesMoved_postFrom _ _ _ _

theorem homesMoved_fixC (s : State) (line tarr hall : Nat) (snp : Bool) (n : Notify) : HomesMoved s (fixC s line tarr hall snp n) :=
  (homesMoved_raiseHorizon _ _ _ _).trans (homesMoved_sendC _ _ _ _)

theorem homesMoved_endFanOut (s : State) (line : Nat) (x : Txn) : HomesMoved s (endFanOut s line x) := by
  unfold endFanOut
  exact (homesMoved_fixC _ _ _ _ _ _).trans (homesMoved_modHome _ _ _)

theorem homesMoved_countMissing (d : Nat) (s : State) (line : Nat) : HomesMoved s (countMissing d s line) := by
  unfold countMissing
  split
  · split
    · dsimp only
      split
      · exact homesMoved_endFanOut _ _ _
      · exact homesMoved_modHome _ _ _
    · exact .refl s
  · exact .refl s

/-! ## Fences (R68) -/

/-- A state differs from another by what a fence changes. -/
structure FenceMoved (s t : State) : Prop where
  frame : t = { s with
    ctl := { s.ctl with free := t.ctl.free, nextId := t.ctl.nextId }
    parts := t.parts
    gangs := t.gangs
    quads := t.quads
    dies := t.dies
    homes := t.homes
    net := t.net
    origins := t.origins
    sent := t.sent
    module := { s.module with ports := t.module.ports, mgmtSeq := t.module.mgmtSeq, ras := t.module.ras } }
  ras : s.module.ras <+: t.module.ras

namespace FenceMoved

theorem refl (s : State) : FenceMoved s s := ⟨rfl, List.prefix_rfl⟩

theorem trans {s t u : State} (h : FenceMoved s t) (k : FenceMoved t u) : FenceMoved s u :=
  ⟨by rw [k.frame, h.frame], h.ras.trans k.ras⟩

theorem ofReported {s t : State} (h : Reported s t) : FenceMoved s t := ⟨by rw [h.frame], h.ras⟩

theorem ofHomes {s t : State} (h : HomesMoved s t) : FenceMoved s t := by
  unfold HomesMoved at h
  refine ⟨by rw [h], ?_⟩
  rw [h]

variable {s t : State}

theorem module (h : FenceMoved s t) :
    t.module = { s.module with ports := t.module.ports, mgmtSeq := t.module.mgmtSeq, ras := t.module.ras } := congrArg State.module h.frame
theorem now (h : FenceMoved s t) : t.now = s.now := by rw [h.frame]
theorem strands (h : FenceMoved s t) : t.strands = s.strands := by rw [h.frame]
theorem sheaves (h : FenceMoved s t) : t.sheaves = s.sheaves := by rw [h.frame]
theorem blocks (h : FenceMoved s t) : t.blocks = s.blocks := by rw [h.frame]
theorem cores (h : FenceMoved s t) : t.cores = s.cores := by rw [h.frame]
theorem launches (h : FenceMoved s t) : t.launches = s.launches := by rw [h.frame]
theorem links (h : FenceMoved s t) : t.module.links = s.module.links := by rw [h.module]
theorem linkState (h : FenceMoved s t) (n : Nat) : linkState t n = linkState s n := by simp only [Machine.linkState, h.links]

end FenceMoved

/-- The gangs with a block on a die. -/
def gangsOn (s : State) (d : Nat) : List Nat := nub ((s.blocks.filter fun p => p.1 / 1024 == d).map fun p => p.2.gang)

theorem mem_gangsOn {s : State} {d : Nat} {p : Nat × Block} (hp : p ∈ s.blocks) (hd : p.1 / 1024 = d) : p.2.gang ∈ gangsOn s d := by
  rw [gangsOn, mem_nub, List.mem_map]
  exact ⟨p, List.mem_filter.2 ⟨hp, by simpa using hd⟩, rfl⟩

/-- The die is out of service, and the host is told (R68). -/
def fenceTold (s : State) (d : Nat) : State :=
  raise (logRas (modDie s d fun x => { x with fenced := true }) .fence false (locDie d) 0 0) 0x0007 2 0 (locDie d) (BitVec.ofNat 64 d)

theorem reported_fenceTold (s : State) (d : Nat) : Reported (modDie s d fun x => { x with fenced := true }) (fenceTold s d) :=
  (reported_logRas rfl _ _ _ _ _).trans (reported_raise _ _ _ _ _ _)

/-- A fence is told, kills the die's gangs, and ends the messages and counts the acknowledgements of the die. -/
theorem fenceDie_eq {s : State} {d : Nat} (hd : d < 10) (hf : (dieAt s d).fenced = false) :
    fenceDie s d = (s.homes.map (·.1)).foldl (countMissing d)
      (dropMsgs (killAll (fenceTold s d) (gangsOn s d) .fence (locDie d)) fun _ m => endsAtFence d m) := by
  have h := reported_fenceTold s d
  have hk := reported_killAll rfl (locDie d) (gangsOn s d) (fenceTold s d) (c := .fence)
  have hh : (killAll (fenceTold s d) (gangsOn s d) .fence (locDie d)).homes = s.homes := hk.homes.trans h.homes
  have hb : (fenceTold s d).blocks = s.blocks := h.blocks
  have hn : (decide (10 ≤ d) || (dieAt s d).fenced) = false := by simp [hf]; omega
  unfold fenceDie
  rw [hn, if_neg (by decide)]
  rfl

theorem fenceDie_of_fenced {s : State} {d : Nat} (h : 10 ≤ d ∨ (dieAt s d).fenced = true) : fenceDie s d = s := by
  unfold fenceDie
  rw [if_pos (by simpa using h)]

theorem homesMoved_countAll (d : Nat) (lines : List Nat) (s : State) : HomesMoved s (lines.foldl (countMissing d) s) :=
  foldl_related HomesMoved.refl HomesMoved.trans (homesMoved_countMissing d) lines s

/-- What follows the kills of a fence. -/
theorem fenceDie_homesMoved {s : State} {d : Nat} (hd : d < 10) (hf : (dieAt s d).fenced = false) :
    HomesMoved (killAll (fenceTold s d) (gangsOn s d) .fence (locDie d)) (fenceDie s d) := by
  rw [fenceDie_eq hd hf]
  exact (homesMoved_dropMsgs _ _).trans (homesMoved_countAll _ _ _)

theorem fenceMoved_killAll {c : RasClass} (hc : countsForQuad c = false) (s : State) (gs : List Nat) (loc : Loc) :
    FenceMoved s (killAll s gs c loc) := by
  have h := reported_killAll hc loc gs s
  exact ⟨by rw [h.frame], h.ras⟩

theorem fenceMoved_fenceTold (s : State) (d : Nat) : FenceMoved s (fenceTold s d) := by
  have h := reported_fenceTold s d
  exact ⟨by rw [h.frame]; rfl, h.ras⟩

theorem fenceMoved_fenceDie (s : State) (d : Nat) : FenceMoved s (fenceDie s d) := by
  by_cases h : 10 ≤ d ∨ (dieAt s d).fenced = true
  · rw [fenceDie_of_fenced h]; exact .refl s
  · have hd : d < 10 := by omega
    have hf : (dieAt s d).fenced = false := by simpa using fun e => h (.inr e)
    exact ((fenceMoved_fenceTold s d).trans (fenceMoved_killAll rfl _ _ _)).trans (.ofHomes (fenceDie_homesMoved hd hf))

/-- A fence takes its die out of service, and no other. -/
theorem dieAt_fenceDie (s : State) (d x : Nat) :
    dieAt (fenceDie s d) x = if x = d ∧ d < 10 then { dieAt s x with fenced := true } else dieAt s x := by
  by_cases h : 10 ≤ d ∨ (dieAt s d).fenced = true
  · rw [fenceDie_of_fenced h]
    split
    · next e =>
      have hx : (dieAt s x).fenced = true := by rw [e.1]; exact h.resolve_left (by omega)
      rw [← hx]
    · rfl
  · have hd : d < 10 := by omega
    have hf : (dieAt s d).fenced = false := by simpa using fun e => h (.inr e)
    have hh := fenceDie_homesMoved hd hf
    have hk := (reported_killAll rfl (locDie d) (gangsOn s d) (fenceTold s d) (c := .fence)).dies
    have hdies : (fenceDie s d).dies = (modDie s d fun x => { x with fenced := true }).dies := by
      unfold HomesMoved at hh
      rw [hh]
      exact hk.trans (reported_fenceTold s d).dies
    have : dieAt (fenceDie s d) x = dieAt (modDie s d fun x => { x with fenced := true }) x := by simp only [dieAt, hdies]
    rw [this, dieAt_modDie]
    simp only [hd, and_true]
    split
    · next e => rw [e]
    · rfl

/-- A fence kills the gangs of its die that can still be killed. -/
theorem fenceDie_kills {s : State} {d : Nat} (hd : d < 10) (hf : (dieAt s d).fenced = false) {p : Nat × Block} (hp : p ∈ s.blocks)
    (hb : p.1 / 1024 = d) (hl : (gangAt s p.2.gang).state.live = true) (hs : (tfind s.gangs p.2.gang).isSome) :
    (gangAt (fenceDie s d) p.2.gang).state = .killing s.now := by
  have h := reported_fenceTold s d
  have hm := fenceDie_homesMoved hd hf
  have hg : gangAt (fenceDie s d) p.2.gang = gangAt (killAll (fenceTold s d) (gangsOn s d) .fence (locDie d)) p.2.gang := by
    unfold HomesMoved at hm
    rw [hm]
    rfl
  have hgt : gangAt (fenceTold s d) p.2.gang = gangAt s p.2.gang := h.gangAt _
  have hst : (fenceTold s d).gangs = s.gangs := h.gangs
  have hnow : (fenceTold s d).now = s.now := h.now
  rw [hg, killAll_state rfl (locDie d) _ _ (mem_gangsOn hp hb) (by rw [hgt]; exact hl) (by rw [hst]; exact hs), hnow]

/-! ## Links (R20, R21) -/

theorem fenceMoved_fenceCut : ∀ (n : Nat) (s : State), FenceMoved s (fenceCut n s)
  | 0, s => .refl s
  | n + 1, s => by
    unfold fenceCut
    split
    · exact (fenceMoved_fenceDie s _).trans (fenceMoved_fenceCut n _)
    · exact .refl s

/-- A link of the module (R18). -/
def linkAt (s : State) (n : Nat) : Link := tget s.module.links n Link.reset

theorem linkAt_modLink (s : State) (n : Nat) (f : Link → Link) (x : Nat) :
    linkAt (modLink s n f) x = if x = n then f (linkAt s n) else linkAt s x := tget_tset _ _ _ _ _

theorem linkState_eq (s : State) (n : Nat) : linkState s n = (linkAt s n).state := rfl

theorem Reported.linkAt {s t : State} (h : Reported s t) (n : Nat) : linkAt t n = linkAt s n := by simp only [Proofs.linkAt, h.links]

theorem FenceMoved.linkAt {s t : State} (h : FenceMoved s t) (n : Nat) : linkAt t n = linkAt s n := by simp only [Proofs.linkAt, h.links]

theorem linkIsDown_iff (s : State) (n : Nat) : linkIsDown s n = true ↔ (linkAt s n).state = .down := by
  simp [linkIsDown, linkState_eq]

theorem reported_logLink (s : State) (n : Nat) : Reported s (logLink s n) := reported_logRas rfl _ _ _ _ _

/-- A link that is taken down is Down, with the lanes it has; one that is already stays as it is. -/
theorem linkAt_takeDown (s : State) (n x : Nat) : linkAt (takeDown s n) x =
    if x = n ∧ linkIsDown s n = false then { linkAt s n with state := .down, detour := false } else linkAt s x := by
  unfold takeDown
  by_cases h : linkIsDown s n = true
  · rw [if_pos h, if_neg (by simp [h])]
  · have h' : linkIsDown s n = false := by simpa using h
    rw [if_neg h]
    dsimp only
    rw [(fenceMoved_fenceCut 8 _).linkAt]
    have hm : ∀ u : State, linkAt (if n < 10 then modModule u fun m => { m with newDetour := true } else u) x = linkAt u x := by
      intro u; split <;> rfl
    rw [hm, linkAt_modLink]
    simp only [h', and_true]

theorem takeDown_down (s : State) (n : Nat) : linkState (takeDown s n) n = .down := by
  rw [linkState_eq, linkAt_takeDown]
  by_cases h : linkIsDown s n = true
  · rw [if_neg (by simp [h])]; exact (linkIsDown_iff s n).1 h
  · rw [if_pos ⟨rfl, by simpa using h⟩]

theorem linkState_takeDown_ne (s : State) {n x : Nat} (h : x ≠ n) : linkState (takeDown s n) x = linkState s x := by
  rw [linkState_eq, linkState_eq, linkAt_takeDown, if_neg (fun e => h e.1)]

/-- A link that goes Down asks for a map with detours, but for an I/O die's (R21). -/
theorem takeDown_newDetour {s : State} {n : Nat} (hn : n < 10) (h : linkIsDown s n = false) : (takeDown s n).module.newDetour = true := by
  unfold takeDown
  rw [h, if_neg (by decide)]
  dsimp only
  rw [(fenceMoved_fenceCut 8 _).module, if_pos hn]
  rfl

theorem takeDown_ras (s : State) (n : Nat) : s.module.ras <+: (takeDown s n).module.ras := by
  unfold takeDown
  split
  · exact List.prefix_rfl
  · dsimp only
    refine List.IsPrefix.trans ?_ (fenceMoved_fenceCut 8 _).ras
    split <;> exact List.prefix_rfl

end Sys2Proof.Proofs
end

section
/-! SUPPORT. The links' steps (R20 to R22). -/

namespace Sys2Proof.Proofs
open Sys2Proof Sys2Proof.Machine Sys2Proof.Laws

/-- The entry that a link leaves in the log (R20). -/
def linkEntry (s : State) (n : Nat) : RasEntry := rasEntry s .link false noLoc (BitVec.ofNat 64 n) 0

theorem logLink_ras (s : State) (n : Nat) : (logLink s n).module.ras = s.module.ras ++ [linkEntry s n] := logRas_ras _ _ _ _ _ _

/-! ## A link that is lost (R20, R21) -/

/-- The host is told that a link is Down. -/
def lossTold (s : State) (n : Nat) : State := raise (logLink s n) 0x0006 2 0 noLoc (BitVec.ofNat 64 n)

theorem linkLost_eq (s : State) (n : Nat) : linkLost s n = takeDown (lossTold s n) n := rfl

theorem reported_lossTold (s : State) (n : Nat) : Reported s (lossTold s n) := (reported_logLink s n).trans (reported_raise _ _ _ _ _ _)

theorem Reported.linkIsDown {s t : State} (h : Reported s t) (n : Nat) : linkIsDown t n = linkIsDown s n := by
  simp only [Machine.linkIsDown, h.linkState]

theorem linkAt_linkLost (s : State) (n x : Nat) : linkAt (linkLost s n) x =
    if x = n ∧ linkIsDown s n = false then { linkAt s n with state := .down, detour := false } else linkAt s x := by
  have h := reported_lossTold s n
  rw [linkLost_eq, linkAt_takeDown, h.linkIsDown, h.linkAt, h.linkAt]

/-- The loss of a link is logged first. -/
theorem linkLost_ras (s : State) (n : Nat) : ∃ rest, (linkLost s n).module.ras = s.module.ras ++ linkEntry s n :: rest := by
  obtain ⟨rest, h⟩ := takeDown_ras (lossTold s n) n
  refine ⟨rest, ?_⟩
  rw [linkLost_eq, ← h, lossTold, raise_ras, logLink_ras]
  simp

/-! ## Lanes as found (R20, R22) -/

theorem linkStateOf_eq (a b : Nat) : linkStateOf (a, b) =
    if max a b = 0 then .up else if max a b ≤ 2 then .spared else if max a b ≤ 32 then .narrow else .down := rfl

/-- A link whose lanes leave it usable changes, and the host is told. -/
theorem reported_settleLink {lanes : Nat × Nat} (h : linkStateOf lanes ≠ .down) (s : State) (n : Nat) :
    Reported (modLink s n fun l => { l with state := linkStateOf lanes, lanes := lanes, detour := false }) (settleLink s n lanes) := by
  unfold settleLink
  dsimp only
  rw [if_neg h]
  generalize modLink s n _ = u
  have hlog := Reported.ite (c := (decide (linkStateOf lanes = linkState s n) || decide (linkStateOf lanes = .up)) = true)
    (Reported.refl u) (reported_logLink u n)
  have htell := Reported.ite (c := (decide (linkStateOf lanes = .narrow) && linkState s n != .narrow) = true)
    (hlog.trans (reported_raise _ 0x0005 1 0 noLoc (BitVec.ofNat 64 n))) hlog
  exact .ite (htell.trans (reported_sendStreams _)) htell

/-- A link has the lanes that are found, and the state that they give it. -/
theorem linkAt_settleLink {s : State} {n : Nat} {lanes : Nat × Nat} :
    (linkAt (settleLink s n lanes) n).lanes = lanes ∧ (linkAt (settleLink s n lanes) n).state = linkStateOf lanes := by
  by_cases h : linkStateOf lanes = .down
  · have hs : settleLink s n lanes = linkLost (modLink s n fun l => { l with lanes := lanes }) n := by
      unfold settleLink
      dsimp only
      rw [if_pos h]
    rw [hs, linkAt_linkLost, h]
    have hl : linkAt (modLink s n fun l => { l with lanes := lanes }) n = { linkAt s n with lanes := lanes } := by
      rw [linkAt_modLink, if_pos rfl]
    by_cases hd : linkIsDown (modLink s n fun l => { l with lanes := lanes }) n = false
    · rw [if_pos ⟨rfl, hd⟩, hl]
      exact ⟨rfl, rfl⟩
    · rw [if_neg (fun e => hd e.2), hl]
      refine ⟨rfl, ?_⟩
      have := (linkIsDown_iff _ _).1 (by simpa using hd)
      rwa [hl] at this
  · rw [(reported_settleLink h s n).linkAt, linkAt_modLink, if_pos rfl]
    exact ⟨rfl, rfl⟩

/-- A link whose lanes leave it Down is logged. -/
theorem settleLink_ras {lanes : Nat × Nat} (h : linkStateOf lanes = .down) (s : State) (n : Nat) :
    ∃ rest, (settleLink s n lanes).module.ras = s.module.ras ++ linkEntry s n :: rest := by
  have hs : settleLink s n lanes = linkLost (modLink s n fun l => { l with lanes := lanes }) n := by
    unfold settleLink
    dsimp only
    rw [if_pos h]
  rw [hs]
  exact linkLost_ras _ n

/-- The failed lanes of a link's directions, with more of one of them (R20). -/
def moreLanes (old : Nat × Nat) (n dir : Nat) : Nat × Nat := if dir = 0 then (min 66 (old.1 + n), old.2) else (old.1, min 66 (old.2 + n))

theorem failLanes_eq {s : State} {n lanes dir : Nat} (hn : n < 14) (hd : linkIsDown s n = false) (hl : lanes ≠ 0) :
    failLanes s n lanes dir = settleLink s n (moreLanes (linkAt s n).lanes lanes dir) := by
  unfold failLanes
  dsimp only
  rw [if_neg (by simp [hd, hl]; omega)]
  rfl

/-- A link with a failed lane is not up. -/
theorem linkStateOf_moreLanes {n : Nat} (h : n ≠ 0) (old : Nat × Nat) (dir : Nat) :
    linkStateOf (moreLanes old n dir) =
      if max (moreLanes old n dir).1 (moreLanes old n dir).2 ≤ 2 then .spared
      else if max (moreLanes old n dir).1 (moreLanes old n dir).2 ≤ 32 then .narrow else .down := by
  have hmax : max (moreLanes old n dir).1 (moreLanes old n dir).2 ≠ 0 := by
    unfold moreLanes
    split <;> dsimp only <;> omega
  exact (linkStateOf_eq _ _).trans (if_neg hmax)

theorem retryFlit_eq {s : State} {n : Nat} (hn : n < 14) :
    retryFlit s n = logLink (modLink s n fun l => { l with crc := l.crc + 1 }) n := by
  rw [retryFlit, if_neg (by omega)]

theorem linkFails_eq {s : State} {n : Nat} (hn : n < 14) (hd : linkIsDown s n = false) : linkFails s n = linkLost s n := by
  rw [linkFails, if_neg (by simp [hd]; omega)]

theorem trainLink_eq {s : State} {n : Nat} (hn : n < 14) (hd : linkIsDown s n = true) (lanes : Nat × Nat) :
    trainLink s n lanes = settleLink s n lanes := by
  rw [trainLink, if_neg (by simp [hd]; omega)]

@[simp] theorem linkState_quiet (s t : State) (n : Nat) : linkState (quiet s t) n = linkState t n := rfl

/-- Settles O45: each step changes one link, by the lanes that it finds, and logs it. -/
theorem linkEvents : Obligations.LinkEvents := by
  refine ⟨fun s hn => ?_, fun s hn hd hl => ?_, fun s hn hd => ?_, fun s hn hd => ?_⟩
  · refine ⟨_, rfl, fun n => ?_, linkEntry s (s.arg 0), ?_, rfl, rfl⟩
    · rw [quiet_module, retryFlit_eq hn]
      change linkAt (logLink _ _) n = if n = s.arg 0 then { linkAt s n with crc := (linkAt s n).crc + 1 } else linkAt s n
      rw [(reported_logLink _ _).linkAt, linkAt_modLink]
      split
      · next e => rw [e]
      · rfl
    · rw [quiet_module, retryFlit_eq hn, logLink_ras]
      rfl
  · refine ⟨_, rfl, ?_⟩
    dsimp only
    rw [quiet_module, linkState_quiet, failLanes_eq hn hd hl]
    exact ⟨linkAt_settleLink.1, linkAt_settleLink.2.trans (linkStateOf_moreLanes hl _ _)⟩
  · have ht : linkIsDown (lossTold s (s.arg 0)) (s.arg 0) = false := by rw [(reported_lossTold s _).linkIsDown]; exact hd
    obtain ⟨rest, hras⟩ := linkLost_ras s (s.arg 0)
    refine ⟨_, rfl, ?_⟩
    simp only [quiet_module, linkState_quiet, linkFails_eq hn hd]
    refine ⟨takeDown_down _ _, fun h10 => takeDown_newDetour h10 ht, ⟨_, rest, hras, rfl, rfl⟩, fun n hne => ?_⟩
    rw [linkLost_eq, linkState_takeDown_ne _ hne, (reported_lossTold s _).linkState]
  · refine ⟨_, rfl, ?_⟩
    simp only [quiet_module, linkState_quiet, trainLink_eq hn hd]
    refine ⟨linkAt_settleLink.1, linkAt_settleLink.2, fun hw => ?_⟩
    have hdown : linkStateOf (s.arg 1, s.arg 2) = .down := by
      rw [linkStateOf_eq, if_neg (by omega), if_neg (by omega), if_neg (by omega)]
    obtain ⟨rest, hras⟩ := settleLink_ras hdown s (s.arg 0)
    exact ⟨_, rest, hras, rfl⟩

end Sys2Proof.Proofs
end

section
/-! SUPPORT. The steps of dies, ports, stacks and quads (R21, R25, R28, R43, R65, R68, R69, R141). -/

namespace Sys2Proof.Proofs
open Sys2Proof Sys2Proof.Machine Sys2Proof.Laws

/-! ## Dies (R28, R68, R69) -/

/-- A die that loses lock is fenced, and its gangs are killed, unless it is fenced already. -/
theorem loseLock_spec {s : State} {d : Nat} (hd : d < 10) :
    (dieAt (loseLock s d) d).fenced = true ∧ (dieAt (loseLock s d) d).locked = false ∧
    ((dieAt s d).fenced = false → ∀ p ∈ s.blocks, p.1 / 1024 = d → (gangAt s p.2.gang).state.live = true →
      (tfind s.gangs p.2.gang).isSome → (gangAt (loseLock s d) p.2.gang).state = .killing s.now) := by
  have hl : loseLock s d = fenceDie (modDie s d fun x => { x with locked := false }) d := by rw [loseLock, if_neg (by omega)]
  have hdie : dieAt (modDie s d fun x => { x with locked := false }) d = { dieAt s d with locked := false } := by
    rw [dieAt_modDie, if_pos rfl]
  rw [hl, dieAt_fenceDie, if_pos ⟨rfl, hd⟩, hdie]
  exact ⟨rfl, rfl, fun hf p hp hb hlive hs => fenceDie_kills hd (by rw [hdie]; exact hf) hp hb hlive hs⟩

/-- Of some dies, each is fenced in turn. -/
theorem dieAt_fenceAll (ds : List Nat) (s : State) (x : Nat) :
    dieAt (ds.foldl fenceDie s) x = if x ∈ ds ∧ x < 10 then { dieAt s x with fenced := true } else dieAt s x := by
  induction ds generalizing s with
  | nil => simp
  | cons d ds ih =>
    rw [List.foldl_cons, ih, dieAt_fenceDie]
    by_cases hx : x = d
    · subst hx
      by_cases h10 : x < 10 <;> simp [h10]
    · simp [hx]

/-- At a fan-out's deadline the dies of the missing acknowledgements are fenced that a Down link cuts off. -/
theorem dieAt_passDeadline {s : State} {line : Nat} {x : Txn} (hx : (homeAt s line).txn = some x) (ht : x.deadline ≤ s.now) (d : Nat) :
    dieAt (passDeadline s line) d =
      if (∃ q ∈ x.missing, q / 64 = d ∧ ackCut s (homeSlice s line / 64) d = true) ∧ d < 10 then { dieAt s d with fenced := true }
      else dieAt s d := by
  unfold passDeadline
  rw [hx]
  dsimp only
  rw [if_pos ht, dieAt_fenceAll]
  have hm : d ∈ (nub (x.missing.map (· / 64))).filter (ackCut s (homeSlice s line / 64)) ↔
      ∃ q ∈ x.missing, q / 64 = d ∧ ackCut s (homeSlice s line / 64) d = true := by
    rw [List.mem_filter, mem_nub, List.mem_map]
    constructor
    · rintro ⟨⟨q, hq, e⟩, h⟩
      exact ⟨q, hq, e, h⟩
    · rintro ⟨q, hq, e, h⟩
      exact ⟨⟨q, hq, e⟩, h⟩
  simp only [hm]

theorem dieAt_relock {s : State} {d : Nat} (hd : d < 10) (x : Nat) :
    dieAt (relock s d) x = if x = d then { dieAt s x with locked := true } else dieAt s x := by
  rw [relock, if_neg (by omega), dieAt_modDie]
  split
  · next e => rw [e]
  · rfl

/-- What keeps a fenced die from rejoining (R28, R69). -/
def staysOut (s : State) (d : Nat) : Bool :=
  decide (10 ≤ d) || !(dieAt s d).fenced || !(dieAt s d).locked || (linksOf d).any (linkIsDown s) || (decide (d < 8) && cutFrom s d != []) ||
    s.blocks.any fun p => p.1 / 1024 == d

theorem rejoin_of_staysOut {s : State} {d : Nat} (h : staysOut s d = true) : rejoin s d = s := by
  unfold rejoin
  exact if_pos h

/-- The quads of a die drop their copies of others' lines, and their redirects (R69). -/
def dropDieCopies (s : State) (d : Nat) : State :=
  ((List.range 64).map (64 * d + ·)).foldl (fun u q => modQuad u q fun x =>
    (x.copies.filter fun c => c.kind != .homed).foldl (fun y c => capHorizons c.line y)
      { x with copies := x.copies.filter (fun c => c.kind == .homed), redirects := [], notes := [] }) s

theorem homesMoved_dropDieCopies (s : State) (d : Nat) : HomesMoved s (dropDieCopies s d) :=
  foldl_related HomesMoved.refl HomesMoved.trans (fun _ _ => homesMoved_modQuad _ _ _) _ s

/-- The L1s of a die's cores are empty, and no home has lent a line to it (R69). -/
def emptyDie (s : State) (d : Nat) : State :=
  { s with cores := s.cores.map (fun p => if p.1 / 256 == d then (p.1, { p.2 with l1 := [] }) else p)
           homes := s.homes.map fun p => (p.1, { p.2 with loans := p.2.loans.filter fun q => q / 64 != d }) }

theorem rejoin_eq {s : State} {d : Nat} (hd : d < 8) (h : staysOut s d = false) :
    rejoin s d = modDie (recomputeParity (dropMsgs (emptyDie (dropDieCopies s d) d) fun _ m => endsAtFence d m) d) d
      fun x => { x with fenced := false } := by
  have hn : ¬ staysOut s d = true := by simp [h]
  unfold rejoin
  exact (if_neg hn).trans (if_neg (by omega))

@[simp] theorem recomputeParity_dies (s : State) (d : Nat) : (recomputeParity s d).dies = s.dies := rfl
@[simp] theorem recomputeParity_cores (s : State) (d : Nat) : (recomputeParity s d).cores = s.cores := rfl
@[simp] theorem recomputeParity_homes (s : State) (d : Nat) : (recomputeParity s d).homes = s.homes := rfl
@[simp] theorem dropMsgs_dies (s : State) (gone : Nat → Msg → Bool) : (dropMsgs s gone).dies = s.dies := rfl
@[simp] theorem dropMsgs_cores (s : State) (gone : Nat → Msg → Bool) : (dropMsgs s gone).cores = s.cores := rfl
@[simp] theorem dropMsgs_homes (s : State) (gone : Nat → Msg → Bool) : (dropMsgs s gone).homes = s.homes := rfl
@[simp] theorem emptyDie_dies (s : State) (d : Nat) : (emptyDie s d).dies = s.dies := rfl

theorem rejoin_io_eq {s : State} {d : Nat} (hd : 8 ≤ d) (h : staysOut s d = false) :
    rejoin s d = sendStreams (modDie s d fun x => { x with fenced := false }) := by
  have hn : ¬ staysOut s d = true := by simp [h]
  unfold rejoin
  exact (if_neg hn).trans (if_pos hd)

/-- A lookup in a table whose values a function has changed, by their keys. -/
theorem tfind_map {α β : Type} (f : Nat × α → β) (t : List (Nat × α)) (k : Nat) :
    tfind (t.map fun p => (p.1, f p)) k = (tfind t k).map fun v => f (k, v) := by
  induction t with
  | nil => rfl
  | cons p t ih =>
    simp only [List.map_cons, tfind]
    split
    · next e => subst e; rfl
    · exact ih

theorem coreAt_emptyDie (s : State) {d c : Nat} (hc : c / 256 = d) : (coreAt (emptyDie s d) c).l1 = [] := by
  have hm : (emptyDie s d).cores = s.cores.map fun p => (p.1, if p.1 / 256 == d then { p.2 with l1 := [] } else p.2) := by
    refine List.map_congr_left fun p _ => ?_
    by_cases h : (p.1 / 256 == d) = true <;> simp [h]
  unfold coreAt tget
  rw [hm, tfind_map]
  cases tfind s.cores c with
  | none => rfl
  | some x => simp [hc]

theorem homeAt_emptyDie (s : State) (d line : Nat) : ∀ q ∈ (homeAt (emptyDie s d) line).loans, q / 64 ≠ d := by
  have hm : (emptyDie s d).homes = s.homes.map fun p => (p.1, { p.2 with loans := p.2.loans.filter fun q => q / 64 != d }) := rfl
  unfold homeAt tget
  rw [hm, tfind_map]
  cases tfind s.homes line with
  | none => exact fun q hq => nomatch hq
  | some x =>
    intro q hq
    have := (List.mem_filter.1 hq).2
    simpa using this

/-- A die that may rejoin is in service again; a compute die's L1s are empty and no line is lent to it. -/
theorem rejoin_spec {s : State} {d : Nat} (h : staysOut s d = false) :
    (dieAt (rejoin s d) d).fenced = false ∧ (dieAt (rejoin s d) d).locked = (dieAt s d).locked ∧
    (d < 8 → (∀ c, c / 256 = d → (coreAt (rejoin s d) c).l1 = []) ∧ ∀ line, ∀ q ∈ (homeAt (rejoin s d) line).loans, q / 64 ≠ d) := by
  by_cases hd : d < 8
  · have hdies : (dropDieCopies s d).dies = s.dies := by rw [homesMoved_dropDieCopies]
    have hcores : (rejoin s d).cores = (emptyDie (dropDieCopies s d) d).cores := by rw [rejoin_eq hd h]; simp
    have hhomes : (rejoin s d).homes = (emptyDie (dropDieCopies s d) d).homes := by rw [rejoin_eq hd h]; simp
    have hdie : dieAt (rejoin s d) d = { dieAt s d with fenced := false } := by
      rw [rejoin_eq hd h, dieAt_modDie, if_pos rfl]
      simp only [dieAt, recomputeParity_dies, dropMsgs_dies, emptyDie_dies, hdies]
    rw [hdie]
    refine ⟨rfl, rfl, fun _ => ⟨fun c hc => ?_, fun line => ?_⟩⟩
    · simp only [coreAt, hcores]
      exact coreAt_emptyDie _ hc
    · simp only [homeAt, hhomes]
      exact homeAt_emptyDie _ d line
  · rw [rejoin_io_eq (by omega) h, (reported_sendStreams _).dieAt, dieAt_modDie, if_pos rfl]
    exact ⟨rfl, rfl, fun e => absurd e hd⟩

end Sys2Proof.Proofs
end

section
/-! SUPPORT. The steps of ports, stacks and quads (R25, R43, R65, R141), and all of what happens to dies. -/

namespace Sys2Proof.Proofs
open Sys2Proof Sys2Proof.Machine Sys2Proof.Laws

/-! ## Ports (R25) -/

/-- Of a port that is up, age changes the counts alone (R99). -/
theorem reported_agePort {s : State} {n : Nat} (h : (portAt s n).state = .up) : Reported s (agePort s n) := by
  have hm : Reported s (modPort s n fun x => match x.state with
    | .up => { x with sent := moreFrames x.sent 0 (freeField s 0).toNat, received := moreFrames x.received 0 (freeField s 1).toNat }
    | .down => if Config.freeBit s.ctl.free then { x with state := .training } else x
    | .training => x) := by
    refine { Reported.refl s with frame := rfl, port_state := fun x => ?_, port_sent := fun x => ?_ }
    · rw [portAt_modPort]
      split
      · next e => rw [e, h]
      · rfl
    · rw [portAt_modPort]
      split
      · next e => rw [e, h]; exact le_moreFrames _ _ _
      · exact le_refl _
  unfold agePort
  exact hm.trans (reported_nextChoices _)

theorem portFails_state {s : State} {n io : Nat} (hp : (n, io) ∈ portList s) (hu : (portAt s n).state = .up) (x : Nat) :
    (portAt (portFails s n) x).state = if x = n then .down else (portAt s x).state := by
  have hany : ((portList s).any (fun p => p.1 == n) && (tget s.module.ports n Port.reset).state == .up) = true := by
    rw [Bool.and_eq_true]
    exact ⟨List.any_eq_true.2 ⟨_, hp, by simp⟩, by rw [show tget s.module.ports n Port.reset = portAt s n from rfl, hu]; rfl⟩
  unfold portFails
  rw [if_pos hany]
  dsimp only
  rw [(foldl_related Reported.refl Reported.trans (fun u e => reported_sendEvent u e 0x0004 2 0 noLoc (BitVec.ofNat 64 n)) _ _).port_state,
    portAt_modPort]
  split
  · rfl
  · exact (reported_agePort hu).port_state x

theorem portReturns_spec {s : State} {n : Nat} (h : (portAt s n).state ≠ .up) (x : Nat) :
    (portAt (portReturns s n) x).state = (if x = n then .up else (portAt s x).state) ∧
      (portAt s x).sent.toNat ≤ (portAt (portReturns s n) x).sent.toNat := by
  have hne : ((tget s.module.ports n Port.reset).state != .up) = true := by
    rw [show tget s.module.ports n Port.reset = portAt s n from rfl]; simpa using h
  have hr : portReturns s n = sendStreams (modPort s n fun x => { x with state := .up }) := by rw [portReturns, if_pos hne]
  have hp : ∀ x, portAt (modPort s n fun x => { x with state := .up }) x = if x = n then { portAt s n with state := .up } else portAt s x :=
    portAt_modPort s n _
  have hm := reported_sendStreams (modPort s n fun x => { x with state := .up })
  rw [hr, hm.port_state]
  refine ⟨?_, le_trans ?_ (hm.port_sent x)⟩
  · rw [hp]
    split <;> rfl
  · rw [hp]
    split
    · next e => rw [e]
    · exact le_refl _

/-! ## Channels (R43) -/

theorem failChannel_spec {s : State} {stack ch : Nat} (hs : stack < 16) (hc : ch < 256) (hn : ch ∉ (tractAt s stack).failedChannels) :
    (tractAt (failChannel s stack ch) stack).failedChannels = (tractAt s stack).failedChannels ++ [ch] ∧
    ∃ e, (failChannel s stack ch).module.ras = s.module.ras ++ [e] ∧ e.cls = .channel := by
  have hno : ¬ (decide (16 ≤ stack) || decide (256 ≤ ch) || (tractAt s stack).failedChannels.contains ch) = true := by
    simp [hn]; omega
  unfold failChannel
  rw [if_neg hno]
  dsimp only
  constructor
  · rw [(reported_logRas rfl _ _ _ _ _).tractAt, tractAt_modTract, if_pos rfl]
  · exact ⟨_, logRas_ras _ _ _ _ _ _, rfl⟩

/-! ## Quads (R65, R141) -/

/-- A reservation changes its tract alone (R109). -/
theorem reserve_frame (s : State) (u : Nat) : reserve s u = { s with tracts := (reserve s u).tracts } := by
  unfold reserve
  dsimp only
  split
  · rfl
  · split
    · split <;> rfl
    · rfl

/-- A core's L1 drops every line (R383). -/
def dropWholeL1 (s : State) (c : Nat) : State := dropL1 s c fun _ => true

/-- Lines that leave L1s change cores and messages alone. -/
theorem dropWholeL1s_frame (cs : List Nat) (s : State) :
    cs.foldl dropWholeL1 s = { s with cores := (cs.foldl dropWholeL1 s).cores, net := (cs.foldl dropWholeL1 s).net } :=
  foldl_related (R := fun s t => t = { s with cores := t.cores, net := t.net }) (fun _ => rfl)
    (by intro s t u h k; rw [k, h]) (fun _ _ => rfl) cs s

/-- The gangs with a block on a quad. -/
def gangsOnQuad (s : State) (q : Nat) : List Nat := nub ((s.blocks.filter fun p => p.1 / 16 == q).map fun p => p.2.gang)

theorem mem_gangsOnQuad {s : State} {q : Nat} {p : Nat × Block} (hp : p ∈ s.blocks) (hq : p.1 / 16 = q) : p.2.gang ∈ gangsOnQuad s q := by
  rw [gangsOnQuad, mem_nub, List.mem_map]
  exact ⟨p, List.mem_filter.2 ⟨hp, by simpa using hq⟩, rfl⟩

/-- The retirement of a quad is logged. -/
def retireTold (s : State) (q : Nat) : State := logRas (modQuad s q fun x => { x with retired := true }) .retire false (locQuad q) 0 0

theorem reported_retireTold (s : State) (q : Nat) : Reported (modQuad s q fun x => { x with retired := true }) (retireTold s q) :=
  reported_logRas rfl _ _ _ _ _

/-- What the retirement of a quad takes from its tract: its free slots, and a reservation whose window holds it (R109, R141). -/
def retireTract (s : State) (q : Nat) (x : Tract) : Tract :=
  let free := 16 - (s.blocks.filter fun p => p.1 / 16 == q).length
  { x with credit := x.credit - free, owed := x.owed + (free - x.credit),
           reservation := match x.reservation with
             | some (g, f) => if f / 4 ≤ q && q ≤ (f + (gangAt s g).size - 1) / 4 then none else some (g, f)
             | none => none }

/-- The retirement of a quad has taken its slots and killed its gangs. -/
def retireKilled (s : State) (q : Nat) : State :=
  killAll (modTract (retireTold s q) (q / 32) (retireTract s q)) (gangsOnQuad s q) .retire (locQuad q)

/-- Then a reservation may be made anew, and the quad's L1s drop their copies. -/
def retireEmptied (s : State) (q : Nat) : State :=
  ((List.range 4).map (4 * q + ·)).foldl dropWholeL1 (reserve (retireKilled s q) (q / 32))

theorem retireQuad_eq {s : State} {q : Nat} (hq : q < 512) (hm : mustRetire s q = true) :
    retireQuad s q = modModule (retireEmptied s q) fun m => { m with newRetired := m.newRetired ++ [q] } := by
  have hno : ¬ (decide (Config.quads ≤ q) || !mustRetire s q) = true := by
    rw [hm, show Config.quads = 512 from rfl]
    simpa using hq
  unfold retireQuad
  exact if_neg hno

theorem retireEmptied_frame (s : State) (q : Nat) : retireEmptied s q = { retireKilled s q with
    cores := (retireEmptied s q).cores, net := (retireEmptied s q).net, tracts := (reserve (retireKilled s q) (q / 32)).tracts } := by
  unfold retireEmptied
  rw [dropWholeL1s_frame, reserve_frame]

theorem retireQuad_spec {s : State} {q : Nat} (hq : q < 512) (hm : mustRetire s q = true) :
    (quadAt (retireQuad s q) q).retired = true ∧ (retireQuad s q).module.newRetired = s.module.newRetired ++ [q] ∧
    ∀ p ∈ s.blocks, p.1 / 16 = q → (gangAt s p.2.gang).state.live = true → (tfind s.gangs p.2.gang).isSome →
      (gangAt (retireQuad s q) p.2.gang).state = .killing s.now := by
  have hr := reported_retireTold s q
  have hk : Reported { modTract (retireTold s q) (q / 32) (retireTract s q) with gangs := (retireKilled s q).gangs } (retireKilled s q) :=
    reported_killAll rfl (locQuad q) (gangsOnQuad s q) (modTract (retireTold s q) (q / 32) (retireTract s q))
  rw [retireQuad_eq hq hm, retireEmptied_frame]
  refine ⟨?_, ?_, fun p hp hb hl hs => ?_⟩
  · have hquad : quadAt (retireKilled s q) q = quadAt (modQuad s q fun x => { x with retired := true }) q := (hk.quadAt q).trans (hr.quadAt q)
    change (quadAt (retireKilled s q) q).retired = true
    rw [hquad, quadAt_modQuad, if_pos rfl]
  · have hret : (retireKilled s q).module.newRetired = (retireTold s q).module.newRetired := by rw [hk.module]; rfl
    have hret' : (retireTold s q).module.newRetired = s.module.newRetired := by rw [hr.module]; rfl
    change (retireKilled s q).module.newRetired ++ [q] = _
    rw [hret, hret']
  · have hgang : gangAt (modTract (retireTold s q) (q / 32) (retireTract s q)) p.2.gang = gangAt s p.2.gang := hr.gangAt _
    have hgangs : (modTract (retireTold s q) (q / 32) (retireTract s q)).gangs = s.gangs := hr.gangs
    have hnow : (modTract (retireTold s q) (q / 32) (retireTract s q)).now = s.now := hr.now
    change (gangAt (retireKilled s q) p.2.gang).state = _
    rw [retireKilled, killAll_state rfl (locQuad q) _ _ (mem_gangsOnQuad hp hb) (by rw [hgang]; exact hl) (by rw [hgangs]; exact hs), hnow]

theorem quadAt_stubOff {s : State} {q h : Nat} (hs : (quadAt s q).stub = some h) (hn : h ≤ s.now) (x : Nat) :
    quadAt (stubOff s q) x = if x = q then { quadAt s x with stub := none, gated := true } else quadAt s x := by
  unfold stubOff
  rw [hs]
  dsimp only
  rw [if_pos hn, quadAt_modQuad]
  split
  · next e => rw [e]
  · rfl

/-! ## The slice map (R21, R65) -/

/-- A link whose detour is in force where it is Down. -/
def detourInForce (l : Link) : Link := { l with detour := l.state == .down }

/-- A map change for detours alone puts them in force. -/
theorem changeMap_detours {s : State} (hr : s.module.newRetired = []) (hd : s.module.newDetour = true) :
    changeMap s = (modModule s fun y =>
      { y with epoch := (y.epoch + 1) % 2 ^ 32, newRetired := [], newDetour := false,
               links := y.links.map fun l => (l.1, detourInForce l.2) }, []) := by
  unfold changeMap
  dsimp only
  rw [hr, hd, if_neg (by simp)]
  rfl

/-- Settles O46: each step's own lemma above says what becomes of its die, port, stack, quad or map. -/
theorem dieEvents : Obligations.DieEvents := by
  refine ⟨fun s hd => ⟨_, rfl, loseLock_spec hd⟩, fun s x hx ht => ⟨_, rfl, ?_⟩, fun s h1 hd => ⟨_, rfl, ?_⟩, fun s h1 hl => ⟨_, rfl, ?_⟩,
    fun s h1 hd hf hl hlinks hcut hblocks => ⟨_, rfl, ?_⟩, fun s h1 hd hcut => ⟨_, rfl, ?_⟩, fun s io hp hu => ⟨_, rfl, portFails_state hp hu⟩,
    fun s hu => ⟨_, rfl, portReturns_spec hu⟩, fun s hs hc hn => ⟨_, rfl, failChannel_spec hs hc hn⟩,
    fun s hq hm => ⟨_, rfl, retireQuad_spec hq hm⟩, fun s h hs hn => ⟨_, rfl, quadAt_stubOff hs hn⟩, fun s hr hd => ⟨_, rfl, ?_⟩⟩
  · simp only [dieAt_quiet, dieAt_passDeadline hx ht]
    refine ⟨fun q hq h8 hc => ?_, fun d hd => ?_⟩
    · rw [if_pos ⟨⟨q, hq, rfl, hc⟩, by omega⟩]
    · rw [if_neg]
      rintro ⟨⟨q, hq, e, hc⟩, -⟩
      rw [hd q hq e] at hc
      cases hc
  · rw [if_pos h1]
    exact fun d => dieAt_relock hd d
  · rw [if_neg h1, rejoin_of_staysOut (by simp [staysOut, hl])]
    exact fun _ => rfl
  · have hout : staysOut s (s.arg 0) = false := by
      have hany : (linksOf (s.arg 0)).any (linkIsDown s) = false := List.any_eq_false.2 fun n hn => by simp [hlinks n hn]
      have hcut' : (decide (s.arg 0 < 8) && cutFrom s (s.arg 0) != []) = false := by
        by_cases h8 : s.arg 0 < 8
        · simp [hcut h8]
        · simp [h8]
      have hb : (s.blocks.any fun p => p.1 / 1024 == s.arg 0) = false := List.any_eq_false.2 fun p hp => by simpa using hblocks p hp
      simp only [staysOut, hf, hl, hany, hcut', hb]
      simp
      omega
    obtain ⟨hfenced, hlocked, hempty⟩ := rejoin_spec hout
    rw [if_neg h1]
    exact ⟨hfenced, hlocked.trans hl, hempty⟩
  · rw [if_neg h1, rejoin_of_staysOut (by simp [staysOut, hd, hcut])]
    exact fun _ => rfl
  · rw [changeMap_detours hr hd]
    refine ⟨rfl, rfl, rfl, fun n hn => ?_⟩
    obtain ⟨l, hl⟩ := Option.isSome_iff_exists.1 hn
    have ht : tfind (s.module.links.map fun l => (l.1, detourInForce l.2)) n = some (detourInForce l) := by
      rw [tfind_map fun p => detourInForce p.2, hl]
      rfl
    change (tget (s.module.links.map fun l => (l.1, detourInForce l.2)) n Link.reset).detour = _
    rw [linkState, tget, tget, ht, hl]
    rfl

end Sys2Proof.Proofs
end

section
/-! SUPPORT. Power-up, the loss of power, shutdowns and the junction sensors (R31, R33, R35, R36). -/

namespace Sys2Proof.Proofs
open Sys2Proof Sys2Proof.Machine Sys2Proof.Laws

/-! ## A module that holds nothing -/

/-- The tables of what runs, and of what the fabric and the homes hold, are empty. -/
def Bare (s : State) : Prop :=
  s.strands = [] ∧ s.sheaves = [] ∧ s.blocks = [] ∧ s.gangs = [] ∧ s.launches = [] ∧ s.parts = [] ∧ s.cores = [] ∧ s.net = [] ∧ s.homes = []

theorem bare_dark (s : State) (p : Power) : Bare (dark s p) := ⟨rfl, rfl, rfl, rfl, rfl, rfl, rfl, rfl, rfl⟩

/-- What power-up keeps as it trains the links: a bare state, the time, and of the module its power, environment, firmware and links. -/
structure Training (s t : State) : Prop where
  bare : Bare s → Bare t
  now : t.now = s.now
  power : t.module.power = s.module.power
  env : t.module.env = s.module.env
  running : t.module.running = s.module.running
  links : t.module.links = s.module.links

namespace Training

theorem refl (s : State) : Training s s := ⟨id, rfl, rfl, rfl, rfl, rfl⟩

theorem trans {s t u : State} (h : Training s t) (k : Training t u) : Training s u :=
  ⟨k.bare ∘ h.bare, k.now.trans h.now, k.power.trans h.power, k.env.trans h.env, k.running.trans h.running, k.links.trans h.links⟩

theorem ofReported {s t : State} (h : Reported s t) : Training s t where
  bare := by
    rintro ⟨h1, h2, h3, h4, h5, h6, h7, h8, h9⟩
    exact ⟨h.strands.trans h1, h.sheaves.trans h2, h.blocks.trans h3, h.gangs.trans h4, h.launches.trans h5, h.parts_nil h6,
      h.cores.trans h7, h.net.trans h8, h.homes.trans h9⟩
  now := h.now
  power := by rw [h.module]
  env := by rw [h.module]
  running := by rw [h.module]
  links := h.links

end Training

/-- Where nothing runs and no home is in use, a fence is told, and that is all. -/
theorem bare_fenceDie {s : State} (h : Bare s) (d : Nat) : Bare (fenceDie s d) := by
  by_cases hd : 10 ≤ d ∨ (dieAt s d).fenced = true
  · rw [fenceDie_of_fenced hd]; exact h
  · have hf : (dieAt s d).fenced = false := by simpa using fun e => hd (.inr e)
    have ht : Bare (fenceTold s d) := (Training.ofReported (reported_fenceTold s d)).bare h
    obtain ⟨-, -, hblocks, -, -, -, -, -, hhomes⟩ := h
    have hg : gangsOn s d = [] := by rw [gangsOn, hblocks]; rfl
    rw [fenceDie_eq (by omega) hf, hhomes, hg]
    obtain ⟨h1, h2, h3, h4, h5, h6, h7, h8, h9⟩ := ht
    refine ⟨h1, h2, h3, h4, h5, h6, h7, ?_, h9⟩
    change (fenceTold s d).net.filter _ = []
    rw [h8]
    rfl

theorem training_fenceDie (s : State) (d : Nat) : Training s (fenceDie s d) where
  bare h := bare_fenceDie h d
  now := (fenceMoved_fenceDie s d).now
  power := by rw [(fenceMoved_fenceDie s d).module]
  env := by rw [(fenceMoved_fenceDie s d).module]
  running := by rw [(fenceMoved_fenceDie s d).module]
  links := (fenceMoved_fenceDie s d).links

theorem training_fenceCut : ∀ (n : Nat) (s : State), Training s (fenceCut n s)
  | 0, s => .refl s
  | n + 1, s => by
    unfold fenceCut
    split
    · exact (training_fenceDie s _).trans (training_fenceCut n _)
    · exact .refl s

theorem training_trainedAs (s : State) (n : Nat) (l : LinkState) : Training s (trainedAs s n l) := by
  have hlog : Training s (logLink s n) := .ofReported (reported_logLink s n)
  cases l with
  | up => exact .refl s
  | spared => exact hlog
  | narrow => exact hlog.trans (.ofReported (reported_raise _ 0x0005 1 0 noLoc (BitVec.ofNat 64 n)))
  | down =>
    have h : Training s (lossTold s n) := .ofReported (reported_lossTold s n)
    unfold trainedAs
    dsimp only
    split
    · exact h.trans ⟨id, rfl, rfl, rfl, rfl, rfl⟩
    · exact h

/-- A link's state is what its lanes give (R20). -/
def trainedLink (l : Link) : Link := { l with state := linkStateOf l.lanes, detour := false }

/-- What power-down leaves of a link (R33). -/
def darkLink (l : Link) : Link := { l with crc := 0, detour := false }

/-- The links have trained: each has the state that its lanes give. -/
def linksTrained (s : State) : State := modModule s fun m => { m with links := m.links.map fun l => (l.1, trainedLink l.2) }

theorem training_trainAll (s : State) : Training (linksTrained s) (trainAll s) :=
  .trans (foldl_related Training.refl Training.trans (fun u (l : Nat × Link) => training_trainedAs u l.1 l.2.state) _ _)
    (training_fenceCut 8 _)

/-! ## The memory of a module without power -/

theorem memRead_memZero (m : Memory) (lo hi a : Nat) :
    memRead (memZero m lo hi) a = if lo ≤ a ∧ a < hi then 0 else memRead m a := by
  have h : tfind (memZero m lo hi) a = if lo ≤ a ∧ a < hi then none else tfind m a := by
    induction m with
    | nil => simp [memZero, tfind]
    | cons c m ih =>
      obtain ⟨b, v⟩ := c
      unfold memZero at ih ⊢
      by_cases hb : lo ≤ b ∧ b < hi
      · rw [List.filter_cons_of_neg (by simpa using hb), ih]
        by_cases e : b = a
        · subst e; simp [hb]
        · simp [tfind, e]
      · rw [List.filter_cons_of_pos (by simpa [or_iff_not_imp_left] using hb), tfind, tfind, ih]
        by_cases e : b = a
        · subst e; simp [hb]
        · simp [e]
  unfold memRead tget
  rw [h]
  split <;> rfl

/-- A step that leaves the module bare, with all of memory lost. -/
theorem nothingHeld_commit {s t : State} (h : Bare t) : NothingHeld (commit s (t, allMemory)) := by
  obtain ⟨h1, h2, h3, h4, h5, h6, h7, h8, h9⟩ := h
  refine ⟨h1, h2, h3, h4, h5, h6, h7, h8, h9, fun a ha => ?_⟩
  change memRead (memZero s.mem 0 (2 ^ 48)) a = 0
  rw [memRead_memZero, if_pos ⟨Nat.zero_le _, ha⟩]

/-! ## Power-up (R33) -/

/-- The state in which the boot ROM has selected a slot: dark, at DT 0, with the environment as met. -/
def booted (s : State) : State :=
  let n := bootSlot s.module
  { modModule (dark s (if n = 2 then .noFirmware else .on)) (fun m =>
      { m with running := if n = 2 then m.running else n, env := startEnvironment s }) with now := 0 }

theorem powerUp_eq {s : State} (hp : s.module.power ≠ .on) (ho : outside (startEnvironment s) [] = none) :
    powerUp s = (if bootSlot s.module = 2 then booted s else trainAll (booted s), allMemory) := by
  have hno : ¬ (decide (s.module.power = .on) || (outside (startEnvironment s) []).isSome) = true := by simp [hp, ho]
  unfold powerUp
  exact if_neg hno

theorem bare_booted (s : State) : Bare (booted s) := ⟨rfl, rfl, rfl, rfl, rfl, rfl, rfl, rfl, rfl⟩

theorem training_booted (s : State) : Training (linksTrained (booted s)) (trainAll (booted s)) := training_trainAll _

theorem powerUp_spec {s : State} (hp : s.module.power ≠ .on) (ho : outside (startEnvironment s) [] = none) :
    Completes .powerUp s fun t =>
      NothingHeld t ∧ t.now = 0 ∧ t.module.power = (if bootSlot s.module = 2 then .noFirmware else .on) ∧
      t.module.env = startEnvironment s ∧
      (bootSlot s.module ≠ 2 → t.module.running = bootSlot s.module ∧ ((s.module.links.map (·.1)).Nodup →
        ∀ n l, tfind s.module.links n = some l → linkState t n = linkStateOf l.lanes)) := by
  refine ⟨_, rfl, ?_⟩
  by_cases hb : bootSlot s.module = 2
  · have hpu : powerUp s = (booted s, allMemory) := by rw [powerUp_eq hp ho, if_pos hb]
    rw [hpu]
    exact ⟨nothingHeld_commit (bare_booted s), rfl, by simp [booted, dark, darkModule, hb], rfl, fun h => absurd hb h⟩
  · have ht := training_booted s
    have hpu : powerUp s = (trainAll (booted s), allMemory) := by rw [powerUp_eq hp ho, if_neg hb]
    rw [hpu]
    refine ⟨nothingHeld_commit (ht.bare (bare_booted s)), ht.now, ht.power.trans ?_, ht.env, fun _ => ⟨ht.running.trans ?_, fun _ n l hl => ?_⟩⟩
    · simp [linksTrained, booted, dark, darkModule, hb]
    · simp [linksTrained, booted, hb]
    · have hlinks : (linksTrained (booted s)).module.links =
          (s.module.links.map fun l => (l.1, darkLink l.2)).map fun l => (l.1, trainedLink l.2) := rfl
      change (tget (trainAll (booted s)).module.links n Link.reset).state = _
      rw [ht.links, hlinks, tget, tfind_map fun p : Nat × Link => trainedLink p.2,
        tfind_map fun p : Nat × Link => darkLink p.2, hl]
      rfl

theorem powerUp_outside {s : State} (ho : (outside (startEnvironment s) []).isSome) : powerUp s = (s, []) := by
  unfold powerUp
  exact if_pos (by simp [ho])

/-! ## Shutdowns (R35) -/

theorem losePower_spec (s u : State) : NothingHeld (commit s (losePower u)) ∧ (commit s (losePower u)).module.power = .off ∧
    (commit s (losePower u)).sent = u.sent :=
  ⟨nothingHeld_commit (bare_dark u .off), rfl, rfl⟩

theorem mem_emits {α : Type} (m : α → Sent) {l : List α} {a : α} (h : a ∈ l) (s : State) :
    m a ∈ (l.foldl (fun u p => emit u (m p)) s).sent := by
  induction l generalizing s with
  | nil => cases h
  | cons b l ih =>
    rcases List.mem_cons.1 h with rfl | h
    · exact (reported_emits m l (emit s (m a))).sent.subset (by rw [emit_sent]; simp)
    · exact ih h _

/-- A management slot whose mask has an event's bit receives it (R86), where the host can be reached. -/
theorem sendEvent_management {s : State} {code severity part : Nat} {loc : Loc} {detail : DWord} {n : Nat} {slot : EventSlot}
    (hr : hostReach s = true) (hs : (n, slot) ∈ s.module.mgmtSlots) (hm : slot.mask.getLsbD (code - 1) = true) :
    Sent.event 0 n code severity part s.module.mgmtSeq s.now loc.die loc.tract loc.quad loc.core detail ∈
      (sendEvent s 0 code severity part loc detail).sent := by
  have hit : (n, slot) ∈ s.module.mgmtSlots.filter fun p => p.2.mask.getLsbD (code - 1) := List.mem_filter.2 ⟨hs, hm⟩
  have hne : ¬ ((s.module.mgmtSlots.filter fun p => p.2.mask.getLsbD (code - 1)).isEmpty || !hostReach s) = true := by
    have := List.ne_nil_of_mem hit
    simp only [hr, Bool.not_true, Bool.or_false, List.isEmpty_iff]
    exact this
  have he : sendEvent s 0 code severity part loc detail = modModule ((s.module.mgmtSlots.filter fun p => p.2.mask.getLsbD (code - 1)).foldl
      (fun u p => emit u (.event 0 p.1 code severity part s.module.mgmtSeq s.now loc.die loc.tract loc.quad loc.core detail)) s)
      fun m => { m with mgmtSeq := (m.mgmtSeq + 1) % 2 ^ 32 } := by
    unfold sendEvent
    exact if_neg hne
  rw [he]
  exact mem_emits (fun p : Nat × EventSlot => .event 0 p.1 code severity part s.module.mgmtSeq s.now loc.die loc.tract loc.quad loc.core
    detail) hit s

/-- An event of the module goes to its management slots. -/
theorem raise_management {s : State} {code severity : Nat} {detail : DWord} {n : Nat} {slot : EventSlot}
    (hr : hostReach s = true) (hs : (n, slot) ∈ s.module.mgmtSlots) (hm : slot.mask.getLsbD (code - 1) = true) :
    Sent.event 0 n code severity 0 s.module.mgmtSeq s.now 0xFF 0xFF 0xFFFF 0xFFFF detail ∈ (raise s code severity 0 noLoc detail).sent :=
  sendEvent_management hr hs hm (loc := noLoc)

theorem shutdown_inputLoss (s : State) : shutdown s .inputLoss = losePower s := rfl

theorem shutdown_told {cause : ShutdownCause} (h : cause ≠ .inputLoss) (s : State) :
    shutdown s cause = losePower (raise s 0x000B 2 0 noLoc (BitVec.ofNat 64 (causeCode cause))) := by
  rw [shutdown, if_neg h]

theorem overtemp_due {s : State} {die sensor since : Nat} (h : tfind (dieAt s die).hotSince sensor = some since)
    (hn : since + 10000000 ≤ s.now) : overtemp s die sensor = shutdown s .junction := by
  unfold overtemp
  rw [h]
  exact if_pos hn

/-! ## Sensors (R31) -/

/-- Some sensor of a die reads a limit or more. -/
def anyAbove (sensors : List (Nat × Int)) (limit : Int) : Bool := sensors.any fun p => decide (limit ≤ p.2)

/-- When a sensor has come to 115 °C, for each that stands there. -/
def hotAfter (x : Die) (sensor : Nat) (temp : Int) (now : Nat) : List (Nat × Nat) :=
  if 1150 ≤ temp then (if (tfind x.hotSince sensor).isSome then x.hotSince else tset x.hotSince sensor now) else terase x.hotSince sensor

/-- A die whose sensor has read a temperature. -/
def sensedDie (x : Die) (sensor : Nat) (temp : Int) (now : Nat) : Die :=
  let sensors := tset x.sensors sensor temp
  { x with sensors := sensors, hotSince := hotAfter x sensor temp now, cap7 := anyAbove sensors 1050 || (x.cap7 && anyAbove sensors 1000)
           cap0 := anyAbove sensors 1150 }

theorem dieAt_senseJunction {s : State} {die sensor : Nat} (hd : die < 8) (hs : sensor < 16) (temp : Int) (d : Nat) :
    dieAt (senseJunction s die sensor temp) d = if d = die then sensedDie (dieAt s die) sensor temp s.now else dieAt s d := by
  have hno : ¬ (decide (8 ≤ die) || decide (16 ≤ sensor)) = true := by simp; omega
  have hr : Reported (modDie s die fun _ => sensedDie (dieAt s die) sensor temp s.now) (senseJunction s die sensor temp) := by
    unfold senseJunction
    rw [if_neg hno]
    exact .ite (reported_raise _ _ _ _ _ _) (.refl _)
  rw [hr.dieAt, dieAt_modDie]

theorem hotAfter_fresh {x : Die} {sensor : Nat} {temp : Int} (h : 1150 ≤ temp) (hn : tfind x.hotSince sensor = none) (now : Nat) :
    tfind (hotAfter x sensor temp now) sensor = some now := by
  rw [hotAfter, if_pos h, hn, if_neg (by decide), tfind_tset_same]

/-- Settles O43: power-up boots a bare module, every way of losing power leaves one, and a sensor's reading changes its die. -/
theorem powerChanges : Obligations.PowerChanges := by
  refine ⟨fun s hp ho => powerUp_spec hp ho, fun s _ ho => ⟨_, rfl, ?_⟩, fun s => ⟨_, rfl, losePower_spec s s⟩, fun cause s => ⟨_, rfl, ?_⟩,
    fun s since h hn => ⟨_, rfl, ?_⟩, fun die sensor temp s hd hs => ⟨_, rfl, ?_⟩⟩
  · rw [powerUp_outside ho]
    exact ⟨rfl, rfl⟩
  · by_cases hc : cause = .inputLoss
    · subst hc
      obtain ⟨hheld, hoff, hsent⟩ := losePower_spec s s
      rw [shutdown_inputLoss]
      exact ⟨hheld, hoff, fun _ => hsent, fun _ _ h => absurd rfl h⟩
    · obtain ⟨hheld, hoff, hsent⟩ := losePower_spec s (raise s 0x000B 2 0 noLoc (BitVec.ofNat 64 (causeCode cause)))
      rw [shutdown_told hc]
      exact ⟨hheld, hoff, fun e => absurd e hc, fun n slot _ hr hslot hm => by rw [hsent]; exact raise_management hr hslot hm⟩
  · obtain ⟨hheld, hoff, -⟩ := losePower_spec s (raise s 0x000B 2 0 noLoc (BitVec.ofNat 64 (causeCode .junction)))
    rw [overtemp_due h hn, shutdown_told (by decide)]
    exact ⟨hheld, hoff⟩
  · simp only [dieAt_quiet, dieAt_senseJunction hd hs, if_true]
    exact ⟨rfl, rfl, rfl, fun ht hn => hotAfter_fresh ht hn s.now, fun d hne => if_neg hne⟩

end Sys2Proof.Proofs
end

section
/-! SUPPORT. The arbiter's levels (R29, log 11): what the bids of an epoch get, in proportion and by the order that the pool leaves. -/

namespace Sys2Proof.Proofs
open Sys2Proof Sys2Proof.Machine Sys2Proof.Laws

/-! ## The rate of the pool -/

/-- Of the greatest rate, one more would spend more than the pool, or the search has reached its end. -/
theorem poolRate_greatest (pool total : Nat) (bids : List Bid) : ∀ n m,
    poolRate pool total bids n m + 1 = m + 2 ^ n ∨ pool < spent total (poolRate pool total bids n m + 1) bids
  | 0, m => .inl rfl
  | n + 1, m => by
    unfold poolRate
    split
    · rcases poolRate_greatest pool total bids n (m + 2 ^ n) with h | h
      · exact .inl (by omega)
      · exact .inr h
    · next hover =>
      rcases poolRate_greatest pool total bids n m with h | h
      · exact .inr (by rw [h]; omega)
      · exact .inr h

/-- A bid that has room at a rate gets one level more. -/
def Bid.gains (total m : Nat) (b : Bid) : Bool := 0 < b.claim && b.levels total m < b.room

theorem levels_zero (total : Nat) (b : Bid) : b.levels total 0 = 0 := by simp [Bid.levels]

theorem spent_zero (total : Nat) (bids : List Bid) : spent total 0 bids = 0 := by
  simp [spent, List.map_congr_left fun b _ => levels_zero total b]

theorem levels_of_claim_zero {b : Bid} (h : b.claim = 0) (total m : Nat) : b.levels total m = 0 := by simp [Bid.levels, h]

/-- The next rate gives a bid no more than one level more, and that where it has room. -/
theorem levels_succ_le {b : Bid} {total : Nat} (hb : b.claim ≤ total) (m : Nat) :
    b.levels total (m + 1) ≤ b.levels total m + if Bid.gains total m b then 1 else 0 := by
  by_cases h0 : b.claim = 0
  · simp [levels_of_claim_zero h0]
  · have hq : b.claim * (m + 1) / total ≤ b.claim * m / total + 1 := by
      rw [← Nat.add_div_right _ (by omega : 0 < total), Nat.mul_succ]
      exact Nat.div_le_div_right (by omega)
    by_cases hr : b.levels total m < b.room
    · rw [if_pos (by simp [Bid.gains, hr]; omega)]
      unfold Bid.levels at hr ⊢
      omega
    · have := levels_le total (m + 1) b
      omega

theorem spent_succ_le {total : Nat} (m : Nat) (bids : List Bid) (hb : ∀ b ∈ bids, b.claim ≤ total) :
    spent total (m + 1) bids ≤ spent total m bids + (bids.filter (Bid.gains total m)).length := by
  induction bids with
  | nil => exact le_refl _
  | cons b bids ih =>
    have h1 := levels_succ_le (hb b (by simp)) m
    have h2 := ih fun c hc => hb c (by simp [hc])
    simp only [spent, List.map_cons, List.sum_cons] at h2 ⊢
    cases hg : Bid.gains total m b
    · rw [List.filter_cons_of_neg (by simp [hg])]
      simp only [hg, Bool.false_eq_true, if_false] at h1
      omega
    · rw [List.filter_cons_of_pos hg, List.length_cons]
      simp only [hg, if_true] at h1
      omega

/-- Where no rate spends the pool, each bid with a claim has all its room. -/
theorem levels_of_greatest_rate {b : Bid} {total : Nat} (hc : b.claim ≠ 0) (hb : b.claim ≤ total) (ht : total ≤ 2 ^ 60) (hr : b.room ≤ 12) :
    b.levels total (2 ^ 64 - 1) = b.room := by
  have hm : 12 ≤ (2 ^ 64 - 1) / total := (Nat.le_div_iff_mul_le (by omega)).2 (by omega)
  have hq : (2 ^ 64 - 1) / total ≤ b.claim * (2 ^ 64 - 1) / total :=
    Nat.div_le_div_right (Nat.le_mul_of_pos_left _ (by omega))
  exact Nat.min_eq_left (by omega)

/-! ## The order of the last levels -/

theorem insertBid_perm (n : Nat) (b : Bid) : ∀ l : List Bid, (insertBid n b l).Perm (b :: l)
  | [] => .refl _
  | c :: cs => by
    unfold insertBid
    dsimp only
    split
    · exact .refl _
    · exact ((insertBid_perm n b cs).cons c).trans (.swap b c cs)

theorem foldr_insertBid_perm (n : Nat) : ∀ l : List Bid, (l.foldr (insertBid n) []).Perm l
  | [] => .refl _
  | b :: l => (insertBid_perm n b _).trans ((foldr_insertBid_perm n l).cons b)

theorem mem_lastLevels {n pool total m q : Nat} {bids : List Bid} (h : q ∈ lastLevels n pool total m bids) :
    ∃ b ∈ bids, b.quad = q ∧ Bid.gains total m b = true := by
  obtain ⟨b, hb, rfl⟩ := List.mem_map.1 h
  have hf := (foldr_insertBid_perm n _).subset (List.mem_of_mem_take hb)
  exact ⟨b, (List.mem_filter.1 hf).1, rfl, (List.mem_filter.1 hf).2⟩

theorem nodup_lastLevels (n pool total m : Nat) {bids : List Bid} (h : (bids.map (·.quad)).Nodup) :
    (lastLevels n pool total m bids).Nodup := by
  have hfilter : ((bids.filter (Bid.gains total m)).map (·.quad)).Nodup := h.sublist ((List.filter_sublist).map _)
  have hsorted := ((foldr_insertBid_perm n (bids.filter (Bid.gains total m))).map (·.quad)).nodup_iff.2 hfilter
  exact hsorted.sublist ((List.take_sublist _ _).map _)

theorem length_lastLevels (n pool total m : Nat) (bids : List Bid) :
    (lastLevels n pool total m bids).length = min (pool - spent total m bids) (bids.filter (Bid.gains total m)).length := by
  unfold lastLevels
  rw [List.length_map, List.length_take]
  congr 1
  exact (foldr_insertBid_perm n _).length_eq

/-! ## The budgets of an epoch -/

/-- The bids of the quads. -/
def allBids (s : State) : List Bid := (List.range 512).map (bidOf s)

/-- The claims of all quads together. -/
def allClaims (s : State) : Nat := ((List.range 512).map (claimOf s)).sum

/-- The rate of an epoch's pool. -/
def rateOf (s : State) (pool : Nat) : Nat := poolRate pool (allClaims s) (allBids s) 64 0

/-- The levels above the floor that a quad gets in an epoch. -/
def extraOf (s : State) (n pool q : Nat) : Nat :=
  (bidOf s q).levels (allClaims s) (rateOf s pool) +
    if (lastLevels n pool (allClaims s) (rateOf s pool) (allBids s)).contains q then 1 else 0

theorem allClaims_eq (s : State) : allClaims s = ((allBids s).map (·.claim)).sum := by
  rw [allClaims, allBids, List.map_map]
  rfl

theorem claim_le_allClaims {s : State} {b : Bid} (h : b ∈ allBids s) : b.claim ≤ allClaims s := by
  rw [allClaims_eq]
  exact List.le_sum_of_mem (List.mem_map_of_mem h)

theorem mem_allBids {s : State} {b : Bid} (h : b ∈ allBids s) : b.quad < 512 ∧ b = bidOf s b.quad := by
  obtain ⟨q, hq, rfl⟩ := List.mem_map.1 h
  exact ⟨List.mem_range.1 hq, rfl⟩

theorem room_bidOf_le (s : State) (q : Nat) : (bidOf s q).room ≤ 12 := by
  unfold bidOf
  dsimp only
  split
  · exact Nat.zero_le _
  · split <;> decide

theorem tfind_map_range {α : Type} (f : Nat → α) (k : Nat) : ∀ l : List Nat, tfind (l.map fun q => (q, f q)) k = if k ∈ l then some (f k) else none
  | [] => rfl
  | q :: l => by
    rw [List.map_cons, tfind, tfind_map_range f k l]
    by_cases h : q = k
    · subst h; simp
    · simp [h, Ne.symm h]

theorem budgets_eq (s : State) (n pool : Nat) :
    budgets s n pool = (List.range 512).map fun q => (q, Config.floorLevel + extraOf s n pool q) := by
  have ht : ((allBids s).map (·.claim)).sum = allClaims s := (allClaims_eq s).symm
  have hb : budgets s n pool = (allBids s).map fun b => (b.quad, Config.floorLevel + b.levels (allClaims s) (rateOf s pool) +
      if (lastLevels n pool (allClaims s) (rateOf s pool) (allBids s)).contains b.quad then 1 else 0) := by
    unfold rateOf
    rw [← ht]
    rfl
  rw [hb, allBids, List.map_map]
  refine List.map_congr_left fun q _ => ?_
  simp only [Function.comp_apply, extraOf, Nat.add_assoc]
  rfl

theorem tget_budgets {s : State} {n pool q : Nat} (hq : q < 512) (d : Nat) :
    tget (budgets s n pool) q d = Config.floorLevel + extraOf s n pool q := by
  rw [budgets_eq, tget, tfind_map_range, if_pos (List.mem_range.2 hq)]
  rfl

/-- A quad among the last has room for its level more, and a claim. -/
theorem gains_of_last {s : State} {n pool q : Nat} (h : (lastLevels n pool (allClaims s) (rateOf s pool) (allBids s)).contains q = true) :
    0 < (bidOf s q).claim ∧ (bidOf s q).levels (allClaims s) (rateOf s pool) < (bidOf s q).room := by
  obtain ⟨b, hb, rfl, hg⟩ := mem_lastLevels (List.contains_iff_mem.1 h)
  rw [(mem_allBids hb).2] at hg
  simpa [Bid.gains] using hg

theorem extraOf_le_room (s : State) (n pool q : Nat) : extraOf s n pool q ≤ (bidOf s q).room := by
  unfold extraOf
  split
  · next h => exact (gains_of_last h).2
  · exact levels_le _ _ _

theorem extraOf_of_claim_zero {s : State} {q : Nat} (h : claimOf s q = 0) (n pool : Nat) : extraOf s n pool q = 0 := by
  have h0 : (bidOf s q).claim = 0 := h
  unfold extraOf
  rw [if_neg (fun e => absurd (gains_of_last e).1 (by omega)), levels_of_claim_zero h0]

theorem sum_extraOf (s : State) (n pool : Nat) : ((List.range 512).map (extraOf s n pool)).sum =
    spent (allClaims s) (rateOf s pool) (allBids s) + (lastLevels n pool (allClaims s) (rateOf s pool) (allBids s)).length := by
  have hlast := nodup_lastLevels n pool (allClaims s) (rateOf s pool) (bids := allBids s) (by
    rw [allBids, List.map_map]
    exact (List.map_id (List.range 512)).symm ▸ List.nodup_range)
  have hlt : ∀ q ∈ lastLevels n pool (allClaims s) (rateOf s pool) (allBids s), q < 512 := fun q hq => by
    obtain ⟨b, hb, rfl, -⟩ := mem_lastLevels hq
    exact (mem_allBids hb).1
  generalize hm : lastLevels n pool (allClaims s) (rateOf s pool) (allBids s) = more at hlast hlt
  have hperm : ((List.range 512).filter more.contains).Perm more :=
    (List.perm_ext_iff_of_nodup (List.nodup_range.filter _) hlast).2 fun q => by
      simp only [List.mem_filter, List.mem_range, List.contains_iff_mem]
      exact ⟨fun h => h.2, fun h => ⟨hlt q h, h⟩⟩
  have hsum : ∀ l : List Nat, (l.map (extraOf s n pool)).sum =
      (l.map fun q => (bidOf s q).levels (allClaims s) (rateOf s pool)).sum + (l.filter more.contains).length := by
    intro l
    induction l with
    | nil => rfl
    | cons q l ih =>
      have he : extraOf s n pool q = (bidOf s q).levels (allClaims s) (rateOf s pool) + if more.contains q then 1 else 0 := by rw [extraOf, hm]
      rw [List.map_cons, List.sum_cons, ih, he, List.map_cons, List.sum_cons]
      cases hq : more.contains q
      · rw [List.filter_cons_of_neg (by rw [hq]; decide)]
        simp
        omega
      · rw [List.filter_cons_of_pos hq, List.length_cons]
        simp
        omega
  rw [hsum, hperm.length_eq, spent, allBids, List.map_map]
  rfl

theorem spent_rateOf_le (s : State) (pool : Nat) : spent (allClaims s) (rateOf s pool) (allBids s) ≤ pool :=
  spent_poolRate (by rw [spent_zero]; exact Nat.zero_le _)

theorem sum_extraOf_le (s : State) (n pool : Nat) : ((List.range 512).map (extraOf s n pool)).sum ≤ pool := by
  have h1 := spent_rateOf_le s pool
  rw [sum_extraOf, length_lastLevels]
  omega

/-- The pool is spent, or no quad with a claim has room (R29). -/
theorem pool_spent_or_no_room {s : State} (n pool : Nat) (ht : allClaims s ≤ 2 ^ 60) :
    ((List.range 512).map (extraOf s n pool)).sum = pool ∨ ∀ q < 512, claimOf s q ≠ 0 → extraOf s n pool q = (bidOf s q).room := by
  have h1 := spent_rateOf_le s pool
  rw [sum_extraOf, length_lastLevels]
  by_cases hfew : pool - spent (allClaims s) (rateOf s pool) (allBids s) ≤
      ((allBids s).filter (Bid.gains (allClaims s) (rateOf s pool))).length
  · exact .inl (by omega)
  · right
    have hsucc := spent_succ_le (rateOf s pool) (allBids s) fun b hb => claim_le_allClaims hb
    have hend : rateOf s pool = 2 ^ 64 - 1 := by
      rcases poolRate_greatest pool (allClaims s) (allBids s) 64 0 with h | h
      · change rateOf s pool + 1 = _ at h
        omega
      · change pool < spent _ (rateOf s pool + 1) _ at h
        omega
    intro q hq hc
    have hmem : bidOf s q ∈ allBids s := List.mem_map_of_mem (List.mem_range.2 hq)
    have hfull := levels_of_greatest_rate hc (claim_le_allClaims hmem) ht (room_bidOf_le s q)
    have hle := extraOf_le_room s n pool q
    refine le_antisymm hle ?_
    rw [← hfull, ← hend]
    exact Nat.le_add_right _ _

end Sys2Proof.Proofs
end

section
/-! SUPPORT. The steps of the arbiter's epoch (R29 to R32, R36, R126). -/

namespace Sys2Proof.Proofs
open Sys2Proof Sys2Proof.Machine Sys2Proof.Laws

theorem modQuads_dies (s : State) (f : Nat → Quad → Quad) : (modQuads s f).dies = s.dies := by unfold modQuads; rfl

theorem modQuads_now (s : State) (f : Nat → Quad → Quad) : (modQuads s f).now = s.now := by unfold modQuads; rfl

theorem quadAt_modQuads {q : Nat} (hq : q < 512) (s : State) (f : Nat → Quad → Quad) : quadAt (modQuads s f) q = f q (quadAt s q) := by
  unfold quadAt tget modQuads
  dsimp only
  rw [tfind_map_range, show Config.quads = 512 from rfl, if_pos (List.mem_range.2 hq)]
  rfl

/-! ## The start of an epoch (R29, R36) -/

theorem reported_logEpoch (s : State) (q : Nat) : Reported s (logEpoch s q) := by
  have h := Reported.ite (c := (quadAt s q).replays = 0) (Reported.refl s)
    (reported_logRas (c := .replay) rfl s false (locQuad q) (BitVec.ofNat 64 (quadAt s q).replays) 0)
  unfold logEpoch
  exact .ite (h.trans (reported_logRas rfl _ _ _ _ _)) h

/-- The host is told of the quantities that come near a limit, and were not before (R36). -/
def nearTold (s : State) (old : List (Nat × Int)) (e : Environment) : State :=
  (nearLimits e).foldl (fun u p =>
    if old.any fun o => o.1 == p.1 then u
    else raise u 0x000A 1 0 noLoc (BitVec.ofNat 64 (p.1 + 2 ^ 8 * (BitVec.ofInt 32 p.2).toNat))) s

theorem reported_nearTold (s : State) (old : List (Nat × Int)) (e : Environment) : Reported s (nearTold s old e) :=
  foldl_related Reported.refl Reported.trans (fun u _ => .ite (.refl u) (reported_raise _ _ _ _ _ _)) _ _

/-- A shutdown comes next where a quantity is outside its limit (R36). -/
def limitShutdown (t : State) : Option ShutdownCause → State
  | some cause => forceShutdown t cause
  | none => t

/-- An epoch has begun, from a state in which the one that ends has been logged. -/
def epochBegun (u : State) (n : Nat) : State := modModule (modQuads u fun _ => startQuad) fun m => { m with epochsBegun := n }

/-- Then the module's environment is as reported, and the host is told. -/
def epochTold (u : State) (n : Nat) (e : Environment) : State :=
  nearTold (modModule (epochBegun u n) fun m => { m with env := e, powers := (e.power :: u.module.powers).take 1000 }) (nearLimits u.module.env) e

/-- Then shutdowns come next where something is too hot or outside its limit. -/
def epochFrom (u : State) (n : Nat) (e : Environment) : State :=
  let t := senseEnvironment (epochBegun u n) e
  if stoodHot t then forceShutdown t .junction else t

/-- The epoch that ends is logged, then the next one begins. -/
theorem startEpoch_eq {s : State} (h : s.module.epochsBegun < s.now / 1000) (e : Environment) :
    ∃ u, Reported s u ∧ startEpoch s e = epochFrom u (s.now / 1000) e := by
  refine ⟨(List.range Config.quads).foldl logEpoch s, foldl_related Reported.refl Reported.trans reported_logEpoch _ s, ?_⟩
  unfold startEpoch
  exact if_pos h

theorem senseEnvironment_epochBegun (u : State) (n : Nat) (e : Environment) : senseEnvironment (epochBegun u n) e =
    limitShutdown (epochTold u n e) (outside e ((e.power :: u.module.powers).take 1000)) := rfl

theorem limitShutdown_frame (t : State) (c : Option ShutdownCause) :
    limitShutdown t c = { t with ctl := { t.ctl with agenda := (limitShutdown t c).ctl.agenda } } := by
  cases c <;> rfl

/-- The shutdowns that come next are on the agenda; nothing else changes. -/
theorem epochFrom_frame (u : State) (n : Nat) (e : Environment) : epochFrom u n e =
    { epochTold u n e with ctl := { (epochTold u n e).ctl with agenda := (epochFrom u n e).ctl.agenda } } := by
  unfold epochFrom
  rw [senseEnvironment_epochBegun]
  dsimp only
  split
  · rw [forceShutdown, limitShutdown_frame]
  · rw [limitShutdown_frame]

theorem reported_epochTold (u : State) (n : Nat) (e : Environment) :
    Reported (modModule (epochBegun u n) fun m => { m with env := e, powers := (e.power :: u.module.powers).take 1000 }) (epochTold u n e) :=
  reported_nearTold _ _ _

theorem stoodHot_senseEnvironment (u : State) (n : Nat) (e : Environment) :
    stoodHot (senseEnvironment (epochBegun u n) e) = stoodHot u := by
  have h := reported_epochTold u n e
  have hd : (epochTold u n e).dies = u.dies := h.dies.trans (by rw [modModule_dies, epochBegun, modModule_dies, modQuads_dies])
  have hn : (epochTold u n e).now = u.now := h.now.trans (by rw [modModule_now, epochBegun, modModule_now, modQuads_now])
  rw [senseEnvironment_epochBegun, limitShutdown_frame]
  simp only [stoodHot, hd, hn]

/-- Each quad starts the epoch with its latched budget, or the floor, and its counts anew. -/
theorem epochFrom_spec (u : State) (n : Nat) (e : Environment) :
    (epochFrom u n e).module.epochsBegun = n ∧ (epochFrom u n e).module.env = e ∧
    ∀ q < 512, quadAt (epochFrom u n e) q = startQuad (quadAt u q) := by
  have h := reported_epochTold u n e
  rw [epochFrom_frame]
  refine ⟨?_, ?_, fun q hq => ?_⟩
  · change (epochTold u n e).module.epochsBegun = _
    rw [h.module]
    rfl
  · change (epochTold u n e).module.env = _
    rw [h.module]
    rfl
  · change quadAt (epochTold u n e) q = _
    rw [h.quadAt, epochBegun, quadAt_modModule, quadAt_modModule, quadAt_modQuads hq]

theorem epochFrom_hot {u : State} (hh : stoodHot u = true) (n : Nat) (e : Environment) :
    (epochFrom u n e).ctl.agenda.head?.map (·.ev) = some (.orderlyShutdown .junction) := by
  unfold epochFrom
  dsimp only
  rw [stoodHot_senseEnvironment, if_pos hh]
  rfl

theorem epochFrom_outside {u : State} (hh : stoodHot u = false) (n : Nat) {e : Environment} {cause : ShutdownCause}
    (hc : outside e ((e.power :: u.module.powers).take 1000) = some cause) :
    (epochFrom u n e).ctl.agenda.head?.map (·.ev) = some (.orderlyShutdown cause) := by
  unfold epochFrom
  dsimp only
  rw [stoodHot_senseEnvironment, if_neg (by simp [hh]), senseEnvironment_epochBegun, hc]
  rfl

/-! ## Budgets (R29) -/

theorem sendBudgets_eq {s : State} (ht : 900 ≤ s.now % 1000) (hb : s.module.budgetsSent ≤ s.now / 1000) :
    sendBudgets s = modModule (modQuads s fun q x => { x with latched := some (tget
        (budgets s (s.now / 1000 + 1) (Config.pool (s.quads.map fun q => q.2.draw).sum)) q Config.floorLevel) })
      fun m => { m with budgetsSent := s.now / 1000 + 1 } := by
  have hif : (decide (900 ≤ s.now % Config.epochTicks) && decide (s.module.budgetsSent ≤ s.now / Config.epochTicks)) = true := by
    rw [show Config.epochTicks = 1000 from rfl]
    simp [ht, hb]
  unfold sendBudgets
  exact if_pos hif

/-! ## Cycles (R30, R32, R126) -/

theorem hold_of_not_allows {x : Quad} (h : x.allows = false) :
    x.hold = { x with cycle := (x.cycle + 1) % 64, acted := [], ahead := x.ahead + 1, withheld := x.withheld + 1, wcyc := x.wcyc + 1 } := by
  unfold Quad.hold
  rw [h, if_neg (by decide)]
  rfl

theorem withholdCycle_eq {s : State} {q : Nat} (hq : q < 512) (h : allowed s q = false) : withholdCycle s q = modQuad s q Quad.hold := by
  unfold withholdCycle
  refine if_neg ?_
  rw [h, show Config.quads = 512 from rfl]
  simpa using hq

theorem replayCycle_eq {s : State} {q : Nat} (hq : q < 512) :
    replayCycle s q = modQuad s q fun x => { x.hold.hold with replays := x.replays + 1, rply := x.rply + 1 } := by
  unfold replayCycle
  exact if_neg (by rw [show Config.quads = 512 from rfl]; omega)

/-- A cycle that a quad holds passes (R30). -/
theorem hold_cycle (x : Quad) : x.hold.cycle = (x.cycle + 1) % 64 := by
  unfold Quad.hold
  split <;> rfl

theorem reportDemand_eq {s : State} {q : Nat} (ht : s.now % 1000 = 600) (hq : q < 512) (demand draw : Nat) :
    reportDemand s q demand draw = modQuad s q fun x => { x with demand := demand, draw := draw } := by
  have hif : (decide (s.now % Config.epochTicks = 600) && decide (q < Config.quads)) = true := by
    rw [show Config.epochTicks = 1000 from rfl, show Config.quads = 512 from rfl]
    simp [ht, hq]
  unfold reportDemand
  exact if_pos hif

/-- Settles O44: each step of the epoch changes the quads as its lemma says; the budgets' levels are those of the bids. -/
theorem powerEpochs : Obligations.PowerEpochs := by
  refine ⟨fun e s h => ⟨_, rfl, ?_⟩, fun s ht hq => ⟨_, rfl, fun q => ?_⟩, fun s ht hb => ⟨_, rfl, ?_⟩, fun s hq hw => ⟨_, rfl, fun q => ?_⟩,
    fun s hq => ⟨_, rfl, ?_⟩⟩
  · obtain ⟨u, hu, hstart⟩ := startEpoch_eq h e
    obtain ⟨hbegun, henv, hquads⟩ := epochFrom_spec u (s.now / 1000) e
    have hhot : stoodHot u = stoodHot s := by simp only [stoodHot, hu.dies, hu.now]
    have hpowers : u.module.powers = s.module.powers := by rw [hu.module]
    rw [hstart]
    refine ⟨hbegun, henv, fun q hq => ?_, fun hh => epochFrom_hot (hhot.trans hh) _ e,
      fun cause hh hc => epochFrom_outside (hhot.trans hh) _ (by rw [hpowers]; exact hc)⟩
    rw [quadAt_quiet, hquads q hq, hu.quadAt]
    exact ⟨rfl, rfl, rfl, rfl, rfl, rfl⟩
  · rw [quadAt_quiet, reportDemand_eq ht hq, quadAt_modQuad]
    split
    · next e => rw [e]
    · rfl
  · rw [sendBudgets_eq ht hb]
    refine ⟨rfl, extraOf s (s.now / 1000 + 1) (Config.pool (s.quads.map fun q => q.2.draw).sum),
      rateOf s (Config.pool (s.quads.map fun q => q.2.draw).sum), fun q hq => ⟨?_, extraOf_le_room s _ _ q, fun hc => extraOf_of_claim_zero hc _ _, ?_⟩,
      sum_extraOf_le s _ _, fun htot => pool_spent_or_no_room _ _ htot⟩
    · rw [quadAt_quiet, quadAt_modModule, quadAt_modQuads hq, tget_budgets hq]
    · unfold extraOf
      split
      · exact .inr rfl
      · exact .inl rfl
  · rw [quadAt_quiet, withholdCycle_eq hq hw, quadAt_modQuad, hold_of_not_allows hw]
    split
    · next e => rw [e]
    · rfl
  · simp only [quadAt_quiet, replayCycle_eq hq, quadAt_modQuad, if_true]
    refine ⟨trivial, trivial, ?_, fun q hne => if_neg hne⟩
    rw [hold_cycle, hold_cycle]
    omega

end Sys2Proof.Proofs
end

section
/-! SUPPORT. Commands as they are accepted and answered (R25, R79 to R82), and the resets of engines and links (R22, R92). -/

namespace Sys2Proof.Proofs
open Sys2Proof Sys2Proof.Machine Sys2Proof.Laws

/-! ## Accepting (R25, R76, R80, R81) -/

/-- The state in which a command's body runs: it has come in through a port, and its stream stands at it. -/
def acceptedAt (s : State) (h : CmdHeader) : State := noteSeq (hears s) h

theorem reported_acceptedAt (s : State) (h : CmdHeader) : Reported s (acceptedAt s h) :=
  (reported_hears s).trans (reported_noteSeq _ h)

theorem hears_parts (s : State) : (hears s).parts = s.parts := by
  unfold hears
  cases hostPort s <;> rfl

theorem hears_sent (s : State) : (hears s).sent = s.sent := by
  unfold hears
  cases hostPort s <;> rfl

theorem acceptedAt_sent (s : State) (h : CmdHeader) : (acceptedAt s h).sent = s.sent := by
  unfold acceptedAt noteSeq
  split
  · exact hears_sent s
  · exact hears_sent s

theorem waiting_acceptedAt (s : State) (h : CmdHeader) (p : Nat) : (partAt (acceptedAt s h) p).waiting = (partAt s p).waiting := by
  have hp : ∀ x, partAt (hears s) x = partAt s x := fun x => by simp only [partAt, hears_parts]
  unfold acceptedAt noteSeq
  split
  · rw [hp]
  · rw [partAt_modPart, hp]
    split
    · next e => rw [e.1]
    · rw [hp]

/-- A command that is received, with good fields, on an endpoint that takes it: its body runs. -/
theorem accept_of_received {s : State} {h : CmdHeader} {op len : Nat} {w : Where} {bad : Bool} {body : State → State × List MemEffect}
    (hr : Received s h len) (hb : bad = false) (hw : w.takes h.endpoint = true) :
    accept s h op len w bad body = body (acceptedAt s h) := by
  obtain ⟨hrec, hhead, hroom⟩ := hr
  have hfull : (h.endpoint != 0 && decide (64 ≤ (partAt (acceptedAt s h) h.endpoint).waiting.length)) = false := by
    rw [waiting_acceptedAt]
    by_cases he : h.endpoint = 0
    · simp [he]
    · simpa [he] using hroom he
  unfold accept
  rw [hrec, hb, hhead, hw]
  change (if (h.endpoint != 0 && decide (64 ≤ (partAt (acceptedAt s h) h.endpoint).waiting.length)) = true then _ else _) = _
  rw [hfull]
  rfl

theorem acceptQuiet_of_received {s : State} {h : CmdHeader} {op len : Nat} {w : Where} {bad : Bool} {body : State → State}
    (hr : Received s h len) (hb : bad = false) (hw : w.takes h.endpoint = true) :
    acceptQuiet s h op len w bad body = body (acceptedAt s h) := by
  unfold acceptQuiet
  rw [accept_of_received hr hb hw]

/-! ## Answering (R81) -/

/-- What a command may do before its answer: its stream, what was sent, and the way to the host are as they were. -/
structure Unanswered (s t : State) : Prop where
  sent : t.sent = s.sent
  waiting : ∀ p, (partAt t p).waiting = (partAt s p).waiting
  isSome : ∀ p, (tfind t.parts p).isSome = (tfind s.parts p).isSome
  reach : hostReach t = hostReach s

theorem Unanswered.trans {s t u : State} (h : Unanswered s t) (k : Unanswered t u) : Unanswered s u :=
  ⟨k.sent.trans h.sent, fun p => (k.waiting p).trans (h.waiting p), fun p => (k.isSome p).trans (h.isSome p), k.reach.trans h.reach⟩

theorem unanswered_acceptedAt (s : State) (h : CmdHeader) : Unanswered s (acceptedAt s h) :=
  ⟨acceptedAt_sent s h, waiting_acceptedAt s h, (reported_acceptedAt s h).part_isSome, (reported_acceptedAt s h).hostReach⟩

/-- The host is reached by what the module and the dies hold. -/
theorem hostReach_congr {s t : State} (hm : t.module = s.module) (hd : t.dies = s.dies) : hostReach t = hostReach s := by
  have hs : ∀ io, ioSplit t io = ioSplit s io := fun io => by unfold ioSplit; rw [hm]
  have hl : portList t = portList s := by simp only [portList, hs]
  have hu : portUsable t = portUsable s := funext fun p => by simp only [portUsable, ioReach, dieAt, linkState, hm, hd]
  simp only [hostReach, hl, hu]

theorem unanswered_of_eq {s t : State} (hs : t.sent = s.sent) (hp : t.parts = s.parts) (hm : t.module = s.module) (hd : t.dies = s.dies) :
    Unanswered s t :=
  ⟨hs, fun p => by simp only [partAt, hp], fun p => by rw [hp], hostReach_congr hm hd⟩

theorem sendReady_of_blocked {s : State} {p : Nat} {w : Waiting} {rest : List Waiting} (hw : (partAt s p).waiting = w :: rest)
    (hn : w.ready = none) (n : Nat) : sendReady n p s = s := by
  cases n with
  | zero => rfl
  | succ n => rw [sendReady, hw]; dsimp only; rw [hn]

/-- A command of a partition joins its stream, and what is ready there goes out (R81). -/
theorem answer_partition {s : State} {h : CmdHeader} (he : h.endpoint ≠ 0) (op : Nat) (c : CmdStatus) (result : DWord) (detail : List Byte) :
    answer s h op c result detail = sendStream (modPart s h.endpoint fun x =>
      { x with waiting := x.waiting ++ [waitingOf h op 0 (some (responseOf h op c result detail))] }) h.endpoint := by
  unfold answer
  exact if_neg he

theorem answered_reply {s t : State} {h : CmdHeader} {len : Nat} (hr : Received s h len) (hu : Unanswered s t) (op : Nat) (c : CmdStatus) :
    Answered s (reply t h op c) h op c 0 [] := by
  obtain ⟨hrec, -, -⟩ := hr
  obtain ⟨hreach, hend⟩ := Bool.and_eq_true_iff.1 hrec
  unfold Answered reply
  by_cases he : h.endpoint = 0
  · refine ⟨fun _ => ?_, fun hne => absurd he hne⟩
    rw [answer, if_pos he, emit_sent, hu.sent]
  · have hsome : (tfind t.parts h.endpoint).isSome := by
      rw [hu.isSome]
      simp [he] at hend
      exact hend.1
    have hpart : partAt (modPart t h.endpoint fun x =>
        { x with waiting := x.waiting ++ [waitingOf h op 0 (some (responseOf h op c 0 []))] }) h.endpoint =
        { partAt t h.endpoint with waiting := (partAt s h.endpoint).waiting ++ [waitingOf h op 0 (some (responseOf h op c 0 []))] } := by
      rw [partAt_modPart, if_pos ⟨rfl, hsome⟩, hu.waiting]
    have hreach' : hostReach (modPart t h.endpoint fun x =>
        { x with waiting := x.waiting ++ [waitingOf h op 0 (some (responseOf h op c 0 []))] }) = true := by
      exact (hostReach_congr rfl rfl).trans (hu.reach.trans hreach)
    rw [answer_partition he, sendStream, if_pos hreach', hpart]
    generalize hv : (modPart t h.endpoint fun x =>
        { x with waiting := x.waiting ++ [waitingOf h op 0 (some (responseOf h op c 0 []))] }) = v at hpart
    have hvs : v.sent = s.sent := by rw [← hv]; exact hu.sent
    refine ⟨fun hidle => ?_, fun _ w rest hw hn => ?_⟩
    · have hnil := hidle.resolve_left he
      rw [hnil] at hpart ⊢
      change (sendReady 1 h.endpoint v).sent = _
      rw [sendReady, hpart]
      change (sendReady 0 h.endpoint (modPart (emit v _) _ _)).sent = _
      rw [sendReady, modPart_sent, emit_sent, hvs]
    · have hcons : (partAt v h.endpoint).waiting = w :: (rest ++ [waitingOf h op 0 (some (responseOf h op c 0 []))]) := by
        rw [hpart, hw]
        rfl
      rw [sendReady_of_blocked hcons hn, hpart]
      exact ⟨hvs, rfl⟩

/-! ## Kills that no event tells of -/

theorem logRas_of_silent {c : RasClass} (hc : countsForQuad c = false) (hs : c.raises = false) (s : State) (injected : Bool) (loc : Loc)
    (d0 d1 : DWord) : logRas s c injected loc d0 d1 = modModule s fun m => { m with ras := m.ras ++ [rasEntry s c injected loc d0 d1] } := by
  unfold logRas
  dsimp only
  rw [countError_of_not_counts hc, hs, if_neg (by simp)]
  rfl

theorem startKill_silent {c : RasClass} (hc : countsForQuad c = false) (hs : c.raises = false) (s : State) (g : Nat) (injected : Bool)
    (loc : Loc) : (startKill s g (some c) injected loc).sent = s.sent ∧ (startKill s g (some c) injected loc).parts = s.parts := by
  unfold startKill killNow
  split
  · dsimp only
    rw [logRas_of_silent hc hs]
    exact ⟨rfl, rfl⟩
  · exact ⟨rfl, rfl⟩

theorem killAll_silent {c : RasClass} (hc : countsForQuad c = false) (hs : c.raises = false) (s : State) (gs : List Nat) (loc : Loc) :
    (killAll s gs c loc).sent = s.sent ∧ (killAll s gs c loc).parts = s.parts :=
  foldl_related (R := fun s t => t.sent = s.sent ∧ t.parts = s.parts) (fun _ => ⟨rfl, rfl⟩)
    (by rintro s t u ⟨h1, h2⟩ ⟨k1, k2⟩; exact ⟨k1.trans h1, k2.trans h2⟩) (fun u g => startKill_silent hc hs u g false loc) gs s

theorem unanswered_killAll {c : RasClass} (hc : countsForQuad c = false) (hs : c.raises = false) (s : State) (gs : List Nat) (loc : Loc) :
    Unanswered s (killAll s gs c loc) := by
  obtain ⟨hsent, hparts⟩ := killAll_silent hc hs s gs loc
  have hr := (reported_killAll hc loc gs s).hostReach
  exact ⟨hsent, fun p => by simp only [partAt, hparts], fun p => by rw [hparts], hr.trans (hostReach_congr rfl rfl)⟩

/-! ## What an engine's reset leaves alone -/

/-- A state differs from another in strands, blocks, cores and quads alone. -/
def UnitsMoved (s t : State) : Prop :=
  t = { s with strands := t.strands, blocks := t.blocks, cores := t.cores, quads := t.quads }

theorem UnitsMoved.refl (s : State) : UnitsMoved s s := rfl

theorem UnitsMoved.trans {s t u : State} (h : UnitsMoved s t) (k : UnitsMoved t u) : UnitsMoved s u := by
  unfold UnitsMoved at *
  rw [k, h]

theorem UnitsMoved.unanswered {s t : State} (h : UnitsMoved s t) : Unanswered s t := by
  unfold UnitsMoved at h
  refine unanswered_of_eq ?_ ?_ ?_ ?_ <;> rw [h]

theorem UnitsMoved.gangAt {s t : State} (h : UnitsMoved s t) (g : Nat) : gangAt t g = gangAt s g := by
  unfold UnitsMoved at h
  rw [h]
  rfl

/-- A state differs from another in strands alone. -/
def StrandsMoved (s t : State) : Prop := t = { s with strands := t.strands }

theorem StrandsMoved.refl (s : State) : StrandsMoved s s := rfl

theorem StrandsMoved.trans {s t u : State} (h : StrandsMoved s t) (k : StrandsMoved t u) : StrandsMoved s u := by
  unfold StrandsMoved at *
  rw [k, h]

theorem strandsMoved_wake (s : State) (k : Nat) : StrandsMoved s (wake s k) := rfl

theorem strandsMoved_wakeWhere (s : State) (ks : List Nat) (p : Cond → Bool) : StrandsMoved s (wakeWhere s ks p) :=
  foldl_related StrandsMoved.refl StrandsMoved.trans (fun u k => by
    split
    · exact strandsMoved_wake u k
    · exact .refl u) ks s

theorem unitsMoved_wakeWhere (s : State) (ks : List Nat) (p : Cond → Bool) : UnitsMoved s (wakeWhere s ks p) := by
  have h := strandsMoved_wakeWhere s ks p
  unfold StrandsMoved at h
  unfold UnitsMoved
  rw [h]

theorem coreAt_wakeWhere (s : State) (ks : List Nat) (p : Cond → Bool) (c : Nat) : coreAt (wakeWhere s ks p) c = coreAt s c := by
  rw [show wakeWhere s ks p = _ from strandsMoved_wakeWhere s ks p]
  rfl

theorem quadAt_wakeWhere (s : State) (ks : List Nat) (p : Cond → Bool) (q : Nat) : quadAt (wakeWhere s ks p) q = quadAt s q := by
  rw [show wakeWhere s ks p = _ from strandsMoved_wakeWhere s ks p]
  rfl

/-! ## RESET of a copy engine (R92) -/

theorem unitsMoved_dropWrites (s : State) (b : Nat) : UnitsMoved s (dropWrites s b) := rfl

theorem queue_dropWrites (s : State) (b c : Nat) : (coreAt (dropWrites s b) c).queue = (coreAt s c).queue := by
  have h : coreAt (dropWrites s b) c = coreAt (modCore s (b / 4) fun k => { k with writes := k.writes.filter fun w => w.1 != b }) c := rfl
  rw [h, coreAt_modCore]
  split
  · next e => rw [e]
  · rfl

/-- The blocks with a command in a core's copy engine. -/
def copyBlocks (s : State) (c : Nat) : List Nat := nub ((coreAt s c).queue.map (·.block) ++ (coreAt s c).writes.map (·.1))

/-- A core's copy engine is empty. -/
def copyEmptied (s : State) (c : Nat) (bs : List Nat) : State :=
  let u := bs.foldl dropWrites (modCore s c fun k => { k with queue := [] })
  wakeWhere u (coreStrands u c) fun x => x == .stalled .copyQueue

theorem unitsMoved_copyEmptied (s : State) (c : Nat) (bs : List Nat) : UnitsMoved s (copyEmptied s c bs) :=
  (UnitsMoved.trans (show UnitsMoved s (modCore s c fun k => { k with queue := [] }) from rfl)
    (foldl_related UnitsMoved.refl UnitsMoved.trans unitsMoved_dropWrites bs _)).trans
    (by unfold copyEmptied; exact unitsMoved_wakeWhere _ _ _)

theorem queue_copyEmptied (s : State) (c : Nat) (bs : List Nat) : (coreAt (copyEmptied s c bs) c).queue = [] := by
  have hfold := foldl_related (R := fun s t : State => (coreAt t c).queue = (coreAt s c).queue) (fun _ => rfl)
    (by intro s t u h k; exact k.trans h) (fun u b => queue_dropWrites u b c) bs (modCore s c fun k => { k with queue := [] })
  unfold copyEmptied
  dsimp only
  rw [coreAt_wakeWhere]
  refine hfold.trans ?_
  rw [coreAt_modCore, if_pos rfl]

/-- The state of a copy engine's reset before its answer: the gangs of its commands are killed, and it is empty. -/
def copyReset (t : State) (c : Nat) : State :=
  copyEmptied (killAll t (nub ((copyBlocks t c).map fun b => (blockAt t b).gang)) .engine (locCore c)) c (copyBlocks t c)

theorem doResetCopy_eq {s : State} {h : CmdHeader} {index : Word} (hr : Received s h 8) (hi : index.toNat < 2048)
    (ho : h.endpoint ≠ 0 → (tractAt s (index.toNat / 128)).owner = h.endpoint) :
    doResetCopy s h 0 0 index = reply (copyReset (acceptedAt s h) index.toNat) h 0x05 .ok := by
  have hown : ¬ (h.endpoint != 0 && (tractAt (acceptedAt s h) (index.toNat / 128)).owner != h.endpoint) = true := by
    rw [(reported_acceptedAt s h).tractAt]
    by_cases he : h.endpoint = 0
    · simp [he]
    · simp [ho he]
  unfold doResetCopy
  refine (acceptQuiet_of_received hr rfl rfl).trans ?_
  exact (if_neg (by rw [show Config.cores = 2048 from rfl]; omega)).trans (if_neg hown)

theorem copyReset_kills {t : State} {c : Nat} {x : CopyCmd} (hx : x ∈ (coreAt t c).queue)
    (hl : (gangAt t (blockAt t x.block).gang).state.live = true) (hs : (tfind t.gangs (blockAt t x.block).gang).isSome) :
    (gangAt (copyReset t c) (blockAt t x.block).gang).state = .killing t.now := by
  have hb : x.block ∈ copyBlocks t c := by
    rw [copyBlocks, mem_nub]
    exact List.mem_append_left _ (List.mem_map_of_mem hx)
  have hg : (blockAt t x.block).gang ∈ nub ((copyBlocks t c).map fun b => (blockAt t b).gang) := by
    rw [mem_nub]
    exact List.mem_map_of_mem (f := fun b => (blockAt t b).gang) hb
  rw [copyReset, (unitsMoved_copyEmptied _ _ _).gangAt]
  exact killAll_state rfl _ _ _ hg hl hs

/-! ## RESET of a matrix engine (R92) -/

theorem quadAt_freeLatch (s : State) (q : Nat) (l : Latch) :
    quadAt (freeLatch s q l) q = { quadAt s q with latches := (quadAt s q).latches.erase l } := by
  unfold freeLatch wakeLatch
  rw [quadAt_wakeWhere, quadAt_modQuad, if_pos rfl]

theorem foldl_erase_self {α : Type} [BEq α] [LawfulBEq α] : ∀ l : List α, l.foldl List.erase l = []
  | [] => rfl
  | a :: l => by rw [List.foldl_cons, List.erase_cons_head]; exact foldl_erase_self l

theorem quadAt_freeLatches (q : Nat) (ls : List Latch) (s : State) :
    quadAt (ls.foldl (fun t l => freeLatch t q l) s) q = { quadAt s q with latches := ls.foldl List.erase (quadAt s q).latches } := by
  induction ls generalizing s with
  | nil => rfl
  | cons l ls ih => rw [List.foldl_cons, ih, quadAt_freeLatch]; rfl

theorem quadAt_dropEntry (s : State) (q : Nat) (e : TableEntry) :
    (quadAt (dropEntry s q e) q).latches = (quadAt s q).latches ∧
    (quadAt (dropEntry s q e) q).table = (quadAt s q).table.filter fun o => o.key != e.key := by
  rw [dropEntry, quadAt_modQuad, if_pos rfl]
  exact ⟨rfl, rfl⟩

theorem quadAt_dropEntries (q : Nat) (es : List TableEntry) (s : State) :
    (quadAt (es.foldl (fun t e => dropEntry t q e) s) q).latches = (quadAt s q).latches ∧
    ∀ o ∈ (quadAt (es.foldl (fun t e => dropEntry t q e) s) q).table, o ∈ (quadAt s q).table ∧ ∀ e ∈ es, o.key ≠ e.key := by
  induction es generalizing s with
  | nil => exact ⟨rfl, fun o ho => ⟨ho, fun e he => nomatch he⟩⟩
  | cons e es ih =>
    obtain ⟨hlatch, htable⟩ := quadAt_dropEntry s q e
    obtain ⟨ihl, iht⟩ := ih (dropEntry s q e)
    refine ⟨ihl.trans hlatch, fun o ho => ?_⟩
    obtain ⟨hmem, hne⟩ := iht o ho
    rw [htable, List.mem_filter] at hmem
    exact ⟨hmem.1, fun e' he' => by
      rcases List.mem_cons.1 he' with rfl | he'
      · simpa using hmem.2
      · exact hne e' he'⟩

/-- The requests of a quad are dropped, whoever they list: no latch is taken, and the table is empty. -/
theorem dropRequests_all (s : State) (q : Nat) :
    (quadAt (dropRequests s q fun _ => true).2 q).latches = [] ∧ (quadAt (dropRequests s q fun _ => true).2 q).table = [] := by
  have hl : (quadAt s q).latches.filter (fun _ => true) = (quadAt s q).latches := List.filter_true _
  have ht : (quadAt s q).table.filter (fun _ => true) = (quadAt s q).table := List.filter_true _
  unfold dropRequests
  dsimp only
  rw [hl, ht]
  obtain ⟨hlatch, htable⟩ := quadAt_dropEntries q (quadAt s q).table ((quadAt s q).latches.foldl (fun t l => freeLatch t q l) s)
  rw [quadAt_freeLatches] at hlatch htable
  refine ⟨hlatch.trans (foldl_erase_self _), List.eq_nil_iff_forall_not_mem.2 fun o ho => ?_⟩
  obtain ⟨hmem, hne⟩ := htable o ho
  exact hne o hmem rfl

theorem unitsMoved_freeLatch (s : State) (q : Nat) (l : Latch) : UnitsMoved s (freeLatch s q l) :=
  UnitsMoved.trans (show UnitsMoved s (modQuad s q fun x => { x with latches := x.latches.erase l }) from rfl)
    (by unfold freeLatch wakeLatch; exact unitsMoved_wakeWhere _ _ _)

theorem unitsMoved_dropRequests (s : State) (q : Nat) (hit : List Nat → Bool) : UnitsMoved s (dropRequests s q hit).2 :=
  .trans (foldl_related UnitsMoved.refl UnitsMoved.trans (fun u l => unitsMoved_freeLatch u q l) _ s)
    (foldl_related UnitsMoved.refl UnitsMoved.trans (fun u e => show UnitsMoved u (dropEntry u q e) from rfl) _ _)

/-- The gangs with a sheaf in a quad's requests. -/
def matrixGangs (t : State) (q : Nat) : List Nat :=
  let x := quadAt t q
  let fs := x.latches.flatMap (fun l => ensSheaves q l.ens ++ l.arrivals.map (·.sheaf)) ++ x.table.flatMap fun e => e.members.map (·.sheaf)
  nub ((fs.filter fun f => (tfind t.sheaves f).isSome).map fun f => (blockAt t (sheafAt t f).block).gang)

/-- The state of a matrix engine's reset before its answer. -/
def matrixReset (t : State) (q : Nat) : State := (dropRequests (killAll t (matrixGangs t q) .engine (locQuad q)) q fun _ => true).2

theorem doResetMatrix_eq {s : State} {h : CmdHeader} {index : Word} (hr : Received s h 8) (hi : index.toNat < 512)
    (ho : h.endpoint ≠ 0 → (tractAt s (index.toNat / 32)).owner = h.endpoint) :
    doResetMatrix s h 0 0 index = reply (matrixReset (acceptedAt s h) index.toNat) h 0x05 .ok := by
  have hown : ¬ (h.endpoint != 0 && (tractAt (acceptedAt s h) (index.toNat / 32)).owner != h.endpoint) = true := by
    rw [(reported_acceptedAt s h).tractAt]
    by_cases he : h.endpoint = 0
    · simp [he]
    · simp [ho he]
  unfold doResetMatrix
  refine (acceptQuiet_of_received hr rfl rfl).trans ?_
  exact (if_neg (by rw [show Config.quads = 512 from rfl]; omega)).trans (if_neg hown)

/-! ## RESET of a link (R22) -/

theorem doResetLink_eq {s : State} {h : CmdHeader} {index : Word} (hr : Received s h 8) (he : h.endpoint = 0) (hi : index.toNat < 14) :
    doResetLink s h 0 0 index = reply (takeDown (acceptedAt s h) index.toNat) h 0x05 .ok := by
  unfold doResetLink
  refine (acceptQuiet_of_received hr rfl (by rw [he]; rfl)).trans ?_
  exact if_neg (by omega)

end Sys2Proof.Proofs
end

section
/-! SUPPORT. RESET of a partition (R92), and the resets together. -/

namespace Sys2Proof.Proofs
open Sys2Proof Sys2Proof.Machine Sys2Proof.Laws

/-! ## Memory that is zeroed -/

/-- Ranges that are zeroed one after another read 0. -/
theorem memRead_memApply_zeros (a : Nat) {u : Nat} {lo hi : Nat → Nat} (ha : lo u ≤ a ∧ a < hi u) (ts : List Nat) (m : Memory)
    (hm : memRead m a = 0 ∨ u ∈ ts) : memRead (memApply m (ts.map fun t => .zero (lo t) (hi t))) a = 0 := by
  induction ts generalizing m with
  | nil => exact hm.resolve_right (List.not_mem_nil)
  | cons t ts ih =>
    refine ih (memZero m (lo t) (hi t)) ?_
    rw [memRead_memZero]
    rcases hm with h | h
    · left; split
      · rfl
      · exact h
    · rcases List.mem_cons.1 h with rfl | h
      · left; rw [if_pos ha]
      · exact .inr h

theorem memApply_append (m : Memory) (es fs : List MemEffect) : memApply m (es ++ fs) = memApply (memApply m es) fs := List.foldl_append

/-! ## A tract that runs nothing -/

theorem HomesMoved.blocks {s t : State} (h : HomesMoved s t) : t.blocks = s.blocks := by
  unfold HomesMoved at h
  rw [h]

theorem blocks_endHomes (s : State) (p : Nat → Bool) : (endHomes s p).blocks = s.blocks := by
  refine foldl_related (R := fun s t : State => t.blocks = s.blocks) (fun _ => rfl) (by intro _ _ _ h k; exact k.trans h) (fun u h => ?_) _ s
  have hend : (endTracker u h.1).blocks = u.blocks := by
    unfold endTracker
    split
    · exact ((homesMoved_raiseHorizon _ _ _ _).trans (homesMoved_modHome _ _ _)).blocks
    · rfl
  dsimp only
  split
  · split
    · next e => rw [e]; exact hend
    · exact hend
  · exact hend

theorem blocks_bindSpare (s : State) (t : Nat) : (bindSpare s t).blocks = s.blocks := by
  unfold bindSpare
  dsimp only
  split
  · rfl
  · split
    · rfl
    · split
      · rfl
      · rfl

/-- A slice of a tract that ends loses what it holds. -/
def sliceLost (r : State × List MemEffect) (q : Nat) : State × List MemEffect :=
  (modQuad (loseResidents r.1 q).1 q clearQuad, r.2 ++ (loseResidents r.1 q).2)

theorem blocks_slicesLost (qs : List Nat) (r : State × List MemEffect) : (qs.foldl sliceLost r).1.blocks = r.1.blocks :=
  foldl_related (R := fun a b : State × List MemEffect => b.1.blocks = a.1.blocks) (fun _ => rfl)
    (by intro _ _ _ h k; exact k.trans h) (fun r q => show (sliceLost r q).1.blocks = r.1.blocks from rfl) qs r

/-- A tract's blocks are gone, and no others (R92). -/
theorem blocks_clearTract (s : State) (t : Nat) : (clearTract s t).1.blocks = s.blocks.filter fun p => p.1 / 512 != t := by
  unfold clearTract
  dsimp only
  generalize (List.range 32).map (32 * t + ·) = qs
  rw [modTract_blocks, blocks_bindSpare]
  refine (blocks_slicesLost qs _).trans ?_
  dsimp only
  rw [blocks_endHomes]

/-- A tract of a partition that ends runs nothing. -/
def tractCleared (r : State × List MemEffect) (u : Nat) : State × List MemEffect := ((clearTract r.1 u).1, r.2 ++ (clearTract r.1 u).2)

/-- A block that is left after some tracts have ended is in none of them. -/
theorem blocks_clearTracts (ts : List Nat) (r : State × List MemEffect) {e : Nat × Block}
    (he : e ∈ (ts.foldl tractCleared r).1.blocks) :
    e ∈ r.1.blocks ∧ ∀ u ∈ ts, e.1 / 512 ≠ u := by
  induction ts generalizing r with
  | nil => exact ⟨he, fun u hu => nomatch hu⟩
  | cons t ts ih =>
    rw [List.foldl_cons] at he
    obtain ⟨hmem, hne⟩ := ih _ he
    rw [tractCleared, blocks_clearTract, List.mem_filter] at hmem
    exact ⟨hmem.1, fun u hu => by
      rcases List.mem_cons.1 hu with rfl | hu
      · simpa using hmem.2
      · exact hne u hu⟩

/-! ## RESET of a partition -/

theorem reported_resetCompletion (s : State) (key : Nat) : Reported s (resetCompletion s key) := by
  unfold resetCompletion
  dsimp only
  split
  · exact .refl s
  · exact reported_emit _ _

/-- The tracts of a partition that is reset run nothing. -/
def partCleared (s : State) (p : Nat) : State × List MemEffect :=
  (partAt s p).tracts.foldl tractCleared (flushTracts s (partAt s p).tracts)

/-- The partition's launches are answered for and gone, with its gangs, and its faults; its launch numbers start again. -/
def partForgotten (s : State) (p : Nat) : State :=
  let t := (partLaunches s p).foldl resetCompletion (partCleared s p).1
  modPart { t with launches := t.launches.filter (fun e => e.1 / 2 ^ 32 != p), gangs := t.gangs.filter (fun e => e.2.part != p) } p
    fun x => { x with faults := [], nextLaunch := 1 }

theorem resetPart_eq (s : State) (p : Nat) (zero : Bool) :
    resetPart s p zero =
      let t := { partForgotten s p with mem := memApply s.mem (partCleared s p).2 }
      if zero then ((zeroTracts t (partAt s p).tracts).1, (partCleared s p).2 ++ (zeroTracts t (partAt s p).tracts).2)
      else (t, (partCleared s p).2) := rfl

/-- What a partition's reset leaves of the state, zeroing or not. -/
theorem resetPart_fst (s : State) (p : Nat) (zero : Bool) : ∃ m par bad,
    (resetPart s p zero).1 = { partForgotten s p with mem := m, parity := par, badLines := bad } := by
  rw [resetPart_eq]
  cases zero
  · exact ⟨_, _, _, rfl⟩
  · exact ⟨_, _, _, rfl⟩

theorem launches_partForgotten {s : State} {p : Nat} {e : Nat × Launch} (he : e ∈ (partForgotten s p).launches) : e.1 / 2 ^ 32 ≠ p := by
  have h := (List.mem_filter.1 (show e ∈ List.filter _ _ from he)).2
  simpa using h

theorem part_partForgotten (s : State) (p : Nat) : (partAt (partForgotten s p) p).faults = [] ∧ (partAt (partForgotten s p) p).nextLaunch = 1 := by
  unfold partForgotten
  dsimp only
  rw [partAt_modPart]
  split
  · exact ⟨rfl, rfl⟩
  · next hn =>
    have hblank : partAt ((partLaunches s p).foldl resetCompletion (partCleared s p).1) p = Partition.blank := by
      unfold partAt tget
      rw [Option.not_isSome_iff_eq_none.1 fun c => hn ⟨rfl, c⟩]
      rfl
    exact ⟨congrArg Partition.faults hblank, congrArg Partition.nextLaunch hblank⟩

theorem blocks_partForgotten {s : State} {p : Nat} {e : Nat × Block} (he : e ∈ (partForgotten s p).blocks) :
    ∀ u ∈ (partAt s p).tracts, e.1 / 512 ≠ u := by
  have hr := foldl_related Reported.refl Reported.trans reported_resetCompletion (partLaunches s p) (partCleared s p).1
  have hmem : e ∈ (partCleared s p).1.blocks := by rw [← hr.blocks]; exact he
  exact (blocks_clearTracts _ _ hmem).2

/-- A reset that zeroes memory zeroes that of the partition's tracts (R92). -/
theorem memRead_resetPart (s : State) (p : Nat) (m : Memory) {u a : Nat} (hu : u ∈ (partAt s p).tracts)
    (ha : Config.tractWindow * u ≤ a) (hb : a < Config.tractWindow * u + Config.tractBytes) :
    memRead (memApply m (resetPart s p true).2) a = 0 := by
  rw [resetPart_eq]
  dsimp only
  rw [if_pos rfl, memApply_append]
  exact memRead_memApply_zeros a (lo := fun t => Config.tractWindow * t) (hi := fun t => Config.tractWindow * t + Config.tractBytes)
    ⟨ha, hb⟩ _ _ (.inr hu)

theorem doResetPart_eq {s : State} {h : CmdHeader} {flags : Byte} {index : Word} (hr : Received s h 8) (hf : flags.toNat < 2)
    (ho : h.endpoint ≠ 0 → resetTarget h index.toNat = h.endpoint) (hp : (tfind s.parts (resetTarget h index.toNat)).isSome) :
    doResetPart s h flags 0 index =
      let r := resetPart (endWaiting (acceptedAt s h) (resetTarget h index.toNat)) (resetTarget h index.toNat) (flags.getLsbD 0)
      (reply r.1 h 0x05 .ok, r.2) := by
  have hbad : ((0 : Half) != 0 || decide (2 ≤ flags.toNat)) = false := by simp; omega
  have hown : ¬ (h.endpoint != 0 && resetTarget h index.toNat != h.endpoint) = true := by
    by_cases he : h.endpoint = 0
    · simp [he]
    · simp [ho he]
  have hnone : ¬ (tfind (acceptedAt s h).parts (resetTarget h index.toNat)).isNone = true := by
    rw [Option.isNone_iff_eq_none, ← Option.not_isSome_iff_eq_none, (reported_acceptedAt s h).part_isSome, not_not]
    exact hp
  unfold doResetPart
  refine (accept_of_received hr hbad rfl).trans ?_
  exact (if_neg hown).trans (if_neg hnone)

theorem resetPartition_spec {s : State} {h : CmdHeader} {flags : Byte} {index : Word} (hr : Received s h 8) (hf : flags.toNat < 2)
    (ho : h.endpoint ≠ 0 → resetTarget h index.toNat = h.endpoint) (hp : (tfind s.parts (resetTarget h index.toNat)).isSome) :
    Completes (.resetPartition h flags 0 index) s fun t =>
      (∀ e ∈ t.launches, e.1 / 2 ^ 32 ≠ resetTarget h index.toNat) ∧ (partAt t (resetTarget h index.toNat)).faults = [] ∧
      (partAt t (resetTarget h index.toNat)).nextLaunch = 1 ∧
      (∀ u ∈ (partAt s (resetTarget h index.toNat)).tracts, ∀ e ∈ t.blocks, e.1 / 512 ≠ u) ∧
      (flags.getLsbD 0 = true → ∀ u ∈ (partAt s (resetTarget h index.toNat)).tracts, ∀ a, Config.tractWindow * u ≤ a →
        a < Config.tractWindow * u + Config.tractBytes → memRead t.mem a = 0) := by
  have hd := doResetPart_eq hr hf ho hp
  generalize resetTarget h index.toNat = p at *
  have hw : Reported s (endWaiting (acceptedAt s h) p) := (reported_acceptedAt s h).trans (reported_endWaiting _ p)
  have htr : (partAt (endWaiting (acceptedAt s h) p) p).tracts = (partAt s p).tracts := by rw [hw.part]
  generalize endWaiting (acceptedAt s h) p = w at *
  refine ⟨_, rfl, ?_⟩
  rw [hd, ← htr]
  dsimp only
  obtain ⟨m, par, bad, hfst⟩ := resetPart_fst w p (flags.getLsbD 0)
  have ha := reported_reply (resetPart w p (flags.getLsbD 0)).1 h 0x05 .ok
  rw [hfst] at ha ⊢
  obtain ⟨hfaults, hnext⟩ := part_partForgotten w p
  have hpart := ha.part p
  refine ⟨fun e he => launches_partForgotten (s := w) (ha.launches ▸ he), ?_, ?_, fun u hu e he => blocks_partForgotten (s := w) (ha.blocks ▸ he) u hu,
    fun hz u hu a hlo hhi => ?_⟩
  · exact (congrArg Partition.faults hpart).trans hfaults
  · exact (congrArg Partition.nextLaunch hpart).trans hnext
  · rw [hz]
    exact memRead_resetPart w p s.mem hu hlo hhi

/-! ## The resets -/

theorem resetCopyEngine_spec {s : State} {h : CmdHeader} {index : Word} (hr : Received s h 8) (hi : index.toNat < 2048)
    (ho : h.endpoint ≠ 0 → (tractAt s (index.toNat / 128)).owner = h.endpoint) :
    Completes (.resetCopyEngine h 0 0 index) s fun t =>
      Answered s t h 5 .ok 0 [] ∧ (coreAt t index.toNat).queue = [] ∧
      ∀ c ∈ (coreAt s index.toNat).queue, (gangAt s (blockAt s c.block).gang).state.live = true →
        (tfind s.gangs (blockAt s c.block).gang).isSome → (gangAt t (blockAt s c.block).gang).state = .killing s.now := by
  have ha := reported_acceptedAt s h
  have hun : Unanswered s (copyReset (acceptedAt s h) index.toNat) :=
    (unanswered_acceptedAt s h).trans ((unanswered_killAll rfl rfl _ _ _).trans (unitsMoved_copyEmptied _ _ _).unanswered)
  have hrep := reported_reply (copyReset (acceptedAt s h) index.toNat) h 0x05 .ok
  refine ⟨_, rfl, ?_⟩
  rw [doResetCopy_eq hr hi ho]
  refine ⟨answered_reply hr hun 5 .ok, (congrArg Core.queue (hrep.coreAt index.toNat)).trans (queue_copyEmptied _ _ _), fun c hc hl hs => ?_⟩
  have hk := copyReset_kills (t := acceptedAt s h) (c := index.toNat) (x := c) (by rw [ha.coreAt]; exact hc)
  rw [ha.blockAt, ha.gangAt, ha.gangs, ha.now] at hk
  exact (congrArg Gang.state (hrep.gangAt _)).trans (hk hl hs)

theorem resetMatrixEngine_spec {s : State} {h : CmdHeader} {index : Word} (hr : Received s h 8) (hi : index.toNat < 512)
    (ho : h.endpoint ≠ 0 → (tractAt s (index.toNat / 32)).owner = h.endpoint) :
    Completes (.resetMatrixEngine h 0 0 index) s fun t =>
      Answered s t h 5 .ok 0 [] ∧ (quadAt t index.toNat).latches = [] ∧ (quadAt t index.toNat).table = [] := by
  have hun : Unanswered s (matrixReset (acceptedAt s h) index.toNat) :=
    (unanswered_acceptedAt s h).trans ((unanswered_killAll rfl rfl _ _ _).trans (unitsMoved_dropRequests _ _ _).unanswered)
  have hrep := reported_reply (matrixReset (acceptedAt s h) index.toNat) h 0x05 .ok
  obtain ⟨hlatches, htable⟩ := dropRequests_all
    (killAll (acceptedAt s h) (matrixGangs (acceptedAt s h) index.toNat) .engine (locQuad index.toNat)) index.toNat
  refine ⟨_, rfl, ?_⟩
  rw [doResetMatrix_eq hr hi ho]
  exact ⟨answered_reply hr hun 5 .ok, (congrArg Quad.latches (hrep.quadAt _)).trans hlatches, (congrArg Quad.table (hrep.quadAt _)).trans htable⟩

theorem resetLink_spec {s : State} {h : CmdHeader} {index : Word} (hr : Received s h 8) (he : h.endpoint = 0) (hi : index.toNat < 14) :
    Completes (.resetLink h 0 0 index) s fun t => linkState t index.toNat = .down := by
  refine ⟨_, rfl, ?_⟩
  rw [doResetLink_eq hr he hi]
  exact ((reported_reply _ h 0x05 .ok).linkState _).trans (takeDown_down _ _)

/-- Settles O57: a partition's, an engine's and a link's reset, each by what it leaves before the answer, which tells the host alone. -/
theorem resets : Obligations.Resets := by
  unfold Obligations.Resets
  exact ⟨fun h flags index s hr hf ho hp => resetPartition_spec hr hf ho hp, fun h index s hr hi ho => resetCopyEngine_spec hr hi ho,
    fun h index s hr hi ho => resetMatrixEngine_spec hr hi ho, fun h index s hr he hi => resetLink_spec hr he hi⟩

end Sys2Proof.Proofs
end

section
/-! SUPPORT. The issue stage (R144, R147, R148): slots are examined in rotation, those that cannot issue hold their bundles, and the
first that can leads. -/

namespace Sys2Proof.Proofs
open Sys2Proof Sys2Proof.Machine Sys2Proof.Laws

/-! ## What the issue stage leaves alone -/

theorem UnitsMoved.sheaves {s t : State} (h : UnitsMoved s t) : t.sheaves = s.sheaves := by
  unfold UnitsMoved at h
  rw [h]

theorem UnitsMoved.sheafAt {s t : State} (h : UnitsMoved s t) (f : Nat) : sheafAt t f = sheafAt s f := by
  simp only [Machine.sheafAt, h.sheaves]

theorem unitsMoved_modStrand (s : State) (k : Nat) (f : Strand → Strand) : UnitsMoved s (modStrand s k f) := rfl
theorem unitsMoved_modCore (s : State) (c : Nat) (f : Core → Core) : UnitsMoved s (modCore s c f) := rfl

/-- A fold of steps each of which changes units alone. -/
theorem unitsMoved_foldl {α : Type} {f : State → α → State} (hf : ∀ s a, UnitsMoved s (f s a)) (l : List α) (s : State) :
    UnitsMoved s (l.foldl f s) := foldl_related UnitsMoved.refl UnitsMoved.trans hf l s

theorem unitsMoved_drainBlock (s : State) (b : Nat) : UnitsMoved s (drainBlock s b) := by
  unfold drainBlock
  dsimp only
  split
  · exact .refl s
  · unfold drainUpTo settle
    exact (unitsMoved_modCore _ _ _).trans (unitsMoved_modCore _ _ _)

theorem unitsMoved_startFence (s : State) (k sc : Nat) : UnitsMoved s (startFence s k sc) := by
  unfold startFence
  dsimp only
  split
  · exact unitsMoved_modStrand _ _ _
  · exact (unitsMoved_drainBlock s _).trans (unitsMoved_modStrand _ _ _)

theorem unitsMoved_startLead (stem : Stem) (x : Three) (pc : DWord) (s : State) (k : Nat) : UnitsMoved s (startLead stem x pc s k) := by
  unfold startLead
  split
  · exact .refl s
  · split
    · exact .refl s
    · exact (unitsMoved_startFence s k _).trans (unitsMoved_modStrand _ _ _)

/-- A bundle that is examined may issue its leading fences. -/
theorem unitsMoved_canIssue (s : State) (b : Bundle) : UnitsMoved s (canIssue s b).2 := by
  unfold canIssue
  split
  · exact .refl s
  · split
    · exact .refl s
    · dsimp only
      split
      · exact .refl s
      · exact unitsMoved_foldl (unitsMoved_startLead _ _ _) _ s

theorem unitsMoved_endDeferral (s : State) (b : Bundle) : UnitsMoved s (endDeferral s b) := by
  refine unitsMoved_foldl (fun u f => ?_) _ s
  refine unitsMoved_foldl (fun v k => ?_) _ u
  split
  · exact unitsMoved_modStrand _ _ _
  · exact .refl v

theorem unitsMoved_fillTlb (s : State) (c : Nat) (l : Launch) (va : Nat) : UnitsMoved s (fillTlb s c l va) := by
  unfold fillTlb
  split
  · exact unitsMoved_modCore _ _ _
  · exact .refl s

theorem unitsMoved_fetchedCode (s : State) (c : Nat) (l : Launch) (pc : Nat) : UnitsMoved s (fetchedCode s c l pc) :=
  unitsMoved_foldl (fun _ _ => unitsMoved_modCore _ _ _) _ s

/-! ## Sheaves -/

theorem sheafAt_modSheaf (s : State) (f : Nat) (g : Sheaf → Sheaf) (x : Nat) :
    sheafAt (modSheaf s f g) x = if x = f ∧ (tfind s.sheaves f).isSome then g (sheafAt s f) else sheafAt s x := tget_tmod _ _ _ _ _

theorem isSome_holdSlot (c : Nat) (s : State) (slot f : Nat) : (tfind (holdSlot c s slot).sheaves f).isSome = (tfind s.sheaves f).isSome := by
  unfold holdSlot
  split
  · rw [modSheaf_sheaves, isSome_tmod, (unitsMoved_canIssue s _).sheaves]
  · rfl

theorem isSome_holdSlots (c : Nat) (slots : List Nat) (s : State) (f : Nat) :
    (tfind (slots.foldl (holdSlot c) s).sheaves f).isSome = (tfind s.sheaves f).isSome :=
  foldl_related (R := fun s t : State => (tfind t.sheaves f).isSome = (tfind s.sheaves f).isSome) (fun _ => rfl)
    (by intro _ _ _ h k; exact k.trans h) (fun u x => isSome_holdSlot c u x f) slots s

/-- A slot that is examined changes no other sheaf. -/
theorem sheafAt_holdSlot_ne (c : Nat) (s : State) {slot f : Nat} (h : f ≠ 64 * c + slot) : sheafAt (holdSlot c s slot) f = sheafAt s f := by
  unfold holdSlot
  split
  · rw [sheafAt_modSheaf, if_neg (fun e => h e.1), (unitsMoved_canIssue s _).sheafAt]
  · rfl

theorem sheafAt_holdSlots_ne (c : Nat) {f : Nat} (slots : List Nat) (s : State) (h : ∀ x ∈ slots, f ≠ 64 * c + x) :
    sheafAt (slots.foldl (holdSlot c) s) f = sheafAt s f := by
  induction slots generalizing s with
  | nil => rfl
  | cons x xs ih =>
    rw [List.foldl_cons, ih _ fun y hy => h y (List.mem_cons_of_mem _ hy), sheafAt_holdSlot_ne c s (h x List.mem_cons_self)]

/-- A slot whose bundle is examined, and is there, holds it. -/
theorem held_holdSlot {c : Nat} {s : State} {slot : Nat} {b : Bundle} (hc : candidate s (64 * c + slot) = some b)
    (hs : (tfind s.sheaves (64 * c + slot)).isSome) : (sheafAt (holdSlot c s slot) (64 * c + slot)).held = some b := by
  unfold holdSlot
  rw [hc]
  dsimp only
  rw [sheafAt_modSheaf, if_pos ⟨rfl, by rw [(unitsMoved_canIssue s b).sheaves]; exact hs⟩]

/-! ## The examination -/

theorem noneIssues_tail {s : State} {c x : Nat} {xs : List Nat} (h : NoneIssues s c (x :: xs)) : NoneIssues (holdSlot c s x) c xs := by
  intro before slot after b e hb
  exact h (x :: before) slot after b (by rw [e]; rfl) hb

/-- Slots none of which can issue are passed by, and hold their bundles. -/
theorem examine_append {c : Nat} (before rest : List Nat) (s : State) (h : NoneIssues s c before) :
    examine c (before ++ rest) s = examine c rest (before.foldl (holdSlot c) s) := by
  induction before generalizing s with
  | nil => rfl
  | cons x xs ih =>
    rw [List.foldl_cons, ← ih _ (noneIssues_tail h), List.cons_append, examine]
    cases hc : candidate s (64 * c + x) with
    | none =>
      have hx : holdSlot c s x = s := by unfold holdSlot; rw [hc]
      rw [hx]
    | some b =>
      have hno : (canIssue s b).1 = false := h [] x xs b rfl hc
      have hx : holdSlot c s x = modSheaf (canIssue s b).2 (64 * c + x) fun y => { y with held := some b } := by unfold holdSlot; rw [hc]
      rw [hx]
      dsimp only
      generalize canIssue s b = r at hno ⊢
      obtain ⟨ok, t⟩ := r
      subst hno
      rfl

/-- The first slot whose bundle can issue leads. -/
theorem examine_issues {c : Nat} {slot : Nat} {rest : List Nat} {s : State} {b : Bundle} (hc : candidate s (64 * c + slot) = some b)
    (hi : (canIssue s b).1 = true) : examine c (slot :: rest) s = issueBundle (canIssue s b).2 (64 * c + slot) b := by
  rw [examine, hc]
  dsimp only
  generalize canIssue s b = r at hi ⊢
  obtain ⟨ok, t⟩ := r
  subst hi
  rfl

theorem slotOrder_lt {s : State} {c x : Nat} (h : x ∈ slotOrder s c) : x < 64 := by
  unfold slotOrder at h
  obtain ⟨i, -, rfl⟩ := List.mem_map.1 (List.mem_filter.1 h).1
  omega

theorem slotOrder_occupied {s : State} {c x : Nat} (h : x ∈ slotOrder s c) : (tfind s.sheaves (64 * c + x)).isSome = true :=
  (List.mem_filter.1 (show x ∈ List.filter _ _ from h)).2

theorem slotOrder_nodup (s : State) (c : Nat) : (slotOrder s c).Nodup := by
  refine List.Nodup.filter _ (List.Nodup.map_on (fun i hi j hj e => ?_) List.nodup_range)
  rw [List.mem_range] at hi hj
  omega

/-! ## The bundle -/

/-- The machine with a bundle's code fetched and its strands' fences behind them. -/
def issueReady (s : State) (b : Bundle) : State :=
  let l := launchOf s (blockAt s b.block)
  b.strands.foldl (fun u k => modStrand u k fun x => { x with led := none, fences := x.fences.filter fun w => !fenceDone s b.core w })
    (fetchedCode (fillTlb (endDeferral s b) b.core l b.pc.toNat) b.core l b.pc.toNat)

/-- A leader's sheaf holds no bundle any more (R144). -/
def leaderCleared (b : Bundle) (y : Sheaf) : Sheaf := { y with held := none, backedge := if b.lifted then 0 else y.backedge }

theorem unitsMoved_issueReady (s : State) (b : Bundle) : UnitsMoved s (issueReady s b) :=
  (((unitsMoved_endDeferral s b).trans (unitsMoved_fillTlb _ _ _ _)).trans (unitsMoved_fetchedCode _ _ _ _)).trans
    (unitsMoved_foldl (fun _ _ => unitsMoved_modStrand _ _ _) _ _)

/-- A bundle issues: the rotation of its core goes on to the leader, and the bundle comes to the issue stage. -/
theorem issueBundle_eq (s : State) (f : Nat) (b : Bundle) :
    issueBundle s f b =
      let t := modCore (modSheaf (issueReady s b) f (leaderCleared b)) (f / 64) fun c => { c with rot := f % 64 }
      { t with ctl := { t.ctl with bundle := some { b with above := aboveOf s b } } } := rfl

/-- An issued bundle changes its leader's sheaf alone. -/
theorem sheafAt_issueBundle_ne (s : State) {f x : Nat} (b : Bundle) (h : x ≠ f) : sheafAt (issueBundle s f b) x = sheafAt s x := by
  have ht : sheafAt (issueBundle s f b) x = sheafAt (modSheaf (issueReady s b) f (leaderCleared b)) x := by rw [issueBundle_eq]; rfl
  rw [ht, sheafAt_modSheaf, if_neg (fun e => h e.1), (unitsMoved_issueReady s b).sheafAt]

/-- The slot that leads is the pointer's new place (R144). -/
theorem rot_issueBundle (s : State) {c slot : Nat} (b : Bundle) (h : slot < 64) : (coreAt (issueBundle s (64 * c + slot) b) c).rot = slot := by
  have hf : (64 * c + slot) / 64 = c := by omega
  have hm : (64 * c + slot) % 64 = slot := by omega
  have ht : coreAt (issueBundle s (64 * c + slot) b) c =
      coreAt (modCore (modSheaf (issueReady s b) (64 * c + slot) (leaderCleared b)) c fun k => { k with rot := slot }) c := by
    rw [issueBundle_eq, hf, hm]
    rfl
  rw [ht, coreAt_modCore, if_pos rfl]

theorem mem_insertLane_iff {s : State} {k x : Nat} {l : List Nat} (h : ∀ j ∈ l, (strandAt s j).lane ≠ (strandAt s k).lane) :
    x ∈ insertLane s k l ↔ x = k ∨ x ∈ l := by
  refine ⟨mem_insertLane, fun hx => ?_⟩
  induction l with
  | nil => simpa [insertLane] using hx
  | cons j js ih =>
    unfold insertLane
    split
    · simpa using hx
    · rw [if_neg fun e => h j List.mem_cons_self e.symm]
      rcases hx with rfl | hx
      · exact List.mem_cons_of_mem _ (ih (fun i hi => h i (List.mem_cons_of_mem _ hi)) (.inl rfl))
      · rcases List.mem_cons.1 hx with rfl | hx
        · exact List.mem_cons_self
        · exact List.mem_cons_of_mem _ (ih (fun i hi => h i (List.mem_cons_of_mem _ hi)) (.inr hx))

/-- Strands of different lanes are all put in order. -/
theorem mem_byLane_of_mem {s : State} {x : Nat} {ks : List Nat} (hn : (ks.map fun k => (strandAt s k).lane).Nodup) (hx : x ∈ ks) :
    x ∈ byLane s ks := by
  induction ks with
  | nil => exact hx
  | cons k ks ih =>
    obtain ⟨hk, hn⟩ := List.nodup_cons.1 hn
    refine (mem_insertLane_iff fun j hj e => hk (List.mem_map.2 ⟨j, mem_byLane hj, e⟩)).2 ?_
    rcases List.mem_cons.1 hx with rfl | hx
    · exact .inl rfl
    · exact .inr (ih hn hx)

/-- What the issue stage puts out: the strands of a bundle that stand in it, in ascending home lane (R10, R147). -/
theorem soundBundle_spec (t : State) (b : Bundle) :
    (∀ k ∈ (soundBundle t b).strands, k ∈ b.strands ∧ standsIn t (soundBundle t b) k = true) ∧ (soundBundle t b).strands.Nodup ∧
    LaneOrder t (soundBundle t b).strands ∧ ((b.strands.map fun k => (strandAt t k).lane).Nodup →
      ∀ k ∈ b.strands, standsIn t (soundBundle t b) k = true → k ∈ (soundBundle t b).strands) := by
  have hord : LaneOrder t (soundBundle t b).strands := byLane_order t _
  refine ⟨fun k hk => List.mem_filter.1 (mem_byLane (show k ∈ byLane t _ from hk)), hord.nodup, hord, fun hn k hk hst => ?_⟩
  refine mem_byLane_of_mem (s := t) ?_ (List.mem_filter.2 ⟨hk, hst⟩)
  exact hn.sublist ((List.filter_sublist).map _)

/-! ## An issue cycle -/

/-- The machine as a core's slots are examined: its quad's cycle has come, and the trap entries that had stalled are complete. -/
def examined (s : State) (c : Nat) : State := completeTraps (spendCycle (enterCycle s c) c) c

theorem issueCore_of_allowed {s : State} {c line n : Nat} (hb : s.ctl.bundle = none) (ha : allowed (enterCycle s c) (c / 4) = true) :
    issueCore s c 0 line n = examine c (slotOrder (examined s c) c) (examined s c) := by
  unfold issueCore
  rw [hb, if_neg (by simp)]
  dsimp only
  rw [ha, if_neg (by simp)]
  rfl

theorem issueCore_of_not_allowed {s : State} {c hit line n : Nat} (hb : s.ctl.bundle = none)
    (ha : allowed (enterCycle s c) (c / 4) = false) : issueCore s c hit line n = enterCycle s c := by
  unfold issueCore
  rw [hb, if_neg (by simp)]
  dsimp only
  rw [ha, if_pos (by simp)]

/-- Where the first slots cannot issue and the next can, it leads, and they hold their bundles. -/
theorem issueCycle_leads {s : State} {before rest : List Nat} {slot : Nat} {b : Bundle} (hb : s.ctl.bundle = none)
    (ha : allowed (enterCycle s (s.arg 0)) (s.arg 0 / 4) = true) (h0 : s.arg 1 = 0)
    (ho : slotOrder (examined s (s.arg 0)) (s.arg 0) = before ++ slot :: rest) (hn : NoneIssues (examined s (s.arg 0)) (s.arg 0) before)
    (hc : candidate (before.foldl (holdSlot (s.arg 0)) (examined s (s.arg 0))) (64 * s.arg 0 + slot) = some b)
    (hi : (canIssue (before.foldl (holdSlot (s.arg 0)) (examined s (s.arg 0))) b).1 = true) :
    Completes .issueCycle s fun t =>
      (coreAt t (s.arg 0)).rot = slot ∧
      (∀ a x z c, before = a ++ x :: z → candidate (a.foldl (holdSlot (s.arg 0)) (examined s (s.arg 0))) (64 * s.arg 0 + x) = some c →
        (sheafAt t (64 * s.arg 0 + x)).held = some c) ∧
      ∃ c, t.ctl.bundle = some c ∧ c.core = b.core ∧ c.block = b.block ∧ c.pc = b.pc ∧
        (∀ k ∈ c.strands, k ∈ b.strands ∧ standsIn t c k = true) ∧ c.strands.Nodup ∧ LaneOrder t c.strands ∧
        ((b.strands.map fun k => (strandAt t k).lane).Nodup → ∀ k ∈ b.strands, standsIn t c k = true → k ∈ c.strands) := by
  have hcycle : issueCore s (s.arg 0) (s.arg 1) (s.arg 2) (s.arg 3) =
      issueBundle (canIssue (before.foldl (holdSlot (s.arg 0)) (examined s (s.arg 0))) b).2 (64 * s.arg 0 + slot) b := by
    rw [h0, issueCore_of_allowed hb ha, ho, examine_append before _ _ hn, examine_issues hc hi]
  have hmem : slot ∈ slotOrder (examined s (s.arg 0)) (s.arg 0) := by rw [ho]; simp
  have hnodup := slotOrder_nodup (examined s (s.arg 0)) (s.arg 0)
  refine ⟨_, rfl, ?_⟩
  rw [hcycle]
  generalize s.arg 0 = core at *
  refine ⟨rot_issueBundle _ b (slotOrder_lt hmem), fun a x z c e hx => ?_, _, rfl, rfl, rfl, rfl, soundBundle_spec _ _⟩
  subst e
  have hxs : x ∈ slotOrder (examined s core) core := by rw [ho]; simp
  rw [ho, List.append_assoc, List.nodup_append] at hnodup
  obtain ⟨-, hnd, -⟩ := hnodup
  obtain ⟨hne, -⟩ := List.nodup_cons.1 hnd
  rw [sheafAt_atIssue, sheafAt_issueBundle_ne _ _ (by intro e; exact hne (by simp; right; left; omega)),
    (unitsMoved_canIssue _ b).sheafAt, List.foldl_append, List.foldl_cons,
    sheafAt_holdSlots_ne core z _ (fun y hy e => hne (by simp; left; exact (show x = y by omega) ▸ hy))]
  exact held_holdSlot hx (by rw [isSome_holdSlots]; exact slotOrder_occupied hxs)

/-- Outside the allowance of its quad, a core's issue stage only comes to its cycle (R30). -/
theorem issueCycle_withheld {s : State} (hb : s.ctl.bundle = none) (ha : allowed (enterCycle s (s.arg 0)) (s.arg 0 / 4) = false) :
    Completes .issueCycle s fun t => t.ctl.bundle = none ∧ t.strands = s.strands ∧ t.sheaves = s.sheaves := by
  refine ⟨_, rfl, ?_⟩
  rw [issueCore_of_not_allowed hb ha]
  unfold enterCycle
  split
  · exact ⟨by change Option.map _ s.ctl.bundle = none; rw [hb]; rfl, rfl, rfl⟩
  · exact ⟨by change Option.map _ s.ctl.bundle = none; rw [hb]; rfl, rfl, rfl⟩

end Sys2Proof.Proofs
end

section
/-! SUPPORT. Grants of register requests and releases of barriers (R154, R158, R270, R275, R276), and the core's events together. -/

namespace Sys2Proof.Proofs
open Sys2Proof Sys2Proof.Machine Sys2Proof.Laws

/-! ## Strands that are there -/

theorem StrandsMoved.sheaves {s t : State} (h : StrandsMoved s t) : t.sheaves = s.sheaves := by
  unfold StrandsMoved at h
  rw [h]

theorem StrandsMoved.sheafAt {s t : State} (h : StrandsMoved s t) (f : Nat) : sheafAt t f = sheafAt s f := by
  simp only [Machine.sheafAt, h.sheaves]

theorem StrandsMoved.blocks {s t : State} (h : StrandsMoved s t) : t.blocks = s.blocks := by
  unfold StrandsMoved at h
  rw [h]

theorem StrandsMoved.blockAt {s t : State} (h : StrandsMoved s t) (b : Nat) : blockAt t b = blockAt s b := by
  simp only [Machine.blockAt, h.blocks]

theorem StrandsMoved.coreAt {s t : State} (h : StrandsMoved s t) (c : Nat) : coreAt t c = coreAt s c := by
  unfold StrandsMoved at h
  rw [h]
  rfl

theorem strandsMoved_modStrand (s : State) (k : Nat) (f : Strand → Strand) : StrandsMoved s (modStrand s k f) := rfl

theorem strandAt_modStrand (s : State) (k : Nat) (f : Strand → Strand) (j : Nat) :
    strandAt (modStrand s k f) j = if j = k ∧ (tfind s.strands k).isSome then f (strandAt s k) else strandAt s j := tget_tmod _ _ _ _ _

/-- A strand that is not Done is there. -/
theorem isSome_of_cond {s : State} {k : Nat} {c : Cond} (h : (strandAt s k).cond = c) (hc : c ≠ .done) : (tfind s.strands k).isSome := by
  rw [Option.isSome_iff_ne_none]
  intro e
  refine hc (h.symm.trans ?_)
  rw [strandAt, tget, e]
  rfl

theorem isSome_modStrand (s : State) (k j : Nat) (f : Strand → Strand) : (tfind (modStrand s k f).strands j).isSome = (tfind s.strands j).isSome :=
  isSome_tmod _ _ _ _

theorem sheafStrands_nodup (s : State) (f : Nat) : (sheafStrands s f).Nodup := by
  refine List.Nodup.map (fun i j e => ?_) List.nodup_range
  simp only [strandKey] at e
  omega

/-! ## Releases (R270, R275, R276) -/

/-- A strand as its barrier releases it: past the instruction, Running or waiting on its sheaf's request. -/
def released (s : State) (k : Nat) (x : Strand) : Strand :=
  { x.past x.waitLen with cond := if (sheafAt s (sheafOf k)).regx.isSome then .waiting (.regx false) else .running }

theorem strandsMoved_releaseWaiter (s : State) (k : Nat) : StrandsMoved s (releaseWaiter s k) := rfl

theorem strandsMoved_releaseAll (ws : List Nat) (s : State) : StrandsMoved s (ws.foldl releaseWaiter s) :=
  foldl_related StrandsMoved.refl StrandsMoved.trans strandsMoved_releaseWaiter ws s

theorem isSome_releaseWaiter (s : State) (k j : Nat) : (tfind (releaseWaiter s k).strands j).isSome = (tfind s.strands j).isSome :=
  (isSome_modStrand _ k j _).trans (isSome_modStrand s k j _)

theorem strandAt_releaseWaiter {s : State} {k : Nat} (hs : (tfind s.strands k).isSome) (j : Nat) :
    strandAt (releaseWaiter s k) j = if j = k then released s k (strandAt s k) else strandAt s j := by
  have ha : ∀ i, strandAt (advance s (strandAt s k).waitLen k) i = if i = k then (strandAt s k).past (strandAt s k).waitLen else strandAt s i := by
    intro i
    unfold advance
    rw [strandAt_modStrand]
    simp only [hs, and_true]
    rfl
  unfold releaseWaiter wake
  rw [strandAt_modStrand, ha, ha]
  have hk : (tfind (advance s (strandAt s k).waitLen k).strands k).isSome := by
    unfold advance
    rw [isSome_modStrand]
    exact hs
  simp only [hk, and_true, if_true]
  split
  · rfl
  · rfl

theorem released_iff (s t : State) (ws : List Nat) :
    Released s t ws ↔ ∀ k, strandAt t k = if k ∈ ws then released s k (strandAt s k) else strandAt s k := Iff.rfl

theorem released_congr {s t : State} (h : t.sheaves = s.sheaves) (j : Nat) (x : Strand) : released t j x = released s j x := by
  have hf : sheafAt t (sheafOf j) = sheafAt s (sheafOf j) := by simp only [sheafAt, h]
  unfold released
  rw [hf]

/-- Waiters without repeats are each released, and no other strand changes. -/
theorem released_foldl {ws : List Nat} {s : State} (hn : ws.Nodup) (hs : ∀ k ∈ ws, (tfind s.strands k).isSome) :
    Released s (ws.foldl releaseWaiter s) ws := by
  rw [released_iff]
  induction ws generalizing s with
  | nil => intro j; rfl
  | cons k ws ih =>
    obtain ⟨hk, hn⟩ := List.nodup_cons.1 hn
    intro j
    have h := ih hn (s := releaseWaiter s k) (fun i hi => by rw [isSome_releaseWaiter]; exact hs i (List.mem_cons_of_mem _ hi)) j
    rw [List.foldl_cons, h, released_congr (strandsMoved_releaseWaiter s k).sheaves, strandAt_releaseWaiter (hs k List.mem_cons_self)]
    by_cases hj : j = k
    · subst hj
      rw [if_neg hk, if_pos rfl, if_pos List.mem_cons_self]
    · simp only [hj, List.mem_cons, false_or, if_false]

theorem waiter_isSome {s : State} {w : Wait} {ks : List Nat} : ∀ k ∈ waitersAt s w ks, (tfind s.strands k).isSome := fun k hk =>
  isSome_of_cond (c := .waiting w) (by simpa using (List.mem_filter.1 hk).2) (by intro e; cases e)

theorem barRelease_spec {s : State} (ha : allArrived s .bar (blockStrands s (4 * s.arg 0 + s.arg 1)) = true)
    (hs : saving s (4 * s.arg 0 + s.arg 1) = false) (hn : (blockStrands s (4 * s.arg 0 + s.arg 1)).Nodup) :
    Completes .barRelease s fun t => Released s t (waitersAt s .bar (blockStrands s (4 * s.arg 0 + s.arg 1))) := by
  have hdue : barDue s (4 * s.arg 0 + s.arg 1) = true := by rw [barDue, ha, hs]; rfl
  refine ⟨_, rfl, ?_⟩
  unfold releaseBar
  rw [if_pos hdue]
  exact released_foldl (hn.filter _) waiter_isSome

theorem waitmRelease_spec {s : State}
    (ha : allArrived s (.waitm (s.arg 2)) ((sheafStrands s (64 * s.arg 0 + s.arg 1)).filter fun k =>
      (readM s (64 * s.arg 0 + s.arg 1) (s.arg 2)).getLsbD (k % 64)) = true)
    (hl : ∀ k ∈ waitersAt s (.waitm (s.arg 2)) (sheafStrands s (64 * s.arg 0 + s.arg 1)), loading s k = false)
    (hs : saving s (sheafAt s (64 * s.arg 0 + s.arg 1)).block = false) :
    Completes .waitmRelease s fun t => Released s t (waitersAt s (.waitm (s.arg 2)) (sheafStrands s (64 * s.arg 0 + s.arg 1))) := by
  have hany : (waitersAt s (.waitm (s.arg 2)) (sheafStrands s (64 * s.arg 0 + s.arg 1))).any (loading s) = false := by
    rw [List.any_eq_false]
    intro k hk
    rw [hl k hk]
    decide
  have hdue : waitmDue s (64 * s.arg 0 + s.arg 1) (s.arg 2) = true := by rw [waitmDue, ha, hs, hany]; rfl
  refine ⟨_, rfl, ?_⟩
  unfold releaseWaitm
  rw [if_pos hdue]
  exact released_foldl ((sheafStrands_nodup s _).filter _) waiter_isSome

/-! ## gbar (R158, R276) -/

/-- A block's window is swapped, where it has one (R158). -/
def bankSwapped (y : Block) : Block := { y with bank := if y.xBytes = 0 then y.bank else 1 - y.bank }

/-- The windows of some blocks are swapped. -/
def swapBanks (s : State) (bs : List Nat) : State := bs.foldl (fun u b => modBlock u b bankSwapped) s

theorem blockAt_modBlock (s : State) (b : Nat) (f : Block → Block) (x : Nat) :
    blockAt (modBlock s b f) x = if x = b ∧ (tfind s.blocks b).isSome then f (blockAt s b) else blockAt s x := tget_tmod _ _ _ _ _

/-- A state differs from another in blocks alone, which keep their sheaves. -/
def BlocksMoved (s t : State) : Prop := t = { s with blocks := t.blocks } ∧ ∀ b, (blockAt t b).sheafSlots = (blockAt s b).sheafSlots

theorem blocksMoved_swapBanks (bs : List Nat) (s : State) : BlocksMoved s (swapBanks s bs) := by
  refine foldl_related (R := BlocksMoved) (fun s => ⟨rfl, fun _ => rfl⟩) ?_ (fun u b => ⟨rfl, fun x => ?_⟩) bs s
  · rintro s t u ⟨h1, h2⟩ ⟨k1, k2⟩
    exact ⟨by rw [k1, h1], fun b => (k2 b).trans (h2 b)⟩
  · rw [blockAt_modBlock]
    split
    · next e => rw [e.1]; rfl
    · rfl

theorem bank_swapBanks {bs : List Nat} {s : State} (hn : bs.Nodup) (hs : ∀ b ∈ bs, (tfind s.blocks b).isSome) (x : Nat) :
    blockAt (swapBanks s bs) x = if x ∈ bs then bankSwapped (blockAt s x) else blockAt s x := by
  induction bs generalizing s with
  | nil => rfl
  | cons b bs ih =>
    obtain ⟨hb, hn⟩ := List.nodup_cons.1 hn
    have h := ih hn (s := modBlock s b bankSwapped) fun i hi => by
      rw [modBlock_blocks, isSome_tmod]
      exact hs i (List.mem_cons_of_mem _ hi)
    refine h.trans ?_
    rw [blockAt_modBlock]
    simp only [hs b List.mem_cons_self, and_true]
    by_cases hx : x = b
    · subst hx
      simp only [hb, List.mem_cons_self, if_true, if_false]
    · simp only [hx, List.mem_cons, false_or, if_false]

theorem isSome_tfind_of_mem {α : Type} {p : Nat × α} : ∀ {l : List (Nat × α)}, p ∈ l → (tfind l p.1).isSome
  | q :: l, h => by
    rw [tfind]
    split
    · rfl
    · next hne =>
      rcases List.mem_cons.1 h with rfl | h
      · exact absurd rfl hne
      · exact isSome_tfind_of_mem h

theorem isSome_of_mem_gangBlocks {s : State} {g b : Nat} (h : b ∈ gangBlocks s g) : (tfind s.blocks b).isSome := by
  obtain ⟨p, hp, rfl⟩ := List.mem_map.1 h
  exact isSome_tfind_of_mem (List.mem_filter.1 hp).1

/-- The waiters of a block at gbar. -/
def gbarWaiters (s : State) (b : Nat) : List Nat := waitersAt s .gbar (blockStrands s b)

/-- The waiters of a block at gbar are released. -/
def releaseGbar (s : State) (b : Nat) : State := (gbarWaiters s b).foldl releaseWaiter s

theorem blockStrands_congr {s t : State} (hs : t.sheaves = s.sheaves) {b : Nat} (hb : (blockAt t b).sheafSlots = (blockAt s b).sheafSlots) :
    blockStrands t b = blockStrands s b := by
  have hf : sheafStrands t = sheafStrands s := funext fun f => by simp only [sheafStrands, sheafAt, hs]
  simp only [blockStrands, blockSheaves, hb, hf]

/-- The releases of one block leave the waiters of another. -/
theorem gbarWaiters_releaseGbar {s : State} {b c : Nat} (hn : (gbarWaiters s b).Nodup) (hd : ∀ k ∈ gbarWaiters s b, k ∉ gbarWaiters s c) :
    gbarWaiters (releaseGbar s b) c = gbarWaiters s c := by
  have hm : StrandsMoved s (releaseGbar s b) := strandsMoved_releaseAll _ s
  have hr := (released_iff s (releaseGbar s b) (gbarWaiters s b)).1 (released_foldl hn waiter_isSome)
  unfold gbarWaiters
  rw [blockStrands_congr hm.sheaves (congrArg Block.sheafSlots (hm.blockAt c))]
  refine List.filter_congr fun k hk => ?_
  have hk' : k ∉ gbarWaiters s b := by
    intro hb
    have hw : (strandAt s k).cond == .waiting .gbar := (List.mem_filter.1 hb).2
    exact hd k hb (List.mem_filter.2 ⟨hk, hw⟩)
  rw [hr k, if_neg hk']

/-- Blocks released one after another, whose waiters are different, are released as one list. -/
theorem foldl_releaseGbar (bs : List Nat) (s : State) (hn : (bs.flatMap (gbarWaiters s)).Nodup) :
    bs.foldl releaseGbar s = (bs.flatMap (gbarWaiters s)).foldl releaseWaiter s := by
  induction bs generalizing s with
  | nil => rfl
  | cons b bs ih =>
    rw [List.flatMap_cons, List.nodup_append] at hn
    obtain ⟨hb, hbs, hd⟩ := hn
    have hsame : bs.flatMap (gbarWaiters (releaseGbar s b)) = bs.flatMap (gbarWaiters s) := by
      refine List.flatMap_congr fun c hc => gbarWaiters_releaseGbar hb fun k hk hk' => ?_
      exact hd k hk k (List.mem_flatMap.2 ⟨c, hc, hk'⟩) rfl
    rw [List.foldl_cons, ih _ (by rw [hsame]; exact hbs), hsame, List.flatMap_cons, List.foldl_append]
    rfl

theorem completeGbar_eq {s : State} {g : Nat} (h : gbarReady s g = true) :
    completeGbar s g = (gangBlocks s g).foldl releaseGbar (swapBanks s (gangBlocks s g)) := by
  unfold completeGbar
  rw [h, if_neg (by simp)]
  rfl

theorem gbarComplete_spec {s : State} (h : gbarReady s (s.arg 0) = true) :
    Completes .gbarComplete s fun t =>
      (((gangBlocks s (s.arg 0)).flatMap (gbarWaiters s)).Nodup → Released s t ((gangBlocks s (s.arg 0)).flatMap (gbarWaiters s))) ∧
      ((gangBlocks s (s.arg 0)).Nodup → ∀ b ∈ gangBlocks s (s.arg 0),
        (blockAt t b).bank = if (blockAt s b).xBytes = 0 then (blockAt s b).bank else 1 - (blockAt s b).bank) := by
  obtain ⟨hframe, hslots⟩ := blocksMoved_swapBanks (gangBlocks s (s.arg 0)) s
  have hsheaves : (swapBanks s (gangBlocks s (s.arg 0))).sheaves = s.sheaves := by rw [hframe]
  have hstrands : (swapBanks s (gangBlocks s (s.arg 0))).strands = s.strands := by rw [hframe]
  have hstrand : ∀ k, strandAt (swapBanks s (gangBlocks s (s.arg 0))) k = strandAt s k := fun k => by simp only [strandAt, hstrands]
  have hwait : gbarWaiters (swapBanks s (gangBlocks s (s.arg 0))) = gbarWaiters s := funext fun b => by
    simp only [gbarWaiters, waitersAt, blockStrands_congr hsheaves (hslots b), hstrand]
  refine ⟨_, rfl, fun hn => (released_iff _ _ _).2 fun k => ?_, fun hn b hb => ?_⟩
  · rw [strandAt_quiet, completeGbar_eq h, foldl_releaseGbar _ _ (by rw [hwait]; exact hn), hwait]
    have hpresent : ∀ k ∈ (gangBlocks s (s.arg 0)).flatMap (gbarWaiters s),
        (tfind (swapBanks s (gangBlocks s (s.arg 0))).strands k).isSome := fun k hk => by
      obtain ⟨b, -, hk⟩ := List.mem_flatMap.1 hk
      rw [hstrands]
      exact waiter_isSome k hk
    rw [(released_iff _ _ _).1 (released_foldl hn hpresent) k, hstrand, released_congr hsheaves]
  · have hm : StrandsMoved (swapBanks s (gangBlocks s (s.arg 0))) ((gangBlocks s (s.arg 0)).foldl releaseGbar (swapBanks s (gangBlocks s (s.arg 0)))) :=
      foldl_related StrandsMoved.refl StrandsMoved.trans (fun u b => strandsMoved_releaseAll _ u) _ _
    rw [blockAt_quiet, completeGbar_eq h, hm.blockAt, bank_swapBanks hn (fun b hb => isSome_of_mem_gangBlocks hb), if_pos hb]
    rfl

/-! ## Grants (R154) -/

/-- A strand that waited on a request goes on. -/
def regxWoken (u : State) (k : Nat) : State :=
  match (strandAt u k).cond with
  | .waiting (.regx true) => setCond u k .deferred
  | .waiting (.regx false) => setCond u k .running
  | _ => u

theorem strandsMoved_regxWoken (u : State) (k : Nat) : StrandsMoved u (regxWoken u k) := by
  unfold regxWoken
  split
  · exact strandsMoved_modStrand _ _ _
  · exact strandsMoved_modStrand _ _ _
  · exact .refl u

theorem strandAt_regxWoken_ne (u : State) {j k : Nat} (h : j ≠ k) : strandAt (regxWoken u k) j = strandAt u j := by
  unfold regxWoken setCond
  split
  · rw [strandAt_modStrand, if_neg fun e => h e.1]
  · rw [strandAt_modStrand, if_neg fun e => h e.1]
  · rfl

theorem cond_regxWoken_waiting {u : State} {k : Nat} (h : (strandAt u k).cond = .waiting (.regx false)) :
    (strandAt (regxWoken u k) k).cond = .running := by
  unfold regxWoken setCond
  rw [h]
  dsimp only
  rw [strandAt_modStrand, if_pos ⟨rfl, isSome_of_cond h (by intro e; cases e)⟩]

theorem cond_regxWoken_running {u : State} {j k : Nat} (h : (strandAt u j).cond = .running) : (strandAt (regxWoken u k) j).cond = .running := by
  by_cases hj : j = k
  · subst hj
    unfold regxWoken
    rw [h]
    exact h
  · rw [strandAt_regxWoken_ne u hj, h]

theorem cond_regxWoken_foldl_running {j : Nat} (ks : List Nat) (u : State) (h : (strandAt u j).cond = .running) :
    (strandAt (ks.foldl regxWoken u) j).cond = .running := by
  induction ks generalizing u with
  | nil => exact h
  | cons k ks ih => exact ih _ (cond_regxWoken_running h)

theorem cond_regxWoken_foldl {j : Nat} (ks : List Nat) (u : State) (hj : j ∈ ks) (h : (strandAt u j).cond = .waiting (.regx false)) :
    (strandAt (ks.foldl regxWoken u) j).cond = .running := by
  induction ks generalizing u with
  | nil => cases hj
  | cons k ks ih =>
    by_cases hk : j = k
    · subst hk
      exact cond_regxWoken_foldl_running ks _ (cond_regxWoken_waiting h)
    · exact ih _ ((List.mem_cons.1 hj).resolve_left hk) (by rw [strandAt_regxWoken_ne u hk]; exact h)

/-- The strands of a request have its answer in a predicate, and are past the instruction. -/
def regxAnswered (r : RegxRequest) (ok : Bool) (u : State) (k : Nat) : State := advance (writeP u k r.pred ok) r.len k

theorem strandsMoved_regxAnswered (r : RegxRequest) (ok : Bool) (u : State) (k : Nat) : StrandsMoved u (regxAnswered r ok u k) := by
  have h : StrandsMoved u (writeP u k r.pred ok) := by
    unfold writeP
    split
    · exact .refl u
    · exact strandsMoved_modStrand _ _ _
  exact h.trans (strandsMoved_modStrand _ _ _)

theorem cond_modStrand {s : State} {k : Nat} {f : Strand → Strand} (hf : ∀ x, (f x).cond = x.cond) (j : Nat) :
    (strandAt (modStrand s k f) j).cond = (strandAt s j).cond := by
  rw [strandAt_modStrand]
  split
  · next e => rw [hf, e.1]
  · rfl

theorem cond_regxAnswered (r : RegxRequest) (ok : Bool) (u : State) (k j : Nat) :
    (strandAt (regxAnswered r ok u k) j).cond = (strandAt u j).cond := by
  unfold regxAnswered advance
  refine (cond_modStrand (by intro x; rfl) j).trans ?_
  unfold writeP
  split
  · rfl
  · exact cond_modStrand (by intro x; rfl) j

/-- A sheaf whose request is granted: its allocation has grown, and it asks no more. -/
def regxGranted (s : State) (f : Nat) (r : RegxRequest) : State :=
  modCore (modSheaf s f fun y => { y with regx := none, alloc := y.alloc + 32 * r.granules }) (f / 64) fun c =>
    { c with regxQueue := c.regxQueue.filter (· != f) }

theorem answerRegx_granted {s : State} {f : Nat} {r : RegxRequest} (h : (sheafAt s f).regx = some r) :
    answerRegx s f true =
      let t := r.strands.foldl (regxAnswered r true) (regxGranted s f r)
      (sheafStrands t f).foldl regxWoken t := by
  unfold answerRegx
  rw [h]
  rfl

theorem regxGrant_spec {s : State} {f : Nat} {rest : List Nat} {r : RegxRequest} (hq : (coreAt s (s.arg 0)).regxQueue = f :: rest)
    (hf : f / 64 = s.arg 0) (hr : (sheafAt s f).regx = some r) (hfit : regxFits s f r.granules = true) :
    Completes .regxGrant s fun t =>
      (sheafAt t f).alloc = (sheafAt s f).alloc + 32 * r.granules ∧ (sheafAt t f).regx = none ∧
      f ∉ (coreAt t (s.arg 0)).regxQueue ∧
      ∀ k ∈ sheafStrands s f, (strandAt s k).cond = .waiting (.regx false) → (strandAt t k).cond = .running := by
  have hgrant : grantRegx s (s.arg 0) = answerRegx s f true := by
    unfold grantRegx
    rw [hq]
    dsimp only
    rw [hr]
    dsimp only
    rw [if_pos hfit]
  have hsome : (tfind s.sheaves f).isSome := by
    rw [Option.isSome_iff_ne_none]
    intro e
    rw [sheafAt, tget, e] at hr
    cases hr
  have hsheaf : sheafAt (regxGranted s f r) f = { sheafAt s f with regx := none, alloc := (sheafAt s f).alloc + 32 * r.granules } := by
    unfold regxGranted
    rw [sheafAt_modCore, sheafAt_modSheaf, if_pos ⟨rfl, hsome⟩]
  have hqueue : f ∉ (coreAt (regxGranted s f r) (s.arg 0)).regxQueue := by
    rw [← hf]
    unfold regxGranted
    rw [coreAt_modCore, if_pos rfl]
    simp
  have hm := foldl_related StrandsMoved.refl StrandsMoved.trans (strandsMoved_regxAnswered r true) r.strands (regxGranted s f r)
  have hcond : ∀ k, (strandAt (r.strands.foldl (regxAnswered r true) (regxGranted s f r)) k).cond = (strandAt s k).cond := fun k =>
    foldl_related (R := fun a b : State => (strandAt b k).cond = (strandAt a k).cond) (fun _ => rfl)
      (by intro _ _ _ h i; exact i.trans h) (fun u i => cond_regxAnswered r true u i k) r.strands (regxGranted s f r)
  refine ⟨_, rfl, ?_⟩
  rw [hgrant, answerRegx_granted hr]
  dsimp only
  generalize r.strands.foldl (regxAnswered r true) (regxGranted s f r) = t at *
  have hw := foldl_related StrandsMoved.refl StrandsMoved.trans strandsMoved_regxWoken (sheafStrands t f) t
  have hall := hm.trans hw
  have hstrands : sheafStrands t f = sheafStrands s f := by
    simp only [sheafStrands, hm.sheafAt, hsheaf, Sheaf.width]
  refine ⟨?_, ?_, ?_, fun k hk hc => ?_⟩
  · rw [sheafAt_quiet, hall.sheafAt, hsheaf]
  · rw [sheafAt_quiet, hall.sheafAt, hsheaf]
  · exact fun e => hqueue (hall.coreAt (s.arg 0) ▸ e)
  · exact cond_regxWoken_foldl _ t (by rw [hstrands]; exact hk) ((hcond k).trans hc)

/-! ## The core's events -/

/-- Settles O52: the examination of the slots, and the folds of the grant and of the releases over their strands. -/
theorem coreEvents : Obligations.CoreEvents := by
  unfold Obligations.CoreEvents
  exact ⟨fun s before slot rest b hb ha h0 ho hn hc hi => issueCycle_leads hb ha h0 ho hn hc hi, fun s hb ha => issueCycle_withheld hb ha,
    fun s f rest r hq hf hr hfit => regxGrant_spec hq hf hr hfit, fun s ha hs hn => barRelease_spec ha hs hn, fun s h => gbarComplete_spec h,
    fun s ha hl hs => waitmRelease_spec ha hl hs⟩

end Sys2Proof.Proofs
end

section
/-! SUPPORT. A message that the fabric lists twice (R60): the step that takes it off leaves it listed once. -/

namespace Sys2Proof.Proofs
open Sys2Proof Sys2Proof.Machine Sys2Proof.Laws

/-- The redirect of line 0 to helper 0, on its way to quad 0. -/
def strayRedirect : Msg := .redirect 0 0 0

/-- The machine after reset, but its fabric lists that redirect twice under number 0. -/
def redirectTwice : State := { State.reset with net := [(0, strayRedirect), (0, strayRedirect)] }

/-- The redirect can arrive: no link is Down, and nothing goes before it. -/
theorem arriving_redirectTwice : arriving redirectTwice 0 = some strayRedirect := by decide

/-- Its arrival takes the first of the two off, and the other is still there. -/
theorem net_invalArrives_redirectTwice : tfind (invalArrives redirectTwice 0).net 0 = some strayRedirect := by
  unfold invalArrives
  rw [arriving_redirectTwice]
  rfl

/-- Refutes O47: its clause on a redirect's install says that the message is gone from the fabric afterwards, which fails where the
fabric lists two messages of one number, as `redirectTwice` does: the statement does not ask that the numbers of the messages rise. -/
theorem not_sliceReads : ¬ Obligations.SliceReads := by
  unfold Obligations.SliceReads
  rintro ⟨-, -, -, -, -, -, -, -, -, -, hredirect, -⟩
  obtain ⟨t, ht, -, hgone⟩ := hredirect redirectTwice 0 0 0 arriving_redirectTwice
  have hnet : t.net = (invalArrives redirectTwice 0).net := by
    cases ht
    rfl
  rw [hnet] at hgone
  exact absurd (net_invalArrives_redirectTwice.symm.trans hgone) (by simp)

end Sys2Proof.Proofs
end

section
/-! SUPPORT. Completion times at the store record and at a block's operations (R50, R85, R164, R171, R179): what they leave of the
record, the launch's horizon and the block's. -/

namespace Sys2Proof.Proofs
open Sys2Proof Sys2Proof.Machine Sys2Proof.Laws

/-! ## Tables of launches and blocks -/

theorem launchAt_modLaunch (s : State) (k : Nat) (f : Launch → Launch) (j : Nat) :
    launchAt (modLaunch s k f) j = if j = k ∧ (tfind s.launches k).isSome then f (launchAt s k) else launchAt s j := tget_tmod _ _ _ _ _

theorem launchAt_launchSees_same {s : State} {k : Nat} (h : (tfind s.launches k).isSome) (c : Nat) :
    (launchAt (launchSees s k c) k).horizon = max (launchAt s k).horizon c := by
  rw [launchSees, launchAt_modLaunch, if_pos ⟨rfl, h⟩]

/-! ## The store record as it settles (R163, R164) -/

/-- A state differs from another in strands and in how the entries of the store records stand, which keep their numbers. -/
structure RecordsSettled (s t : State) : Prop where
  frame : t = { s with strands := t.strands, cores := t.cores }
  seqs : ∀ c, (coreAt t c).record.map (·.seq) = (coreAt s c).record.map (·.seq)

namespace RecordsSettled

theorem refl (s : State) : RecordsSettled s s := ⟨rfl, fun _ => rfl⟩

theorem trans {s t u : State} (h : RecordsSettled s t) (k : RecordsSettled t u) : RecordsSettled s u :=
  ⟨by rw [k.frame, h.frame], fun c => (k.seqs c).trans (h.seqs c)⟩

variable {s t : State}

theorem blocks (h : RecordsSettled s t) : t.blocks = s.blocks := by rw [h.frame]
theorem launches (h : RecordsSettled s t) : t.launches = s.launches := by rw [h.frame]

/-- A number that no entry has, none has afterwards. -/
theorem seq_ne (h : RecordsSettled s t) {c n : Nat} (hn : ∀ x ∈ (coreAt s c).record, x.seq ≠ n) : ∀ x ∈ (coreAt t c).record, x.seq ≠ n := by
  intro x hx
  have hmem : x.seq ∈ (coreAt s c).record.map (·.seq) := by
    rw [← h.seqs c]
    exact List.mem_map_of_mem hx
  obtain ⟨y, hy, e⟩ := List.mem_map.1 hmem
  rw [← e]
  exact hn y hy

end RecordsSettled

theorem recordsSettled_wake (s : State) (k : Nat) : RecordsSettled s (wake s k) := ⟨rfl, fun _ => rfl⟩

/-- A core whose record keeps its entries' numbers. -/
theorem recordsSettled_modCore (s : State) (c : Nat) (f : Core → Core) (hf : ∀ k, (f k).record.map (·.seq) = k.record.map (·.seq)) :
    RecordsSettled s (modCore s c f) := by
  refine ⟨rfl, fun x => ?_⟩
  rw [coreAt_modCore]
  split
  · next e => rw [hf, e]
  · rfl

theorem seqs_settleList (l : List RecEntry) (blocked : Bool) : (settleList blocked l).map (·.seq) = l.map (·.seq) := by
  induction l generalizing blocked with
  | nil => rfl
  | cons e l ih =>
    rw [settleList]
    split
    · split
      · rw [List.map_cons, ih, List.map_cons]
      · rw [List.map_cons, ih, List.map_cons]
    · rw [List.map_cons, ih, List.map_cons]

theorem recordsSettled_settle (s : State) (c : Nat) : RecordsSettled s (settle s c) :=
  recordsSettled_modCore s c _ fun k => seqs_settleList k.record false

/-- An entry that is asked to drain, where it is open and not younger than another. -/
def askDrain (seq : Nat) (e : RecEntry) : RecEntry := if e.seq ≤ seq && e.state == .opened then { e with due := true } else e

theorem drainUpTo_eq (s : State) (c seq : Nat) :
    drainUpTo s c seq = settle (modCore s c fun k => { k with record := k.record.map (askDrain seq) }) c := rfl

theorem seq_askDrain (n : Nat) (e : RecEntry) : (askDrain n e).seq = e.seq := by
  unfold askDrain
  split <;> rfl

theorem recordsSettled_drainUpTo (s : State) (c seq : Nat) : RecordsSettled s (drainUpTo s c seq) := by
  rw [drainUpTo_eq]
  refine .trans (recordsSettled_modCore s c _ fun k => ?_) (recordsSettled_settle _ c)
  simp [Function.comp_def, seq_askDrain]

theorem recordsSettled_drainOldest (s : State) (c : Nat) : RecordsSettled s (drainOldest s c) := by
  unfold drainOldest
  dsimp only
  split
  · exact .refl s
  · split
    · exact recordsSettled_drainUpTo s c _
    · exact .refl s

theorem recordsSettled_wakeRecord (s : State) (c : Nat) : RecordsSettled s (wakeRecord s c) :=
  foldl_related RecordsSettled.refl RecordsSettled.trans (fun u k => by
    split
    · exact .refl u
    · split
      · exact recordsSettled_wake u k
      · exact recordsSettled_drainOldest u c) _ s

/-! ## A record entry's completion time (R50, R164) -/

/-- The entry is gone from the record. -/
def entryFreed (s : State) (core seq : Nat) (e : RecEntry) : State :=
  staleReads (modCore s core fun k => { k with record := k.record.filter fun o => o.seq != seq }) core (· == e.line)

/-- The entry's block takes the completion time, or its gang where the block has left its core. -/
def entryTold (s : State) (seq c : Nat) (e : RecEntry) : State :=
  if (tfind s.blocks e.block).isSome && (blockAt s e.block).gang == e.gang then
    fenceSees s e.block c fun w => { w with entries := w.entries.filter (· != seq) }
  else gangSees s e.gang c

/-- The entry's launch, and the commands that wait for it, take the completion time. -/
def entryCounted (s : State) (core seq c : Nat) (e : RecEntry) : State :=
  waitersSee (launchSees (noteStored s e) (2 ^ 32 * e.part + e.launch) c) e.part c (fun w => w.entries.contains (core, seq))
    fun w => { w with entries := w.entries.filter (· != (core, seq)) }

theorem entryCompletes_eq {s : State} {core seq : Nat} {e : RecEntry} (h : ((coreAt s core).record.find? fun e => e.seq == seq) = some e)
    (c : Nat) : entryCompletes s core seq c = wakeRecord (entryCounted (entryTold (entryFreed s core seq e) seq c e) core seq c e) core := by
  unfold entryCompletes
  rw [h]
  rfl

theorem fenceSees_strandsMoved (s : State) (b c : Nat) (f : FenceWait → FenceWait) :
    StrandsMoved (modBlock s b fun x => { x with lct := max x.lct c }) (fenceSees s b c f) := by
  unfold fenceSees
  exact foldl_related StrandsMoved.refl StrandsMoved.trans (fun u k => strandsMoved_modStrand u k _) _ _

theorem entryTold_cores (s : State) (seq c : Nat) (e : RecEntry) : (entryTold s seq c e).cores = s.cores := by
  unfold entryTold
  split
  · rw [fenceSees_strandsMoved s e.block c _]
    rfl
  · rfl

theorem entryTold_launches (s : State) (seq c : Nat) (e : RecEntry) : (entryTold s seq c e).launches = s.launches := by
  unfold entryTold
  split
  · rw [fenceSees_strandsMoved s e.block c _]
    rfl
  · rfl

/-- The block of the entry, still on its core, takes the completion time into its horizon. -/
theorem lct_entryTold {s : State} {e : RecEntry} (hb : (tfind s.blocks e.block).isSome) (hg : (blockAt s e.block).gang = e.gang) (seq c : Nat) :
    (blockAt (entryTold s seq c e) e.block).lct = max (blockAt s e.block).lct c := by
  unfold entryTold
  rw [if_pos (by simp [hb, hg]), (fenceSees_strandsMoved s e.block c _).blockAt, blockAt_modBlock, if_pos ⟨rfl, hb⟩]

theorem noteStored_frame (s : State) (e : RecEntry) : noteStored s e = { s with gangs := (noteStored s e).gangs } := by
  unfold noteStored
  split
  · rfl
  · rfl

theorem entryCounted_cores (s : State) (core seq c : Nat) (e : RecEntry) : (entryCounted s core seq c e).cores = s.cores := by
  unfold entryCounted
  rw [noteStored_frame]
  rfl

theorem entryCounted_blocks (s : State) (core seq c : Nat) (e : RecEntry) : (entryCounted s core seq c e).blocks = s.blocks := by
  unfold entryCounted
  rw [noteStored_frame]
  rfl

theorem entryCounted_launches (s : State) (core seq c : Nat) (e : RecEntry) :
    (entryCounted s core seq c e).launches = (launchSees s (2 ^ 32 * e.part + e.launch) c).launches := by
  unfold entryCounted
  rw [noteStored_frame]
  rfl

section
variable {s : State} {core seq : Nat} {e : RecEntry} (h : ((coreAt s core).record.find? fun e => e.seq == seq) = some e) (c : Nat)
include h

/-- A record entry that completes is freed. -/
theorem record_entryCompletes : ∀ x ∈ (coreAt (entryCompletes s core seq c) core).record, x.seq ≠ seq := by
  rw [entryCompletes_eq h]
  refine (recordsSettled_wakeRecord _ core).seq_ne fun x hx => ?_
  have hcore : coreAt (entryCounted (entryTold (entryFreed s core seq e) seq c e) core seq c e) core = coreAt (entryFreed s core seq e) core := by
    simp only [coreAt, entryCounted_cores, entryTold_cores]
  have hfreed : (coreAt (entryFreed s core seq e) core).record = (coreAt s core).record.filter fun o => o.seq != seq := by
    change (coreAt (modCore s core fun k => { k with record := k.record.filter fun o => o.seq != seq }) core).record = _
    rw [coreAt_modCore, if_pos rfl]
  rw [hcore, hfreed] at hx
  simpa using (List.mem_filter.1 hx).2

/-- Its launch takes its completion time. -/
theorem horizon_entryCompletes (hl : (tfind s.launches (2 ^ 32 * e.part + e.launch)).isSome) :
    (launchAt (entryCompletes s core seq c) (2 ^ 32 * e.part + e.launch)).horizon =
      max (launchAt s (2 ^ 32 * e.part + e.launch)).horizon c := by
  have hls : (entryCompletes s core seq c).launches = (launchSees s (2 ^ 32 * e.part + e.launch) c).launches := by
    rw [entryCompletes_eq h, (recordsSettled_wakeRecord _ core).launches, entryCounted_launches, launchSees, modLaunch_launches,
      entryTold_launches]
    rfl
  have := launchAt_launchSees_same hl c
  simpa only [launchAt, hls] using this

/-- Its block, still on its core, takes its completion time. -/
theorem lct_entryCompletes (hb : (tfind s.blocks e.block).isSome) (hg : (blockAt s e.block).gang = e.gang) :
    (blockAt (entryCompletes s core seq c) e.block).lct = max (blockAt s e.block).lct c := by
  have hbs : (entryCompletes s core seq c).blocks = (entryTold (entryFreed s core seq e) seq c e).blocks := by
    rw [entryCompletes_eq h, (recordsSettled_wakeRecord _ core).blocks, entryCounted_blocks]
  simp only [blockAt, hbs]
  exact lct_entryTold (s := entryFreed s core seq e) hb hg seq c

end

/-! ## An operation's completion time (R50, R85, R179) -/

theorem fencesSeeOp_strandsMoved (s : State) (b id c : Nat) (last : Bool) :
    StrandsMoved (modBlock s b fun x => { x with lct := max x.lct c }) (fencesSeeOp s b id c last) := by
  unfold fencesSeeOp
  exact foldl_related StrandsMoved.refl StrandsMoved.trans (fun u k => strandsMoved_modStrand u k _) _ _

/-- An operation of a block, which is no tail draw, raises the block's horizon to its completion time. -/
theorem lct_opCompletes {s : State} {b id : Nat} (hb : (tfind s.blocks b).isSome) (ho : ∃ o ∈ (blockAt s b).ops, o.id = id)
    (ht : ∀ o ∈ (blockAt s b).ops, o.id = id → o.kind ≠ .tail) (c : Nat) :
    (blockAt (opCompletes s b id c) b).lct = max (blockAt s b).lct c := by
  have hholds : holdsOp s b id = true := by
    obtain ⟨o, hm, e⟩ := ho
    rw [holdsOp, hb, Bool.true_and, List.any_eq_true]
    exact ⟨o, hm, by simpa using e⟩
  have htail : ((blockAt s b).ops.any fun o => o.id == id && o.kind == .tail) = false := by
    rw [List.any_eq_false]
    intro o hm
    by_cases e : o.id = id
    · simp [ht o hm e]
    · simp [e]
  have hb' : (tfind (modBlock s b fun x => { x with ops := countDown id x.ops }).blocks b).isSome := by
    rw [modBlock_blocks, isSome_tmod]
    exact hb
  rw [opCompletes, if_pos hholds]
  unfold blockCompletes
  dsimp only
  rw [htail]
  change (blockAt (fencesSeeOp (modBlock s b fun x => { x with ops := countDown id x.ops }) b id c _) b).lct = _
  rw [(fencesSeeOp_strandsMoved _ b id c _).blockAt, blockAt_modBlock, if_pos ⟨rfl, hb'⟩, blockAt_modBlock, if_pos ⟨rfl, hb⟩]

end Sys2Proof.Proofs
end

section
/-! SUPPORT. A reply's line at its core (R174, R177): the L1 takes it, and a load that waits for it gives its register the bytes. -/

namespace Sys2Proof.Proofs
open Sys2Proof Sys2Proof.Machine Sys2Proof.Laws

/-! ## Registers of a block that shares none and has no error armed (R152, R155, R353) -/

theorem strike_of_unarmed {s : State} {b : Nat} (h : (blockAt s b).armed = none) (unit : Nat) : strike s b unit = (none, s) := by
  rw [strike, h]

theorem vHome_of_unshared {s : State} {k : Nat} (h : (blockAt s (blockOf s k)).shared = []) (n : Nat) : vHome s k n = (k, n) := by
  have hs : (blockAt s (sheafAt s (sheafOf k)).block).shared = [] := h
  unfold vHome
  dsimp only
  rw [hs]
  split
  · next e => split at e <;> cases e
  · rfl

/-- A strand whose vector register has taken a value with its poison. -/
def regTaken (x : Strand) (n : Nat) (v : Word) (poison : Bool) : Strand :=
  { x with v := tset x.v n v, vPoison := if poison then sinsert n x.vPoison else sremove n x.vPoison }

theorem writeV_eq {s : State} {k : Nat} (hs : (blockAt s (blockOf s k)).shared = []) (ha : (blockAt s (blockOf s k)).armed = none)
    (n : Nat) (v : Word) (poison : Bool) : writeV s k n v poison = modStrand s k fun x => regTaken x n v poison := by
  unfold writeV
  rw [vHome_of_unshared hs]
  dsimp only
  rw [strike_of_unarmed ha]
  cases poison <;> rfl

theorem contains_poison (n : Nat) (l : List Nat) (poison : Bool) : (if poison then sinsert n l else sremove n l).contains n = poison := by
  cases poison
  · simp [sremove]
  · rw [if_pos rfl, sinsert]
    split
    · assumption
    · simp

/-- A register reads what it has taken, of a strand whose block shares none. -/
theorem readV_of_regTaken {s : State} {k n : Nat} {v : Word} {poison : Bool} {x : Strand} (hs : (blockAt s (blockOf s k)).shared = [])
    (hv : (strandAt s k).v = (regTaken x n v poison).v) (hp : (strandAt s k).vPoison = (regTaken x n v poison).vPoison) :
    readV s k n = (v, poison) := by
  unfold readV
  rw [vHome_of_unshared hs]
  dsimp only
  rw [hv, hp, regTaken]
  dsimp only
  rw [tget_tset_same, contains_poison]

/-! ## Loads that stay (R174) -/

/-- What a reply looks for of a pending load: its number, type and destination. -/
def loadAim (p : PendingLoad) : Nat × BitVec 4 × Dest := (p.id, p.ty, p.dest)

/-- A state differs from another in strands alone, whose pending loads keep their number, type and destination. -/
structure LoadsKept (s t : State) : Prop where
  moved : StrandsMoved s t
  isSome : ∀ k, (tfind t.strands k).isSome = (tfind s.strands k).isSome
  aims : ∀ k, (strandAt t k).loads.map loadAim = (strandAt s k).loads.map loadAim

theorem LoadsKept.refl (s : State) : LoadsKept s s := ⟨.refl s, fun _ => rfl, fun _ => rfl⟩

theorem LoadsKept.trans {s t u : State} (h : LoadsKept s t) (k : LoadsKept t u) : LoadsKept s u :=
  ⟨h.moved.trans k.moved, fun j => (k.isSome j).trans (h.isSome j), fun j => (k.aims j).trans (h.aims j)⟩

theorem loadsKept_modStrand (s : State) (k : Nat) (f : Strand → Strand) (hf : ∀ x, (f x).loads.map loadAim = x.loads.map loadAim) :
    LoadsKept s (modStrand s k f) := by
  refine ⟨strandsMoved_modStrand s k f, fun j => isSome_modStrand s k j f, fun j => ?_⟩
  rw [strandAt_modStrand]
  split
  · next e => rw [hf, e.1]
  · rfl

theorem loadsKept_noteSeen (s : State) (k born : Nat) (pas : List Nat) : LoadsKept s (noteSeen s k born pas) :=
  loadsKept_modStrand s k _ fun _ => rfl

/-- Loads that learn bytes stay (R177). -/
theorem loadsKept_shareSent (s : State) (k : Nat) (p : PendingLoad) (f : Nat → Option (Byte × Bool)) : LoadsKept s (shareSent s k p f) := by
  unfold shareSent
  split
  · exact .refl s
  · refine foldl_related LoadsKept.refl LoadsKept.trans (fun u j => loadsKept_modStrand u j _ fun x => ?_) _ s
    rw [List.map_map]
    refine List.map_congr_left fun y _ => ?_
    rw [Function.comp_apply]
    dsimp only
    split
    · rfl
    · rfl

theorem find_loadAim (l : List PendingLoad) (id : Nat) :
    (l.find? fun p => p.id == id).map loadAim = (l.map loadAim).find? fun a => a.1 == id := by
  rw [List.find?_map]
  rfl

/-- The load that a reply finds is found still, with its type and destination. -/
theorem LoadsKept.pendingOf {s t : State} (h : LoadsKept s t) {k id : Nat} {p : PendingLoad} (hp : pendingOf s k id = some p) :
    ∃ q, Machine.pendingOf t k id = some q ∧ q.ty = p.ty ∧ q.dest = p.dest := by
  unfold Machine.pendingOf at hp ⊢
  have hfind := find_loadAim (strandAt t k).loads id
  rw [h.aims, ← find_loadAim, hp] at hfind
  obtain ⟨q, hq, haim⟩ := Option.map_eq_some_iff.1 hfind
  simp only [loadAim, Prod.mk.injEq] at haim
  exact ⟨q, hq, haim.2.1, haim.2.2⟩

/-! ## A load that returns (R178, R179) -/

/-- A state differs from another in strands alone, and in these by what fences wait for. -/
def FencesMoved (s t : State) : Prop :=
  StrandsMoved s t ∧ ∀ k, strandAt t k = { strandAt s k with fences := (strandAt t k).fences }

/-- The load is gone from its strand, and no fence of its sheaf waits for it. -/
def loadEnded (s : State) (k id : Nat) : State :=
  (k :: ((strandAt s k).loads.filter fun p => p.id == id).flatMap (·.riders)).foldl (fun u j => modStrand u j fun x =>
    { x with fences := x.fences.map fun w => { w with loads := w.loads.filter (· != id) } })
    (modStrand s k fun x => { x with loads := x.loads.filter fun p => p.id != id })

theorem fencesMoved_loadEnded (s : State) (k id : Nat) :
    FencesMoved (modStrand s k fun x => { x with loads := x.loads.filter fun p => p.id != id }) (loadEnded s k id) := by
  refine foldl_related (R := FencesMoved) (fun s => ⟨.refl s, fun _ => rfl⟩) ?_ (fun u j => ⟨strandsMoved_modStrand u j _, fun i => ?_⟩) _ _
  · rintro s t u ⟨h1, h2⟩ ⟨k1, k2⟩
    exact ⟨h1.trans k1, fun j => by rw [k2, h2]⟩
  · rw [strandAt_modStrand]
    split
    · next e => rw [e.1]
    · rfl

theorem loadDone_strands (s : State) (k id : Nat) : (loadDone s k id).strands = (loadEnded s k id).strands := rfl

theorem strandAt_loadDone (s : State) (k id j : Nat) : strandAt (loadDone s k id) j =
    { strandAt s j with
      loads := if j = k then (strandAt s j).loads.filter fun p => p.id != id else (strandAt s j).loads
      fences := (strandAt (loadDone s k id) j).fences } := by
  have h : strandAt (loadDone s k id) j = strandAt (loadEnded s k id) j := by simp only [strandAt, loadDone_strands]
  rw [h, (fencesMoved_loadEnded s k id).2, strandAt_modStrand]
  by_cases hj : j = k
  · subst hj
    by_cases hs : (tfind s.strands j).isSome
    · simp [hs]
    · have hblank : strandAt s j = Strand.blank := by rw [strandAt, tget, Option.not_isSome_iff_eq_none.1 hs]; rfl
      simp [hs, hblank, Strand.blank]
  · simp [hj]

theorem loadDone_frame (s : State) (k id : Nat) : loadDone s k id =
    { s with strands := (loadDone s k id).strands, cores := (loadDone s k id).cores, parts := (loadDone s k id).parts } := by
  have h : loadEnded s k id = { s with strands := (loadEnded s k id).strands } :=
    (strandsMoved_modStrand s k _).trans (fencesMoved_loadEnded s k id).1
  have hd : loadDone s k id = { loadEnded s k id with
      strands := (loadDone s k id).strands, cores := (loadDone s k id).cores, parts := (loadDone s k id).parts } := rfl
  rw [hd, h]

theorem blockOf_loadDone (s : State) (k id j : Nat) : blockAt (loadDone s k id) (blockOf (loadDone s k id) j) = blockAt s (blockOf s j) := by
  rw [loadDone_frame]
  rfl

/-- A value that came back for a load whose destination is a vector register of 32 bits. -/
theorem giveValueP_eq {s : State} {k id n : Nat} {p : PendingLoad} (hp : pendingOf s k id = some p) (hd : p.dest = .v n)
    (hw : tyWidth p.ty ≤ 32) (hs : (blockAt s (blockOf s k)).shared = []) (ha : (blockAt s (blockOf s k)).armed = none)
    (v : Nat) (poison : Bool × Bool) : giveValueP s k id v poison =
      loadDone (modStrand s k fun x => regTaken x n (BitVec.ofNat 32 (extendBits v (tyWidth p.ty) (tySigned p.ty) 32)) poison.1) k id := by
  have h64 : tyWidth p.ty ≠ 64 := by omega
  rw [giveValueP, hp]
  dsimp only
  rw [hd, writeDestP, writeVsP, if_neg h64, writeV_eq hs ha]

/-- What a line's bytes give a load beside what it has, and what entries hold that are not freed (R165, R174). -/
def replyBytes (s : State) (k : Nat) (p : PendingLoad) (bytes : List Byte) (bad : Bool) : List (Byte × Bool) :=
  p.known.zipIdx.map fun x => x.1.getD ((sentByte (coreAt s (coreOf k)) (p.pa + x.2)).getD (bytes.getD (p.pa % 64 + x.2) 0, bad))

theorem giveLine_eq {s : State} {k id : Nat} {p : PendingLoad} (hp : pendingOf s k id = some p) (bytes : List Byte) (bad : Bool) (born : Nat) :
    ∃ u, LoadsKept s u ∧ giveLine bytes bad born s (k, id) =
      giveValueP u k id (bytesValue (replyBytes s k p bytes bad)).1 (bytesValue (replyBytes s k p bytes bad)).2 := by
  unfold giveLine
  dsimp only
  rw [hp]
  exact ⟨_, (loadsKept_shareSent s k p _).trans
    (foldl_related LoadsKept.refl LoadsKept.trans (fun u j => loadsKept_noteSeen u j born _) _ _), rfl⟩

/-- The load is over, and its register has the bytes, extended, with their poison. -/
theorem giveLine_spec {s : State} {k id n : Nat} {p : PendingLoad} (hp : pendingOf s k id = some p) (hd : p.dest = .v n)
    (hw : tyWidth p.ty ≤ 32) (hk : (tfind s.strands k).isSome) (hs : (blockAt s (blockOf s k)).shared = [])
    (ha : (blockAt s (blockOf s k)).armed = none) (bytes : List Byte) (bad : Bool) (born : Nat) :
    let vs := replyBytes s k p bytes bad
    (∀ q ∈ (strandAt (giveLine bytes bad born s (k, id)) k).loads, q.id ≠ id) ∧
    readV (giveLine bytes bad born s (k, id)) k n =
      (BitVec.ofNat 32 (extendBits (bytesValue vs).1 (tyWidth p.ty) (tySigned p.ty) 32), (bytesValue vs).2.1) := by
  obtain ⟨u, hu, hgive⟩ := giveLine_eq hp bytes bad born
  obtain ⟨q, hq, hty, hdest⟩ := hu.pendingOf hp
  have hblock : blockAt u (blockOf u k) = blockAt s (blockOf s k) := by
    simp only [blockOf, hu.moved.sheafAt, hu.moved.blockAt]
  have hku : (tfind u.strands k).isSome := by rw [hu.isSome]; exact hk
  rw [hgive, giveValueP_eq hq (hdest.trans hd) (by rw [hty]; exact hw) (by rw [hblock]; exact hs) (by rw [hblock]; exact ha), hty]
  dsimp only
  generalize BitVec.ofNat 32 (extendBits (bytesValue (replyBytes s k p bytes bad)).1 (tyWidth p.ty) (tySigned p.ty) 32) = v
  generalize (bytesValue (replyBytes s k p bytes bad)).2.1 = poison
  have htaken : strandAt (modStrand u k fun x => regTaken x n v poison) k = regTaken (strandAt u k) n v poison := by
    rw [strandAt_modStrand, if_pos ⟨rfl, hku⟩]
  have hstrand := strandAt_loadDone (modStrand u k fun x => regTaken x n v poison) k id k
  rw [htaken, if_pos rfl] at hstrand
  constructor
  · intro y hy
    rw [hstrand] at hy
    simpa using (List.mem_filter.1 hy).2
  · refine readV_of_regTaken (x := strandAt u k) ?_ (by rw [hstrand]) (by rw [hstrand])
    rw [blockOf_loadDone]
    exact (congrArg Block.shared hblock).trans hs

/-! ## The L1's fill (R48, R353) -/

/-- A state differs from another in cores alone, whose store records are the same. -/
structure L1Moved (s t : State) : Prop where
  frame : t = { s with cores := t.cores }
  record : ∀ c, (coreAt t c).record = (coreAt s c).record

/-- Where no error is armed in the request's block, the L1 takes the line or leaves it. -/
theorem fillL1_spec {s : State} {r : ReadReq} (ha : (blockAt s r.block).armed = none) (bytes : List Byte) (poison : Bool)
    (expiry : Option Nat) (mask : Option (List Nat)) :
    (fillL1 s r bytes poison expiry mask).1 = false ∧ L1Moved s (fillL1 s r bytes poison expiry mask).2 := by
  unfold fillL1
  rw [strike_of_unarmed ha, ite_self]
  split
  · exact ⟨rfl, rfl, fun _ => rfl⟩
  · refine ⟨rfl, rfl, fun c => ?_⟩
    change (coreAt (modCore s r.core _) c).record = _
    rw [coreAt_modCore]
    split
    · next e => rw [e]
    · rfl

theorem sentByte_congr {c d : Core} (h : c.record = d.record) (pa : Nat) : sentByte c pa = sentByte d pa := by
  unfold sentByte recByte
  rw [h]

/-- The line completes the load that waits for it, once the L1 has had it. -/
theorem dataArrives_eq {s : State} {r : ReadReq} {k id : Nat} (hl : r.l2only = false) (hw : r.waiters = [(k, id)])
    (hn : replyOlder s r.born (k, id) = false) (ha : (blockAt s r.block).armed = none) (m : Nat) (bytes : List Byte) (poison : Bool)
    (expiry : Option Nat) (mask : Option (List Nat)) :
    dataArrives s m r bytes poison expiry mask = giveLine bytes poison r.born (fillL1 s r bytes poison expiry mask).2 (k, id) := by
  obtain ⟨hhit, hfill⟩ := fillL1_spec ha bytes poison expiry mask
  unfold dataArrives
  rw [hl, if_neg (by decide)]
  generalize fillL1 s r bytes poison expiry mask = f at *
  obtain ⟨hit, t⟩ := f
  dsimp only at hhit hfill ⊢
  subst hhit
  have hold : replyOlder t r.born (k, id) = false := by
    rw [hfill.frame]
    exact hn
  simp [hw, hold]

/-- A reply's line ends the load that waits for it, and gives its register the bytes. -/
theorem dataArrives_spec {s : State} {r : ReadReq} {k id n : Nat} {p : PendingLoad} (hl : r.l2only = false) (hwait : r.waiters = [(k, id)])
    (hold : replyOlder s r.born (k, id) = false) (hp : pendingOf s k id = some p) (hd : p.dest = .v n) (hw : tyWidth p.ty ≤ 32)
    (hk : (tfind s.strands k).isSome) (hs : (blockAt s (blockOf s k)).shared = []) (ha : (blockAt s (blockOf s k)).armed = none)
    (har : (blockAt s r.block).armed = none) (m : Nat) (bytes : List Byte) (poison : Bool) (expiry : Option Nat) (mask : Option (List Nat)) :
    let t := dataArrives s m r bytes poison expiry mask
    let vs := replyBytes s k p bytes poison
    (∀ q ∈ (strandAt t k).loads, q.id ≠ id) ∧
    readV t k n = (BitVec.ofNat 32 (extendBits (bytesValue vs).1 (tyWidth p.ty) (tySigned p.ty) 32), (bytesValue vs).2.1) := by
  obtain ⟨-, hfill⟩ := fillL1_spec har bytes poison expiry mask
  rw [dataArrives_eq hl hwait hold har]
  generalize (fillL1 s r bytes poison expiry mask).2 = u at *
  have hstrands : ∀ j, strandAt u j = strandAt s j := fun j => by rw [hfill.frame]; rfl
  have hblock : blockAt u (blockOf u k) = blockAt s (blockOf s k) := by rw [hfill.frame]; rfl
  have hbytes : replyBytes s k p bytes poison = replyBytes u k p bytes poison := by
    simp only [replyBytes, sentByte_congr (hfill.record (coreOf k))]
  rw [hbytes]
  refine giveLine_spec ?_ hd hw ?_ (by rw [hblock]; exact hs) (by rw [hblock]; exact ha) bytes poison r.born
  · rw [pendingOf, hstrands]; exact hp
  · rw [hfill.frame]; exact hk

end Sys2Proof.Proofs
end

section
/-! SUPPORT. Exchange stores (R158, R312), drains (R51, R164), and the replies together. -/

namespace Sys2Proof.Proofs
open Sys2Proof Sys2Proof.Machine Sys2Proof.Laws

/-! ## Bytes set in a table -/

/-- A byte that was set is found; elsewhere the table is as it was. -/
theorem tfind_setBytes (bs : List Byte) (t : Tab Byte) (off a : Nat) :
    tfind (setBytes t off bs) a = if off ≤ a ∧ a < off + bs.length then bs[a - off]? else tfind t a := by
  induction bs generalizing t off with
  | nil => rw [if_neg (by simp)]; rfl
  | cons b bs ih =>
    rw [setBytes, ih, tfind_tset]
    simp only [List.length_cons]
    by_cases h : a = off
    · subst h
      rw [if_neg (by omega), if_pos rfl, if_pos (by omega), Nat.sub_self]
      rfl
    · rw [if_neg h]
      by_cases hin : off + 1 ≤ a ∧ a < off + 1 + bs.length
      · rw [if_pos hin, if_pos (by omega), show a - off = (a - (off + 1)) + 1 by omega, List.getElem?_cons_succ]
      · rw [if_neg hin, if_neg (by omega)]

/-! ## Stores into a scratchpad (R157, R158) -/

theorem settleStore_blocks (passed : List Nat) (s : State) (b off : Nat) (bytes : List Byte) (poison : Bool) :
    (settleStore passed s b off bytes poison).blocks = s.blocks := by
  unfold settleStore
  refine foldl_related (R := fun s t : State => t.blocks = s.blocks) (fun _ => rfl) (by intro _ _ _ h k; exact k.trans h) (fun u g => ?_) _ s
  split
  · rfl
  · rfl

/-- The block takes the bytes, whatever its copy commands make of them. -/
theorem putPad_blocks (s : State) (b off : Nat) (bytes : List Byte) (poison : Bool) : (putPad s b off bytes poison).blocks =
    (modBlock s b fun x => { x with pad := setBytes x.pad off bytes, padPoison := padGranules x.padPoison off bytes.length poison }).blocks := by
  obtain ⟨n, hn⟩ := passedGranules_eq s b (granulesOf off bytes.length)
  unfold putPad putPadBy
  dsimp only
  rw [modBlock_blocks, settleStore_blocks, hn]
  rfl

theorem readPad_putPad {s : State} {b : Nat} (hb : (tfind s.blocks b).isSome) (off : Nat) (bytes : List Byte) (poison : Bool) (a : Nat) :
    (readPad (putPad s b off bytes poison) b a).1 =
      if off ≤ a ∧ a < off + bytes.length then (bytes[a - off]?).getD 0 else (readPad s b a).1 := by
  have hpad : (blockAt (putPad s b off bytes poison) b).pad = setBytes (blockAt s b).pad off bytes := by
    rw [blockAt, putPad_blocks, ← blockAt, blockAt_modBlock, if_pos ⟨rfl, hb⟩]
  unfold readPad
  dsimp only
  rw [hpad, tget, tfind_setBytes]
  split
  · rfl
  · rfl

/-- Exchange stores of one lane land in the shadow bank of the member that has the rank. -/
theorem xstLanding_spec {s : State} {g rank off src b : Nat} {bytes : List Byte} {poison : Bool}
    (hm : arriving s (s.arg 0) = some (.xst g rank [(off, bytes, poison)] src))
    (hb : ((gangBlocks s g).find? fun b => (blockAt s b).grank == rank) = some b) : Completes .xstLanding s fun t =>
      let x := blockAt s b
      let base := x.padBytes - 2 * x.xBytes + (1 - x.bank) * x.xBytes
      (∀ i v, bytes[i]? = some v → (readPad t b (base + off + i)).1 = v) ∧
      ∀ a, a < base + off ∨ base + off + bytes.length ≤ a → (readPad t b a).1 = (readPad s b a).1 := by
  have hthere : (tfind (takeOff s (s.arg 0)).blocks b).isSome := isSome_of_mem_gangBlocks (List.mem_of_find?_eq_some hb)
  refine ⟨_, rfl, ?_⟩
  unfold xstLands
  rw [hm]
  dsimp only
  rw [hb]
  dsimp only [List.foldl]
  have hread := readPad_putPad hthere ((blockAt s b).padBytes - 2 * (blockAt s b).xBytes + (1 - (blockAt s b).bank) * (blockAt s b).xBytes + off) bytes poison
  refine ⟨fun i v hi => ?_, fun a ha => ?_⟩
  · have hlen : i < bytes.length := (List.getElem?_eq_some_iff.1 hi).1
    refine (hread _).trans ?_
    rw [if_pos (by omega), Nat.add_sub_cancel_left, hi]
    rfl
  · refine (hread a).trans ?_
    rw [if_neg (by omega)]
    rfl

/-! ## Drains (R51, R164) -/

/-- An entry that stays open as a record settles was in it as it is. -/
theorem mem_of_mem_settleList {e : RecEntry} (ho : e.state = .opened) : ∀ {l : List RecEntry} {blocked : Bool}, e ∈ settleList blocked l → e ∈ l
  | [], _, h => h
  | x :: l, blocked, h => by
    rw [settleList] at h
    split at h
    · split at h
      · rcases List.mem_cons.1 h with rfl | h
        · cases ho
        · exact List.mem_cons_of_mem _ (mem_of_mem_settleList ho h)
      · rcases List.mem_cons.1 h with rfl | h
        · exact List.mem_cons_self
        · exact List.mem_cons_of_mem _ (mem_of_mem_settleList ho h)
    · rcases List.mem_cons.1 h with rfl | h
      · exact List.mem_cons_self
      · exact List.mem_cons_of_mem _ (mem_of_mem_settleList ho h)

theorem record_drainUpTo (s : State) (c seq : Nat) :
    (coreAt (drainUpTo s c seq) c).record = settleList false ((coreAt s c).record.map (askDrain seq)) := by
  rw [drainUpTo_eq, settle, coreAt_modCore, if_pos rfl, coreAt_modCore, if_pos rfl]

/-- Every entry up to one that is asked to drain, and still open, is asked too. -/
theorem due_drainUpTo (s : State) (c seq : Nat) :
    ∀ e ∈ (coreAt (drainUpTo s c seq) c).record, e.seq ≤ seq → e.state = .opened → e.due = true := by
  intro e he hseq ho
  rw [record_drainUpTo] at he
  obtain ⟨x, -, rfl⟩ := List.mem_map.1 (mem_of_mem_settleList ho he)
  unfold askDrain at hseq ho ⊢
  split
  · rfl
  · next hn =>
    rw [if_neg hn] at hseq ho
    exact absurd (by simp [hseq, ho]) hn

theorem recordDrainTimer_spec {s : State}
    (h : ∃ e ∈ (coreAt s (s.arg 0)).record, e.seq = s.arg 1 ∧ e.state = .opened ∧ e.alloc + 100 ≤ s.now) :
    Completes .recordDrainTimer s fun t => ∀ e ∈ (coreAt t (s.arg 0)).record, e.seq ≤ s.arg 1 → e.state = .opened → e.due = true := by
  have haged : ((coreAt s (s.arg 0)).record.any fun e =>
      e.seq == s.arg 1 && e.state == .opened && decide (e.alloc + Config.drainTicks ≤ s.now)) = true := by
    obtain ⟨e, he, hseq, ho, hage⟩ := h
    have hdrain : decide (e.alloc + Config.drainTicks ≤ s.now) = true := decide_eq_true hage
    exact List.any_eq_true.2 ⟨e, he, by simp [hseq, ho, hdrain]⟩
  refine ⟨_, rfl, ?_⟩
  simp only [drainAged, haged, if_true]
  exact due_drainUpTo s (s.arg 0) (s.arg 1)

/-- An entry that leaves its core. -/
def sentEntry (e : RecEntry) : RecEntry := { e with state := .sent }

/-- The entry is marked as sent in its core's record. -/
def entrySent (s : State) (c : Nat) (e : RecEntry) : State :=
  modCore s c fun y => { y with record := y.record.map fun o => if o.seq == e.seq then sentEntry e else o }

/-- The next draining entry leaves for the host, or for its home, whose line the core's L1 has with the entry's bytes (R51). -/
theorem sendDrain_eq {s : State} {c : Nat} {e : RecEntry} (hn : ((coreAt s c).record.countP fun e => e.state == .sent) < 8)
    (he : ((coreAt s c).record.find? fun e => e.state == .draining) = some e) : sendDrain s c =
      if e.cls = 4 then postHost (entrySent s c e) (.hostStore c (sentEntry e))
      else post (staleReads (updateL1 (entrySent s c e) c e) c (· == e.line)) (.drain (homeSlice s e.line) c (sentEntry e) s.now) := by
  unfold sendDrain
  dsimp only
  rw [if_neg (by simpa [Config.inFlight] using hn), he]
  rfl

theorem record_entrySent (s : State) (c : Nat) (e : RecEntry) : (coreAt (entrySent s c e) c).record =
    (coreAt s c).record.map fun o => if o.seq == e.seq then sentEntry e else o := by
  rw [entrySent, coreAt_modCore, if_pos rfl]

theorem record_updateL1 (s : State) (c : Nat) (e : RecEntry) : (coreAt (updateL1 s c e) c).record = (coreAt s c).record := by
  rw [updateL1, coreAt_modCore, if_pos rfl]

theorem tfind_net_postFrom (s : State) (die port : Option Nat) (m : Msg) : tfind (postFrom s die port m).net s.ctl.nextId = some m :=
  tfind_tset_same _ _ _

theorem nextId_countFrames (s : State) (p : Option Nat) (out : Bool) : (countFrames s p out).ctl.nextId = s.ctl.nextId := by
  rw [(reported_countFrames s p out).ctl]

/-- The host's messages take the next number. -/
theorem tfind_net_postHost (s : State) (m : Msg) : tfind (postHost s m).net s.ctl.nextId = some m := by
  rw [← nextId_countFrames s (hostPort s) true]
  exact tfind_net_postFrom _ _ _ _

theorem coreAt_postHost (s : State) (m : Msg) (c : Nat) : coreAt (postHost s m) c = coreAt s c :=
  (reported_countFrames s (hostPort s) true).coreAt c

theorem drainSend_spec {s : State} {e : RecEntry} (hn : ((coreAt s (s.arg 0)).record.countP fun e => e.state == .sent) < 8)
    (he : ((coreAt s (s.arg 0)).record.find? fun e => e.state == .draining) = some e) : Completes .drainSend s fun t =>
      (∀ x ∈ (coreAt t (s.arg 0)).record, x.seq = e.seq → x.state = .sent) ∧
      tfind t.net s.ctl.nextId = some (if e.cls = 4 then .hostStore (s.arg 0) { e with state := .sent }
        else .drain (homeSlice s e.line) (s.arg 0) { e with state := .sent } s.now) := by
  have hsent : ∀ x ∈ (coreAt (entrySent s (s.arg 0) e) (s.arg 0)).record, x.seq = e.seq → x.state = .sent := by
    intro x hx hseq
    rw [record_entrySent] at hx
    obtain ⟨o, -, rfl⟩ := List.mem_map.1 hx
    by_cases ho : (o.seq == e.seq) = true
    · rw [if_pos ho]
      rfl
    · rw [if_neg ho] at hseq
      exact absurd (by simpa using hseq) ho
  refine ⟨_, rfl, ?_⟩
  simp only [coreAt_quiet, quiet_net]
  rw [sendDrain_eq hn he]
  by_cases hc : e.cls = 4
  · rw [if_pos hc, if_pos hc, coreAt_postHost]
    exact ⟨hsent, tfind_net_postHost (entrySent s (s.arg 0) e) _⟩
  · rw [if_neg hc, if_neg hc]
    refine ⟨?_, tfind_net_postFrom _ none none _⟩
    change ∀ x ∈ (coreAt (updateL1 (entrySent s (s.arg 0) e) (s.arg 0) e) (s.arg 0)).record, _
    rw [record_updateL1]
    exact hsent

/-! ## The replies -/

theorem entryTime_spec {s : State} {core seq c : Nat} {e : RecEntry} (hm : arriving s (s.arg 0) = some (.ctl (.entry core seq) c))
    (he : ((coreAt s core).record.find? fun e => e.seq == seq) = some e) : Completes .completionTimeArrival s fun t =>
      (∀ x ∈ (coreAt t core).record, x.seq ≠ seq) ∧
      ((tfind s.launches (2 ^ 32 * e.part + e.launch)).isSome → (launchAt t (2 ^ 32 * e.part + e.launch)).horizon =
        max (launchAt s (2 ^ 32 * e.part + e.launch)).horizon c) := by
  refine ⟨_, rfl, ?_⟩
  unfold ctlArrives
  rw [hm]
  exact ⟨record_entryCompletes (s := takeOff s (s.arg 0)) he c, horizon_entryCompletes (s := takeOff s (s.arg 0)) he c⟩

theorem opTime_spec {s : State} {b id c : Nat} (hm : arriving s (s.arg 0) = some (.ctl (.op b id) c)) (hb : (tfind s.blocks b).isSome)
    (ho : ∃ o ∈ (blockAt s b).ops, o.id = id) (ht : ∀ o ∈ (blockAt s b).ops, o.id = id → o.kind ≠ .tail) :
    Completes .completionTimeArrival s fun t => (blockAt t b).lct = max (blockAt s b).lct c := by
  refine ⟨_, rfl, ?_⟩
  unfold ctlArrives
  rw [hm]
  exact lct_opCompletes (s := takeOff s (s.arg 0)) hb ho ht c

/-- The transport completion of a Host-class store is a completion time, one tick on (R171). -/
theorem hostStoreDone_spec {s : State} {core : Nat} {e x : RecEntry} (hm : arriving s (s.arg 0) = some (.hostStore core e))
    (hx : ((coreAt s core).record.find? fun x => x.seq == e.seq) = some x) : Completes .hostStoreTransportCompletion s fun t =>
      (∀ y ∈ (coreAt t core).record, y.seq ≠ e.seq) ∧
      ((tfind s.launches (2 ^ 32 * x.part + x.launch)).isSome → (launchAt t (2 ^ 32 * x.part + x.launch)).horizon =
        max (launchAt s (2 ^ 32 * x.part + x.launch)).horizon (s.now + 1)) ∧
      ((tfind s.blocks x.block).isSome → (blockAt s x.block).gang = x.gang →
        (blockAt t x.block).lct = max (blockAt s x.block).lct (s.now + 1)) := by
  refine ⟨_, rfl, ?_⟩
  unfold hostStoreDone
  rw [hm]
  dsimp only
  have hr := reported_hears (takeOff s (s.arg 0))
  generalize hears (takeOff s (s.arg 0)) = u at *
  have hu : ((coreAt u core).record.find? fun x => x.seq == e.seq) = some x := by rw [hr.coreAt]; exact hx
  have hlaunches : u.launches = s.launches := hr.launches
  have hblocks : u.blocks = s.blocks := hr.blocks
  refine ⟨record_entryCompletes hu _, fun hl => ?_, fun hb hg => ?_⟩
  · refine (horizon_entryCompletes hu _ (by rw [hlaunches]; exact hl)).trans ?_
    rw [launchAt, hlaunches, ← launchAt]
  · refine (lct_entryCompletes hu _ (by rw [hblocks]; exact hb) (by rw [blockAt, hblocks]; exact hg)).trans ?_
    rw [blockAt, hblocks, ← blockAt]

/-- While no port carries traffic a Host-class store waits (R25). -/
theorem hostStore_waits {s : State} {core : Nat} {e : RecEntry} (hm : tfind s.net (s.arg 0) = some (.hostStore core e))
    (hr : hostReach s = false) : Completes .hostStoreTransportCompletion s fun t => t.cores = s.cores ∧ t.net = s.net := by
  have hheld : heldBack s (s.arg 0) (.hostStore core e) = true := by simp [heldBack, Msg.external, hr]
  have hno : arriving s (s.arg 0) = none := by
    rw [arriving, hm]
    simp [hheld]
  refine ⟨_, rfl, ?_⟩
  unfold hostStoreDone
  rw [hno]
  exact ⟨rfl, rfl⟩

/-- A reply's line ends a load of a strand and gives its register the bytes. -/
theorem loadReply_spec {s : State} {r : ReadReq} {bytes : List Byte} {poison : Bool} {expiry : Option Nat} {mask : Option (List Nat)}
    {k id n : Nat} {p : PendingLoad} (hm : arriving s (s.arg 0) = some (.data none r bytes poison expiry mask)) (hl : r.l2only = false)
    (hwait : r.waiters = [(k, id)]) (hold : replyOlder s r.born (k, id) = false) (hp : pendingOf s k id = some p) (hd : p.dest = .v n)
    (hw : tyWidth p.ty ≤ 32) (hk : (tfind s.strands k).isSome) (hs : (blockAt s (blockOf s k)).shared = [])
    (ha : (blockAt s (blockOf s k)).armed = none) (har : (blockAt s r.block).armed = none) : Completes .loadReply s fun t =>
      let vs := replyBytes s k p bytes poison
      (∀ q ∈ (strandAt t k).loads, q.id ≠ id) ∧
      readV t k n = (BitVec.ofNat 32 (extendBits (bytesValue vs).1 (tyWidth p.ty) (tySigned p.ty) 32), (bytesValue vs).2.1) := by
  refine ⟨_, rfl, ?_⟩
  unfold replyArrives
  rw [hm]
  exact dataArrives_spec (s := takeOff s (s.arg 0)) hl hwait hold hp hd hw hk hs ha har (s.arg 0) bytes poison expiry mask

/-- Settles O49: each step's own lemma says what it leaves of the record, the horizons, the register, the scratchpad and the fabric. -/
theorem replies : Obligations.Replies := by
  unfold Obligations.Replies
  exact ⟨fun s core seq c e hm he => entryTime_spec hm he, fun s b id c hm hb ho ht => opTime_spec hm hb ho ht,
    fun s r bytes poison expiry mask k id p n hm hl hwait hold hp hd hw hk hs ha har =>
      loadReply_spec hm hl hwait hold hp hd hw hk hs ha har,
    fun s g rank off bytes poison src b hm hb => xstLanding_spec hm hb, fun s core e x hm hx => hostStoreDone_spec hm hx,
    fun s core e hm hr => hostStore_waits hm hr, fun s h => recordDrainTimer_spec h, fun s e hn he => drainSend_spec hn he⟩

end Sys2Proof.Proofs
end

section
/-! SUPPORT. Bytes of a line that a home writes (R42, R50, R185): what memory reads after the stores of a line's bytes. -/

namespace Sys2Proof.Proofs
open Sys2Proof Sys2Proof.Machine Sys2Proof.Laws

/-! ## Stores of a line's bytes -/

/-- The stores of some bytes of a line, by their offset. -/
def lineStores (line : Nat) (data : Tab Byte) : List MemEffect := data.map fun p => .store (64 * line + p.1) [p.2]

theorem lineStores_cons (line : Nat) (p : Nat × Byte) (data : Tab Byte) (m : Memory) :
    memApply m (lineStores line (p :: data)) = memApply (memWrite m (64 * line + p.1) p.2) (lineStores line data) := rfl

/-- Where no byte is stored, memory is as it was. -/
theorem memRead_lineStores_out {line a : Nat} (data : Tab Byte) (m : Memory) (h : ∀ p ∈ data, a ≠ 64 * line + p.1) :
    memRead (memApply m (lineStores line data)) a = memRead m a := by
  induction data generalizing m with
  | nil => rfl
  | cons p data ih =>
    rw [lineStores_cons, ih _ fun q hq => h q (List.mem_cons_of_mem _ hq), memRead_memWrite_ne _ (h p List.mem_cons_self)]

/-- A byte that is stored, and no other at its place, is read. -/
theorem memRead_lineStores_in {line off : Nat} {v : Byte} (data : Tab Byte) {m : Memory} (hw : m.wf = true)
    (hu : ∀ w, (off, w) ∈ data → w = v) (hv : memRead m (64 * line + off) = v ∨ (off, v) ∈ data) :
    memRead (memApply m (lineStores line data)) (64 * line + off) = v := by
  induction data generalizing m with
  | nil => exact hv.resolve_right List.not_mem_nil
  | cons p data ih =>
    obtain ⟨o, w⟩ := p
    rw [lineStores_cons]
    refine ih (wf_memWrite hw _ _) (fun x hx => hu x (List.mem_cons_of_mem _ hx)) ?_
    dsimp only
    by_cases ho : off = o
    · subst ho
      left
      rw [memRead_memWrite_same hw]
      exact hu w List.mem_cons_self
    · rw [memRead_memWrite_ne _ (by omega)]
      refine hv.imp_right fun h => (List.mem_cons.1 h).resolve_left fun e => ho ?_
      rw [Prod.mk.injEq] at e
      exact e.1

/-- A home that stores some bytes of a line writes the line. -/
theorem writesLine_of_stores {s t : State} {line : Nat} {data : Tab Byte} (hw : s.mem.wf = true)
    (h : t.mem = memApply s.mem (lineStores line data)) : WritesLine s t line data := by
  unfold WritesLine
  rw [h]
  exact ⟨fun off v hm hu => memRead_lineStores_in data hw hu (.inr hm), fun a ha => memRead_lineStores_out data s.mem ha⟩

/-! ## Bytes of one location -/

theorem mem_of_tfind {α : Type} {t : List (Nat × α)} {k : Nat} {v : α} (h : tfind t k = some v) : (k, v) ∈ t := by
  induction t with
  | nil => cases h
  | cons p t ih =>
    rw [tfind] at h
    split at h
    · next e =>
      cases h
      subst e
      exact List.mem_cons_self
    · exact List.mem_cons_of_mem _ (ih h)

theorem tfind_of_mem {α : Type} {t : List (Nat × α)} (hr : keysRise t = true) {k : Nat} {v : α} (h : (k, v) ∈ t) : tfind t k = some v := by
  induction t with
  | nil => cases h
  | cons p t ih =>
    obtain ⟨ha, hr⟩ := (keysRise_cons p.1 p.2 t).1 hr
    rw [tfind]
    rcases List.mem_cons.1 h with rfl | h
    · rw [if_pos rfl]
    · have hlt := ha _ h
      rw [if_neg (by omega)]
      exact ih hr h

theorem keysRise_setBytes (bs : List Byte) {t : Tab Byte} (h : keysRise t = true) (off : Nat) : keysRise (setBytes t off bs) = true := by
  induction bs generalizing t off with
  | nil => exact h
  | cons b bs ih => exact ih (keysRise_tset h off b) (off + 1)

/-- The bytes of a table that were set alone, one by one. -/
theorem mem_setBytes_nil {bs : List Byte} {off a : Nat} {v : Byte} :
    (a, v) ∈ setBytes [] off bs ↔ off ≤ a ∧ a < off + bs.length ∧ bs[a - off]? = some v := by
  have hfind : (a, v) ∈ setBytes [] off bs ↔ tfind (setBytes [] off bs) a = some v :=
    ⟨fun h => tfind_of_mem (keysRise_setBytes bs rfl off) h, mem_of_tfind⟩
  rw [hfind, tfind_setBytes]
  by_cases h : off ≤ a ∧ a < off + bs.length
  · rw [if_pos h]
    exact ⟨fun e => ⟨h.1, h.2, e⟩, fun e => e.2.2⟩
  · rw [if_neg h]
    exact ⟨fun e => (nomatch e), fun e => absurd ⟨e.1, e.2.1⟩ h⟩

theorem length_leBytes (n x : Nat) : (leBytes n x).length = n := by
  induction n generalizing x with
  | zero => rfl
  | succ n ih => rw [leBytes, List.length_cons, ih]

/-- The value that a location holds (R185). -/
def oldValue (m : Memory) (o : LaneOp) : Nat := leNat ((List.range (tyWidth o.ty / 8)).map fun i => memRead m (o.pa + i))

/-- The bytes that an update leaves at its location (R185). -/
def updateBytes (m : Memory) (o : LaneOp) : List Byte :=
  leBytes (tyWidth o.ty / 8) (atomNew o.op o.ty (oldValue m o) o.value.toNat o.expected.toNat)

/-- A home that stores an update's bytes at its location updates it. -/
theorem updates_of_stores {s t : State} {o : LaneOp} (hw : s.mem.wf = true)
    (h : t.mem = memApply s.mem (lineStores (o.pa / 64) (setBytes [] (o.pa % 64) (updateBytes s.mem o)))) : Updates s t o := by
  have hlen : (updateBytes s.mem o).length = tyWidth o.ty / 8 := length_leBytes _ _
  have hpa : 64 * (o.pa / 64) + o.pa % 64 = o.pa := Nat.div_add_mod _ _
  obtain ⟨hin, hout⟩ := writesLine_of_stores hw h
  refine ⟨fun i hi => ?_, fun a ha => hout a fun p hp => ?_⟩
  · have hget : (updateBytes s.mem o)[i]? = some (updateBytes s.mem o)[i] := List.getElem?_eq_getElem (by omega)
    have hmem : (o.pa % 64 + i, (updateBytes s.mem o)[i]) ∈ setBytes [] (o.pa % 64) (updateBytes s.mem o) :=
      mem_setBytes_nil.2 ⟨by omega, by omega, by rw [Nat.add_sub_cancel_left, hget]⟩
    have hread := hin _ _ hmem fun w hw' => by
      have := (mem_setBytes_nil.1 hw').2.2
      rw [Nat.add_sub_cancel_left, hget] at this
      exact (Option.some.inj this).symm
    rw [← Nat.add_assoc, hpa] at hread
    rw [hread]
    exact hget.symm
  · obtain ⟨hlo, hhi, -⟩ := mem_setBytes_nil.1 hp
    omega

end Sys2Proof.Proofs
end

section
/-! SUPPORT. What a home's work leaves alone (R49, R50, R57 to R59, R70, R338): which parts of the state it changes, that it takes no
message off the fabric, and what it keeps of the records of lines. -/

namespace Sys2Proof.Proofs
open Sys2Proof Sys2Proof.Machine Sys2Proof.Laws

/-! ## Homes and slices at work -/

/-- A state differs from another by what homes and slices hold of lines and by new messages: those on the fabric stay, and no line's
queue changes. -/
structure Posted (s t : State) : Prop where
  frame : t = { s with ctl := { s.ctl with nextId := t.ctl.nextId }, badLines := t.badLines, quads := t.quads, homes := t.homes,
                       net := t.net, origins := t.origins }
  nextId : s.ctl.nextId ≤ t.ctl.nextId
  net : ∀ n < s.ctl.nextId, tfind t.net n = tfind s.net n
  queue : ∀ l, (homeAt t l).queue = (homeAt s l).queue

namespace Posted

theorem refl (s : State) : Posted s s := ⟨rfl, le_refl _, fun _ _ => rfl, fun _ => rfl⟩

theorem trans {s t u : State} (h : Posted s t) (k : Posted t u) : Posted s u where
  frame := by rw [k.frame, h.frame]
  nextId := le_trans h.nextId k.nextId
  net n hn := (k.net n (lt_of_lt_of_le hn h.nextId)).trans (h.net n hn)
  queue l := (k.queue l).trans (h.queue l)

variable {s t : State}

theorem now (h : Posted s t) : t.now = s.now := by rw [h.frame]
theorem mem (h : Posted s t) : t.mem = s.mem := by rw [h.frame]
theorem tracts (h : Posted s t) : t.tracts = s.tracts := by rw [h.frame]
theorem module (h : Posted s t) : t.module = s.module := by rw [h.frame]

theorem homeSlice (h : Posted s t) (line : Nat) : homeSlice t line = homeSlice s line := by simp only [Machine.homeSlice, h.module]
theorem lineLost (h : Posted s t) (line : Nat) : lineLost t line = lineLost s line := by
  simp only [Machine.lineLost, tractAt, h.tracts]

end Posted

theorem Posted.ite {s t u : State} {c : Prop} [Decidable c] (h : Posted s t) (k : Posted s u) : Posted s (if c then t else u) := by
  split
  · exact h
  · exact k

/-- Neither does a line's directory entry change, nor which helpers it is lent to. -/
structure Tended (s t : State) : Prop extends Posted s t where
  dir : ∀ l, (homeAt t l).dir = (homeAt s l).dir
  loans : ∀ l, (homeAt t l).loans = (homeAt s l).loans

theorem Tended.refl (s : State) : Tended s s := ⟨.refl s, fun _ => rfl, fun _ => rfl⟩

theorem Tended.trans {s t u : State} (h : Tended s t) (k : Tended t u) : Tended s u :=
  ⟨h.toPosted.trans k.toPosted, fun l => (k.dir l).trans (h.dir l), fun l => (k.loans l).trans (h.loans l)⟩

theorem Tended.ite {s t u : State} {c : Prop} [Decidable c] (h : Tended s t) (k : Tended s u) : Tended s (if c then t else u) := by
  split
  · exact h
  · exact k

theorem homeAt_modHome (s : State) (line : Nat) (f : Home → Home) (l : Nat) :
    homeAt (modHome s line f) l = if l = line then f (homeAt s line) else homeAt s l := tget_tset _ _ _ _ _

theorem tended_modQuad (s : State) (q : Nat) (f : Quad → Quad) : Tended s (modQuad s q f) :=
  ⟨⟨rfl, le_refl _, fun _ _ => rfl, fun _ => rfl⟩, fun _ => rfl, fun _ => rfl⟩

theorem tended_badLines (s : State) (bad : List Nat) : Tended s { s with badLines := bad } :=
  ⟨⟨rfl, le_refl _, fun _ _ => rfl, fun _ => rfl⟩, fun _ => rfl, fun _ => rfl⟩

theorem posted_modHome (s : State) (line : Nat) (f : Home → Home) (hf : ∀ h, (f h).queue = h.queue) : Posted s (modHome s line f) := by
  refine ⟨rfl, le_refl _, fun _ _ => rfl, fun l => ?_⟩
  rw [homeAt_modHome]
  split
  · next e => rw [hf, e]
  · rfl

/-- A line's privatisation, and the transaction in progress, are not what a home tends. -/
theorem tended_modHome (s : State) (line : Nat) (f : Home → Home) (hf : ∀ h, (f h).queue = h.queue ∧ (f h).dir = h.dir ∧ (f h).loans = h.loans) :
    Tended s (modHome s line f) := by
  refine ⟨posted_modHome s line f fun h => (hf h).1, fun l => ?_, fun l => ?_⟩
  · rw [homeAt_modHome]
    split
    · next e => rw [(hf _).2.1, e]
    · rfl
  · rw [homeAt_modHome]
    split
    · next e => rw [(hf _).2.2, e]
    · rfl

theorem tended_postFrom (s : State) (die port : Option Nat) (m : Msg) : Tended s (postFrom s die port m) :=
  ⟨⟨rfl, Nat.le_succ _, fun _ hn => tfind_tset_ne _ (ne_of_lt hn) m, fun _ => rfl⟩, fun _ => rfl, fun _ => rfl⟩

theorem tended_post (s : State) (m : Msg) : Tended s (post s m) := tended_postFrom s none none m

theorem tended_posts {α : Type} (m : α → Msg) (l : List α) (s : State) : Tended s (l.foldl (fun u a => post u (m a)) s) :=
  foldl_related Tended.refl Tended.trans (fun u a => tended_post u (m a)) l s

/-! ## Horizons and privatisation (R49, R57 to R59) -/

theorem tended_raiseHorizon (s : State) (q line h : Nat) : Tended s (raiseHorizon s q line h) := by
  unfold raiseHorizon
  dsimp only
  exact .ite (.refl s) (tended_modQuad s q _)

theorem tended_endTracker (s : State) (line : Nat) : Tended s (endTracker s line) := by
  unfold endTracker
  split
  · exact (tended_raiseHorizon _ _ _ _).trans (tended_modHome _ _ _ fun _ => ⟨rfl, rfl, rfl⟩)
  · exact .refl s

theorem tended_touchTracker (s : State) (line core : Nat) (bytes : List Nat) : Tended s (touchTracker s line core bytes) := by
  unfold touchTracker
  split
  · exact .refl s
  · split
    · exact tended_modHome _ _ _ fun _ => ⟨rfl, rfl, rfl⟩
    · exact tended_endTracker s line

theorem tended_startTracker (s : State) (line core : Nat) (bytes : List Nat) : Tended s (startTracker s line core bytes) := by
  unfold startTracker
  dsimp only
  exact .ite (tended_modHome _ _ _ fun _ => ⟨rfl, rfl, rfl⟩) (.refl s)

/-! ## Ways (R52, R59, R61, R70, R72) -/

theorem tended_tellDie (s : State) (helper : Nat) (m : Nat → Msg) : Tended s (tellDie s helper m) :=
  foldl_related Tended.refl Tended.trans (fun u _ => tended_postFrom u _ _ _) _ s

theorem tended_leaveWay (s : State) (q : Nat) (c : SliceCopy) : Tended s (leaveWay s q c) := by
  unfold leaveWay
  dsimp only
  split
  · exact (tended_modQuad s q _).trans (tended_endTracker _ _)
  · exact tended_modQuad s q _
  · exact (tended_modQuad s q _).trans ((tended_tellDie _ q _).trans (tended_post _ _))

theorem tended_fillWay (s : State) (q mask : Nat) (c : SliceCopy) : Tended s (fillWay s q mask c) := by
  unfold fillWay
  split
  · exact tended_modQuad s q _
  · split
    · exact .refl s
    · dsimp only
      refine .trans ?_ (tended_modQuad _ q _)
      split
      · exact tended_leaveWay s q _
      · exact .refl s

theorem tended_keepHomed (s : State) (q line : Nat) (k : Keeper) : Tended s (keepHomed s q line k) := tended_fillWay s q _ _

theorem tended_useWay (s : State) (q line : Nat) : Tended s (useWay s q line) := tended_modQuad s q _

/-! ## Line writes (R42, R131, R338) -/

theorem tended_sendDelta (s : State) (line : Nat) (delta : List Byte) : Tended s (sendDelta s line delta) := tended_post s _

theorem tended_setBad (s : State) (line : Nat) (bad : Bool) : Tended s (setBad s line bad) := by
  unfold setBad
  exact .ite (.refl s) ((tended_badLines s _).trans (tended_sendDelta _ _ _))

theorem tended_writeElements (s : State) (line : Nat) (data : Tab Byte) (poison : Bool) : Tended s (writeElements s line data poison).1 := by
  unfold writeElements
  dsimp only
  exact (tended_modQuad s _ _).trans (.ite (tended_setBad _ _ _) (.refl _))

theorem tended_writeLine (s : State) (line : Nat) (data : Tab Byte) (poison : Bool) : Tended s (writeLine s line data poison).1 := by
  unfold writeLine
  split
  · exact .refl s
  · split
    · exact tended_writeElements s line data poison
    · exact (tended_badLines s _).trans (tended_sendDelta _ _ _)

/-- A line that no failed channels have taken is written byte by byte, resident or not. -/
theorem writeLine_stores {s : State} {line : Nat} (h : lineLost s line = false) (data : Tab Byte) (poison : Bool) :
    (writeLine s line data poison).2 = lineStores line data := by
  unfold writeLine
  rw [h, if_neg (by decide)]
  split
  · rfl
  · rfl

/-! ## Completion times (R50, R67, R171) -/

theorem tended_sendC (s : State) (line : Nat) (n : Notify) (c : Nat) : Tended s (sendC s line n c) := by
  unfold sendC
  split
  · exact .refl s
  · exact tended_postFrom s _ _ _

theorem tended_fixC (s : State) (line tarr hall : Nat) (snp : Bool) (n : Notify) : Tended s (fixC s line tarr hall snp n) :=
  (tended_raiseHorizon _ _ _ _).trans (tended_sendC _ _ _ _)

/-- A line's directory entry is given up, and some of its loans stay (R53, R54). -/
def entryGivenUp (s : State) (line : Nat) (kept : List Nat) : State :=
  modHome (modQuad s (homeSlice s line) fun x => { x with directory := x.directory.filter (· != line) }) line
    fun x => { x with dir := .empty, loans := kept }

theorem posted_entryGivenUp (s : State) (line : Nat) (kept : List Nat) : Posted s (entryGivenUp s line kept) :=
  (tended_modQuad s _ _).toPosted.trans (posted_modHome _ line _ fun _ => rfl)

theorem posted_fanOut (s : State) (line hall : Nat) (n : Notify) (resume : Option Nat) (recalls : Bool) :
    Posted s (fanOut s line hall n resume recalls) := by
  unfold fanOut
  dsimp only
  exact (posted_entryGivenUp s line _).trans (.ite (tended_fixC _ _ _ _ _ _).toPosted
    (((tended_posts _ _ _).trans (tended_posts _ _ _)).toPosted.trans (posted_modHome _ line _ fun _ => rfl)))

theorem posted_completeWrite (s : State) (line cls hall : Nat) (n : Notify) : Posted s (completeWrite s line 0 cls hall n) := by
  unfold completeWrite
  split
  · exact (tended_sendC s line n _).toPosted
  · exact posted_fanOut s line hall n none true

theorem tfind_net_sendC {s : State} {n : Notify} (hn : n ≠ .nobody) (line c : Nat) :
    tfind (sendC s line n c).net s.ctl.nextId = some (.ctl n c) := by
  cases n with
  | nobody => exact absurd rfl hn
  | _ => exact tfind_net_postFrom s _ none _

/-- Where no slice holds a line and none has it on loan, a write's completion time is sent at once, and is later than now. -/
theorem completeWrite_sends {s : State} {line : Nat} (hd : (homeAt s line).dir = .empty) (hl : (homeAt s line).loans = []) {n : Notify}
    (hn : n ≠ .nobody) (cls hall : Nat) : ∃ i c, tfind (completeWrite s line 0 cls hall n).net i = some (.ctl n c) ∧ s.now < c := by
  unfold completeWrite
  split
  · exact ⟨_, _, tfind_net_sendC hn line _, Nat.lt_succ_self _⟩
  · unfold fanOut
    dsimp only
    rw [hd, hl]
    refine ⟨_, _, tfind_net_sendC hn line _, ?_⟩
    exact Nat.lt_succ_of_le (Nat.le_add_right_of_le (le_max_left _ _))

end Sys2Proof.Proofs
end

section
/-! SUPPORT. Drains, line writes, atomics and reductions at a home (R50, R55, R184, R185, R189, R190): the bytes that each stores,
and what it sends. -/

namespace Sys2Proof.Proofs
open Sys2Proof Sys2Proof.Machine Sys2Proof.Laws

/-! ## Arrivals that are served at once (R55, R56) -/

/-- The request has left its slice's retry table. -/
def admitted (s : State) (r : Request) : State :=
  modQuad s r.slice fun y => { y with retry := y.retry.filter (· != (r.age, r.agent)) }

theorem tended_admitted (s : State) (r : Request) : Tended s (admitted s r) := tended_modQuad s _ _

theorem arrive_serves {s : State} {r : Request} (h : ServesNow s r.slice r.line) (id : Nat) (m : Msg) (f : State → State × List MemEffect) :
    arrive s id m r f = f (admitted s r) := by
  obtain ⟨hhome, hfenced, hbusy⟩ := h
  unfold arrive
  rw [hfenced, hbusy, if_neg (by decide), if_neg (not_not.2 hhome), if_neg (by decide)]
  rfl

/-- A request that a step takes, and that is served at once, is served. -/
theorem homeStep_serves {s : State} {m : Msg} {r : Request} {accepts : Msg → Bool} (hm : arriving s (s.arg 0) = some m)
    (ha : accepts m = true) (h1 : s.arg 1 = 0) (hr : requestOf s m = some r) (hs : ServesNow s r.slice r.line) :
    homeStep s accepts = .next (commit s (serve 0 (s.arg 0) m (admitted s r))) := by
  unfold homeStep arriveMsg
  rw [hm]
  dsimp only
  rw [ha, if_pos rfl, hr, h1]
  dsimp only
  rw [arrive_serves hs]

/-! ## Drains (R50, R57) -/

/-- A drain has met its line's privatisation. -/
def drainTracked (s : State) (core : Nat) (e : RecEntry) : State :=
  let s := if e.cls = 1 then s else touchTracker s e.line core (offsetsOf e.data)
  if e.cls = 0 then startTracker s e.line core (offsetsOf e.data) else s

theorem tended_drainTracked (s : State) (core : Nat) (e : RecEntry) : Tended s (drainTracked s core e) := by
  unfold drainTracked
  dsimp only
  have h : Tended s (if e.cls = 1 then s else touchTracker s e.line core (offsetsOf e.data)) :=
    .ite (.refl s) (tended_touchTracker s _ _ _)
  exact .ite (h.trans (tended_startTracker _ _ _ _)) h

/-- A drain's bytes are written, its message is gone, and the home keeps the line. -/
def drainWritten (s : State) (id q core : Nat) (e : RecEntry) : State :=
  keepHomed (takeOff (writeLine (drainTracked s core e) e.line e.data (!e.poison.isEmpty)).1 id) q e.line (e.keeper (drainTracked s core e))

/-- Then its completion time is fixed. -/
theorem serveDrain_eq (s : State) (id q core : Nat) (e : RecEntry) : serveDrain s id q 0 core e =
    (completeWrite (drainWritten s id q core e) e.line 0 e.cls (hallOf (drainTracked s core e) e.line core (offsetsOf e.data))
      (.entry core e.seq), (writeLine (drainTracked s core e) e.line e.data (!e.poison.isEmpty)).2) := rfl

theorem serveDrain_stores {s : State} {e : RecEntry} (h : lineLost s e.line = false) (id q core : Nat) :
    (serveDrain s id q 0 core e).2 = lineStores e.line e.data := by
  rw [serveDrain_eq]
  exact writeLine_stores (((tended_drainTracked s core e).lineLost _).trans h) _ _

/-- Up to its completion time a drain leaves the queues, directory entries and loans of all lines. -/
theorem homeAt_drainWritten (s : State) (id q core : Nat) (e : RecEntry) (l : Nat) :
    (homeAt (drainWritten s id q core e) l).queue = (homeAt s l).queue ∧ (homeAt (drainWritten s id q core e) l).dir = (homeAt s l).dir ∧
    (homeAt (drainWritten s id q core e) l).loans = (homeAt s l).loans := by
  have h := (tended_drainTracked s core e).trans (tended_writeLine (drainTracked s core e) e.line e.data (!e.poison.isEmpty))
  have hk := tended_keepHomed (takeOff (writeLine (drainTracked s core e) e.line e.data (!e.poison.isEmpty)).1 id) q e.line
    (e.keeper (drainTracked s core e))
  exact ⟨(hk.queue l).trans (h.queue l), (hk.dir l).trans (h.dir l), (hk.loans l).trans (h.loans l)⟩

theorem now_drainWritten (s : State) (id q core : Nat) (e : RecEntry) : (drainWritten s id q core e).now = s.now :=
  (tended_keepHomed _ _ _ _).now.trans ((tended_writeLine _ _ _ _).now.trans (tended_drainTracked s core e).now)

theorem queue_serveDrain (s : State) (id q core : Nat) (e : RecEntry) (l : Nat) :
    (homeAt (serveDrain s id q 0 core e).1 l).queue = (homeAt s l).queue := by
  rw [serveDrain_eq]
  exact ((posted_completeWrite _ _ _ _ _).queue l).trans (homeAt_drainWritten s id q core e l).1

/-- A drain of a line that no slice holds has its completion time at once. -/
theorem serveDrain_sends {s : State} {e : RecEntry} (hd : (homeAt s e.line).dir = .empty) (hl : (homeAt s e.line).loans = [])
    (id q core : Nat) : ∃ n c, tfind (serveDrain s id q 0 core e).1.net n = some (.ctl (.entry core e.seq) c) ∧ s.now < c := by
  obtain ⟨-, hdir, hloans⟩ := homeAt_drainWritten s id q core e e.line
  rw [serveDrain_eq, ← now_drainWritten s id q core e]
  exact completeWrite_sends (hdir.trans hd) (hloans.trans hl) (by intro h; cases h) _ _

theorem drainArrival_spec {s : State} {q core age : Nat} {e : RecEntry} (hw : s.mem.wf = true)
    (hm : arriving s (s.arg 0) = some (.drain q core e age)) (h1 : s.arg 1 = 0) (hs : ServesNow s q e.line)
    (hl : lineLost s e.line = false) : Completes .drainArrival s fun t => WritesLine s t e.line e.data ∧
      ((homeAt s e.line).dir = .empty → (homeAt s e.line).loans = [] →
        ∃ n c, tfind t.net n = some (.ctl (.entry core e.seq) c) ∧ s.now < c) := by
  refine ⟨_, homeStep_serves hm rfl h1 rfl hs, writesLine_of_stores hw ?_, fun hd hloans => ?_⟩
  · exact congrArg (memApply s.mem) (serveDrain_stores (((tended_admitted s _).lineLost _).trans hl) _ _ _)
  · exact serveDrain_sends (((tended_admitted s _).dir _).trans hd) (((tended_admitted s _).loans _).trans hloans) _ _ _

/-- A request has left its line's queue. -/
def unqueued (s : State) (line id : Nat) : State :=
  modQuad (modHome s line fun h => { h with queue := h.queue.filter (· != id) }) (homeSlice s line) fun x => freeQueue x s.now

/-- A request that has waited in its line's queue is served once the line is free (R55). -/
theorem serveQueued_eq {s : State} {line id : Nat} {m : Msg} (ht : (homeAt s line).txn = none) (hfree : transactions s (homeSlice s line) < 64)
    (hq : nextQueued s line = some id) (hm : tfind s.net id = some m) (hit : Nat) :
    serveQueued s line hit = serve hit id m (unqueued s line id) := by
  have hno : ¬ ((homeAt s line).txn.isSome || decide (64 ≤ transactions s (homeSlice s line))) = true := by simp [ht, hfree]
  unfold serveQueued
  dsimp only
  rw [if_neg hno, hq]
  dsimp only
  rw [hm]
  rfl

theorem lineLost_unqueued (s : State) (line id l : Nat) : lineLost (unqueued s line id) l = lineLost s l := by
  simp only [lineLost, tractAt, unqueued, modQuad, modHome]

theorem queue_unqueued (s : State) (line id : Nat) : (homeAt (unqueued s line id) line).queue = (homeAt s line).queue.filter (· != id) := by
  have h := homeAt_modHome s line (fun h => { h with queue := h.queue.filter (· != id) }) line
  rw [if_pos rfl] at h
  exact congrArg Home.queue h

theorem queuedDrain_spec {s : State} {id q core age : Nat} {e : RecEntry} (hw : s.mem.wf = true) (ht : (homeAt s (s.arg 0)).txn = none)
    (hfree : transactions s (homeSlice s (s.arg 0)) < 64) (hq : nextQueued s (s.arg 0) = some id)
    (hm : tfind s.net id = some (.drain q core e age)) (hline : e.line = s.arg 0) (h1 : s.arg 1 = 0) (hl : lineLost s e.line = false) :
    Completes .queuedRequestServe s fun t => WritesLine s t e.line e.data ∧ id ∉ (homeAt t e.line).queue := by
  have hserve : serveQueued s (s.arg 0) (s.arg 1) = serveDrain (unqueued s (s.arg 0) id) id q 0 core e := by
    rw [serveQueued_eq ht hfree hq hm, h1]
    rfl
  have hlost := (lineLost_unqueued s (s.arg 0) id e.line).trans hl
  refine ⟨_, congrArg (fun r => Host.Outcome.next (commit s r)) hserve, writesLine_of_stores hw ?_, ?_⟩
  · exact congrArg (memApply s.mem) (serveDrain_stores hlost id q core)
  · rw [homeAt_commit, queue_serveDrain, hline, queue_unqueued]
    simp

/-! ## Lines that cpo or the host writes (R75, R190) -/

theorem serveWrite_stores {s : State} {line : Nat} (h : lineLost s line = false) (id q cls : Nat) (data : Tab Byte) (poison : Bool)
    (n : Notify) : (serveWrite s id q 0 line cls data poison n).2 = lineStores line data :=
  writeLine_stores (((tended_endTracker s line).lineLost _).trans h) data poison

theorem engineWrite_spec {s : State} {q line age cls : Nat} {data : Tab Byte} {poison : Bool} {n : Notify} (hw : s.mem.wf = true)
    (hm : arriving s (s.arg 0) = some (.engineWrite q line data poison n age cls)) (h1 : s.arg 1 = 0) (hs : ServesNow s q line)
    (hl : lineLost s line = false) : Completes .engineWriteAtHome s fun t => WritesLine s t line data := by
  refine ⟨_, homeStep_serves hm rfl h1 rfl hs, writesLine_of_stores hw ?_⟩
  exact congrArg (memApply s.mem) (serveWrite_stores (((tended_admitted s _).lineLost _).trans hl) _ _ _ _ _ _)

theorem rmaWriteArrival_spec {s : State} {q line age : Nat} {data : Tab Byte} {tag : DWord} (hw : s.mem.wf = true)
    (hm : arriving s (s.arg 0) = some (.rmaWrite q line data tag age)) (h1 : s.arg 1 = 0) (hs : ServesNow s q line)
    (hl : lineLost s line = false) : Completes .drainArrival s fun t => WritesLine s t line data := by
  refine ⟨_, homeStep_serves hm rfl h1 rfl hs, writesLine_of_stores hw ?_⟩
  exact congrArg (memApply s.mem) (serveWrite_stores (((tended_admitted s _).lineLost _).trans hl) _ _ _ _ _ _)

/-! ## The poison of lines (R131, R339) -/

/-- A state keeps another's poisoned lines and the abacus lines that slices hold. -/
def PoisonKept (s t : State) : Prop := t.badLines = s.badLines ∧ ∀ q, (quadAt t q).resident = (quadAt s q).resident

theorem PoisonKept.refl (s : State) : PoisonKept s s := ⟨rfl, fun _ => rfl⟩

theorem PoisonKept.trans {s t u : State} (h : PoisonKept s t) (k : PoisonKept t u) : PoisonKept s u :=
  ⟨k.1.trans h.1, fun q => (k.2 q).trans (h.2 q)⟩

theorem poisonKept_modQuad (s : State) (q : Nat) (f : Quad → Quad) (hf : ∀ x, (f x).resident = x.resident) : PoisonKept s (modQuad s q f) := by
  refine ⟨rfl, fun x => ?_⟩
  rw [quadAt_modQuad]
  split
  · next e => rw [hf, e]
  · rfl

theorem poisonKept_modHome (s : State) (line : Nat) (f : Home → Home) : PoisonKept s (modHome s line f) := ⟨rfl, fun _ => rfl⟩

theorem resident_capHorizons (line : Nat) (x : Quad) : (capHorizons line x).resident = x.resident := by
  unfold capHorizons
  dsimp only
  split
  · rfl
  · split <;> rfl

theorem poisonKept_raiseHorizon (s : State) (q line h : Nat) : PoisonKept s (raiseHorizon s q line h) := by
  unfold raiseHorizon
  dsimp only
  split
  · exact .refl s
  · exact poisonKept_modQuad s q _ fun _ => resident_capHorizons _ _

theorem poisonKept_endTracker (s : State) (line : Nat) : PoisonKept s (endTracker s line) := by
  unfold endTracker
  split
  · exact (poisonKept_raiseHorizon _ _ _ _).trans (poisonKept_modHome _ _ _)
  · exact .refl s

theorem poisonKept_touchTracker (s : State) (line core : Nat) (bytes : List Nat) : PoisonKept s (touchTracker s line core bytes) := by
  unfold touchTracker
  split
  · exact .refl s
  · split
    · exact poisonKept_modHome _ _ _
    · exact poisonKept_endTracker s line

theorem lineBad_congr {s t : State} (h : Posted s t) (hp : PoisonKept s t) (line : Nat) : lineBad t line = lineBad s line := by
  obtain ⟨hbad, hres⟩ := hp
  unfold lineBad
  rw [h.lineLost, h.homeSlice, hres, hbad]

/-! ## Updates of one location (R133, R184, R185, R189) -/

theorem overlayValue_eq (m : Memory) (o : LaneOp) :
    overlayValue (fun i => memRead m (64 * (o.pa / 64) + i)) [] (o.pa % 64) (tyWidth o.ty / 8) = oldValue m o := by
  unfold overlayValue oldValue
  congr 1
  refine List.map_congr_left fun i _ => ?_
  change memRead m (64 * (o.pa / 64) + (o.pa % 64 + i)) = _
  rw [← Nat.add_assoc, Nat.div_add_mod]

/-- What one update does to its line: its bytes, the line's poison, the value found. -/
theorem runOps_one (m : Memory) (poison : Bool) (o : LaneOp) : runOps (fun i => memRead m (64 * (o.pa / 64) + i)) poison [o] =
    { data := setBytes [] (o.pa % 64) (updateBytes m o), poison := poison || o.poison,
      vals := [(o.strand, BitVec.ofNat 64 (oldValue m o), poison || o.poison)] } := by
  simp only [runOps, List.foldl, atomStep, overlayValue_eq]
  rfl

theorem tended_applyOps (s : State) (q line : Nat) (ops : List LaneOp) : Tended s (applyOps s q 0 line ops).1 :=
  (tended_writeLine _ _ _ _).trans (tended_useWay _ _ _)

theorem applyOps_stores {s : State} {o : LaneOp} (h : lineLost s (o.pa / 64) = false) (q : Nat) :
    (applyOps s q 0 (o.pa / 64) [o]).2.2 = lineStores (o.pa / 64) (setBytes [] (o.pa % 64) (updateBytes s.mem o)) := by
  refine (writeLine_stores h _ _).trans ?_
  rw [show (strikeHome s q (o.pa / 64) 0).mem = s.mem from rfl, runOps_one]

/-- An update of a clean line by a clean operand finds a clean value. -/
theorem applyOps_vals {s : State} {o : LaneOp} (hb : lineBad s (o.pa / 64) = false) (hp : o.poison = false) (q : Nat) :
    (applyOps s q 0 (o.pa / 64) [o]).2.1.vals = [(o.strand, BitVec.ofNat 64 (oldValue s.mem o), false)] := by
  have hrun := runOps_one s.mem (lineBad s (o.pa / 64)) o
  change combinePoison [o] (runOps (fun i => memRead s.mem (64 * (o.pa / 64) + i)) (lineBad s (o.pa / 64)) [o]).vals = _
  rw [hrun, hb, hp]
  simp [combinePoison, hp]

theorem tended_touchByOps (s : State) (line cls : Nat) (n : Notify) (ops : List LaneOp) : Tended s (touchByOps s line cls n ops) := by
  unfold touchByOps
  split
  · exact .refl s
  · split
    · exact tended_touchTracker s _ _ _
    · exact tended_endTracker s _

theorem poisonKept_touchByOps (s : State) (line cls : Nat) (n : Notify) (ops : List LaneOp) : PoisonKept s (touchByOps s line cls n ops) := by
  unfold touchByOps
  split
  · exact .refl s
  · split
    · exact poisonKept_touchTracker s _ _ _
    · exact poisonKept_endTracker s _

/-- The bytes that an update stores once its access has met the line's privatisation. -/
theorem touched_stores {s : State} {o : LaneOp} (h : lineLost s (o.pa / 64) = false) (q cls : Nat) (n : Notify) :
    (applyOps (touchByOps s (o.pa / 64) cls n [o]) q 0 (o.pa / 64) [o]).2.2 =
      lineStores (o.pa / 64) (setBytes [] (o.pa % 64) (updateBytes s.mem o)) := by
  have ht := tended_touchByOps s (o.pa / 64) cls n [o]
  rw [applyOps_stores ((ht.lineLost _).trans h), ht.mem]

theorem serveAtomic_stores {s : State} {o : LaneOp} (h : lineLost s (o.pa / 64) = false) (id q b op cls : Nat) (tail : Option Nat) :
    (serveAtomic s id q 0 b [o] op cls tail).2 = lineStores (o.pa / 64) (setBytes [] (o.pa % 64) (updateBytes s.mem o)) :=
  touched_stores h q cls (.op b op)

theorem serveRed_stores {s : State} {o : LaneOp} (h : lineLost s (o.pa / 64) = false) (id q cls : Nat) (n : Notify) :
    (serveRed s id q 0 n [o] cls).2 = lineStores (o.pa / 64) (setBytes [] (o.pa % 64) (updateBytes s.mem o)) :=
  touched_stores h q cls n

theorem tfind_net_passOn (s : State) (id q : Nat) (m : Msg) : tfind (passOn s id q m).net id = some m := tfind_tset_same _ _ _

/-- The values that an atomic found go back under its number. -/
theorem serveAtomic_answers {s : State} {o : LaneOp} {id : Nat} (hid : id < s.ctl.nextId) (hb : lineBad s (o.pa / 64) = false)
    (hp : o.poison = false) (q b op cls : Nat) (tail : Option Nat) : tfind (serveAtomic s id q 0 b [o] op cls tail).1.net id =
      some (.values b [(o.strand, BitVec.ofNat 64 (oldValue s.mem o), false)] op tail) := by
  have ht := tended_touchByOps s (o.pa / 64) cls (.op b op) [o]
  have hbad := (lineBad_congr ht.toPosted (poisonKept_touchByOps s (o.pa / 64) cls (.op b op) [o]) (o.pa / 64)).trans hb
  have hvals := applyOps_vals hbad hp q
  have hle := (ht.trans (tended_applyOps _ q (o.pa / 64) [o])).nextId
  rw [ht.mem] at hvals
  rw [← hvals]
  refine ((posted_completeWrite _ _ _ _ _).net id ?_).trans (tfind_net_passOn _ _ _ _)
  exact lt_of_lt_of_le hid hle

theorem atomicAtHome_spec {s : State} {q b op age cls : Nat} {o : LaneOp} {tail : Option Nat} (hw : s.mem.wf = true)
    (hm : arriving s (s.arg 0) = some (.atomic q b [o] op age cls tail)) (h1 : s.arg 1 = 0) (hs : ServesNow s q (o.pa / 64))
    (hl : lineLost s (o.pa / 64) = false) : Completes .atomicAtHome s fun t => Updates s t o ∧
      (s.arg 0 < s.ctl.nextId → lineBad s (o.pa / 64) = false → o.poison = false →
        tfind t.net (s.arg 0) = some (.values b [(o.strand, BitVec.ofNat 64 (oldValue s.mem o), false)] op tail)) := by
  refine ⟨_, homeStep_serves hm rfl h1 rfl hs, updates_of_stores hw ?_, fun hid hb hp => ?_⟩
  · exact congrArg (memApply s.mem) (serveAtomic_stores (((tended_admitted s _).lineLost _).trans hl) _ _ _ _ _ _)
  · refine serveAtomic_answers (s := admitted s _) hid ?_ hp q b op cls tail
    exact (lineBad_congr (tended_admitted s _).toPosted (poisonKept_modQuad s _ _ fun _ => rfl) _).trans hb

theorem reductionAtHome_spec {s : State} {q age cls : Nat} {n : Notify} {o : LaneOp} (hw : s.mem.wf = true)
    (hm : arriving s (s.arg 0) = some (.red q n [o] age cls)) (h1 : s.arg 1 = 0) (hs : ServesNow s q (o.pa / 64))
    (hl : lineLost s (o.pa / 64) = false) : Completes .reductionAtHome s fun t => Updates s t o := by
  refine ⟨_, homeStep_serves hm rfl h1 rfl hs, updates_of_stores hw ?_⟩
  exact congrArg (memApply s.mem) (serveRed_stores (((tended_admitted s _).lineLost _).trans hl) _ _ _ _)

end Sys2Proof.Proofs
end

section
/-! SUPPORT. Abacus addends, requests sent again and parity (R56, R66, R68, R334, R338, R341): what memory reads of a line's elements
after they are stored, and what else a home's queue and the parity take. -/

namespace Sys2Proof.Proofs
open Sys2Proof Sys2Proof.Machine Sys2Proof.Laws

/-! ## Elements in memory (R334) -/

/-- The pieces of a list that equal pieces make up. -/
theorem getElem?_flatMap_pieces {α β : Type} {f : α → List β} {k j : Nat} (hf : ∀ x, (f x).length = k) (hj : j < k) (l : List α) (i : Nat) :
    (l.flatMap f)[k * i + j]? = l[i]?.bind fun x => (f x)[j]? := by
  induction l generalizing i with
  | nil => rfl
  | cons x l ih =>
    rw [List.flatMap_cons]
    cases i with
    | zero => rw [List.getElem?_append_left (by rw [hf]; omega), Nat.mul_zero, Nat.zero_add]; rfl
    | succ i =>
      rw [List.getElem?_append_right (by rw [hf, Nat.mul_succ]; omega), hf, Nat.mul_succ,
        show k * i + k + j - k = k * i + j by omega, ih]
      rfl

theorem leNat_leBytes (n x : Nat) : leNat (leBytes n x) = x % 256 ^ n := by
  induction n generalizing x with
  | zero => rw [Nat.pow_zero, Nat.mod_one]; rfl
  | succ n ih => 
    rw [leBytes, leNat, ih, BitVec.toNat_ofNat, Nat.pow_succ' (m := 256)]
    exact Nat.mod_mul.symm

/-- A byte that was stored is read. -/
theorem memRead_memWriteList_in {bs : List Byte} {m : Memory} (hw : m.wf = true) (a : Nat) {i : Nat} {v : Byte} (h : bs[i]? = some v) :
    memRead (memWriteList m a bs) (a + i) = v := by
  induction bs generalizing m a i with
  | nil => cases h
  | cons b bs ih =>
    rw [memWriteList]
    cases i with
    | zero => rw [memRead_memWriteList_out _ _ _ _ (.inl (by omega)), Nat.add_zero, memRead_memWrite_same hw]; exact Option.some.inj h
    | succ i => rw [Nat.add_comm i, ← Nat.add_assoc]; exact ih (wf_memWrite hw a b) _ h

/-- One element of a line, as memory holds it. -/
def elementIn (m : Memory) (line i : Nat) : DWord := BitVec.ofNat 64 (leNat ((List.range 8).map fun j => memRead m (64 * line + 8 * i + j)))

theorem elementsOf_eq (s : State) (line : Nat) : elementsOf s line = (List.range 8).map (elementIn s.mem line) := rfl

theorem elementIn_congr {m m' : Memory} {line i : Nat} (hi : i < 8) (h : ∀ a, 64 * line ≤ a → a < 64 * line + 64 → memRead m' a = memRead m a) :
    elementIn m' line i = elementIn m line i := by
  unfold elementIn
  congr 2
  refine List.map_congr_left fun j hj => ?_
  have hj := List.mem_range.1 hj
  exact h _ (by omega) (by omega)

/-- Elements that are stored in a line are read there. -/
theorem elementIn_stored {m : Memory} (hw : m.wf = true) (line : Nat) {elems : List DWord} {i : Nat} {x : DWord} (h : elems[i]? = some x) :
    elementIn (memWriteList m (64 * line) (elems.flatMap fun e => leBytes 8 e.toNat)) line i = x := by
  have hbytes : (List.range 8).map (fun j => memRead (memWriteList m (64 * line) (elems.flatMap fun e => leBytes 8 e.toNat)) (64 * line + 8 * i + j)) =
      leBytes 8 x.toNat := by
    have hlen : (leBytes 8 x.toNat).length = 8 := length_leBytes 8 _
    refine List.ext_getElem (by rw [List.length_map, List.length_range, hlen]) fun j hj hj' => ?_
    rw [List.getElem_map, List.getElem_range, Nat.add_assoc]
    refine memRead_memWriteList_in hw _ ?_
    rw [getElem?_flatMap_pieces (fun e => length_leBytes 8 _) (hlen ▸ hj'), h]
    exact List.getElem?_eq_getElem hj'
  have hx : x.toNat % 256 ^ 8 = x.toNat := Nat.mod_eq_of_lt x.isLt
  rw [elementIn, hbytes, leNat_leBytes, hx, BitVec.ofNat_toNat, BitVec.setWidth_eq]

/-! ## Abacus addends (R338, R341) -/

/-- After an operation's effects its line holds the elements it gave. -/
theorem elementIn_abacusEffects {s : State} {line : Nat} (hw : s.mem.wf = true) (hl : lineLost s line = false) (hp : 64 * line % 65536 < 0xF800)
    {r : AbacusResult} {status i : Nat} (hi : i < 8) (hlen : r.elems.length = 8) :
    r.elems[i]? = some (elementIn (memApply s.mem (abacusEffects s line r status (elementsOf s line))) line i) := by
  have hget : r.elems[i]? = some r.elems[i] := List.getElem?_eq_getElem (by omega)
  have hstatus : ∀ m : Memory, elementIn (memApply m (if r.status = status || lineLost s (statusLine line) then []
      else [.store (statusAddr line) (leBytes 2 r.status)])) line i = elementIn m line i := fun m => by
    refine elementIn_congr hi fun a ha ha' => ?_
    split
    · rfl
    · refine memRead_memWriteList_out _ _ _ _ (.inl ?_)
      unfold statusAddr statusArea abacusPage
      dsimp only
      omega
  rw [abacusEffects, memApply, List.foldl_append, ← memApply, ← memApply, hstatus, hl, Bool.or_false]
  by_cases he : r.elems = elementsOf s line
  · rw [if_pos (decide_eq_true he), he, elementsOf_eq, List.getElem?_map, List.getElem?_range hi]
    rfl
  · rw [if_neg (by simpa using he), hget]
    exact congrArg some (elementIn_stored hw line hget).symm

/-- Injected errors change neither memory nor the tracts. -/
theorem mem_tracts_logStrike (s : State) (b kind : Nat) : (logStrike s b kind).mem = s.mem ∧ (logStrike s b kind).tracts = s.tracts := by
  have hcount : ∀ cls loc, (countError s cls loc).mem = s.mem ∧ (countError s cls loc).tracts = s.tracts := fun cls loc => by
    unfold countError
    split
    · split <;> exact ⟨rfl, rfl⟩
    · exact ⟨rfl, rfl⟩
  unfold logStrike logRas
  dsimp only
  rw [Bool.not_true, Bool.and_false, if_neg (by decide)]
  exact hcount _ _

theorem mem_tracts_strike (s : State) (b unit : Nat) : (strike s b unit).2.mem = s.mem ∧ (strike s b unit).2.tracts = s.tracts := by
  unfold strike
  split
  · split <;> exact ⟨rfl, rfl⟩
  · exact ⟨rfl, rfl⟩

theorem mem_tracts_strikeElement (s : State) (line : Nat) (n : Notify) (op : AbacusOp) :
    (strikeElement s line n op).2.mem = s.mem ∧ (strikeElement s line n op).2.tracts = s.tracts := by
  unfold strikeElement
  split
  · exact ⟨rfl, rfl⟩
  · split
    · exact ⟨rfl, rfl⟩
    · next b _ =>
      have hs := mem_tracts_strike s b 6
      split
      · next h =>
        rw [h] at hs
        exact ⟨(mem_tracts_logStrike _ b _).1.trans hs.1, (mem_tracts_logStrike _ b _).2.trans hs.2⟩
      · next h =>
        rw [h] at hs
        exact hs

theorem tended_sendWritten (s : State) (line : Nat) (delta : List Byte) : Tended s (sendWritten s line delta) :=
  .ite (.refl s) (tended_sendDelta s line delta)

theorem tended_spillLine (s : State) (q : Nat) (e : Resident) : Tended s (spillLine s q e) :=
  (tended_modQuad s q _).trans ((tended_sendWritten _ _ _).trans ((tended_sendWritten _ _ _).trans (tended_setBad _ _ _)))

theorem tended_fillLine (s : State) (line part ctx : Nat) : Tended s (fillLine s line part ctx) := by
  unfold fillLine
  dsimp only
  refine .ite (.refl s) (.trans (.ite ?_ (.refl s)) (tended_modQuad _ _ _))
  split
  · exact tended_spillLine s _ _
  · exact .refl s

/-- An abacus line is at its home, and an injected error has struck. -/
def abacusFilled (s : State) (line : Nat) (op : AbacusOp) (n : Notify) (part ctx : Nat) : State :=
  (strikeElement (fillLine s line part ctx) line n op).2

theorem mem_tracts_abacusFilled (s : State) (line : Nat) (op : AbacusOp) (n : Notify) (part ctx : Nat) :
    (abacusFilled s line op n part ctx).mem = s.mem ∧ (abacusFilled s line op n part ctx).tracts = s.tracts := by
  have hf := tended_fillLine s line part ctx
  obtain ⟨hm, ht⟩ := mem_tracts_strikeElement (fillLine s line part ctx) line n op
  exact ⟨hm.trans hf.mem, ht.trans hf.tracts⟩

theorem serveAbacus_effects (s : State) (id line off : Nat) (ty : BitVec 4) (v : DWord) (n : Notify) (part ctx : Nat) :
    (serveAbacus s id line (.add off ty v) n part ctx).2 = (
      let u := abacusFilled s line (.add off ty v) n part ctx
      abacusEffects u line (abacusResult (.add off ty v) (elementsOf u line) (statusOf u line) (elementPoison u line)) (statusOf u line)
        (elementsOf u line)) := rfl

/-- The elements of a line that is open, after an addend (R334). -/
theorem elems_abacusResult_add {off : Nat} {ty : BitVec 4} {v : DWord} {elems : List DWord} {status : Nat} {poison : List Nat}
    (ho : statusOpen status = true) : (abacusResult (.add off ty v) elems status poison).elems =
      elems.modify (off / 8) fun x => ax64Add x (quant (addendValue ty v) (statusGrid status)).1 := by
  unfold abacusResult
  dsimp only
  rw [if_pos ho]

/-- An addend's effects add it to its element. -/
theorem serveAbacus_adds {s : State} {line off part ctx i : Nat} {ty : BitVec 4} {v : DWord} {n : Notify} (hw : s.mem.wf = true)
    (hl : lineLost s line = false) (hp : 64 * line % 65536 < 0xF800) (ho : statusOpen (statusOf s line) = true) (hi : i < 8) (id : Nat) :
    some (elementIn (memApply s.mem (serveAbacus s id line (.add off ty v) n part ctx).2) line i) = (elementsOf s line)[i]?.map fun x =>
      if i = off / 8 then ax64Add x (quant (addendValue ty v) (statusGrid (statusOf s line))).1 else x := by
  obtain ⟨hmem, htracts⟩ := mem_tracts_abacusFilled s line (.add off ty v) n part ctx
  rw [serveAbacus_effects]
  generalize abacusFilled s line (.add off ty v) n part ctx = u at hmem htracts
  have hlost : lineLost u line = false := by rw [← hl]; simp only [lineLost, tractAt, htracts]
  have hstatus : statusOf u line = statusOf s line := by simp only [statusOf, hmem]
  have helems : elementsOf u line = elementsOf s line := by rw [elementsOf_eq, elementsOf_eq, hmem]
  have hr := elems_abacusResult_add (off := off) (ty := ty) (v := v) (elems := elementsOf u line) (poison := elementPoison u line)
    (hstatus ▸ ho)
  have hlen : (elementsOf u line).length = 8 := List.length_map _
  dsimp only
  rw [← hmem, ← elementIn_abacusEffects (hmem ▸ hw) hlost hp hi (by rw [hr, List.length_modify, hlen]), hr, List.getElem?_modify, helems,
    hstatus]
  simp only [eq_comm (a := off / 8)]
  rfl

/-- An addend at its line's home (R341). -/
theorem abacusAdd_spec {s : State} {q line off age part ctx : Nat} {ty : BitVec 4} {v : DWord} {n : Notify} (hw : s.mem.wf = true)
    (hm : arriving s (s.arg 0) = some (.abacus q line (.add off ty v) n age part ctx)) (h1 : s.arg 1 = 0) (hs : ServesNow s q line)
    (hl : lineLost s line = false) (hp : 64 * line % 65536 < 0xF800) (ho : statusOpen (statusOf s line) = true) :
    Completes .abacusOpAtHome s fun t => ∀ i < 8, (elementsOf t line)[i]? = (elementsOf s line)[i]?.map fun x =>
      if i = off / 8 then ax64Add x (quant (addendValue ty v) (statusGrid (statusOf s line))).1 else x := by
  let r : Request := ⟨q, line, age, n.agent, n.gang s⟩
  have hserve : exec .abacusOpAtHome s = .next (commit s (serveAbacus (admitted s r) (s.arg 0) line (.add off ty v) n part ctx)) := by
    change execAbacusOpAtHome s = _
    unfold execAbacusOpAtHome
    rw [hm]
    dsimp only [requestOf]
    rw [arrive_serves (r := r) hs, h1]
    rfl
  refine ⟨_, hserve, fun i hi => ?_⟩
  rw [elementsOf_eq, List.getElem?_map, List.getElem?_range hi]
  exact serveAbacus_adds (s := admitted s r) hw (((tended_admitted s r).lineLost _).trans hl) hp ho hi (s.arg 0)

/-! ## Requests that are sent again, and places held for them (R56, R66) -/

theorem retryResend_spec {s : State} {m : Msg} {since : Nat} {r : Request} (hm : arriving s (s.arg 0) = some (.retry m since))
    (hsince : since + 8 ≤ s.now) (hr : requestOf s m = some r) :
    Completes .retryResend s fun t => tfind t.net (s.arg 0) = some (readdress (homeSlice s r.line) m) := by
  refine ⟨_, rfl, ?_⟩
  change tfind (resend s (s.arg 0)).net (s.arg 0) = _
  unfold resend
  rw [hm]
  dsimp only
  rw [if_pos hsince, hr]
  exact tfind_tset_same _ _ _

theorem remapResend_spec {s : State} {m : Msg} {epoch : Nat} {r : Request} (hm : arriving s (s.arg 0) = some (.remap m epoch))
    (hr : requestOf s m = some r) :
    Completes .remapResend s fun t => tfind t.net (s.arg 0) = some (readdress (homeSlice s r.line) m) := by
  refine ⟨_, rfl, ?_⟩
  change tfind (followRemap s (s.arg 0)).net (s.arg 0) = _
  unfold followRemap
  rw [hm]
  dsimp only
  rw [hr]
  exact tfind_tset_same _ _ _

theorem reservedTimeout_spec (s : State) : Completes .reservedQueueEntryTimeout s fun t =>
    ∀ e, e ∈ (quadAt t (s.arg 0)).reserved ↔ e ∈ (quadAt s (s.arg 0)).reserved ∧ s.now < e.2.2 + 32 := by
  refine ⟨_, rfl, fun e => ?_⟩
  rw [quadAt_quiet, releaseReserved, quadAt_modQuad, if_pos rfl, List.mem_filter, decide_eq_true_iff]

/-! ## Parity (R68) -/

/-- Some bytes of a line's delta meet the parity of its row, from a place on. -/
def deltaOn (stack row : Nat) (delta : List Byte) (k : Nat) (m : Memory) : Memory :=
  (delta.zipIdx k).foldl (fun m p => memWrite m (parityKey stack row p.2) (memRead m (parityKey stack row p.2) ^^^ p.1)) m

theorem memRead_deltaOn {stack row : Nat} {delta : List Byte} {k : Nat} {m : Memory} (hw : m.wf = true) {i : Nat} {v : Byte}
    (h : k ≤ i → delta[i - k]? = some v) : memRead (deltaOn stack row delta k m) (parityKey stack row i) =
      if k ≤ i then memRead m (parityKey stack row i) ^^^ v else memRead m (parityKey stack row i) := by
  have hkey : ∀ {i j : Nat}, i ≠ j → parityKey stack row i ≠ parityKey stack row j := fun h => by unfold parityKey; omega
  induction delta generalizing k m with
  | nil =>
    rw [if_neg fun hk => nomatch h hk]
    rfl
  | cons b delta ih =>
    change memRead (deltaOn stack row delta (k + 1) (memWrite m (parityKey stack row k) (memRead m (parityKey stack row k) ^^^ b))) _ = _
    rw [ih (wf_memWrite hw _ _) fun hk => by
      have h := h (by omega)
      rwa [show i - k = i - (k + 1) + 1 by omega] at h]
    rcases lt_trichotomy i k with hik | rfl | hik
    · rw [if_neg (by omega), if_neg (by omega), memRead_memWrite_ne _ (hkey (by omega))]
    · have hb : b = v := Option.some.inj ((congrArg _ (Nat.sub_self i)).symm.trans (h (le_refl i)))
      rw [if_neg (by omega), if_pos (le_refl i), memRead_memWrite_same hw, hb]
    · rw [if_pos (by omega), if_pos (by omega), memRead_memWrite_ne _ (hkey (by omega))]

theorem parityDelta_spec {s : State} {line : Nat} {delta : List Byte} (hw : s.parity.wf = true)
    (hm : arriving s (s.arg 0) = some (.parity line delta)) (h1 : s.arg 1 = 0) (hf : (dieAt s ((placeOf line).2.2 / 2)).fenced = false) :
    Completes .parityDelta s fun t => ∀ i v, delta[i]? = some v → memRead t.parity (parityKey (placeOf line).2.2 (placeOf line).1 i) =
      memRead s.parity (parityKey (placeOf line).2.2 (placeOf line).1 i) ^^^ v := by
  have hparity : (deltaArrives s (s.arg 0) (s.arg 1)).parity = deltaOn (placeOf line).2.2 (placeOf line).1 delta 0 s.parity := by
    unfold deltaArrives
    rw [hm, h1]
    dsimp only
    rw [if_neg (by decide)]
    unfold applyDelta
    dsimp only
    rw [show dieAt (takeOff s (s.arg 0)) = dieAt s from rfl, hf, if_neg (by decide)]
    rfl
  refine ⟨_, rfl, fun i v h => ?_⟩
  change memRead (deltaArrives s (s.arg 0) (s.arg 1)).parity _ = _
  rw [hparity, memRead_deltaOn hw fun _ => h, if_pos (Nat.zero_le i)]

/-! ## The statement -/

/-- Settles O48: each request's effects are the stores of its bytes at its line, which memory then reads; a request that leaves a queue,
a retry or a remap goes where its line's home is. -/
theorem homeWrites : Obligations.HomeWrites := by
  unfold Obligations.HomeWrites
  exact ⟨fun s q core e age hw hm h1 hs hl => drainArrival_spec hw hm h1 hs hl,
    fun s q line data poison n age cls hw hm h1 hs hl => engineWrite_spec hw hm h1 hs hl,
    fun s q line data tag age hw hm h1 hs hl => rmaWriteArrival_spec hw hm h1 hs hl,
    fun s q b o op age cls tail hw hm h1 hs hl => atomicAtHome_spec hw hm h1 hs hl,
    fun s q n o age cls hw hm h1 hs hl => reductionAtHome_spec hw hm h1 hs hl,
    fun s q line off ty v n age part ctx hw hm h1 hs hl hp _ ho => abacusAdd_spec hw hm h1 hs hl hp ho,
    fun s id q core e age hw ht hfree hq hm hline h1 hl => queuedDrain_spec hw ht hfree hq hm hline h1 hl,
    fun s m since r hm hsince hr => retryResend_spec hm hsince hr, fun s m epoch r hm hr => remapResend_spec hm hr, reservedTimeout_spec,
    fun s line delta hw hm h1 hf => parityDelta_spec hw hm h1 hf⟩

end Sys2Proof.Proofs
end

section
/-! SUPPORT. Answers with a result and a detail (R79, R81), and QUERY (R99, R100). -/

namespace Sys2Proof.Proofs
open Sys2Proof Sys2Proof.Machine Sys2Proof.Laws

/-! ## Answers of any status, result and detail (R81) -/

theorem received_isSome {s : State} {h : CmdHeader} (hr : received s h = true) (he : h.endpoint ≠ 0) : (tfind s.parts h.endpoint).isSome := by
  have hend := (Bool.and_eq_true_iff.1 hr).2
  simp only [Bool.or_eq_true, beq_iff_eq, he, false_or, Bool.and_eq_true] at hend
  exact hend.1

theorem hostReach_of_received {s : State} {h : CmdHeader} (hr : received s h = true) : hostReach s = true := (Bool.and_eq_true_iff.1 hr).1

theorem partAt_wait {s : State} {p : Nat} (hp : (tfind s.parts p).isSome) (w : Waiting) :
    partAt (wait s p w) p = { partAt s p with waiting := (partAt s p).waiting ++ [w] } := by
  rw [wait, partAt_modPart, if_pos ⟨rfl, hp⟩]

/-- A stream at whose end a single command is ready sends its response. -/
theorem sendStream_one {s : State} {p : Nat} {w : Waiting} {r : Sent} (hreach : hostReach s = true) (hw : (partAt s p).waiting = [w])
    (hr : w.ready = some r) : sendStream s p = modPart (emit s r) p fun x => { x with waiting := [] } := by
  rw [sendStream, if_pos hreach, hw]
  change sendReady 1 p s = _
  rw [sendReady, hw]
  dsimp only
  rw [hr]
  rfl

theorem sendStream_of_blocked {s : State} {p : Nat} {w : Waiting} {rest : List Waiting} (hw : (partAt s p).waiting = w :: rest)
    (hn : w.ready = none) : sendStream s p = s := by
  unfold sendStream
  split
  · exact sendReady_of_blocked hw hn _
  · rfl

theorem reported_answer (s : State) (h : CmdHeader) (op : Nat) (c : CmdStatus) (result : DWord) (detail : List Byte) :
    Reported s (answer s h op c result detail) := by
  unfold answer
  dsimp only
  split
  · exact reported_emit _ _
  · exact (reported_modPart _ _ _ fun _ => rfl).trans (reported_sendStream _ _)

/-- A command whose body has left its stream alone is answered. -/
theorem answered_answer {s t : State} {h : CmdHeader} {len : Nat} (hr : Received s h len) (hu : Unanswered s t) (op : Nat) (c : CmdStatus)
    (result : DWord) (detail : List Byte) : Answered s (answer t h op c result detail) h op c result detail := by
  obtain ⟨hrec, -, -⟩ := hr
  by_cases he : h.endpoint = 0
  · refine ⟨fun _ => ?_, fun hne => absurd he hne⟩
    rw [answer, if_pos he, emit_sent, hu.sent]
  · have hwait := congrArg Partition.waiting (partAt_wait (by rw [hu.isSome]; exact received_isSome hrec he)
      (waitingOf h op 0 (some (responseOf h op c result detail))))
    rw [answer_partition he]
    change (partAt (wait t h.endpoint _) h.endpoint).waiting = (partAt t h.endpoint).waiting ++ _ at hwait
    rw [hu.waiting] at hwait
    refine ⟨fun hidle => ?_, fun _ w rest hw hn => ?_⟩
    · rw [hidle.resolve_left he] at hwait
      have hreach : hostReach (wait t h.endpoint (waitingOf h op 0 (some (responseOf h op c result detail)))) = true :=
        (hostReach_congr rfl rfl).trans (hu.reach.trans (hostReach_of_received hrec))
      have hsend := sendStream_one hreach hwait rfl
      refine (congrArg State.sent hsend).trans ?_
      rw [modPart_sent, emit_sent]
      exact congrArg (· ++ _) hu.sent
    · rw [hw] at hwait
      have hsend := sendStream_of_blocked hwait hn
      refine ⟨(congrArg State.sent hsend).trans hu.sent, ?_⟩
      rw [hw]
      exact (congrArg (fun u => (partAt u h.endpoint).waiting) hsend).trans hwait

/-! ## Frames that come in (R99) -/

/-- No port's count of received frames falls. -/
def HeardMore (s t : State) : Prop := ∀ n, (portAt s n).received.toNat ≤ (portAt t n).received.toNat

theorem HeardMore.refl (s : State) : HeardMore s s := fun _ => le_refl _

theorem HeardMore.trans {s t u : State} (h : HeardMore s t) (k : HeardMore t u) : HeardMore s u := fun n => (h n).trans (k n)

theorem heardMore_of_module {s t : State} (h : t.module.ports = s.module.ports) : HeardMore s t := fun n => by
  rw [portAt, portAt, h]

theorem heardMore_modPort (s : State) (n : Nat) {f : Port → Port} (hf : ∀ x, x.received.toNat ≤ (f x).received.toNat) :
    HeardMore s (modPort s n f) := fun x => by
  rw [portAt_modPort]
  split
  · next h => rw [h]; exact hf _
  · exact le_refl _

theorem heardMore_countFrames (s : State) (p : Option Nat) (out : Bool) : HeardMore s (countFrames s p out) := by
  cases p with
  | none => exact .refl s
  | some n =>
    unfold countFrames
    dsimp only
    have hnext : ∀ u, HeardMore u (nextChoices u) := fun _ => heardMore_of_module rfl
    refine HeardMore.trans (heardMore_modPort s n fun x => ?_) (hnext _)
    cases out
    · simp [le_moreFrames]
    · simp

theorem heardMore_emit (s : State) (m : Sent) : HeardMore s (emit s m) := heardMore_countFrames s (hostPort s) true

theorem heardMore_sendReady (p : Nat) : ∀ (n : Nat) (s : State), HeardMore s (sendReady n p s)
  | 0, s => .refl s
  | n + 1, s => by
    unfold sendReady
    split
    · next w rest _ =>
      split
      · next r _ =>
        have hpop : HeardMore (emit s r) (modPart (emit s r) p fun x => { x with waiting := rest }) := heardMore_of_module rfl
        exact (heardMore_emit s r).trans (hpop.trans (heardMore_sendReady p n _))
      · exact .refl s
    · exact .refl s

theorem heardMore_sendStream (s : State) (p : Nat) : HeardMore s (sendStream s p) := by
  unfold sendStream
  split
  · exact heardMore_sendReady p _ s
  · exact .refl s

theorem heardMore_answer (s : State) (h : CmdHeader) (op : Nat) (c : CmdStatus) (result : DWord) (detail : List Byte) :
    HeardMore s (answer s h op c result detail) := by
  unfold answer
  dsimp only
  split
  · exact heardMore_emit s _
  · exact heardMore_sendStream (modPart s _ _) _

theorem heardMore_acceptedAt (s : State) (h : CmdHeader) : HeardMore s (acceptedAt s h) := by
  refine HeardMore.trans (heardMore_countFrames s (hostPort s) false) (heardMore_of_module ?_)
  unfold acceptedAt noteSeq
  split <;> rfl

/-! ## What a query reads is not what accepting it changes -/

namespace Reported
variable {s t : State}

theorem ioSplit (h : Reported s t) (io : Nat) : ioSplit t io = ioSplit s io := by
  unfold Machine.ioSplit
  rw [h.module]

theorem portList (h : Reported s t) : portList t = portList s := by simp only [Machine.portList, h.ioSplit]

theorem launchAt (h : Reported s t) (k : Nat) : launchAt t k = launchAt s k := by simp only [Machine.launchAt, h.launches]

theorem moduleFields (h : Reported s t) : moduleFields t = moduleFields s := by
  unfold Machine.moduleFields
  rw [h.module, h.now]
  rfl

theorem partFields (h : Reported s t) (p : Nat) : partFields t p = partFields s p := by
  simp only [Machine.partFields, partLaunches, h.launches, h.quadAt]
  rw [h.part]

theorem tractFields (h : Reported s t) (u : Nat) : tractFields t u = tractFields s u := by
  simp only [Machine.tractFields, spareState, h.tractAt, h.quadAt]

theorem linkFields (h : Reported s t) (n : Nat) : linkFields t n = linkFields s n := by
  simp only [Machine.linkFields, h.links]

theorem portFields (h : Reported s t) (n : Nat) (x : Port) : portFields t n x = portFields s n x := by
  simp only [Machine.portFields, h.portList, h.ioSplit]

theorem launchFields (h : Reported s t) (key : Nat) : launchFields t key = launchFields s key := by
  have hgangs : launchGangs t key = launchGangs s key := by simp only [launchGangs, h.gangs]
  have hgang : Machine.gangAt t = Machine.gangAt s := funext h.gangAt
  unfold Machine.launchFields
  rw [h.launchAt, hgangs, hgang]

end Reported

/-- Of the module, accepting a command changes what the ports have carried alone. -/
theorem acceptedAt_module (s : State) (h : CmdHeader) :
    (acceptedAt s h).module = { s.module with ports := (acceptedAt s h).module.ports } := by
  unfold acceptedAt noteSeq hears
  cases hostPort s <;> split <;> rfl

/-! ## QUERY -/

/-- A query whose subject may be asked is answered with its fields. -/
theorem doQuery_answered {s u : State} {h : CmdHeader} {body : State → State} {xs : List Nat} (hr : Received s h 8)
    (hu : Unanswered s u) (hb : body (acceptedAt s h) = answerQuery u h xs) :
    Answered s (doQuery s h 0 body) h 6 .ok (BitVec.ofNat 64 (8 * xs.length)) (fields xs) := by
  have hq : doQuery s h 0 body = answerQuery u h xs := (acceptQuiet_of_received hr rfl rfl).trans hb
  rw [hq]
  exact answered_answer hr hu 6 .ok _ _

theorem queryModule_spec {s : State} {h : CmdHeader} (hr : Received s h 8) (index : Word) :
    Completes (.queryModule h 0 index) s fun t => Answered s t h 6 .ok 64 (fields (moduleFields s)) :=
  ⟨_, rfl, doQuery_answered (xs := moduleFields s) hr (unanswered_acceptedAt s h) (by rw [(reported_acceptedAt s h).moduleFields])⟩

theorem queryPartition_spec {s : State} {h : CmdHeader} {index : Word} (hr : Received s h 8)
    (ho : h.endpoint ≠ 0 → index.toNat = h.endpoint) (hp : (tfind s.parts index.toNat).isSome) :
    Completes (.queryPartition h 0 index) s fun t => Answered s t h 6 .ok 40 (fields (partFields s index.toNat)) := by
  have ha := reported_acceptedAt s h
  refine ⟨_, rfl, doQuery_answered (xs := partFields s index.toNat) hr (unanswered_acceptedAt s h) ?_⟩
  have hown : ¬ (h.endpoint != 0 && index.toNat != h.endpoint) = true := by simpa using ho
  have hsome : ¬ (tfind (acceptedAt s h).parts index.toNat).isNone = true := by
    rw [Option.isNone_iff_eq_none, ← Option.not_isSome_iff_eq_none, ha.part_isSome, not_not]
    exact hp
  rw [if_neg hown, if_neg hsome, ha.partFields]

theorem queryTract_spec {s : State} {h : CmdHeader} {index : Word} (hr : Received s h 8) (hi : index.toNat < 16)
    (ho : h.endpoint ≠ 0 → index.toNat ∈ (partAt s h.endpoint).tracts) :
    Completes (.queryTract h 0 index) s fun t => Answered s t h 6 .ok 56 (fields (tractFields s index.toNat)) := by
  have ha := reported_acceptedAt s h
  refine ⟨_, rfl, doQuery_answered (xs := tractFields s index.toNat) hr (unanswered_acceptedAt s h) ?_⟩
  have hown : ¬ (h.endpoint != 0 && !(partAt (acceptedAt s h) h.endpoint).tracts.contains index.toNat) = true := by
    rw [ha.part]
    simpa using ho
  rw [if_neg hown, if_neg (by omega), ha.tractFields]

theorem queryLink_spec {s : State} {h : CmdHeader} {index : Word} (hr : Received s h 8) (hi : index.toNat < 14) :
    Completes (.queryLink h 0 index) s fun t => Answered s t h 6 .ok 24 (fields (linkFields s index.toNat)) := by
  refine ⟨_, rfl, doQuery_answered (xs := linkFields s index.toNat) hr (unanswered_acceptedAt s h) ?_⟩
  rw [if_neg (by omega), (reported_acceptedAt s h).linkFields]

theorem queryLaunch_spec {s : State} {h : CmdHeader} {index : Word} (hr : Received s h 8) (he : h.endpoint ≠ 0)
    (hl : (tfind s.launches (2 ^ 32 * h.endpoint + index.toNat)).isSome) :
    Completes (.queryLaunch h 0 index) s fun t =>
      Answered s t h 6 .ok 32 (fields (launchFields s (2 ^ 32 * h.endpoint + index.toNat))) := by
  have ha := reported_acceptedAt s h
  refine ⟨_, rfl, doQuery_answered (xs := launchFields s (2 ^ 32 * h.endpoint + index.toNat)) hr (unanswered_acceptedAt s h) ?_⟩
  have hsome : ¬ (decide (h.endpoint = 0) || (tfind (acceptedAt s h).launches (2 ^ 32 * h.endpoint + index.toNat)).isNone) = true := by
    rw [ha.launches]
    simpa [he, ← Option.isSome_iff_ne_none] using hl
  rw [if_neg hsome, ha.launchFields]

theorem queryRasLog_spec {s : State} {h : CmdHeader} {index : Word} {e : RasEntry} (hr : Received s h 8)
    (he : s.module.ras[index.toNat]? = some e) (ho : h.endpoint ≠ 0 → e.tract ∈ (partAt s h.endpoint).tracts) :
    Completes (.queryRasLog h 0 index) s fun t => Answered s t h 6 .ok 40 (fields (rasFields e)) := by
  have ha := reported_acceptedAt s h
  refine ⟨_, rfl, doQuery_answered (xs := rasFields e) hr (unanswered_acceptedAt s h) ?_⟩
  have hown : ¬ (h.endpoint != 0 && !(partAt (acceptedAt s h) h.endpoint).tracts.contains e.tract) = true := by
    rw [ha.part]
    simpa using ho
  have hras : (acceptedAt s h).module.ras[index.toNat]? = some e := by
    rw [acceptedAt_module]
    exact he
  unfold askRas
  rw [hras]
  exact if_neg hown

/-! ## QUERY of a port (R99): its counts are those at the answer -/

/-- With time a port carries more, and one that is Up stays so. -/
theorem agePort_eq (s : State) (n : Nat) : ∃ f, agePort s n = nextChoices (modPort s n f) ∧ ∀ x, ((f x).state = .up ↔ x.state = .up) ∧
    x.sent.toNat ≤ (f x).sent.toNat ∧ x.received.toNat ≤ (f x).received.toNat := by
  refine ⟨_, rfl, fun x => ?_⟩
  cases hs : x.state with
  | up => exact ⟨Iff.rfl.trans (by simp), le_moreFrames _ _ _, le_moreFrames _ _ _⟩
  | down =>
    dsimp only
    split
    · exact ⟨by simp, le_refl _, le_refl _⟩
    · exact ⟨by simp [hs], le_refl _, le_refl _⟩
  | training => exact ⟨by simp [hs], le_refl _, le_refl _⟩

theorem agePort_grows (s : State) (n x : Nat) : ((portAt (agePort s n) x).state = .up ↔ (portAt s x).state = .up) ∧
    (portAt s x).sent.toNat ≤ (portAt (agePort s n) x).sent.toNat ∧
    (portAt s x).received.toNat ≤ (portAt (agePort s n) x).received.toNat := by
  obtain ⟨f, hage, hf⟩ := agePort_eq s n
  rw [hage]
  change (_ ↔ _) ∧ _ ≤ (portAt (modPort s n f) x).sent.toNat ∧ _ ≤ (portAt (modPort s n f) x).received.toNat
  rw [show portAt (nextChoices (modPort s n f)) x = portAt (modPort s n f) x from rfl, portAt_modPort]
  split
  · next h => rw [h]; exact hf _
  · exact ⟨Iff.rfl, le_refl _, le_refl _⟩

theorem unanswered_agePort (s : State) (n : Nat) : Unanswered s (agePort s n) := by
  refine ⟨rfl, fun _ => rfl, fun _ => rfl, ?_⟩
  have hu : portUsable (agePort s n) = portUsable s := funext fun p => by
    have hup : ((portAt (agePort s n) p.1).state == .up) = ((portAt s p.1).state == .up) :=
      Bool.eq_iff_iff.2 (by simpa using (agePort_grows s n p.1).1)
    exact congrArg (· && ioReach s p.2) hup
  unfold hostReach
  rw [hu]
  rfl

/-- The state in which a query of a port is answered. -/
def portAsked (s : State) (h : CmdHeader) (n : Nat) : State := agePort (acceptedAt s h) n

theorem queryPort_eq {s : State} {h : CmdHeader} {n io : Nat} (hr : Received s h 8) (hi : (n, io) ∈ portList s) :
    (doQuery s h 0 fun t => if (portList t).all fun p => p.1 != n then reply t h 0x06 .notFound
      else answerQuery (agePort t n) h (portFields (agePort t n) n (portAt (agePort t n) n))) =
    answerQuery (portAsked s h n) h (portFields s n (portAt (portAsked s h n) n)) := by
  have ha := reported_acceptedAt s h
  have hlisted : ¬ ((portList (acceptedAt s h)).all fun p => p.1 != n) = true := by
    rw [ha.portList]
    intro hall
    simpa using List.all_eq_true.1 hall _ hi
  have hfields : portFields (portAsked s h n) n = portFields s n := funext fun x => ha.portFields n x
  refine (acceptQuiet_of_received hr rfl rfl).trans ((if_neg hlisted).trans ?_)
  rw [← hfields]
  rfl

theorem queryPort_spec {s : State} {h : CmdHeader} {index : Word} {io : Nat} (hr : Received s h 8) (hi : (index.toNat, io) ∈ portList s) :
    Completes (.queryPort h 0 index) s fun t => ∃ x : Port, Answered s t h 6 .ok 32 (fields (portFields s index.toNat x)) ∧
      x.state = (portAt t index.toNat).state ∧ (x.state = .up ↔ (portAt s index.toNat).state = .up) ∧
      (portAt s index.toNat).sent.toNat ≤ x.sent.toNat ∧ x.sent.toNat ≤ (portAt t index.toNat).sent.toNat ∧
      (portAt s index.toNat).received.toNat ≤ x.received.toNat ∧ x.received.toNat ≤ (portAt t index.toNat).received.toNat := by
  have ha := reported_acceptedAt s h
  obtain ⟨hup, hsent, hgot⟩ := agePort_grows (acceptedAt s h) index.toNat index.toNat
  have hq := queryPort_eq hr hi
  have hun : Unanswered s (portAsked s h index.toNat) := (unanswered_acceptedAt s h).trans (unanswered_agePort _ _)
  have hans := reported_answer (portAsked s h index.toNat) h 6 .ok 32 (fields (portFields s index.toNat (portAt (portAsked s h index.toNat) index.toNat)))
  have hheard := heardMore_answer (portAsked s h index.toNat) h 6 .ok 32 (fields (portFields s index.toNat (portAt (portAsked s h index.toNat) index.toNat)))
  refine ⟨_, congrArg (fun t => Host.Outcome.next (quiet s t)) hq, portAt (portAsked s h index.toNat) index.toNat, ?_, ?_, ?_, ?_, ?_, ?_, ?_⟩
  · exact answered_answer hr hun 6 .ok _ _
  · exact (hans.port_state _).symm
  · exact hup.trans (by rw [ha.port_state])
  · exact (ha.port_sent _).trans hsent
  · exact hans.port_sent _
  · exact (heardMore_acceptedAt s h _).trans hgot
  · exact hheard _

/-- Settles O58: accepting a query changes nothing that its subject's fields are read from, and the answer carries them. -/
theorem queries : Obligations.Queries := by
  unfold Obligations.Queries
  exact ⟨fun h index s hr => queryModule_spec hr index, fun h index s hr ho hp => queryPartition_spec hr ho hp,
    fun h index s hr hi ho => queryTract_spec hr hi ho, fun h index s hr hi => queryLink_spec hr hi,
    fun h index s io hr hi => queryPort_spec hr hi, fun h index s hr he hl => queryLaunch_spec hr he hl,
    fun h index s e hr he ho => queryRasLog_spec hr he ho⟩

end Sys2Proof.Proofs
end

section
/-! SUPPORT. RMA and transport atomics (R75, R133): how an access of the host reaches its homes, what it leaves alone on the way, and
what it answers. -/

namespace Sys2Proof.Proofs
open Sys2Proof Sys2Proof.Machine Sys2Proof.Laws

/-! ## What an access of the host leaves alone -/

/-- A state differs from another by messages, by the ports' counts and the accesses of the host that are under way, and by what slices
hold, but for their abacus lines. -/
structure HostAccess (s t : State) : Prop where
  frame : t = { s with
    ctl := { s.ctl with free := t.ctl.free, nextId := t.ctl.nextId }
    quads := t.quads
    net := t.net
    origins := t.origins
    module := { s.module with ports := t.module.ports, rma := t.module.rma } }
  resident : ∀ q, (quadAt t q).resident = (quadAt s q).resident
  reach : hostReach t = hostReach s

namespace HostAccess

theorem refl (s : State) : HostAccess s s := ⟨rfl, fun _ => rfl, rfl⟩

theorem trans {s t u : State} (h : HostAccess s t) (k : HostAccess t u) : HostAccess s u :=
  ⟨by rw [k.frame, h.frame], fun q => (k.resident q).trans (h.resident q), k.reach.trans h.reach⟩

variable {s t : State}

theorem module (h : HostAccess s t) : t.module = { s.module with ports := t.module.ports, rma := t.module.rma } :=
  congrArg State.module h.frame
theorem mem (h : HostAccess s t) : t.mem = s.mem := by rw [h.frame]
theorem now (h : HostAccess s t) : t.now = s.now := by rw [h.frame]
theorem sent (h : HostAccess s t) : t.sent = s.sent := by rw [h.frame]
theorem arg (h : HostAccess s t) (i : Nat) : t.arg i = s.arg i := by rw [h.frame]; rfl
theorem links (h : HostAccess s t) : t.module.links = s.module.links := by rw [h.module]
theorem homeSlice (h : HostAccess s t) (line : Nat) : homeSlice t line = homeSlice s line := by rw [h.frame]; rfl
theorem dieAt (h : HostAccess s t) (d : Nat) : dieAt t d = dieAt s d := by rw [h.frame]; rfl
theorem homeBusy (h : HostAccess s t) (line : Nat) : homeBusy t line = homeBusy s line := by rw [h.frame]; rfl
theorem lineLost (h : HostAccess s t) (line : Nat) : lineLost t line = lineLost s line := by rw [h.frame]; rfl
theorem lineBytes (h : HostAccess s t) (line : Nat) : lineBytes t line = lineBytes s line := by rw [h.frame]; rfl

theorem lineBad (h : HostAccess s t) (line : Nat) : lineBad t line = lineBad s line := by
  unfold Machine.lineBad
  rw [h.lineLost, h.homeSlice, h.resident, show t.badLines = s.badLines by rw [h.frame]]

theorem servesNow (h : HostAccess s t) {q line : Nat} (hs : ServesNow s q line) : ServesNow t q line := by
  obtain ⟨hhome, hdie, hbusy⟩ := hs
  exact ⟨(h.homeSlice line).trans hhome, by rw [h.dieAt]; exact hdie, (h.homeBusy line).trans hbusy⟩

end HostAccess

theorem hostAccess_modQuad (s : State) (q : Nat) (f : Quad → Quad) (hf : ∀ x, (f x).resident = x.resident) : HostAccess s (modQuad s q f) :=
  ⟨rfl, (poisonKept_modQuad s q f hf).2, rfl⟩

theorem hostAccess_admitted (s : State) (r : Request) : HostAccess s (admitted s r) := hostAccess_modQuad s _ _ fun _ => rfl

/-! ## An access begins -/

/-- The record of an access of the host that begins. -/
def rmaEntry (s : State) (tag : DWord) (lines : Nat) (range : Option (Nat × Nat)) : RmaPending :=
  { tag := tag, lines := lines, horizon := 0, data := [], range := range, got := [], poison := false, port := (hostPort s).getD 0 }

/-- The state in which an access of the host has begun. -/
def rmaBegun (s : State) (tag : DWord) (lines : Nat) (range : Option (Nat × Nat)) : State := (beginRma s tag lines range).2

theorem hostAccess_rmaBegun (s : State) (tag : DWord) (lines : Nat) (range : Option (Nat × Nat)) : HostAccess s (rmaBegun s tag lines range) :=
  ⟨rfl, fun _ => rfl, (reported_countFrames s (some ((hostPort s).getD 0)) false).hostReach⟩

theorem rma_rmaBegun (s : State) (tag : DWord) (lines : Nat) (range : Option (Nat × Nat)) :
    (rmaBegun s tag lines range).module.rma = s.module.rma ++ [rmaEntry s tag lines range] := rfl

theorem nextId_rmaBegun (s : State) (tag : DWord) (lines : Nat) (range : Option (Nat × Nat)) :
    (rmaBegun s tag lines range).ctl.nextId = s.ctl.nextId := rfl

/-! ## Its messages enter the fabric and arrive (R19, R25, R175) -/

/-- The messages by which the host reaches device memory. -/
def fromHost : Msg → Bool
  | .rmaWrite _ _ _ _ _ | .rmaRead _ _ _ _ | .portAtomic _ _ _ _ _ _ _ _ => true
  | _ => false

/-- A message of the host stands on the fabric. -/
def entered (s : State) (port : Nat) (m : Msg) : State := putMsg (fresh s).2 s.ctl.nextId none (some port) m

theorem hostAccess_entered (s : State) (port : Nat) (m : Msg) : HostAccess s (entered s port m) := ⟨rfl, fun _ => rfl, rfl⟩

theorem tfind_entered (s : State) (port : Nat) (m : Msg) : tfind (entered s port m).net s.ctl.nextId = some m := tfind_tset_same _ _ _

theorem linkIsDown_of_none {s : State} (hl : ∀ p ∈ s.module.links, p.2.state ≠ .down) (n : Nat) : linkIsDown s n = false := by
  rw [← Bool.not_eq_true, linkIsDown_iff, linkAt, tget]
  cases hf : tfind s.module.links n with
  | none => decide
  | some l => exact hl _ (mem_of_tfind hf)

/-- A message of the host needs no port, and is in no order with others. -/
theorem fromHost_plain {m : Msg} (hm : fromHost m = true) : m.external = false ∧ m.drainOf = none ∧ m.redirectOf = none ∧
    m.strandOps = [] ∧ m.lineRead = none ∧ m.entryOf = none :=
  match m, hm with
  | .rmaWrite _ _ _ _ _, _ | .rmaRead _ _ _ _, _ | .portAtomic _ _ _ _ _ _ _ _, _ => ⟨rfl, rfl, rfl, rfl, rfl, rfl⟩

/-- Nothing that is on the fabric goes before a message of the host. -/
theorem goesFirst_fromHost {m : Msg} (hm : fromHost m = true) (id : Nat) (p : Nat × Msg) : goesFirst id m p = false := by
  obtain ⟨-, hdrain, hredirect, hops, -, -⟩ := fromHost_plain hm
  simp [goesFirst, hdrain, hredirect, hops]

theorem loadFirst_fromHost {m : Msg} (hm : fromHost m = true) (s : State) (id : Nat) (p : Nat × Msg) : loadFirst s id m p = false := by
  obtain ⟨-, -, -, -, hread, -⟩ := fromHost_plain hm
  simp [loadFirst, hread]

theorem entryFirst_fromHost {m : Msg} (hm : fromHost m = true) (s : State) : entryFirst s m = false := by
  obtain ⟨-, -, -, -, -, hentry⟩ := fromHost_plain hm
  simp [entryFirst, hentry]

/-- Where no link is Down, no route holds a message of the host back. -/
theorem heldBack_fromHost {s : State} (hl : ∀ p ∈ s.module.links, p.2.state ≠ .down) {m : Msg} (hm : fromHost m = true) (id : Nat) :
    heldBack s id m = false := by
  have hlinks : linkIsDown s = fun _ => false := funext (linkIsDown_of_none hl)
  unfold heldBack
  rw [(fromHost_plain hm).1, hlinks]
  split <;> simp

theorem arriving_fromHost {s : State} (hl : ∀ p ∈ s.module.links, p.2.state ≠ .down) {m : Msg} (hm : fromHost m = true) {id : Nat}
    (hn : tfind s.net id = some m) : arriving s id = some m := by
  unfold arriving
  rw [hn]
  dsimp only
  rw [heldBack_fromHost hl hm, entryFirst_fromHost hm, List.any_eq_false.2 fun p _ => by simp [goesFirst_fromHost hm],
    List.any_eq_false.2 fun p _ => by simp [loadFirst_fromHost hm]]
  rfl

/-- A message of the host whose focus asks for a step of its own stays on the fabric. -/
theorem enters_stays {s : State} (h1 : s.arg 0 = 1) (port : Nat) (m : Msg) : enters s port m = (entered s port m, []) := if_pos h1

/-- Else it reaches its home in the same step and is served there, where no link and no other request holds it. -/
theorem enters_serves {s : State} {m : Msg} {r : Request} (port : Nat) (h1 : s.arg 0 ≠ 1) (hl : ∀ p ∈ s.module.links, p.2.state ≠ .down)
    (hm : fromHost m = true) (hr : requestOf (entered s port m) m = some r) (hs : ServesNow s r.slice r.line) :
    ∃ u, enters s port m = serve 0 s.ctl.nextId m u ∧ HostAccess s u ∧ u.module.rma = s.module.rma := by
  have harr : arriving (entered s port m) s.ctl.nextId = some m :=
    arriving_fromHost (s := entered s port m) hl hm (tfind_entered s port m)
  have hent : enters s port m = arriveMsg (entered s port m) 0 s.ctl.nextId m := by
    unfold enters
    rw [show fresh s = (s.ctl.nextId, (fresh s).2) from rfl]
    dsimp only
    rw [if_neg h1, show arriving (putMsg (fresh s).2 s.ctl.nextId none (some port) m) s.ctl.nextId = some m from harr]
    rfl
  refine ⟨admitted (entered s port m) r, ?_, (hostAccess_entered s port m).trans (hostAccess_admitted _ r), rfl⟩
  rw [hent, arriveMsg, hr]
  exact arrive_serves ((hostAccess_entered s port m).servesNow hs) _ _ _

/-! ## The lines of a range -/

theorem mem_linesOf {pa len a : Nat} (hlo : pa ≤ a) (hhi : a < pa + len) : a / 64 ∈ linesOf pa len := by
  unfold linesOf
  rw [if_neg (by omega), List.mem_map]
  exact ⟨a / 64 - pa / 64, List.mem_range.2 (by omega), by omega⟩

/-- A line of a range that the partition may reach is served at once, where it is not busy. -/
theorem servesNow_of_rmaLegal {s : State} {p pa len line : Nat} (h : rmaLegal s p pa len = true) (hline : line ∈ linesOf pa len)
    (hb : homeBusy s line = false) : ServesNow s (homeSlice s line) line := by
  have hall := List.all_eq_true.1 (Bool.and_eq_true_iff.1 h).2 line hline
  simp only [Bool.and_eq_true, Bool.not_eq_true', ownPa, populated, beq_iff_eq, decide_eq_true_eq] at hall
  obtain ⟨⟨⟨hpa, -⟩, -⟩, hfenced⟩ := hall
  have hdev : isHostPa (64 * line) = false := by
    have h41 : 64 * line < 2 ^ 41 := by
      by_contra hge
      have := Nat.div_pos (Nat.le_of_not_lt hge) (by decide : 0 < 2 ^ 41)
      omega
    have : 64 * line / 2 ^ 47 = 0 := Nat.div_eq_of_lt (by omega)
    rw [isHostPa, this]
    rfl
  rw [homeFenced, hdev, Nat.mul_div_cancel_left _ (by decide)] at hfenced
  exact ⟨rfl, hfenced, hb⟩

theorem mem_lineData {pa line off : Nat} {data : List Byte} {v : Byte} :
    (off, v) ∈ lineData pa data line ↔ off < 64 ∧ pa ≤ 64 * line + off ∧ data[64 * line + off - pa]? = some v := by
  unfold lineData
  rw [List.mem_filterMap]
  constructor
  · rintro ⟨i, hi, h⟩
    split at h
    · next hpa =>
      rw [Option.map_eq_some_iff] at h
      obtain ⟨w, hw, e⟩ := h
      rw [Prod.mk.injEq] at e
      obtain ⟨rfl, rfl⟩ := e
      exact ⟨List.mem_range.1 hi, hpa, hw⟩
    · cases h
  · rintro ⟨hoff, hpa, hv⟩
    exact ⟨off, List.mem_range.2 hoff, by rw [if_pos hpa, hv]; rfl⟩

/-- A write of a line's part of a range writes the range, where the line holds it whole. -/
theorem writesRange_of_writesLine {s t : State} {pa line : Nat} {data : List Byte} (hline : linesOf pa data.length = [line])
    (h : WritesLine s t line (lineData pa data line)) : (∀ i v, data[i]? = some v → memRead t.mem (pa + i) = v) ∧
      ∀ a, a < pa ∨ pa + data.length ≤ a → memRead t.mem a = memRead s.mem a := by
  obtain ⟨hin, hout⟩ := h
  refine ⟨fun i v hv => ?_, fun a ha => hout a fun p hp => ?_⟩
  · obtain ⟨hi, -⟩ := List.getElem?_eq_some_iff.1 hv
    have hmem := mem_linesOf (pa := pa) (a := pa + i) (len := data.length) (by omega) (by omega)
    rw [hline, List.mem_singleton] at hmem
    have hoff : 64 * line + (pa + i) % 64 = pa + i := by omega
    have hread := hin ((pa + i) % 64) v (mem_lineData.2 ⟨by omega, by omega, by rw [hoff, Nat.add_sub_cancel_left, hv]⟩) fun w hw => by
      have := (mem_lineData.1 hw).2.2
      rw [hoff, Nat.add_sub_cancel_left, hv] at this
      exact (Option.some.inj this).symm
    rwa [hoff] at hread
  · obtain ⟨-, hpa, hv⟩ := mem_lineData.1 hp
    obtain ⟨hlt, -⟩ := List.getElem?_eq_some_iff.1 hv
    omega

/-! ## Writes (R75) -/

/-- The message of a line of a write. -/
def writeMsg (s : State) (pa : Nat) (data : List Byte) (tag : DWord) (line : Nat) : Msg :=
  .rmaWrite (homeSlice s line) line (lineData pa data line) tag s.now

/-- A write of one line is that line's message, in the state in which the access has begun. -/
theorem hostWrite_one {s : State} {p pa : Nat} {data : List Byte} {line : Nat} (ho : rmaOpen s p = true)
    (hl : rmaLegal s p pa data.length = true) (hline : linesOf pa data.length = [line]) (tag : DWord) :
    ∃ m, hostWrite s p pa data tag =
      ({ (enters (rmaBegun s tag 1 none) ((hostPort s).getD 0) (writeMsg s pa data tag line)).1 with mem := m },
        (enters (rmaBegun s tag 1 none) ((hostPort s).getD 0) (writeMsg s pa data tag line)).2) := by
  unfold hostWrite
  rw [ho, hl, hline, if_neg (by decide), if_neg (by decide)]
  exact ⟨_, rfl⟩

theorem serve_rmaWrite_stores {s : State} {line : Nat} (h : lineLost s line = false) (id q age : Nat) (data : Tab Byte) (tag : DWord) :
    (serve 0 id (.rmaWrite q line data tag age) s).2 = lineStores line data := serveWrite_stores h _ _ _ _ _ _

theorem rmaWrite_spec {part pa line : Nat} {data : List Byte} {s : State} (tag : DWord) (hw : s.mem.wf = true) (ho : rmaOpen s part = true)
    (hl : rmaLegal s part pa data.length = true) (hline : linesOf pa data.length = [line]) (h1 : s.arg 0 ≠ 1)
    (hlinks : ∀ p ∈ s.module.links, p.2.state ≠ .down) (hb : homeBusy s line = false) (hlost : lineLost s line = false) :
    Completes (.rmaWrite part pa data tag) s fun t => (∀ i v, data[i]? = some v → memRead t.mem (pa + i) = v) ∧
      ∀ a, a < pa ∨ pa + data.length ≤ a → memRead t.mem a = memRead s.mem a := by
  have hbegun := hostAccess_rmaBegun s tag 1 none
  have hserves := servesNow_of_rmaLegal hl (by rw [hline]; exact List.mem_singleton_self line) hb
  obtain ⟨m, hwrite⟩ := hostWrite_one ho hl hline tag
  obtain ⟨u, hent, hu, -⟩ := enters_serves (s := rmaBegun s tag 1 none) (m := writeMsg s pa data tag line) ((hostPort s).getD 0)
    h1 hlinks rfl rfl (hbegun.servesNow hserves)
  have hstores : (enters (rmaBegun s tag 1 none) ((hostPort s).getD 0) (writeMsg s pa data tag line)).2 =
      lineStores line (lineData pa data line) := by
    rw [hent]
    exact serve_rmaWrite_stores (((hbegun.trans hu).lineLost line).trans hlost) _ _ _ _ _
  refine ⟨_, rfl, writesRange_of_writesLine hline (writesLine_of_stores hw ?_)⟩
  rw [hwrite]
  exact congrArg (memApply s.mem) hstores

theorem rmaWrite_held_spec {part pa line : Nat} {data : List Byte} {s : State} (tag : DWord) (ho : rmaOpen s part = true)
    (hl : rmaLegal s part pa data.length = true) (hline : linesOf pa data.length = [line]) (h1 : s.arg 0 = 1) :
    Completes (.rmaWrite part pa data tag) s fun t => t.mem = s.mem ∧
      tfind t.net s.ctl.nextId = some (.rmaWrite (homeSlice s line) line (lineData pa data line) tag s.now) := by
  obtain ⟨m, hwrite⟩ := hostWrite_one ho hl hline tag
  refine ⟨_, rfl, ?_⟩
  rw [hwrite, enters_stays (s := rmaBegun s tag 1 none) h1]
  exact ⟨rfl, tfind_entered (rmaBegun s tag 1 none) ((hostPort s).getD 0) (writeMsg s pa data tag line)⟩

/-! ## Errors (R75) -/

theorem rmaError_sent (s : State) (tag : DWord) : (rmaError s tag).sent = s.sent ++ [.rmaDone tag false []] := by
  rw [rmaError, emit_sent, hears_sent]

theorem rmaWrite_error_spec {part pa : Nat} {data : List Byte} {s : State} (tag : DWord) (ho : rmaOpen s part = true)
    (hl : rmaLegal s part pa data.length = false) : Completes (.rmaWrite part pa data tag) s fun t =>
      t.sent = s.sent ++ [.rmaDone tag false []] ∧ t.mem = s.mem := by
  refine ⟨_, rfl, ?_⟩
  unfold hostWrite
  rw [ho, hl, if_neg (by decide), if_pos (by decide)]
  exact ⟨rmaError_sent s tag, rfl⟩

theorem rmaRead_error_spec {part pa len : Nat} {s : State} (tag : DWord) (ho : rmaOpen s part = true)
    (hl : rmaLegal s part pa len = false) : Completes (.rmaRead part pa len tag) s fun t =>
      t.sent = s.sent ++ [.rmaDone tag false []] := by
  refine ⟨_, rfl, ?_⟩
  unfold hostRead
  rw [ho, hl, if_neg (by decide), if_pos (by decide)]
  exact rmaError_sent s tag

/-! ## Completions (R75) -/

/-- An access that every line has answered is answered, once its completion times have passed. -/
theorem hostAccessDone_eq {s : State} {tag : DWord} {r : RmaPending}
    (hr : (s.module.rma.find? fun r => r.tag == tag && r.lines == 0 && decide (r.horizon ≤ s.now)) = some r) (hreach : hostReach s = true) :
    hostAccessDone s tag = modModule (emit s (rmaAnswer r)) fun m => { m with rma := m.rma.erase r } := by
  unfold hostAccessDone
  rw [hr]
  exact if_pos hreach

theorem emit_rma (s : State) (m : Sent) : (emit s m).module.rma = s.module.rma := by rw [(reported_emit s m).module]

theorem rmaWriteCompletion_spec {tag : DWord} {s : State} {r : RmaPending}
    (hr : (s.module.rma.find? fun r => r.tag == tag && r.lines == 0 && decide (r.horizon ≤ s.now)) = some r) (hreach : hostReach s = true) :
    Completes (.rmaWriteCompletion tag) s fun t => t.sent = s.sent ++ [rmaAnswer r] ∧ t.module.rma = s.module.rma.erase r := by
  refine ⟨_, rfl, ?_⟩
  rw [hostAccessDone_eq hr hreach]
  exact ⟨emit_sent _ _, congrArg (fun l => l.erase r) (emit_rma s _)⟩

/-! ## Reads (R75, R133) -/

/-- The message of a line of a read. -/
def readMsg (s : State) (tag : DWord) (line : Nat) : Msg := .rmaRead (homeSlice s line) line tag s.now

/-- What an access records of a line that its home has read: the bytes of its range, and the line's poison. -/
def heardLine (s : State) (line : Nat) (r : RmaPending) : RmaPending :=
  let mine := (List.range 64).filter fun i => r.range.any fun p => decide (p.1 ≤ 64 * line + i) && decide (64 * line + i < p.1 + p.2)
  { r with lines := r.lines - 1, got := mine.foldl (fun g i => tset g (64 * line + i) ((lineBytes s line).getD i 0)) r.got,
           poison := r.poison || lineBad s line }

theorem HostAccess.heardLine {s t : State} (h : HostAccess s t) (line : Nat) : heardLine t line = heardLine s line := by
  unfold Proofs.heardLine
  rw [h.lineBytes, h.lineBad]

theorem hostAccess_hostLine (s : State) (id q line : Nat) (tag : DWord) : HostAccess s (hostLine s id q 0 line tag) :=
  (hostAccess_modQuad s q (fun x => { x with copies := x.copies.map fun e => if e.line == line then { e with used := s.now } else e })
    fun _ => rfl).trans ⟨rfl, fun _ => rfl, rfl⟩

theorem rma_hostLine (s : State) (id q line : Nat) (tag : DWord) : (hostLine s id q 0 line tag).module.rma =
    s.module.rma.map fun r => if r.tag == tag then heardLine s line r else r := by
  have h : HostAccess s (takeOff (useWay s q line) id) :=
    (hostAccess_modQuad s q (fun x => { x with copies := x.copies.map fun e => if e.line == line then { e with used := s.now } else e })
      fun _ => rfl).trans ⟨rfl, fun _ => rfl, rfl⟩
  rw [← h.heardLine]
  rfl

/-- A line of a read enters, reaches its home and is read there, which leaves memory alone. -/
theorem enters_read {s u : State} (hu : HostAccess s u) {line : Nat} (h1 : s.arg 0 ≠ 1) (hl : ∀ p ∈ s.module.links, p.2.state ≠ .down)
    (hs : ServesNow s (homeSlice s line) line) (port : Nat) (tag : DWord) : ∃ v, enters u port (readMsg u tag line) = (v, []) ∧
      HostAccess s v ∧ v.module.rma = u.module.rma.map fun r => if r.tag == tag then heardLine s line r else r := by
  have hserves : ServesNow u (homeSlice u line) line := by
    rw [hu.homeSlice]
    exact hu.servesNow hs
  obtain ⟨w, hent, hw, hrma⟩ := enters_serves (s := u) (m := readMsg u tag line) port (by rw [hu.arg]; exact h1)
    (by rw [hu.links]; exact hl) rfl rfl hserves
  refine ⟨_, hent, (hu.trans hw).trans (hostAccess_hostLine _ _ _ _ _), ?_⟩
  rw [← hrma, ← (hu.trans hw).heardLine]
  exact rma_hostLine _ _ _ _ _

theorem map_heard {old : List RmaPending} {tag : DWord} (ho : ∀ x ∈ old, x.tag ≠ tag) {r : RmaPending} (hr : r.tag = tag)
    (f : RmaPending → RmaPending) : (old ++ [r]).map (fun x => if x.tag == tag then f x else x) = old ++ [f r] := by
  have hold : old.map (fun x => if x.tag == tag then f x else x) = old := by
    conv_rhs => rw [← List.map_id old]
    exact List.map_congr_left fun x hx => by simp [ho x hx]
  rw [List.map_append, hold]
  simp [hr]

/-- The lines of a read are read one after another, and the access hears of each. -/
theorem enterLines_reads {s : State} {tag : DWord} {old : List RmaPending} (h1 : s.arg 0 ≠ 1)
    (hl : ∀ p ∈ s.module.links, p.2.state ≠ .down) (ho : ∀ x ∈ old, x.tag ≠ tag) (port : Nat) (lines : List Nat)
    (hs : ∀ line ∈ lines, ServesNow s (homeSlice s line) line) (u : State) (r : RmaPending) (hu : HostAccess s u)
    (hrma : u.module.rma = old ++ [r]) (hr : r.tag = tag) :
    HostAccess s (enterLines u port (fun v line => readMsg v tag line) lines).1 ∧
    (enterLines u port (fun v line => readMsg v tag line) lines).1.module.rma =
      old ++ [lines.foldl (fun r line => heardLine s line r) r] := by
  suffices h : ∀ es, HostAccess s (lines.foldl (fun (r : State × List MemEffect) line =>
      let (w, es) := enters r.1 port (readMsg r.1 tag line)
      ({ w with mem := memApply w.mem es }, r.2 ++ es)) (u, es)).1 ∧
      (lines.foldl (fun (r : State × List MemEffect) line =>
      let (w, es) := enters r.1 port (readMsg r.1 tag line)
      ({ w with mem := memApply w.mem es }, r.2 ++ es)) (u, es)).1.module.rma =
        old ++ [lines.foldl (fun r line => heardLine s line r) r] from h []
  induction lines generalizing u r with
  | nil => exact fun _ => ⟨hu, hrma⟩
  | cons line lines ih =>
    intro es
    obtain ⟨v, hent, hv, hheard⟩ := enters_read hu h1 hl (hs line List.mem_cons_self) port tag
    rw [hrma, map_heard ho hr] at hheard
    rw [List.foldl_cons, List.foldl_cons]
    dsimp only
    rw [hent]
    exact ih (fun l hm => hs l (List.mem_cons_of_mem _ hm)) v _ hv hheard hr _

/-! ## What a read has heard -/

theorem tget_foldl_tset {ι α : Type} {k : ι → Nat} {v : ι → α} {F : Nat → α} (l : List ι) (hv : ∀ i ∈ l, v i = F (k i)) (t : List (Nat × α))
    (a : Nat) (d : α) : tget (l.foldl (fun g i => tset g (k i) (v i)) t) a d = if a ∈ l.map k then F a else tget t a d := by
  induction l generalizing t with
  | nil => rfl
  | cons i l ih =>
    rw [List.foldl_cons, ih fun j hj => hv j (List.mem_cons_of_mem _ hj), tget_tset, List.map_cons]
    by_cases hm : a ∈ l.map k
    · rw [if_pos hm, if_pos (List.mem_cons_of_mem _ hm)]
    · by_cases ha : a = k i
      · rw [if_neg hm, if_pos ha, if_pos (List.mem_cons.2 (.inl ha)), ha, hv i List.mem_cons_self]
      · rw [if_neg hm, if_neg ha, if_neg (fun h => (List.mem_cons.1 h).elim ha hm)]

theorem got_heardLine (s : State) (line : Nat) {r : RmaPending} {pa len : Nat} (hr : r.range = some (pa, len)) (a : Nat) :
    tget (heardLine s line r).got a 0 = if a / 64 = line ∧ pa ≤ a ∧ a < pa + len then memRead s.mem a else tget r.got a 0 := by
  unfold heardLine
  dsimp only
  rw [tget_foldl_tset (k := fun i => 64 * line + i) (F := memRead s.mem) _ fun i hi => ?_]
  · refine if_congr ?_ rfl rfl
    simp only [hr, Option.any_some, List.mem_map, List.mem_filter, List.mem_range, Bool.and_eq_true, decide_eq_true_eq]
    constructor
    · rintro ⟨i, ⟨hi, hlo, hhi⟩, rfl⟩
      exact ⟨by omega, hlo, hhi⟩
    · rintro ⟨hline, hlo, hhi⟩
      exact ⟨a % 64, ⟨by omega, by omega, by omega⟩, by omega⟩
  · have hi := List.mem_range.1 (List.mem_filter.1 hi).1
    simp [lineBytes, hi]

/-- What is left of an access once some lines have been read: it has heard their bytes in its range, and of their poison. -/
theorem heard_lines (s : State) {pa len : Nat} (lines : List Nat) (r : RmaPending) (hr : r.range = some (pa, len)) :
    let x := lines.foldl (fun r line => heardLine s line r) r
    x = { r with lines := r.lines - lines.length, got := x.got, poison := r.poison || lines.any (lineBad s) } ∧
    ∀ a, tget x.got a 0 = if a / 64 ∈ lines ∧ pa ≤ a ∧ a < pa + len then memRead s.mem a else tget r.got a 0 := by
  induction lines generalizing r with
  | nil => exact ⟨by simp, fun a => by simp⟩
  | cons line lines ih =>
    obtain ⟨hframe, hgot⟩ := ih (heardLine s line r) hr
    rw [List.foldl_cons]
    refine ⟨?_, fun a => ?_⟩
    · refine hframe.trans ?_
      rw [List.any_cons, List.length_cons, Nat.add_comm lines.length, ← Nat.sub_sub, ← Bool.or_assoc]
      rfl
    · rw [hgot, got_heardLine s line hr]
      by_cases hm : a / 64 ∈ lines ∧ pa ≤ a ∧ a < pa + len
      · rw [if_pos hm, if_pos ⟨List.mem_cons_of_mem _ hm.1, hm.2⟩]
      · rw [if_neg hm]
        refine if_congr ⟨fun h => ⟨List.mem_cons.2 (.inl h.1), h.2⟩, fun h => ⟨?_, h.2⟩⟩ rfl rfl
        exact (List.mem_cons.1 h.1).resolve_right fun c => hm ⟨c, h.2⟩

/-- The access of a read, once every line of its range has answered. -/
def readHeard (s : State) (pa len : Nat) (tag : DWord) : RmaPending :=
  (linesOf pa len).foldl (fun r line => heardLine s line r) (rmaEntry s tag (linesOf pa len).length (some (pa, len)))

theorem readHeard_eq (s : State) (pa len : Nat) (tag : DWord) : readHeard s pa len tag =
    { rmaEntry s tag 0 (some (pa, len)) with got := (readHeard s pa len tag).got, poison := (linesOf pa len).any (lineBad s) } := by
  obtain ⟨hframe, -⟩ := heard_lines s (linesOf pa len) (rmaEntry s tag (linesOf pa len).length (some (pa, len))) rfl
  refine hframe.trans ?_
  rw [show (rmaEntry s tag (linesOf pa len).length (some (pa, len))).lines - (linesOf pa len).length = 0 from Nat.sub_self _]
  rfl

/-- A read returns the bytes of its range, or an error where a line of it is poisoned. -/
theorem rmaAnswer_readHeard (s : State) (pa len : Nat) (tag : DWord) : rmaAnswer (readHeard s pa len tag) =
    if ∃ line ∈ linesOf pa len, lineBad s line = true then .rmaDone tag false []
    else .rmaDone tag true ((List.range len).map fun i => memRead s.mem (pa + i)) := by
  obtain ⟨-, hgot⟩ := heard_lines s (linesOf pa len) (rmaEntry s tag (linesOf pa len).length (some (pa, len))) rfl
  have hbytes : ((List.range len).map fun i => tget (readHeard s pa len tag).got (pa + i) 0) =
      (List.range len).map fun i => memRead s.mem (pa + i) := List.map_congr_left fun i hi => by
    have hi := List.mem_range.1 hi
    exact (hgot (pa + i)).trans (if_pos ⟨mem_linesOf (by omega) (by omega), by omega, by omega⟩)
  rw [← hbytes, ← if_congr (List.any_eq_true (p := lineBad s)) rfl rfl]
  rw [readHeard_eq]
  rfl

theorem rmaRead_spec {part pa len : Nat} {tag : DWord} {s : State} (ho : rmaOpen s part = true) (hl : rmaLegal s part pa len = true)
    (h1 : s.arg 0 ≠ 1) (hlinks : ∀ p ∈ s.module.links, p.2.state ≠ .down) (hb : ∀ line ∈ linesOf pa len, homeBusy s line = false)
    (htag : ∀ r ∈ s.module.rma, r.tag ≠ tag) : Completes (.rmaRead part pa len tag) s fun t =>
      t.sent = s.sent ++ [if ∃ line ∈ linesOf pa len, lineBad s line = true then .rmaDone tag false []
        else .rmaDone tag true ((List.range len).map fun i => memRead s.mem (pa + i))] := by
  obtain ⟨hacc, hrma⟩ := enterLines_reads h1 hlinks htag ((hostPort s).getD 0) (linesOf pa len)
    (fun line hm => servesNow_of_rmaLegal hl hm (hb line hm)) (rmaBegun s tag (linesOf pa len).length (some (pa, len))) _
    (hostAccess_rmaBegun s tag _ _) (rma_rmaBegun s tag _ _) rfl
  change _ = s.module.rma ++ [readHeard s pa len tag] at hrma
  have hread : hostRead s part pa len tag = hostAccessDone (enterLines (rmaBegun s tag (linesOf pa len).length (some (pa, len)))
      ((hostPort s).getD 0) (fun v line => readMsg v tag line) (linesOf pa len)).1 tag := by
    unfold hostRead
    rw [ho, hl, if_neg (by decide), if_neg (by decide)]
    rfl
  generalize (enterLines (rmaBegun s tag (linesOf pa len).length (some (pa, len))) ((hostPort s).getD 0) (fun v line => readMsg v tag line)
    (linesOf pa len)).1 = v at *
  have hfind : (v.module.rma.find? fun r => r.tag == tag && r.lines == 0 && decide (r.horizon ≤ v.now)) = some (readHeard s pa len tag) := by
    have hnone : (s.module.rma.find? fun r => r.tag == tag && r.lines == 0 && decide (r.horizon ≤ v.now)) = none :=
      List.find?_eq_none.2 fun x hx => by simp [htag x hx]
    rw [hrma, List.find?_append, hnone, readHeard_eq]
    simp [rmaEntry]
  have hreach : hostReach v = true := hacc.reach.trans (Bool.and_eq_true_iff.1 ho).1
  refine ⟨_, rfl, ?_⟩
  rw [hread, hostAccessDone_eq hfind hreach, ← rmaAnswer_readHeard, ← hacc.sent]
  exact emit_sent _ _

/-! ## Transport atomics (R75, R133) -/

/-- The value that an update finds goes back first, whatever its poison. -/
theorem applyOps_found (s : State) (q : Nat) (o : LaneOp) :
    ((applyOps s q 0 (o.pa / 64) [o]).2.1.vals.headD (0, 0, false)).2.1 = BitVec.ofNat 64 (oldValue s.mem o) := by
  have hrun := runOps_one s.mem (lineBad s (o.pa / 64)) o
  change ((combinePoison [o] (runOps (fun i => memRead s.mem (64 * (o.pa / 64) + i)) (lineBad s (o.pa / 64)) [o]).vals).headD (0, 0, false)).2.1 = _
  rw [hrun]
  rfl

/-- Bytes of a number that fit in it do not see what is above. -/
theorem leBytes_mod {n m : Nat} (h : n ≤ m) (x : Nat) : leBytes n (x % 256 ^ m) = leBytes n x := by
  induction n generalizing m x with
  | zero => rfl
  | succ n ih =>
    obtain ⟨m, rfl⟩ : ∃ k, m = k + 1 := ⟨m - 1, by omega⟩
    have hlow : BitVec.ofNat 8 (x % 256 ^ (m + 1)) = BitVec.ofNat 8 x := by
      apply BitVec.eq_of_toNat_eq
      rw [BitVec.toNat_ofNat, BitVec.toNat_ofNat]
      exact Nat.mod_mod_of_dvd x (Dvd.intro_left (256 ^ m) rfl)
    have hhigh : x % 256 ^ (m + 1) / 256 = x / 256 % 256 ^ m := by
      rw [Nat.pow_succ', Nat.mod_mul_right_div_self]
    rw [leBytes, leBytes, hlow, hhigh, ih (by omega)]

theorem tyWidth_le (ty : BitVec 4) : tyWidth ty / 8 ≤ 8 := by
  revert ty
  decide

/-- A transport atomic's update at its home. -/
def portOp (pa : Nat) (op : AtomOp) (ty : BitVec 4) (v e : DWord) : LaneOp := ⟨0, pa, op, ty, v, e, false⟩

theorem servePortAtomic_stores {s : State} {pa : Nat} (h : lineLost s (pa / 64) = false) (id q : Nat) (op : AtomOp) (ty : BitVec 4)
    (v e tag : DWord) : (servePortAtomic s id q 0 pa op ty v e tag).2 =
      lineStores (pa / 64) (setBytes [] (pa % 64) (updateBytes s.mem (portOp pa op ty v e))) := by
  have ht := tended_endTracker s (pa / 64)
  refine (applyOps_stores (s := endTracker s (pa / 64)) (o := portOp pa op ty v e) ((ht.lineLost _).trans h) q).trans ?_
  rw [ht.mem]
  rfl

/-- The access of a transport atomic takes the value that its location had. -/
theorem servePortAtomic_rma (s : State) (id q pa : Nat) (op : AtomOp) (ty : BitVec 4) (v e tag : DWord) :
    (servePortAtomic s id q 0 pa op ty v e tag).1.module.rma = s.module.rma.map fun r => if r.tag == tag then
      { r with data := leBytes (tyWidth ty / 8) (oldValue s.mem (portOp pa op ty v e)) } else r := by
  have ht := tended_endTracker s (pa / 64)
  have ha := tended_applyOps (endTracker s (pa / 64)) q (pa / 64) [portOp pa op ty v e]
  have hfound := applyOps_found (endTracker s (pa / 64)) q (portOp pa op ty v e)
  rw [ht.mem] at hfound
  have hbytes : leBytes (tyWidth ty / 8) (BitVec.ofNat 64 (oldValue s.mem (portOp pa op ty v e))).toNat =
      leBytes (tyWidth ty / 8) (oldValue s.mem (portOp pa op ty v e)) := by
    rw [BitVec.toNat_ofNat]
    exact leBytes_mod (m := 8) (tyWidth_le ty) _
  rw [← hbytes, ← hfound, ← show (applyOps (endTracker s (pa / 64)) q 0 (pa / 64) [portOp pa op ty v e]).1.module.rma = s.module.rma by
    rw [ha.module, ht.module]]
  exact congrArg Module.rma (posted_completeWrite _ _ _ _ _).module

theorem transportAtomic_spec {part pa : Nat} {op : AtomOp} {ty : BitVec 4} {value expected tag : DWord} {s : State} (hw : s.mem.wf = true)
    (h1 : s.arg 0 ≠ 1) (hlinks : ∀ p ∈ s.module.links, p.2.state ≠ .down) (ho : rmaOpen s part = true)
    (hl : rmaLegal s part pa (tyWidth ty / 8) = true) (hn : tyWidth ty / 8 ≠ 0) (hal : pa % (tyWidth ty / 8) = 0)
    (hb : homeBusy s (pa / 64) = false) (hlost : lineLost s (pa / 64) = false) :
    Completes (.transportAtomic part pa op ty value expected tag) s fun t => Updates s t (portOp pa op ty value expected) ∧
      ∃ r ∈ t.module.rma, r.tag = tag ∧ r.data = leBytes (tyWidth ty / 8) (oldValue s.mem (portOp pa op ty value expected)) := by
  have hbegun := hostAccess_rmaBegun s tag 1 none
  have hserves := servesNow_of_rmaLegal hl (mem_linesOf (le_refl pa) (by omega)) hb
  obtain ⟨u, hent, hu, hrma⟩ := enters_serves (s := rmaBegun s tag 1 none)
    (m := .portAtomic (homeSlice s (pa / 64)) pa op ty value expected tag s.now) ((hostPort s).getD 0) h1 hlinks rfl rfl
    (hbegun.servesNow hserves)
  have hatomic : hostAtomic s part pa op ty value expected tag = enters (rmaBegun s tag 1 none) ((hostPort s).getD 0)
      (.portAtomic (homeSlice s (pa / 64)) pa op ty value expected tag s.now) := by
    unfold hostAtomic
    dsimp only
    rw [ho, hl, if_neg (by decide), if_neg (by simp [hn, hal])]
    rfl
  have hacc := hbegun.trans hu
  have hstores := servePortAtomic_stores ((hacc.lineLost _).trans hlost) s.ctl.nextId (homeSlice s (pa / 64)) op ty value expected tag
  have hfound := servePortAtomic_rma u s.ctl.nextId (homeSlice s (pa / 64)) pa op ty value expected tag
  rw [hacc.mem] at hstores hfound
  refine ⟨_, rfl, ?_⟩
  rw [hatomic, hent]
  refine ⟨updates_of_stores hw (congrArg (memApply s.mem) hstores), ?_⟩
  rw [commit_module]
  refine ⟨_, Eq.mpr (congrArg (_ ∈ ·) hfound) (List.mem_map_of_mem (a := rmaEntry s tag 1 none) ?_), ?_⟩
  · rw [hrma, rma_rmaBegun]
    exact List.mem_append_right _ (List.mem_singleton_self _)
  · have htag : ((rmaEntry s tag 1 none).tag == tag) = true := beq_self_eq_true tag
    rw [if_pos htag]
    exact ⟨rfl, rfl⟩

/-- Settles O55: an access of the host is its lines' messages, each served at its home in the step in which it enters, or an error. -/
theorem remoteMemory : Obligations.RemoteMemory := by
  unfold Obligations.RemoteMemory
  exact ⟨fun part pa data tag line s hw ho hl hline h1 hlinks hb hlost => rmaWrite_spec tag hw ho hl hline h1 hlinks hb hlost,
    fun part pa data tag line s ho hl hline h1 => rmaWrite_held_spec tag ho hl hline h1,
    fun part pa data tag s ho hl => rmaWrite_error_spec tag ho hl, fun tag s r hr hreach => rmaWriteCompletion_spec hr hreach,
    fun part pa len tag s ho hl h1 hlinks hb htag => rmaRead_spec ho hl h1 hlinks hb htag,
    fun part pa len tag s ho hl => rmaRead_error_spec tag ho hl,
    fun part pa op ty value expected tag s hw h1 hlinks ho hl hn hal hb hlost => transportAtomic_spec hw h1 hlinks ho hl hn hal hb hlost⟩

end Sys2Proof.Proofs
end

section
/-! SUPPORT. Pre-emption (R91, R199, R357, R361, R362): what the stop of a member and the storing of its frame leave alone, how its
sheaves enter their handlers, and how the blocks of a saved gang leave their cores. -/

namespace Sys2Proof.Proofs
open Sys2Proof Sys2Proof.Machine Sys2Proof.Laws

/-! ## What the writing of a frame leaves alone (R357) -/

/-- Where a block belongs: its sheaves, its partition and its launch. -/
def placeIn (x : Block) : List Nat × Nat × Nat := (x.sheafSlots, x.part, x.launch)

/-- The launches, the blocks' places and the sheaves' widths are as they were, and no strand has become Done. -/
structure Framing (s t : State) : Prop where
  launches : t.launches = s.launches
  place : ∀ b, placeIn (blockAt t b) = placeIn (blockAt s b)
  width : ∀ f, (sheafAt t f).log2w = (sheafAt s f).log2w
  sheaf_isSome : ∀ f, (tfind t.sheaves f).isSome = (tfind s.sheaves f).isSome
  done : ∀ k, (strandAt t k).cond = .done → (strandAt s k).cond = .done

namespace Framing

theorem refl (s : State) : Framing s s := ⟨rfl, fun _ => rfl, fun _ => rfl, fun _ => rfl, fun _ h => h⟩

theorem trans {s t u : State} (h : Framing s t) (k : Framing t u) : Framing s u where
  launches := k.launches.trans h.launches
  place b := (k.place b).trans (h.place b)
  width f := (k.width f).trans (h.width f)
  sheaf_isSome f := (k.sheaf_isSome f).trans (h.sheaf_isSome f)
  done j e := h.done j (k.done j e)

variable {s t : State}

theorem foldl {α : Type} {f : State → α → State} (hf : ∀ s a, Framing s (f s a)) (l : List α) (s : State) : Framing s (l.foldl f s) :=
  foldl_related Framing.refl Framing.trans hf l s

/-- A state with the same launches, blocks, sheaves and strands. -/
theorem of_eq (hl : t.launches = s.launches) (hb : t.blocks = s.blocks) (hf : t.sheaves = s.sheaves) (hk : t.strands = s.strands) :
    Framing s t where
  launches := hl
  place b := by rw [blockAt, hb]; rfl
  width f := by rw [sheafAt, hf]; rfl
  sheaf_isSome f := by rw [hf]
  done k h := by rwa [strandAt, hk] at h

theorem modModule (s : State) (f : Module → Module) : Framing s (modModule s f) := of_eq rfl rfl rfl rfl
theorem modGang (s : State) (g : Nat) (f : Gang → Gang) : Framing s (modGang s g f) := of_eq rfl rfl rfl rfl
theorem modCore (s : State) (c : Nat) (f : Core → Core) : Framing s (modCore s c f) := of_eq rfl rfl rfl rfl
theorem modQuad (s : State) (q : Nat) (f : Quad → Quad) : Framing s (modQuad s q f) := of_eq rfl rfl rfl rfl
theorem modPart (s : State) (p : Nat) (f : Partition → Partition) : Framing s (modPart s p f) := of_eq rfl rfl rfl rfl

theorem of_reported (h : Reported s t) : Framing s t := of_eq h.launches h.blocks h.sheaves h.strands

theorem modStrand (s : State) (k : Nat) {f : Strand → Strand} (hf : ∀ x, (f x).cond = .done → x.cond = .done) :
    Framing s (modStrand s k f) where
  launches := rfl
  place _ := rfl
  width _ := rfl
  sheaf_isSome _ := rfl
  done j h := by
    rw [strandAt_modStrand] at h
    split at h
    · next e => rw [e.1]; exact hf _ h
    · exact h

theorem modSheaf (s : State) (f : Nat) {g : Sheaf → Sheaf} (hg : ∀ x, (g x).log2w = x.log2w) : Framing s (modSheaf s f g) where
  launches := rfl
  place _ := rfl
  width x := by
    rw [sheafAt_modSheaf]
    split
    · next e => rw [e.1]; exact hg _
    · rfl
  sheaf_isSome x := isSome_tmod _ _ _ _
  done _ h := h

theorem modBlock (s : State) (b : Nat) {g : Block → Block} (hg : ∀ x, placeIn (g x) = placeIn x) : Framing s (modBlock s b g) where
  launches := rfl
  place x := by
    rw [blockAt_modBlock]
    split
    · next e => rw [e.1]; exact hg _
    · rfl
  width _ := rfl
  sheaf_isSome _ := rfl
  done _ h := h

theorem sheafSlots (h : Framing s t) (b : Nat) : (blockAt t b).sheafSlots = (blockAt s b).sheafSlots := congrArg Prod.fst (h.place b)

theorem launchOf (h : Framing s t) (b : Nat) : launchOf t (blockAt t b) = launchOf s (blockAt s b) := by
  have hpart : (blockAt t b).part = (blockAt s b).part := congrArg (·.2.1) (h.place b)
  have hlaunch : (blockAt t b).launch = (blockAt s b).launch := congrArg (·.2.2) (h.place b)
  simp only [Machine.launchOf, Block.launchKey, launchAt, h.launches, hpart, hlaunch]

theorem blockSheaves (h : Framing s t) (b : Nat) : blockSheaves t b = blockSheaves s b := by simp only [Machine.blockSheaves, h.sheafSlots]

theorem sheafStrands (h : Framing s t) (f : Nat) : sheafStrands t f = sheafStrands s f := by
  simp only [Machine.sheafStrands, Sheaf.width, h.width]

end Framing

theorem wake_not_done (s : State) (k : Nat) :
    (if (sheafAt s (sheafOf k)).regx.isSome then Cond.waiting (.regx false) else .running) ≠ .done := by
  split <;> exact fun h => nomatch h

theorem framing_wake (s : State) (k : Nat) : Framing s (wake s k) :=
  .modStrand s k fun _ h => absurd h (wake_not_done s k)

theorem framing_wakeWhere (s : State) (ks : List Nat) (p : Cond → Bool) : Framing s (wakeWhere s ks p) :=
  .foldl (fun u k => by
    split
    · exact framing_wake u k
    · exact .refl u) ks s

theorem framing_logRas (s : State) (c : RasClass) (injected : Bool) (loc : Loc) (d0 d1 : DWord) : Framing s (logRas s c injected loc d0 d1) := by
  have hcount : Framing s (countError s c loc) := by
    unfold countError
    split
    · split
      · exact .modQuad s _ _
      · exact .modQuad s _ _
      · exact .refl s
    · exact .refl s
  unfold logRas
  dsimp only
  split
  · exact (hcount.trans (.modModule _ _)).trans (.of_reported (reported_raise _ _ _ _ _ _))
  · exact hcount.trans (.modModule _ _)

theorem framing_startKill (s : State) (g : Nat) (c : Option RasClass) (injected : Bool) (loc : Loc) :
    Framing s (startKill s g c injected loc) := by
  unfold startKill killNow
  split
  · cases c with
    | none => exact .modGang s g _
    | some c => exact (Framing.modGang s g _).trans (framing_logRas _ _ _ _ _ _)
  · exact .refl s

theorem framing_strike (s : State) (b unit : Nat) : Framing s (strike s b unit).2 := by
  unfold strike
  split
  · split
    · exact .modBlock s b fun _ => rfl
    · exact .refl s
  · exact .refl s

theorem framing_drainUpTo (s : State) (c seq : Nat) : Framing s (drainUpTo s c seq) := .of_eq rfl rfl rfl rfl

theorem framing_drainOldest (s : State) (c : Nat) : Framing s (drainOldest s c) := by
  unfold drainOldest
  dsimp only
  split
  · exact .refl s
  · split
    · exact framing_drainUpTo s c _
    · exact .refl s

theorem framing_drainBlock (s : State) (b : Nat) : Framing s (drainBlock s b) := by
  unfold drainBlock
  dsimp only
  split
  · exact .refl s
  · exact framing_drainUpTo s _ _

theorem framing_startFrame (s : State) (b : Nat) : Framing s (startFrame s b) :=
  ((framing_drainBlock s b).trans (.modCore _ _ _)).trans
    (.foldl (f := fun u f => modSheaf u f fun y => { y with regx := none }) (fun u f => .modSheaf u f fun _ => rfl) _ _)

/-! ## The stores of a frame (R357) -/

theorem framing_recPut (s : State) (b pa cls hint : Nat) (bytes : List Byte) (poison : Bool) (loads : List Nat) :
    Framing s (recPut s b pa cls hint bytes poison loads) := by
  unfold recPut
  extract_lets c line off
  have hstrike := framing_strike s b 3
  split
  next hit u e =>
  rw [e] at hstrike
  extract_lets struck poison blk seq entered drained
  have hlog : Framing u struck := by
    unfold struck logStrike
    split
    · exact framing_logRas _ _ _ _ _ _
    · exact .refl u
  have hput : Framing struck entered := by
    unfold entered
    split
    · exact .modCore _ _ _
    · exact .modCore _ _ _
  have hdrain : Framing entered drained := by
    unfold drained
    split
    · split
      · exact framing_drainUpTo _ _ _
      · exact .refl _
    · exact .refl _
  have hall : Framing s drained := ((hstrike.trans hlog).trans hput).trans hdrain
  have hlast := framing_strike drained b 4
  split
  next hit v e =>
  rw [e] at hlast
  split
  · exact ((hall.trans hlast).trans (framing_startKill _ _ _ _ _)).trans (.modCore _ _ _)
  · exact hall.trans hlast

theorem framing_openFault (s : State) (l : Launch) (va : Nat) (acc : Access) (loc : Loc) : Framing s (openFault s l va acc loc) := by
  unfold openFault faultEvent
  dsimp only
  split
  · exact .refl s
  · split
    · exact .refl s
    · exact (Framing.modPart s l.part _).trans (.of_reported (reported_raise _ _ _ _ _ _))

theorem framing_logWalk (s : State) (loc : Loc) (x : Trans) : Framing s (logWalk s loc x) := by
  unfold logWalk
  split
  · exact framing_logRas _ _ _ _ _ _
  · exact .refl s

theorem framing_frameStops_getD (s : State) (b : Nat) (acc : Access) (v : Verdict) : Framing s ((frameStops s b acc v).getD s) := by
  unfold frameStops
  dsimp only
  split
  · split
    · exact (framing_logWalk s _ _).trans (framing_startKill _ _ _ _ _)
    · exact framing_startKill _ _ _ _ _
  · split
    · exact framing_startKill _ _ _ _ _
    · split
      · exact framing_startKill _ _ _ _ _
      · exact (framing_openFault s _ _ _ _).trans (.modBlock _ b fun _ => rfl)
  · split
    · exact framing_startKill _ _ _ _ _
    · split
      · exact framing_startKill _ _ _ _ _
      · exact .refl s

theorem framing_storeFrame (b : Nat) : ∀ (gs : List (Nat × Granule)) (s : State), Framing s (storeFrame b gs s)
  | [], s => .refl s
  | g :: rest, s => by
    rw [storeFrame]
    split
    · exact .refl s
    · split
      · next pa leaf _ =>
        split
        · exact framing_drainOldest s _
        · exact ((framing_recPut s b pa leaf.cls 0 g.2.1 g.2.2 []).trans
            (.modBlock (g := fun y => { y with framed := y.framed + 1 }) _ b fun _ => rfl)).trans (framing_storeFrame b rest _)
      · exact framing_frameStops_getD s b .write _

/-! ## Requests that leave the matrix engine (R336) -/

/-- What the withdrawal of requests changes: strands, sheaves, blocks and quads alone, and of them no phase and nothing that the
writing of a frame keeps. -/
structure EngineLeft (s t : State) : Prop where
  frame : t = { s with strands := t.strands, sheaves := t.sheaves, blocks := t.blocks, quads := t.quads }
  framing : Framing s t
  phase : ∀ f, (sheafAt t f).phase = (sheafAt s f).phase

namespace EngineLeft

theorem refl (s : State) : EngineLeft s s := ⟨rfl, .refl s, fun _ => rfl⟩

theorem trans {s t u : State} (h : EngineLeft s t) (k : EngineLeft t u) : EngineLeft s u :=
  ⟨by rw [k.frame, h.frame], h.framing.trans k.framing, fun f => (k.phase f).trans (h.phase f)⟩

theorem foldl {α : Type} {f : State → α → State} (hf : ∀ s a, EngineLeft s (f s a)) (l : List α) (s : State) : EngineLeft s (l.foldl f s) :=
  foldl_related EngineLeft.refl EngineLeft.trans hf l s

theorem modQuad (s : State) (q : Nat) (f : Quad → Quad) : EngineLeft s (modQuad s q f) := ⟨rfl, .modQuad s q f, fun _ => rfl⟩

theorem modBlock (s : State) (b : Nat) {g : Block → Block} (hg : ∀ x, placeIn (g x) = placeIn x) : EngineLeft s (modBlock s b g) :=
  ⟨rfl, .modBlock s b hg, fun _ => rfl⟩

theorem modSheaf (s : State) (f : Nat) {g : Sheaf → Sheaf} (hg : ∀ x, (g x).log2w = x.log2w ∧ (g x).phase = x.phase) :
    EngineLeft s (modSheaf s f g) where
  frame := rfl
  framing := .modSheaf s f fun x => (hg x).1
  phase x := by
    rw [sheafAt_modSheaf]
    split
    · next e => rw [e.1]; exact (hg _).2
    · rfl

theorem gangAt {s t : State} (h : EngineLeft s t) (g : Nat) : gangAt t g = gangAt s g := by rw [h.frame]; rfl

end EngineLeft

theorem engineLeft_wakeWhere (s : State) (ks : List Nat) (p : Cond → Bool) : EngineLeft s (wakeWhere s ks p) where
  frame := by rw [show wakeWhere s ks p = _ from strandsMoved_wakeWhere s ks p]
  framing := framing_wakeWhere s ks p
  phase f := by rw [(strandsMoved_wakeWhere s ks p).sheafAt]

theorem engineLeft_freeLatch (s : State) (q : Nat) (l : Latch) : EngineLeft s (freeLatch s q l) := by
  unfold freeLatch wakeLatch
  exact (EngineLeft.modQuad s q _).trans (engineLeft_wakeWhere _ _ _)

theorem engineLeft_dropRequests (s : State) (q : Nat) (hit : List Nat → Bool) : EngineLeft s (dropRequests s q hit).2 :=
  .trans (.foldl (f := fun t l => freeLatch t q l) (fun u l => engineLeft_freeLatch u q l) _ s)
    (.foldl (f := fun t e => dropEntry t q e) (fun u _ => .modQuad u q _) _ _)

/-- A request ends, and its waiters stand at their mma again. -/
theorem engineLeft_endRequest (s : State) (a : Arrival) : EngineLeft s (endRequest (fun z _ => z) s a) := by
  unfold endRequest
  extract_lets b t u ws v
  have ht : EngineLeft s t := .modSheaf s a.sheaf fun _ => ⟨rfl, rfl⟩
  have htile : EngineLeft t (modTile t b a.tile fun y => { y with state := .ready }) := .modBlock t b fun _ => rfl
  have hu : EngineLeft t u := htile.trans (engineLeft_wakeWhere _ _ _)
  have hv : EngineLeft u v := .foldl (fun w k => ⟨rfl, framing_wake w k, fun _ => rfl⟩) ws u
  exact ((ht.trans hu).trans hv).trans (engineLeft_wakeWhere _ _ _)

theorem engineLeft_withdrawRequests (s : State) (q : Nat) (mine : Nat → Bool) : EngineLeft s (withdrawRequests s q mine) := by
  unfold withdrawRequests
  extract_lets busy
  split
  next reqs t e =>
  have hdrop := engineLeft_dropRequests s q fun fs => fs.any mine && !fs.any busy.contains
  rw [e] at hdrop
  refine hdrop.trans (.foldl (fun u r => .foldl (fun v a => ?_) _ u) reqs t)
  dsimp only
  split
  · next row _ =>
    have hrow : EngineLeft v (modSheaf v a.sheaf fun y => { y with mxp := BitVec.ofNat 32 row }) := .modSheaf v a.sheaf fun _ => ⟨rfl, rfl⟩
    exact hrow.trans (engineLeft_endRequest _ a)
  · exact engineLeft_endRequest v a

theorem engineLeft_leaveEngine (s : State) (b : Nat) : EngineLeft s (leaveEngine s b) := by
  unfold leaveEngine
  dsimp only
  split
  · exact engineLeft_withdrawRequests s _ _
  · exact .refl s

theorem engineLeft_stopMember (s : State) (b : Nat) : EngineLeft s (stopMember s b) := by
  unfold stopMember
  extract_lets fs t
  have hstop : EngineLeft s (modBlock s b fun y => { y with stopped := true }) := .modBlock s b fun _ => rfl
  have ht : EngineLeft (modBlock s b fun y => { y with stopped := true }) t :=
    .foldl (f := fun v f => modSheaf v f fun y => { y with held := none }) (fun v f => .modSheaf v f fun _ => ⟨rfl, rfl⟩) fs _
  exact (hstop.trans ht).trans (engineLeft_withdrawRequests _ _ _)

/-! ## The stop of a member (R357) -/

theorem blocks_drainBlock (s : State) (b : Nat) : (drainBlock s b).blocks = s.blocks := by
  unfold drainBlock
  dsimp only
  split <;> rfl

theorem sheaves_drainBlock (s : State) (b : Nat) : (drainBlock s b).sheaves = s.sheaves := (unitsMoved_drainBlock s b).sheaves

/-- The beginning of a frame leaves the blocks and every sheaf's phase. -/
theorem startFrame_keeps (s : State) (b : Nat) :
    (startFrame s b).blocks = s.blocks ∧ ∀ f, (sheafAt (startFrame s b) f).phase = (sheafAt s f).phase := by
  unfold startFrame
  extract_lets fs t
  have ht : t.sheaves = s.sheaves := sheaves_drainBlock s b
  have hfold := foldl_related (R := fun s t : State => t.blocks = s.blocks ∧ ∀ f, (sheafAt t f).phase = (sheafAt s f).phase)
    (fun _ => ⟨rfl, fun _ => rfl⟩) (fun h k => ⟨k.1.trans h.1, fun f => (k.2 f).trans (h.2 f)⟩)
    (f := fun u f => modSheaf u f fun y => { y with regx := none })
    (fun u f => ⟨rfl, (EngineLeft.modSheaf u f (g := fun y => { y with regx := none }) fun _ => ⟨rfl, rfl⟩).phase⟩) fs t
  refine ⟨hfold.1.trans (blocks_drainBlock s b), fun f => (hfold.2 f).trans ?_⟩
  rw [sheafAt, ht]
  rfl

/-- A stopped member about whose stop nothing else is under way. -/
structure FrameReady (s : State) (b : Nat) : Prop where
  here : (tfind s.blocks b).isSome
  ready : stopReady (leaveEngine s b) b = true
  tiles : tilesQuiet (leaveEngine s b) b = true
  fault : (blockAt (leaveEngine s b) b).fault = none

/-- The state in which a member's frame goes on. -/
def frameFrom (s : State) (b : Nat) : State :=
  let u := leaveEngine s b
  if (blockAt u b).framed = 0 then startFrame u b else u

/-- The granules of a member's frame that are still to be stored. -/
def granulesLeft (s : State) (b : Nat) : List (Nat × Granule) :=
  (frameGranules (leaveEngine s b) b).drop (blockAt (leaveEngine s b) b).framed

theorem stopBlock_of_ready {s : State} {b : Nat} (h : FrameReady s b) :
    stopBlock s b =
      let u := storeFrame b (granulesLeft s b) (frameFrom s b)
      if (blockAt u b).framed < (frameGranules (leaveEngine s b) b).length || !stopping u (blockAt u b).gang then u
      else enterHandlers u b := by
  have hsome : (tfind s.blocks b).isNone = false := by rw [← Option.not_isSome, h.here]; rfl
  unfold stopBlock
  dsimp only
  rw [hsome, h.ready, h.tiles, h.fault]
  rfl

theorem framing_frameFrom (s : State) (b : Nat) : Framing s (frameFrom s b) := by
  unfold frameFrom
  dsimp only
  split
  · exact (engineLeft_leaveEngine s b).framing.trans (framing_startFrame _ b)
  · exact (engineLeft_leaveEngine s b).framing

/-- What is under way when a frame goes on: the blocks are those after the requests have left, and the phases those before. -/
theorem frameFrom_keeps (s : State) (b : Nat) :
    (frameFrom s b).blocks = (leaveEngine s b).blocks ∧ ∀ f, (sheafAt (frameFrom s b) f).phase = (sheafAt s f).phase := by
  have hleft := (engineLeft_leaveEngine s b).phase
  unfold frameFrom
  dsimp only
  split
  · obtain ⟨hblocks, hphase⟩ := startFrame_keeps (leaveEngine s b) b
    exact ⟨hblocks, fun f => (hphase f).trans (hleft f)⟩
  · exact ⟨rfl, hleft⟩

/-- A store that finds the record full ends the step with the oldest entry asked to drain. -/
theorem storeFrame_of_full {s : State} {b : Nat} {g : Nat × Granule} {rest : List (Nat × Granule)} {pa : Nat} {leaf : Leaf}
    (hheld : walkHeld s (b / 1024) (.strands (b / 4)) (launchOf s (blockAt s b)) g.1 = false)
    (htr : translateFrame s (.strands (b / 4)) (launchOf s (blockAt s b)) g.1 .write = .ok pa leaf) (hfull : recordFull s b (pa / 64) = true) :
    storeFrame b (g :: rest) s = drainOldest s (b / 4) := by
  rw [storeFrame, hheld, htr]
  dsimp only
  rw [hfull]
  rfl

/-- A store of a frame waits while the record is full. -/
theorem stopBlock_waits {s : State} {b : Nat} (h : FrameReady s b) {g : Nat × Granule} {rest : List (Nat × Granule)} {pa : Nat} {leaf : Leaf}
    (hg : granulesLeft s b = g :: rest)
    (hheld : walkHeld (frameFrom s b) (b / 1024) (.strands (b / 4)) (launchOf (frameFrom s b) (blockAt (frameFrom s b) b)) g.1 = false)
    (htr : translateFrame (frameFrom s b) (.strands (b / 4)) (launchOf (frameFrom s b) (blockAt (frameFrom s b) b)) g.1 .write = .ok pa leaf)
    (hfull : recordFull (frameFrom s b) b (pa / 64) = true) : stopBlock s b = drainOldest (frameFrom s b) (b / 4) := by
  have hblock : blockAt (drainOldest (frameFrom s b) (b / 4)) b = blockAt (leaveEngine s b) b := by
    simp only [blockAt, (recordsSettled_drainOldest _ _).blocks, (frameFrom_keeps s b).1]
  have hlt : (blockAt (leaveEngine s b) b).framed < (frameGranules (leaveEngine s b) b).length := by
    by_contra hge
    rw [granulesLeft, List.drop_eq_nil_of_le (by omega)] at hg
    exact nomatch hg
  rw [stopBlock_of_ready h, hg, storeFrame_of_full hheld htr hfull]
  dsimp only
  rw [hblock, decide_eq_true hlt]
  rfl

/-! ## The handlers (R361) -/

/-- The first instruction of a launch's handler. -/
def handlerPc (l : Launch) : DWord := l.record.codeBase + l.record.handler.setWidth 64

/-- The strands of a sheaf that are not Done. -/
def liveStrands (s : State) (f : Nat) : List Nat := (sheafStrands s f).filter fun k => (strandAt s k).cond != .done

theorem mem_liveStrands {s : State} {f k : Nat} : k ∈ liveStrands s f ↔ k ∈ sheafStrands s f ∧ (strandAt s k).cond ≠ .done := by
  simp [liveStrands]

/-- The sheaf of an entered handler, before its strands enter. -/
def handlerSheaf (s : State) (l : Launch) (index f : Nat) : State :=
  modSheaf s f fun y => { enterUniform l index (sheafAt s f).idx y with phase := .handler }

theorem enterHandler_of_live {s : State} {f : Nat} (h : liveStrands s f ≠ []) (l : Launch) (index : Nat) :
    enterHandler s l index f = (liveStrands s f).foldl (fun u k =>
      modStrand u k (enterSave l index (sheafAt s f).idx (sheafAt s f).alloc (handlerPc l))) (handlerSheaf s l index f) :=
  if_neg (by rw [List.isEmpty_iff]; exact h)

theorem enterHandler_of_done {s : State} {f : Nat} (h : liveStrands s f = []) (l : Launch) (index : Nat) : enterHandler s l index f = s :=
  if_pos (List.isEmpty_iff.2 h)

theorem strandAt_enterHandler (s : State) (l : Launch) (index f k : Nat) :
    strandAt (enterHandler s l index f) k =
      if k ∈ liveStrands s f then enterSave l index (sheafAt s f).idx (sheafAt s f).alloc (handlerPc l) (strandAt s k) else strandAt s k := by
  by_cases h : liveStrands s f = []
  · rw [enterHandler_of_done h, h]
    rfl
  · rw [enterHandler_of_live h]
    exact strandAt_foldl_modStrand (ks := liveStrands s f) (s := handlerSheaf s l index f)
      (fun _ => enterSave l index (sheafAt s f).idx (sheafAt s f).alloc (handlerPc l))
      ((sheafStrands_nodup s f).filter _) (fun j hj => isSome_of_cond rfl (mem_liveStrands.1 hj).2) k

theorem sheaves_enterHandler {s : State} {f : Nat} (h : liveStrands s f ≠ []) (l : Launch) (index : Nat) :
    (enterHandler s l index f).sheaves = (handlerSheaf s l index f).sheaves := by
  rw [enterHandler_of_live h, foldl_modStrand_rest fun _ => enterSave l index (sheafAt s f).idx (sheafAt s f).alloc (handlerPc l)]

theorem framing_enterHandler (s : State) (l : Launch) (index f : Nat) : Framing s (enterHandler s l index f) := by
  by_cases h : liveStrands s f = []
  · rw [enterHandler_of_done h]
    exact .refl s
  · have hsheaf : Framing s (handlerSheaf s l index f) := .modSheaf s f fun _ => rfl
    rw [enterHandler_of_live h]
    exact hsheaf.trans (.foldl (fun u k => .modStrand u k fun _ (e : Cond.running = .done) => nomatch e) _ _)

/-- A sheaf is in its handler: each of its strands that is not Done stands at its first instruction. -/
structure InHandler (pc : DWord) (s : State) (f : Nat) : Prop where
  phase : (sheafAt s f).phase = .handler
  strands : ∀ k ∈ sheafStrands s f, (strandAt s k).cond = .done ∨ (strandAt s k).cond = .running ∧ (strandAt s k).pc = pc

theorem inHandler_enterHandler {s : State} {l : Launch} {f : Nat} (index : Nat) (hs : (tfind s.sheaves f).isSome)
    (hlive : liveStrands s f ≠ []) : InHandler (handlerPc l) (enterHandler s l index f) f where
  phase := by
    rw [sheafAt, sheaves_enterHandler hlive]
    change (sheafAt (handlerSheaf s l index f) f).phase = _
    rw [handlerSheaf, sheafAt_modSheaf, if_pos ⟨rfl, hs⟩]
  strands k hk := by
    rw [(framing_enterHandler s l index f).sheafStrands] at hk
    rw [strandAt_enterHandler]
    split
    · exact .inr ⟨rfl, rfl⟩
    · next hn => exact .inl (by_contra fun hd => hn (mem_liveStrands.2 ⟨hk, hd⟩))

theorem InHandler.enterHandler {s : State} {l : Launch} {f : Nat} (h : InHandler (handlerPc l) s f) (index g : Nat) :
    InHandler (handlerPc l) (enterHandler s l index g) f where
  phase := by
    by_cases hg : liveStrands s g = []
    · rw [enterHandler_of_done hg]
      exact h.phase
    · rw [sheafAt, sheaves_enterHandler hg]
      change (sheafAt (handlerSheaf s l index g) f).phase = _
      rw [handlerSheaf, sheafAt_modSheaf]
      split
      · rfl
      · exact h.phase
  strands k hk := by
    rw [(framing_enterHandler s l index g).sheafStrands] at hk
    rw [strandAt_enterHandler]
    split
    · exact .inr ⟨rfl, rfl⟩
    · exact h.strands k hk

/-- Some sheaves enter their handlers, one after another. -/
def enterAll (l : Launch) (index : Nat) (fs : List Nat) (s : State) : State := fs.foldl (fun u f => enterHandler u l index f) s

theorem framing_enterAll (l : Launch) (index : Nat) (fs : List Nat) (s : State) : Framing s (enterAll l index fs s) :=
  .foldl (fun u f => framing_enterHandler u l index f) fs s

theorem InHandler.enterAll {l : Launch} {f : Nat} (index : Nat) : ∀ (fs : List Nat) {s : State}, InHandler (handlerPc l) s f →
    InHandler (handlerPc l) (enterAll l index fs s) f
  | [], _, h => h
  | g :: fs, _, h => InHandler.enterAll index fs (h.enterHandler index g)

theorem liveStrands_of_strand {s : State} {f k : Nat} (hk : k ∈ sheafStrands s f) (hd : (strandAt s k).cond ≠ .done) : liveStrands s f ≠ [] :=
  List.ne_nil_of_mem (mem_liveStrands.2 ⟨hk, hd⟩)

theorem inHandler_enterAll {l : Launch} {f k : Nat} (index : Nat) {fs : List Nat} {s : State} (hf : f ∈ fs) (hs : (tfind s.sheaves f).isSome)
    (hk : k ∈ sheafStrands s f) (hd : (strandAt s k).cond ≠ .done) : InHandler (handlerPc l) (enterAll l index fs s) f := by
  induction fs generalizing s with
  | nil => exact nomatch hf
  | cons g fs ih =>
    have hg := framing_enterHandler s l index g
    rcases List.mem_cons.1 hf with rfl | hmem
    · exact (inHandler_enterHandler index hs (liveStrands_of_strand hk hd)).enterAll index fs
    · exact ih hmem (by rw [hg.sheaf_isSome]; exact hs) (by rw [hg.sheafStrands]; exact hk) (fun e => hd (hg.done k e))

/-- The state of a member whose frame is written, before its sheaves enter their handlers. -/
def frameWritten (s : State) (b : Nat) : State :=
  modBlock (modGang s (blockAt s b).gang fun g => { g with shapes := g.shapes ++ [shapeOf s b] }) b
    fun y => { y with stopped := false, shared := y.shared.map fun m => { m with queue := [] } }

theorem enterHandlers_eq (s : State) (b : Nat) :
    enterHandlers s b = enterAll (launchOf s (blockAt s b)) (blockAt s b).index (blockSheaves s b) (frameWritten s b) := rfl

theorem framing_frameWritten (s : State) (b : Nat) : Framing s (frameWritten s b) :=
  (Framing.modGang s _ _).trans (.modBlock (g := fun y => { y with stopped := false, shared := y.shared.map fun m => { m with queue := [] } })
    _ b fun _ => rfl)

/-- A member whose frame is written runs its handler: each of its sheaves' strands that was not Done. -/
theorem enterHandlers_spec {s v : State} (h : Framing s v) {b f k : Nat} (hf : f ∈ blockSheaves s b) (hs : (tfind s.sheaves f).isSome)
    (hk : k ∈ sheafStrands s f) (hd : (strandAt s k).cond ≠ .done) :
    (sheafAt (enterHandlers v b) f).phase = .handler ∧ (strandAt (enterHandlers v b) k).cond = .running ∧
    (strandAt (enterHandlers v b) k).pc = handlerPc (launchOf s (blockAt s b)) := by
  have hw := h.trans (framing_frameWritten v b)
  have hall := hw.trans (framing_enterAll (launchOf v (blockAt v b)) (blockAt v b).index (blockSheaves v b) _)
  rw [← enterHandlers_eq] at hall
  have hin : InHandler (handlerPc (launchOf v (blockAt v b))) (enterHandlers v b) f := by
    rw [enterHandlers_eq]
    exact inHandler_enterAll _ (by rw [h.blockSheaves]; exact hf) (by rw [hw.sheaf_isSome]; exact hs)
      (by rw [hw.sheafStrands]; exact hk) (fun e => hd (hw.done k e))
  rw [h.launchOf] at hin
  have hrun := (hin.strands k (by rw [hall.sheafStrands]; exact hk)).resolve_left fun e => hd (hall.done k e)
  exact ⟨hin.phase, hrun⟩

/-! ## Gangs of a launch (R91) -/

theorem isSome_of_mem_launchGangs {s : State} {key g : Nat} (h : g ∈ launchGangs s key) : (tfind s.gangs g).isSome := by
  obtain ⟨p, hp, rfl⟩ := List.mem_map.1 h
  exact isSome_tfind_of_mem (List.mem_filter.1 hp).1

/-- The gangs that a suspend finds placed are stopped: launches, partitions and the tick are left, and no gang is new or gone. -/
structure GangsStopped (s t : State) : Prop where
  launches : t.launches = s.launches
  parts : t.parts = s.parts
  now : t.now = s.now
  isSome : ∀ g, (tfind t.gangs g).isSome = (tfind s.gangs g).isSome

theorem stopMembers_left (bs : List Nat) (s : State) : EngineLeft s (bs.foldl stopMember s) := .foldl engineLeft_stopMember bs s

theorem gangsStopped_stopGang (s : State) (g : Nat) : GangsStopped s (stopGang s g) := by
  unfold stopGang
  split
  · have h := (stopMembers_left (gangBlocks s g) (modGang s g fun x => { x with state := .stopping s.now })).frame
    exact ⟨by rw [h]; rfl, by rw [h]; rfl, by rw [h]; rfl, fun x => by rw [h]; exact isSome_tmod _ _ _ _⟩
  · exact ⟨rfl, rfl, rfl, fun _ => rfl⟩

theorem state_stopGang (s : State) (g x : Nat) : (gangAt (stopGang s g) x).state =
    if x = g ∧ (tfind s.gangs g).isSome ∧ (gangAt s g).state = .placed then .stopping s.now else (gangAt s x).state := by
  unfold stopGang
  split
  · next hp =>
    rw [(stopMembers_left _ _).gangAt, gangAt_modGang]
    simp only [hp, and_true]
    split <;> rfl
  · next hn => rw [if_neg fun h => hn h.2.2]

theorem gangsStopped_foldl (gs : List Nat) (s : State) : GangsStopped s (gs.foldl stopGang s) :=
  foldl_related (R := GangsStopped) (fun _ => ⟨rfl, rfl, rfl, fun _ => rfl⟩)
    (fun h k => ⟨k.launches.trans h.launches, k.parts.trans h.parts, k.now.trans h.now, fun g => (k.isSome g).trans (h.isSome g)⟩)
    gangsStopped_stopGang gs s

theorem stopping_stopGangs {g : Nat} : ∀ (gs : List Nat) {s : State} {n : Nat}, (gangAt s g).state = .stopping n →
    (gangAt (gs.foldl stopGang s) g).state = .stopping n
  | [], _, _, h => h
  | x :: gs, s, n, h => stopping_stopGangs gs (by
      rw [state_stopGang, if_neg]
      · exact h
      · rintro ⟨rfl, -, e⟩
        exact nomatch h.symm.trans e)

theorem state_stopGangs {g : Nat} {gs : List Nat} {s : State} (hg : g ∈ gs) (hs : (tfind s.gangs g).isSome)
    (hp : (gangAt s g).state = .placed) : (gangAt (gs.foldl stopGang s) g).state = .stopping s.now := by
  induction gs generalizing s with
  | nil => exact nomatch hg
  | cons x gs ih =>
    have hx := gangsStopped_stopGang s x
    by_cases e : g = x
    · subst e
      exact stopping_stopGangs gs (by rw [state_stopGang, if_pos ⟨rfl, hs, hp⟩])
    · have hmem : g ∈ gs := by simpa [e] using hg
      rw [← hx.now]
      exact ih hmem (by rw [hx.isSome]; exact hs) (by rw [state_stopGang, if_neg fun c => e c.1]; exact hp)

/-! ## A resume (R91) -/

/-- A saved gang is to be placed again. -/
def resumeGang (key : Nat) (u : State) (g : Nat) : State :=
  modLaunch (modGang u g fun x => { x with state := .pending, passes := 0 }) key fun l => { l with resumed := insertGang u g l.resumed }

/-- The gangs of a launch that are saved. -/
def savedOf (s : State) (key : Nat) : List Nat := (launchGangs s key).filter fun g => (gangAt s g).state == .saved

theorem resumeLaunch_eq (s : State) (key : Nat) : resumeLaunch s key =
    modLaunch ((savedOf s key).foldl (resumeGang key) s) key fun l => { l with suspended := false, resuming := false } := rfl

theorem resumeGangs_frame (key : Nat) (gs : List Nat) (s : State) : gs.foldl (resumeGang key) s =
    { s with gangs := (gs.foldl (resumeGang key) s).gangs, launches := (gs.foldl (resumeGang key) s).launches } :=
  foldl_related (R := fun s t : State => t = { s with gangs := t.gangs, launches := t.launches }) (fun _ => rfl)
    (fun h k => by rw [k, h]) (fun _ _ => rfl) gs s

theorem unanswered_resumeLaunch (s : State) (key : Nat) : Unanswered s (resumeLaunch s key) := by
  have h := resumeGangs_frame key (savedOf s key) s
  rw [resumeLaunch_eq, h]
  exact unanswered_of_eq rfl rfl rfl rfl

theorem suspended_resumeLaunch {s : State} {key : Nat} (hs : (tfind s.launches key).isSome) :
    (launchAt (resumeLaunch s key) key).suspended = false := by
  have hsome := foldl_related (R := fun s t : State => (tfind t.launches key).isSome = (tfind s.launches key).isSome) (fun _ => rfl)
    (fun h k => k.trans h) (fun u g => isSome_tmod _ _ _ _) (savedOf s key) s (f := resumeGang key)
  rw [resumeLaunch_eq, launchAt_modLaunch, if_pos ⟨rfl, hsome.trans hs⟩]

theorem gangAt_resumeGang (key : Nat) (s : State) (g x : Nat) : gangAt (resumeGang key s g) x =
    if x = g ∧ (tfind s.gangs g).isSome then { gangAt s g with state := .pending, passes := 0 } else gangAt s x :=
  gangAt_modGang s g (fun x => { x with state := .pending, passes := 0 }) x

theorem pending_resumeGangs (key : Nat) {g : Nat} (gs : List Nat) {s : State} (h : (gangAt s g).state = .pending) :
    (gangAt (gs.foldl (resumeGang key) s) g).state = .pending := by
  induction gs generalizing s with
  | nil => exact h
  | cons x gs ih =>
    refine ih ?_
    rw [gangAt_resumeGang]
    split
    · rfl
    · exact h

theorem state_resumeGangs (key : Nat) {g : Nat} {gs : List Nat} {s : State} (hg : g ∈ gs) (hs : (tfind s.gangs g).isSome) :
    (gangAt (gs.foldl (resumeGang key) s) g).state = .pending := by
  induction gs generalizing s with
  | nil => exact nomatch hg
  | cons x gs ih =>
    rcases List.mem_cons.1 hg with rfl | hmem
    · exact pending_resumeGangs key gs (by rw [gangAt_resumeGang, if_pos ⟨rfl, hs⟩])
    · exact ih hmem ((isSome_tmod _ _ _ _).trans hs)

theorem state_resumeLaunch {s : State} {key g : Nat} (hg : g ∈ launchGangs s key) (hsaved : (gangAt s g).state = .saved) :
    (gangAt (resumeLaunch s key) g).state = .pending :=
  state_resumeGangs key (List.mem_filter.2 ⟨hg, by rw [hsaved]; rfl⟩) (isSome_of_mem_launchGangs hg)

/-! ## Tables whose keys are dropped -/

theorem tfind_filter_keys {α : Type} (p : Nat → Bool) (t : List (Nat × α)) (k : Nat) :
    tfind (t.filter fun x => p x.1) k = if p k then tfind t k else none := by
  induction t with
  | nil => simp [tfind]
  | cons x t ih =>
    obtain ⟨j, v⟩ := x
    by_cases hj : p j = true
    · rw [List.filter_cons_of_pos (by exact hj), tfind, tfind, ih]
      split
      · next e => rw [← e, if_pos hj]
      · rfl
    · rw [List.filter_cons_of_neg (by exact hj), tfind, ih]
      by_cases e : j = k
      · rw [← e, if_neg hj, if_neg hj]
      · rw [if_neg e]

theorem keysRise_of_pairwise {α : Type} : ∀ {t : List (Nat × α)}, (tkeys t).Pairwise (· < ·) → keysRise t = true
  | [], _ => rfl
  | [_], _ => rfl
  | (j, _) :: (k, v) :: rest, h => by
    obtain ⟨hj, h⟩ := List.pairwise_cons.1 h
    rw [keysRise, keysRise_of_pairwise h, decide_eq_true (hj k List.mem_cons_self)]
    rfl

theorem gangBlocks_nodup {s : State} (h : (tkeys s.blocks).Pairwise (· < ·)) (g : Nat) : (gangBlocks s g).Nodup := by
  have hsub : (gangBlocks s g).Sublist (tkeys s.blocks) := (List.filter_sublist).map _
  exact (h.sublist hsub).imp fun e => Nat.ne_of_lt e

/-! ## Slots on their way back (R104, R105) -/

theorem slotsReturn_refl (x : Tract) : SlotsReturn x x 0 := ⟨by simp, fun h => h⟩

theorem slotsReturn_trans {x y z : Tract} {m n : Nat} (h : SlotsReturn x y m) (k : SlotsReturn y z n) : SlotsReturn x z (m + n) := by
  obtain ⟨hslots, hdepth⟩ := h
  obtain ⟨kslots, kdepth⟩ := k
  exact ⟨by rw [kslots, hslots]; push_cast; ring, fun hx => kdepth (hdepth hx)⟩

theorem slots_giveCredit (x : Tract) : (giveCredit x).slots = x.slots := by
  simp only [giveCredit, Tract.slots]
  omega

theorem slotsReturn_addReturn (now : Nat) (x : Tract) : SlotsReturn x (addReturn now x) 1 := by
  have hstep (y : Tract) : Tract.slots { y with returns := y.returns + 1, returnsSince := if y.returns = 0 then now else y.returnsSince } = y.slots + 1 := by
    simp only [Tract.slots]
    omega
  unfold addReturn
  extract_lets y
  refine ⟨(hstep y).trans ?_, fun _ => ?_⟩
  · unfold y
    split
    · rw [slots_giveCredit]; rfl
    · rfl
  · unfold y
    dsimp only
    split
    · simp [giveCredit, Config.returnDepth]
    · omega

/-! ## Blocks leave their cores (R105) -/

/-- A block has left its core; its slot is still to be returned. -/
def coreLeft (s : State) (b : Nat) : State :=
  let x := blockAt s b
  let fs := blockSheaves s b
  let t := modGang s x.gang fun g =>
    { g with ops := g.ops ++ lasting x, horizon := max g.horizon x.lct, draws := g.draws ++ x.draws.map fun d => (d.id, x.index, d.strands.length) }
  let t :=
    { t with strands := t.strands.filter (fun p => !fs.contains (sheafOf p.1)), sheaves := t.sheaves.filter (fun p => !fs.contains p.1),
             blocks := terase t.blocks b }
  modCore t (b / 4) fun k => { k with regxQueue := k.regxQueue.filter fun f => !fs.contains f }

theorem freeBlock_eq (s : State) (b : Nat) : freeBlock s b = returnSlot (coreLeft s b) (b / 4) := rfl

theorem returnSlot_frame (s : State) (c : Nat) : returnSlot s c = { s with tracts := (returnSlot s c).tracts } := by
  unfold returnSlot
  split <;> rfl

theorem blocks_freeBlock (s : State) (b : Nat) : (freeBlock s b).blocks = terase s.blocks b := by
  rw [freeBlock_eq, returnSlot_frame]
  rfl

theorem quads_freeBlock (s : State) (b : Nat) : (freeBlock s b).quads = s.quads := by
  rw [freeBlock_eq, returnSlot_frame]
  rfl

theorem isSome_gangs_freeBlock (s : State) (b g : Nat) : (tfind (freeBlock s b).gangs g).isSome = (tfind s.gangs g).isSome := by
  rw [freeBlock_eq, returnSlot_frame]
  exact isSome_tmod _ _ _ _

theorem tfind_sheaves_freeBlock (s : State) (b f : Nat) :
    tfind (freeBlock s b).sheaves f = if f ∈ blockSheaves s b then none else tfind s.sheaves f := by
  rw [freeBlock_eq, returnSlot_frame]
  refine (tfind_filter_keys (fun f => !(blockSheaves s b).contains f) s.sheaves f).trans ?_
  by_cases h : f ∈ blockSheaves s b <;> simp [h]

theorem tfind_strands_freeBlock (s : State) (b k : Nat) :
    tfind (freeBlock s b).strands k = if sheafOf k ∈ blockSheaves s b then none else tfind s.strands k := by
  rw [freeBlock_eq, returnSlot_frame]
  refine (tfind_filter_keys (fun k => !(blockSheaves s b).contains (sheafOf k)) s.strands k).trans ?_
  by_cases h : sheafOf k ∈ blockSheaves s b <;> simp [h]

/-- A block's slot is on its way back to its tract, but for a retired quad's. -/
theorem slotsReturn_freeBlock (s : State) (b u : Nat) :
    SlotsReturn (tractAt s u) (tractAt (freeBlock s b) u) (if (b / 512 == u && !(quadAt s (b / 16)).retired) = true then 1 else 0) := by
  have htract : tractAt (coreLeft s b) = tractAt s := rfl
  have hquad : quadAt (coreLeft s b) (b / 4 / 4) = quadAt s (b / 16) := by
    rw [Nat.div_div_eq_div_mul]
    rfl
  rw [freeBlock_eq, returnSlot, hquad]
  by_cases hr : (quadAt s (b / 16)).retired = true
  · rw [if_pos hr, htract, hr, if_neg (by simp)]
    exact slotsReturn_refl _
  · rw [if_neg hr, tractAt_modTract, htract, Nat.div_div_eq_div_mul]
    by_cases hu : u = b / 512
    · subst hu
      rw [if_pos rfl, if_pos (by simpa using hr)]
      exact slotsReturn_addReturn _ _
    · rw [if_neg hu, if_neg (by simp [Ne.symm hu])]
      exact slotsReturn_refl _

/-! ## The members of a gang leave -/

/-- What a block that is gone leaves: no entry of it, of its sheaves or of their strands. -/
def BlockGone (fs : List Nat) (t : State) (b : Nat) : Prop :=
  tfind t.blocks b = none ∧ ∀ f ∈ fs, tfind t.sheaves f = none ∧ ∀ k, sheafOf k = f → tfind t.strands k = none

theorem blockGone_freeBlock {s : State} (hr : keysRise s.blocks = true) (b : Nat) : BlockGone (blockSheaves s b) (freeBlock s b) b := by
  refine ⟨by rw [blocks_freeBlock, tfind_terase_same hr], fun f hf => ⟨by rw [tfind_sheaves_freeBlock, if_pos hf], fun k hk => ?_⟩⟩
  rw [tfind_strands_freeBlock, if_pos (hk ▸ hf)]

theorem BlockGone.freeBlock {fs : List Nat} {s : State} {b : Nat} (h : BlockGone fs s b) (hr : keysRise s.blocks = true) (c : Nat) :
    BlockGone fs (freeBlock s c) b := by
  obtain ⟨hblock, hsheaf⟩ := h
  refine ⟨?_, fun f hf => ⟨?_, fun k hk => ?_⟩⟩
  · rw [blocks_freeBlock]
    by_cases e : b = c
    · rw [e, tfind_terase_same hr]
    · rw [tfind_terase_ne _ e, hblock]
  · rw [tfind_sheaves_freeBlock, (hsheaf f hf).1, ite_self]
  · rw [tfind_strands_freeBlock, (hsheaf f hf).2 k hk, ite_self]

theorem keysRise_freeBlock {s : State} (hr : keysRise s.blocks = true) (b : Nat) : keysRise (freeBlock s b).blocks = true := by
  rw [blocks_freeBlock]
  exact keysRise_terase hr b

theorem BlockGone.freeBlocks {fs : List Nat} {b : Nat} (bs : List Nat) {s : State} (h : BlockGone fs s b) (hr : keysRise s.blocks = true) :
    BlockGone fs (bs.foldl Machine.freeBlock s) b := by
  induction bs generalizing s with
  | nil => exact h
  | cons c bs ih => exact ih (h.freeBlock hr c) (keysRise_freeBlock hr c)

theorem blockGone_freeBlocks {bs : List Nat} {s : State} (hr : keysRise s.blocks = true) (hn : bs.Nodup) {b : Nat} (hb : b ∈ bs) :
    BlockGone (blockSheaves s b) (bs.foldl freeBlock s) b := by
  induction bs generalizing s with
  | nil => exact nomatch hb
  | cons c bs ih =>
    obtain ⟨hc, hn⟩ := List.nodup_cons.1 hn
    rcases List.mem_cons.1 hb with rfl | hmem
    · exact (blockGone_freeBlock hr b).freeBlocks bs (keysRise_freeBlock hr b)
    · have hne : b ≠ c := fun e => hc (e ▸ hmem)
      have hsheaves : blockSheaves (freeBlock s c) b = blockSheaves s b := by
        simp only [blockSheaves, blockAt, tget, blocks_freeBlock, tfind_terase_ne _ hne]
      rw [← hsheaves]
      exact ih (keysRise_freeBlock hr c) hn hmem

theorem slotsReturn_freeBlocks (bs : List Nat) (s : State) (u : Nat) :
    SlotsReturn (tractAt s u) (tractAt (bs.foldl freeBlock s) u) (bs.countP fun b => b / 512 == u && !(quadAt s (b / 16)).retired) := by
  induction bs generalizing s with
  | nil => exact slotsReturn_refl _
  | cons c bs ih =>
    have hquad : quadAt (freeBlock s c) = quadAt s := by
      funext q
      rw [quadAt, quads_freeBlock]
      rfl
    have h := slotsReturn_trans (slotsReturn_freeBlock s c u) (ih (freeBlock s c))
    rw [hquad] at h
    rw [List.countP_cons, Nat.add_comm]
    exact h

/-- The members of a gang, freed one after another, have left their cores. -/
theorem gangLeft_freeBlocks {s : State} (h : (tkeys s.blocks).Pairwise (· < ·)) (g : Nat) : GangLeft s ((gangBlocks s g).foldl freeBlock s) g :=
  ⟨fun _ hb => blockGone_freeBlocks (keysRise_of_pairwise h) (gangBlocks_nodup h g) hb, slotsReturn_freeBlocks _ s⟩

/-- That a gang has left its cores is read from the tables of blocks, sheaves, strands and tracts. -/
theorem gangLeft_congr {s t u : State} {g : Nat} (h : GangLeft s t g) (hb : u.blocks = t.blocks) (hf : u.sheaves = t.sheaves)
    (hk : u.strands = t.strands) (ht : u.tracts = t.tracts) : GangLeft s u g := by
  unfold GangLeft tractAt
  rw [hb, hf, hk, ht]
  exact h

/-! ## The clauses -/

/-- The launch of a suspend, in the state in which its gangs are stopped. -/
def suspendMarked (s : State) (h : CmdHeader) (key : Nat) : State := modLaunch (acceptedAt s h) key fun x => { x with suspended := true }

/-- The state that a suspend leaves. -/
def suspendBegun (s : State) (h : CmdHeader) (id : Word) (key : Nat) : State :=
  wait ((launchGangs s key).foldl stopGang (suspendMarked s h key)) h.endpoint (waitingOf h 3 id.toNat none)

theorem doSuspend_eq {s : State} {h : CmdHeader} {id : Word} {key : Nat} (hkey : key = 2 ^ 32 * h.endpoint + id.toNat) (hr : Received s h 8)
    (he : h.endpoint ≠ 0) (hl : (tfind s.launches key).isSome) (hn : (launchAt s key).ready = none) (ha : (launchAt s key).aborted = false)
    (hp : preemptible (launchAt s key).record = true) (hs : (launchAt s key).suspended = false) :
    doSuspend s h id 0 = suspendBegun s h id key := by
  have hacc := reported_acceptedAt s h
  have hgangs : launchGangs (modLaunch (acceptedAt s h) key fun x => { x with suspended := true }) key = launchGangs s key :=
    congrArg (fun gs => (gs.filter fun p => p.2.launchKey == key).map (·.1)) hacc.gangs
  have hfound : ¬ (tfind (acceptedAt s h).launches key).isNone = true := by
    rw [hacc.launches, ← Option.not_isSome, hl]
    simp
  have hopen : ¬ ((launchAt (acceptedAt s h) key).ready.isSome || (launchAt (acceptedAt s h) key).aborted ||
      !preemptible (launchAt (acceptedAt s h) key).record || (launchAt (acceptedAt s h) key).suspended) = true := by
    rw [hacc.launchAt, hn, ha, hp, hs]
    simp
  unfold doSuspend
  subst hkey
  refine (acceptQuiet_of_received hr rfl (by simp [Where.takes, he])).trans ((if_neg hfound).trans ((if_neg hopen).trans ?_))
  dsimp only
  rw [hgangs]
  rfl

theorem suspendBegun_spec {s : State} {h : CmdHeader} {key : Nat} (id : Word) (hr : Received s h 8) (he : h.endpoint ≠ 0)
    (hl : (tfind s.launches key).isSome) :
    (launchAt (suspendBegun s h id key) key).suspended = true ∧
    (partAt (suspendBegun s h id key) h.endpoint).waiting = (partAt s h.endpoint).waiting ++ [waitingOf h 3 id.toNat none] ∧
    ∀ g ∈ launchGangs s key, (gangAt s g).state = .placed → (gangAt (suspendBegun s h id key) g).state = .stopping s.now := by
  have hacc := reported_acceptedAt s h
  have hstop := gangsStopped_foldl (launchGangs s key) (suspendMarked s h key)
  refine ⟨?_, ?_, fun g hg hp => ?_⟩
  · change (launchAt ((launchGangs s key).foldl stopGang (suspendMarked s h key)) key).suspended = true
    rw [launchAt, hstop.launches]
    change (launchAt (suspendMarked s h key) key).suspended = true
    rw [suspendMarked, launchAt_modLaunch, if_pos ⟨rfl, by rw [hacc.launches]; exact hl⟩]
  · have hpart : partAt ((launchGangs s key).foldl stopGang (suspendMarked s h key)) h.endpoint = partAt (acceptedAt s h) h.endpoint :=
      congrArg (fun ps => tget ps h.endpoint Partition.blank) hstop.parts
    have hsome : (tfind ((launchGangs s key).foldl stopGang (suspendMarked s h key)).parts h.endpoint).isSome := by
      rw [hstop.parts]
      exact (hacc.part_isSome _).trans (received_isSome hr.1 he)
    rw [suspendBegun, partAt_wait hsome, hpart]
    exact congrArg (· ++ _) (waiting_acceptedAt s h h.endpoint)
  · have hstate := state_stopGangs (s := suspendMarked s h key) hg (by
      change (tfind (acceptedAt s h).gangs g).isSome
      rw [hacc.gangs]
      exact isSome_of_mem_launchGangs hg) ((congrArg Gang.state (hacc.gangAt g)).trans hp)
    exact hstate.trans (congrArg GangState.stopping hacc.now)

theorem suspendDone_one {s : State} {p id : Nat} {w : Waiting} (hw : (partAt s p).waiting = [w]) (hop : w.opcode = 3) (ht : w.target = id)
    (hresume : w.resume = false) (hready : w.ready = none) (hreach : hostReach s = true)
    (hset : gangsSettled s (2 ^ 32 * p + id) = true) :
    (suspendDone s p id).sent = s.sent ++ [responseOf w.h 3 .ok (BitVec.ofNat 64 (savedGangs s (2 ^ 32 * p + id))) []] ∧
    (partAt (suspendDone s p id) p).waiting = [] := by
  have hsome : (tfind s.parts p).isSome := by
    rw [Option.isSome_iff_ne_none]
    intro e
    rw [partAt, tget, e] at hw
    exact nomatch hw
  let n := savedGangs s (2 ^ 32 * p + id)
  let y : Waiting := { w with ready := some (responseOf w.h w.opcode .ok (BitVec.ofNat 64 n) []) }
  have hpart : (partAt (settleWaiting s p w n) p).waiting = [y] := by
    rw [settleWaiting, partAt_modPart, if_pos ⟨rfl, hsome⟩]
    dsimp only
    rw [hw, List.map_singleton, if_pos rfl]
  have hdone : suspendDone s p id = sendStream (settleWaiting s p w n) p := by
    have hfind : [w].find? (fun w => w.opcode == 3 && w.target == id && !w.resume && w.ready.isNone) = some w := by
      simp [hop, ht, hresume, hready]
    have hnone : [y].find? (fun y => y.opcode == 3 && y.target == id && y.resume && y.ready.isNone) = none := by
      simp [y]
    unfold suspendDone
    dsimp only
    rw [hw, hfind]
    dsimp only
    rw [hset, hpart, hnone]
    rfl
  have hsend := sendStream_one ((hostReach_congr rfl rfl : hostReach (settleWaiting s p w n) = hostReach s).trans hreach) hpart rfl
  rw [hdone, hsend]
  refine ⟨?_, ?_⟩
  · rw [modPart_sent, emit_sent, hop]
    rfl
  · rw [partAt_modPart, if_pos]
    refine ⟨rfl, ?_⟩
    rw [(reported_emit _ _).part_isSome]
    exact (isSome_tmod _ _ _ _).trans hsome

theorem doResume_eq {s : State} {h : CmdHeader} {id : Word} {key : Nat} (hkey : key = 2 ^ 32 * h.endpoint + id.toNat) (hr : Received s h 8)
    (he : h.endpoint ≠ 0) (hl : (tfind s.launches key).isSome) (hn : (launchAt s key).ready = none) (hs : (launchAt s key).suspended = true)
    (hres : (launchAt s key).resuming = false) (hsus : suspending s h.endpoint id.toNat = false) :
    doResume s h id 0 = answer (resumeLaunch (acceptedAt s h) key) h 3 .ok (BitVec.ofNat 64 (savedGangs s key)) [] := by
  have hacc := reported_acceptedAt s h
  have hgang : gangAt (acceptedAt s h) = gangAt s := funext hacc.gangAt
  have hsaved : savedGangs (acceptedAt s h) key = savedGangs s key := by
    simp only [savedGangs, launchGangs, hacc.gangs, hgang]
  have hfound : ¬ (tfind (acceptedAt s h).launches key).isNone = true := by
    rw [hacc.launches, ← Option.not_isSome, hl]
    simp
  have hopen : ¬ ((launchAt (acceptedAt s h) key).ready.isSome || !(launchAt (acceptedAt s h) key).suspended ||
      (launchAt (acceptedAt s h) key).resuming) = true := by
    rw [hacc.launchAt, hn, hs, hres]
    simp
  have hfree : ¬ suspending (acceptedAt s h) h.endpoint id.toNat = true := by
    rw [suspending, waiting_acceptedAt]
    rw [suspending] at hsus
    rw [hsus]
    simp
  unfold doResume
  subst hkey
  refine (acceptQuiet_of_received hr rfl (by simp [Where.takes, he])).trans
    ((if_neg hfound).trans ((if_neg hopen).trans ((if_neg hfree).trans ?_)))
  rw [hsaved]

theorem resume_spec {s : State} {h : CmdHeader} {key : Nat} (hr : Received s h 8) (hl : (tfind s.launches key).isSome) (r : DWord) :
    Answered s (answer (resumeLaunch (acceptedAt s h) key) h 3 .ok r []) h 3 .ok r [] ∧
    (launchAt (answer (resumeLaunch (acceptedAt s h) key) h 3 .ok r []) key).suspended = false ∧
    ∀ g ∈ launchGangs s key, (gangAt s g).state = .saved →
      (gangAt (answer (resumeLaunch (acceptedAt s h) key) h 3 .ok r []) g).state = .pending := by
  have hacc := reported_acceptedAt s h
  have hans := reported_answer (resumeLaunch (acceptedAt s h) key) h 3 .ok r []
  refine ⟨answered_answer hr ((unanswered_acceptedAt s h).trans (unanswered_resumeLaunch _ key)) 3 .ok r [], ?_, fun g hg hs => ?_⟩
  · rw [hans.launchAt]
    exact suspended_resumeLaunch (by rw [hacc.launches]; exact hl)
  · rw [hans.gangAt]
    exact state_resumeLaunch (by rw [launchGangs, hacc.gangs]; exact hg) (by rw [hacc.gangAt]; exact hs)

theorem stopBlock_enters {s : State} {b : Nat} (h : FrameReady s b)
    (hlen : (frameGranules (leaveEngine s b) b).length ≤ (blockAt (storeFrame b (granulesLeft s b) (frameFrom s b)) b).framed)
    (hstop : stopping (storeFrame b (granulesLeft s b) (frameFrom s b))
      (blockAt (storeFrame b (granulesLeft s b) (frameFrom s b)) b).gang = true) :
    stopBlock s b = enterHandlers (storeFrame b (granulesLeft s b) (frameFrom s b)) b := by
  rw [stopBlock_of_ready h]
  dsimp only
  rw [hstop, decide_eq_false (by omega)]
  rfl

theorem isSome_gangs_of_stopping {s : State} {g tp : Nat} (h : (gangAt s g).state = .stopping tp) : (tfind s.gangs g).isSome := by
  rw [Option.isSome_iff_ne_none]
  intro e
  rw [gangAt, tget, e] at h
  exact nomatch h

theorem missDeadline_spec {s : State} {g tp : Nat} (h : (gangAt s g).state = .stopping tp) (ht : tp + 100000 ≤ s.now)
    (hend : gangEnded s g = false) (hb : gangBlocks s g ≠ []) :
    (gangAt (missDeadline s g) g).state = .killing s.now ∧ (gangAt (missDeadline s g) g).cause = some .deadline := by
  have hdue : (decide (tp + Config.preemptTicks ≤ s.now) && !gangEnded s g && !(gangBlocks s g).isEmpty) = true := by
    rw [show Config.preemptTicks = 100000 from rfl, decide_eq_true ht, hend, List.isEmpty_eq_false_iff.2 hb]
    rfl
  have hmiss : missDeadline s g = startKill s g (some .deadline) false (locTract (gangAt s g).tract) := by
    unfold missDeadline
    rw [h]
    exact if_pos hdue
  rw [hmiss, gangAt_startKill rfl, if_pos ⟨rfl, isSome_gangs_of_stopping h, by rw [h]; rfl⟩]
  exact ⟨rfl, rfl⟩

theorem completePreemption_spec {s : State} {g tp : Nat} (h : (gangAt s g).state = .stopping tp) (hb : gangBlocks s g ≠ [])
    (hend : gangEnded s g = true) (hq : gangQuiet s g = true) :
    (gangAt (completePreemption s g) g).state = .saved ∧
    ((tkeys s.blocks).Pairwise (· < ·) → GangLeft s (completePreemption s g) g) := by
  have hdue : ((gangBlocks s g).isEmpty || !gangEnded s g || !gangQuiet s g) = false := by
    rw [hend, hq, List.isEmpty_eq_false_iff.2 hb]
    rfl
  have hdone : completePreemption s g = modGang ((gangBlocks s g).foldl freeBlock s) g
      fun x => { x with state := .saved, moved := [], seen := gangSeen s g } := by
    unfold completePreemption
    rw [h, hdue]
    rfl
  have hsome := foldl_related (R := fun s t : State => (tfind t.gangs g).isSome = (tfind s.gangs g).isSome) (fun _ => rfl)
    (fun h k => k.trans h) (fun u b => isSome_gangs_freeBlock u b g) (gangBlocks s g) s
  rw [hdone]
  refine ⟨?_, fun hp => gangLeft_congr (gangLeft_freeBlocks hp g) rfl rfl rfl rfl⟩
  rw [gangAt_modGang, if_pos ⟨rfl, hsome.trans (isSome_gangs_of_stopping h)⟩]

/-- Settles O54: a suspend stops gang after gang; what stores a frame keeps the blocks' places and the strands that are not Done, which
then enter their handlers; the blocks of a saved gang leave their cores one by one. -/
theorem preemption : Obligations.Preemption := by
  unfold Obligations.Preemption
  refine ⟨fun h id s hr he hl hn ha hp hs => ?_, fun s w hw hop ht hres hready hreach hset => ?_,
    fun h id s hr he hl hn hs hres hsus => ?_, fun s hsome hready htiles hfault hlen hstop => ?_,
    fun s g rest pa leaf hsome hready htiles hfault hg hheld htr hfull => ?_, fun s tp h ht hend hb => ?_, fun s tp h hb hend hq => ?_⟩
  · exact ⟨_, congrArg (fun t => Host.Outcome.next (quiet s t)) (doSuspend_eq rfl hr he hl hn ha hp hs), suspendBegun_spec id hr he hl⟩
  · exact ⟨_, rfl, suspendDone_one hw hop ht hres hready hreach hset⟩
  · exact ⟨_, congrArg (fun t => Host.Outcome.next (quiet s t)) (doResume_eq rfl hr he hl hn hs hres hsus), resume_spec hr hl _⟩
  · have henter := stopBlock_enters ⟨hsome, hready, htiles, hfault⟩ hlen hstop
    refine ⟨_, congrArg (fun t => Host.Outcome.next (quiet s t)) henter, fun f hf hs k hk hd => ?_⟩
    exact enterHandlers_spec ((framing_frameFrom s _).trans (framing_storeFrame _ _ _)) hf hs hk hd
  · have hwait := stopBlock_waits ⟨hsome, hready, htiles, hfault⟩ hg hheld htr hfull
    have hdrain := recordsSettled_drainOldest (frameFrom s (4 * s.arg 0 + s.arg 1)) ((4 * s.arg 0 + s.arg 1) / 4)
    obtain ⟨hblocks, hphase⟩ := frameFrom_keeps s (4 * s.arg 0 + s.arg 1)
    refine ⟨_, congrArg (fun t => Host.Outcome.next (quiet s t)) hwait, ?_, rfl, fun f => ?_⟩
    · rw [blockAt_quiet, blockAt, hdrain.blocks, hblocks]
      rfl
    · rw [sheafAt_quiet, sheafAt, hdrain.frame]
      exact hphase f
  · exact ⟨_, rfl, missDeadline_spec h ht hend hb⟩
  · obtain ⟨hstate, hleft⟩ := completePreemption_spec h hb hend hq
    exact ⟨_, rfl, hstate, fun hp => gangLeft_congr (hleft hp) rfl rfl rfl rfl⟩

end Sys2Proof.Proofs
end

section
/-! SUPPORT. Batches, placement, set-up, retirement and completion (R85, R103 to R105, R108, R111): what the dispatcher changes of a
tract, where the members of a gang go, and what a block's entry and its end change. -/

namespace Sys2Proof.Proofs
open Sys2Proof Sys2Proof.Machine Sys2Proof.Laws

/-! ## Batches (R103) -/

/-- What the making and the marking of gangs changes: gangs, and the numbers given out. -/
def GangsMade (s t : State) : Prop := t = { s with gangs := t.gangs, ctl := { s.ctl with nextId := t.ctl.nextId } }

theorem GangsMade.refl (s : State) : GangsMade s s := rfl

theorem GangsMade.trans {s t u : State} (h : GangsMade s t) (k : GangsMade t u) : GangsMade s u := by
  unfold GangsMade at *
  rw [k, h]

theorem gangsMade_newGangs (key size : Nat) : ∀ (n first : Nat) (s : State), GangsMade s (newGangs key size first n s).2
  | 0, _, s => .refl s
  | n + 1, first, s =>
    GangsMade.trans (show GangsMade s { (fresh s).2 with gangs := tset (fresh s).2.gangs (fresh s).1 { Gang.blank with
      part := key / 2 ^ 32, launch := key % 2 ^ 32, first := first, size := size, state := .pending } } from rfl)
      (gangsMade_newGangs key size n (first + size) _)

/-- The gangs of a batch take its tract. -/
theorem gangsMade_takeTract (t : Nat) (gs : List Nat) (s : State) :
    GangsMade s (gs.foldl (fun v g => modGang v g fun x => { x with tract := t }) s) :=
  foldl_related GangsMade.refl GangsMade.trans (fun u g => show GangsMade u (modGang u g fun x => { x with tract := t }) from rfl) gs s

theorem formBatch_spec {s : State} {p key t : Nat} (hb : nextBatch s p = some (key, t)) (hserved : nextServed s = some p)
    (hd : s.module.dispatchAt ≤ s.now) :
    (formBatch s p).module.lastPart = p ∧ (formBatch s p).module.dispatchAt = s.now + 2 ∧
    (tractAt (formBatch s p) t).batchFree = (tractAt s t).batchFree - 1 ∧
    ∃ gs, (tractAt (formBatch s p) t).batches = (tractAt s t).batches ++ [{ gangs := gs }] ∧
      (tractAt (formBatch s p) t).pending = (tractAt s t).pending ++ gs := by
  have hnow : ¬ (nextServed s != some p || decide (s.now < s.module.dispatchAt)) = true := by
    rw [hserved, decide_eq_false (by omega)]
    simp
  generalize hform : formBatch s p = v
  unfold formBatch at hform
  rw [hb] at hform
  replace hform := (if_neg hnow).symm.trans hform
  extract_lets l size k old used fresh at hform
  have hnew := gangsMade_newGangs key size fresh l.nextBlock s
  split at hform
  next new u e =>
  rw [e] at hnew
  extract_lets gs u1 u2 at hform
  have htake : GangsMade s u1 := GangsMade.trans hnew (gangsMade_takeTract t gs u)
  have htract : tractAt u2 = tractAt s := by
    change tractAt u1 = tractAt s
    rw [htake]
    rfl
  have hbatch := tractAt_modTract u2 t (fun x => { x with
    credit := x.credit - (used + fresh * size), batchFree := x.batchFree - 1, batches := x.batches ++ [{ gangs := gs }], pending := x.pending ++ gs }) t
  rw [if_pos rfl, htract] at hbatch
  subst hform
  exact ⟨rfl, rfl, congrArg Tract.batchFree hbatch, gs, congrArg Tract.batches hbatch, congrArg Tract.pending hbatch⟩

theorem formBatch_of_other {s : State} {p : Nat} (h : nextServed s ≠ some p) : formBatch s p = s := by
  unfold formBatch
  split
  · rfl
  · exact if_pos (by simp [h])

/-! ## Freed entries and slot returns (R104, R105) -/

theorem reportFreed_spec {s : State} {t : Nat} (h : (tractAt s t).freedEntries ≠ 0) :
    tractAt (reportFreed s t) t =
      { giveCredit (tractAt s t) with batchFree := (tractAt s t).batchFree + (tractAt s t).freedEntries, freedEntries := 0 } := by
  rw [reportFreed, if_neg h, tractAt_modTract, if_pos rfl]

theorem sendReturns_spec {s : State} {t : Nat} (h : (tractAt s t).returns ≠ 0)
    (hdue : 16 ≤ (tractAt s t).returns ∨ (tractAt s t).returnsSince + 256 ≤ s.now) :
    tractAt (sendReturns s t) t = giveCredit (tractAt s t) := by
  have hgo : ¬ ((tractAt s t).returns = 0 || (decide ((tractAt s t).returns < Config.returnDepth) &&
      decide (s.now < (tractAt s t).returnsSince + 256))) = true := by
    rw [show Config.returnDepth = 16 from rfl]
    simp only [Bool.or_eq_true, Bool.and_eq_true, decide_eq_true_eq]
    omega
  have hsend : sendReturns s t = modTract s t giveCredit := if_neg (by simpa using hgo)
  rw [hsend, tractAt_modTract, if_pos rfl]

/-! ## Retirement (R105) -/

theorem launches_freeBlock (s : State) (b : Nat) : (freeBlock s b).launches = s.launches := by
  rw [freeBlock_eq, returnSlot_frame]
  rfl

/-- A block has left its core, its entries asked to drain, and its gang knows. -/
def retiredFrom (s : State) (b : Nat) : State :=
  modGang (freeBlock (drainBlock s b) b) (blockAt s b).gang fun g =>
    let left := g.retiredMembers ++ [(blockAt s b).grank]
    { g with retiredMembers := left, final := g.final || (blockAt s b).overflow,
             replays := (g.replays.filter fun e => e.1 != (blockAt s b).index) ++ [((blockAt s b).index, (blockAt s b).tailRecord)],
             state := if left.length = g.size then .retired else g.state }

theorem retireBlock_eq {s : State} {b : Nat} (hs : (tfind s.blocks b).isSome) (hr : (blockAt s b).ready = true) (hd : blockDone s b = true)
    (hq : ∀ c ∈ (coreAt s (b / 4)).queue, c.block ≠ b) (hw : ∀ w ∈ (coreAt s (b / 4)).writes, w.1 ≠ b) (hl : listed s b = false)
    (hp : (gangAt s (blockAt s b).gang).state = .placed)
    (hf : ∀ h ∈ (gangAt s (blockAt s b).gang).shapes, h.index ≠ (blockAt s b).index) :
    retireBlock s b = modLaunch (retiredFrom s b) (blockAt s b).launchKey fun l => { l with retiredBlocks := l.retiredBlocks + 1 } := by
  have hqueue : ((coreAt s (b / 4)).queue.any fun c => c.block == b) = false := by simpa using hq
  have hwrites : ((coreAt s (b / 4)).writes.any fun w => w.1 == b) = false := by simpa using hw
  have hframed : ((gangAt s (blockAt s b).gang).shapes.any fun h => h.index == (blockAt s b).index) = false := by simpa using hf
  have hsome : (tfind s.blocks b).isNone = false := by rw [← Option.not_isSome, hs]; rfl
  unfold retireBlock
  dsimp only
  rw [hr, hd, hqueue, hwrites, hl, hp, hframed, hsome]
  rfl

theorem blocks_retiredFrom (s : State) (b : Nat) : (retiredFrom s b).blocks = terase s.blocks b := by
  change (freeBlock (drainBlock s b) b).blocks = _
  rw [blocks_freeBlock, blocks_drainBlock]

theorem launches_retiredFrom (s : State) (b : Nat) : (retiredFrom s b).launches = s.launches := by
  change (freeBlock (drainBlock s b) b).launches = _
  rw [launches_freeBlock, (framing_drainBlock s b).launches]

/-! ## Completion (R85) -/

theorem completeLaunch_eq {s : State} {key : Nat} (hs : (tfind s.launches key).isSome) (hh : hostReach s = true)
    (hn : (launchAt s key).ready = none) (hr : launchReady s key = true) :
    completeLaunch s key = sendCompletion s key (launchStatus (launchAt s key)) s.now := by
  have hsome : (tfind s.launches key).isNone = false := by rw [← Option.not_isSome, hs]; rfl
  unfold completeLaunch
  dsimp only
  rw [hsome, hh, hn, hr]
  rfl

theorem sendCompletion_registered {s : State} {key : Nat} (status : Status) (dt : Nat)
    (h : (tfind (partAt s (launchAt s key).part).slots ((launchAt s key).record.endpoint.toNat % 16)).isSome) :
    (sendCompletion s key status dt).sent = s.sent ++ [.completion (launchAt s key).part ((launchAt s key).record.endpoint.toNat % 16)
      (launchAt s key).record.tag (launchAt s key).id status (launchAt s key).killed (launchAt s key).relaunched dt] ∧
    (sendCompletion s key status dt).launches = terase s.launches key := by
  obtain ⟨slot, hslot⟩ := Option.isSome_iff_exists.1 h
  unfold sendCompletion
  dsimp only
  rw [hslot]
  exact ⟨emit_sent _ _, congrArg (fun t => terase t key) (reported_emit _ _).launches⟩

theorem sendCompletion_held {s : State} {key : Nat} (status : Status) (dt : Nat) (hs : (tfind s.launches key).isSome)
    (h : tfind (partAt s (launchAt s key).part).slots ((launchAt s key).record.endpoint.toNat % 16) = none) :
    (launchAt (sendCompletion s key status dt) key).ready = some dt ∧ (sendCompletion s key status dt).sent = s.sent := by
  unfold sendCompletion
  dsimp only
  rw [h]
  dsimp only
  rw [launchAt_modLaunch, if_pos ⟨rfl, hs⟩]
  exact ⟨rfl, rfl⟩

/-! ## Set-up (R111, R113) -/

/-- A strand stands as at its block's entry. -/
def AtEntry (r : LaunchRecord) (s : State) (k : Nat) : Prop := ∃ lane sidx, tfind s.strands k = some (entryStrand r lane sidx)

/-- One more strand of a sheaf is at entry. -/
def setStrand (f : Nat) (r : LaunchRecord) (offset : Nat) (u : State) (i : Nat) : State :=
  { u with strands := tset u.strands (strandKey f i) (entryStrand r (offset + i) i) }

theorem setupSheaf_eq (s : State) (f : Nat) (r : LaunchRecord) : setupSheaf s f r =
    (List.range (sheafAt s f).width).foldl (setStrand f r (sheafAt s f).offset)
      (modSheaf s f fun y => { y with w := if r.params = 0 then [] else [(0, r.params)] }) := rfl

theorem AtEntry.setStrand {r : LaunchRecord} {s : State} {k : Nat} (h : AtEntry r s k) (f offset i : Nat) :
    AtEntry r (setStrand f r offset s i) k := by
  obtain ⟨lane, sidx, h⟩ := h
  by_cases e : k = strandKey f i
  · exact ⟨offset + i, i, (tfind_tset _ _ _ _).trans (if_pos e)⟩
  · exact ⟨lane, sidx, ((tfind_tset _ _ _ _).trans (if_neg e)).trans h⟩

theorem AtEntry.setStrands {r : LaunchRecord} {k : Nat} (f offset : Nat) (is : List Nat) {s : State} (h : AtEntry r s k) :
    AtEntry r (is.foldl (Proofs.setStrand f r offset) s) k := by
  induction is generalizing s with
  | nil => exact h
  | cons i is ih => exact ih (h.setStrand f offset i)

theorem atEntry_setStrands (r : LaunchRecord) (f offset : Nat) {i : Nat} {is : List Nat} (hi : i ∈ is) (s : State) :
    AtEntry r (is.foldl (setStrand f r offset) s) (strandKey f i) := by
  induction is generalizing s with
  | nil => exact nomatch hi
  | cons j is ih =>
    rcases List.mem_cons.1 hi with rfl | hi
    · have h : AtEntry r (setStrand f r offset s i) (strandKey f i) := ⟨offset + i, i, tfind_tset_same _ _ _⟩
      exact h.setStrands f offset is
    · exact ih hi _

theorem setStrands_frame (f : Nat) (r : LaunchRecord) (offset : Nat) (is : List Nat) (s : State) :
    StrandsMoved s (is.foldl (setStrand f r offset) s) :=
  foldl_related StrandsMoved.refl StrandsMoved.trans (fun u i => show StrandsMoved u (setStrand f r offset u i) from rfl) is s

/-- What the set-up of a block's sheaves changes: strands, and of the sheaves no width. -/
structure SheavesSet (s t : State) : Prop where
  frame : t = { s with strands := t.strands, sheaves := t.sheaves }
  width : ∀ f, (sheafAt t f).log2w = (sheafAt s f).log2w

namespace SheavesSet

theorem refl (s : State) : SheavesSet s s := ⟨rfl, fun _ => rfl⟩

theorem trans {s t u : State} (h : SheavesSet s t) (k : SheavesSet t u) : SheavesSet s u :=
  ⟨by rw [k.frame, h.frame], fun f => (k.width f).trans (h.width f)⟩

variable {s t : State}

theorem blockAt (h : SheavesSet s t) (b : Nat) : blockAt t b = blockAt s b := by rw [h.frame]; rfl

theorem sheafStrands (h : SheavesSet s t) (f : Nat) : sheafStrands t f = sheafStrands s f := by
  simp only [Machine.sheafStrands, Sheaf.width, h.width]

end SheavesSet

theorem sheavesSet_setupSheaf (s : State) (f : Nat) (r : LaunchRecord) : SheavesSet s (setupSheaf s f r) := by
  have hsheaf : SheavesSet s (modSheaf s f fun y => { y with w := if r.params = 0 then [] else [(0, r.params)] }) :=
    ⟨rfl, (Framing.modSheaf s f (g := fun y => { y with w := if r.params = 0 then [] else [(0, r.params)] }) fun _ => rfl).width⟩
  have hstrands := setStrands_frame f r (sheafAt s f).offset (List.range (sheafAt s f).width)
    (modSheaf s f fun y => { y with w := if r.params = 0 then [] else [(0, r.params)] })
  rw [setupSheaf_eq]
  exact hsheaf.trans ⟨by rw [show _ = _ from hstrands], fun x => by rw [hstrands.sheafAt]⟩

/-- Some sheaves are set up, one after another. -/
def setupSheaves (r : LaunchRecord) (fs : List Nat) (s : State) : State := fs.foldl (fun u f => setupSheaf u f r) s

theorem sheavesSet_setupSheaves (r : LaunchRecord) (fs : List Nat) (s : State) : SheavesSet s (setupSheaves r fs s) :=
  foldl_related SheavesSet.refl SheavesSet.trans (fun u f => sheavesSet_setupSheaf u f r) fs s

theorem AtEntry.setupSheaves {r : LaunchRecord} {k : Nat} (fs : List Nat) {s : State} (h : AtEntry r s k) :
    AtEntry r (setupSheaves r fs s) k := by
  induction fs generalizing s with
  | nil => exact h
  | cons f fs ih => exact ih (AtEntry.setStrands (s := modSheaf s f _) f _ _ h)

theorem atEntry_setupSheaves (r : LaunchRecord) {f k : Nat} {fs : List Nat} {s : State} (hf : f ∈ fs) (hk : k ∈ sheafStrands s f) :
    AtEntry r (setupSheaves r fs s) k := by
  induction fs generalizing s with
  | nil => exact nomatch hf
  | cons g fs ih =>
    rcases List.mem_cons.1 hf with rfl | hf
    · obtain ⟨i, hi, rfl⟩ := List.mem_map.1 hk
      have h : AtEntry r (setupSheaf s f r) (strandKey f i) := by
        rw [setupSheaf_eq]
        exact atEntry_setStrands r f _ hi _
      exact h.setupSheaves fs
    · exact ih hf (by rw [(sheavesSet_setupSheaf s g r).sheafStrands]; exact hk)

/-- Some strands take an item. -/
def setItems (v : DWord) (ks : List Nat) (s : State) : State := ks.foldl (fun t k => modStrand t k fun y => { y with item := v }) s

theorem strandAt_setItem (s : State) (v : DWord) (j k : Nat) : strandAt (modStrand s j fun y => { y with item := v }) k =
    if k = j ∧ (tfind s.strands j).isSome then { strandAt s j with item := v } else strandAt s k := strandAt_modStrand _ _ _ _

theorem strandAt_setItems {v : DWord} {ks : List Nat} {s : State} {k : Nat} (hk : (tfind s.strands k).isSome)
    (h : k ∈ ks ∨ (strandAt s k).item = v) : strandAt (setItems v ks s) k = { strandAt s k with item := v } := by
  induction ks generalizing s with
  | nil =>
    have hv := h.resolve_left (nomatch ·)
    rw [← hv]
    rfl
  | cons j ks ih =>
    have hone : strandAt (modStrand s j fun y => { y with item := v }) k = if k = j then { strandAt s k with item := v } else strandAt s k := by
      rw [strandAt_setItem]
      by_cases e : k = j
      · subst e
        rw [if_pos ⟨rfl, hk⟩, if_pos rfl]
      · rw [if_neg fun c => e c.1, if_neg e]
    refine (ih (s := modStrand s j fun y => { y with item := v }) (by rw [isSome_modStrand]; exact hk) ?_).trans ?_
    · rw [hone]
      by_cases e : k = j
      · rw [if_pos e]
        exact .inr rfl
      · rw [if_neg e]
        simpa [e] using h
    · rw [hone]
      split <;> rfl

theorem setItems_frame (v : DWord) (ks : List Nat) (s : State) : StrandsMoved s (setItems v ks s) :=
  foldl_related StrandsMoved.refl StrandsMoved.trans (fun u k => strandsMoved_modStrand u k _) ks s

/-- A block is set up, before its placement draw. -/
def blockReady (s : State) (b : Nat) : State :=
  modBlock (setupSheaves (launchOf s (blockAt s b)).record (blockSheaves s b) s) b fun y => { y with ready := true }

theorem setupBlock_eq {s : State} {b : Nat} (hs : (tfind s.blocks b).isSome) (hr : (blockAt s b).ready = false) (hh : setupHeld s b = false)
    (hf : (blockAt s b).fault = none) (hn : ∀ h ∈ (gangAt s (blockAt s b).gang).shapes, h.index ≠ (blockAt s b).index) :
    setupBlock s b = placementDraw (blockReady s b) b := by
  have hsome : (tfind s.blocks b).isNone = false := by rw [← Option.not_isSome, hs]; rfl
  have hfind : ((gangAt s (blockAt s b).gang).shapes.find? fun h => h.index == (blockAt s b).index) = none := by simpa using hn
  unfold setupBlock
  dsimp only
  rw [hsome, hh, hf, hr, hfind]
  rfl

/-- Without a refill point the placement draw gives the block's strands that are not Done its first item. -/
theorem placementDraw_fixed {s : State} {b : Nat} (hs : (tfind s.blocks b).isSome) (h : refillPoint (launchOf s (blockAt s b)) = none) :
    placementDraw s b = setItems (BitVec.ofNat 64 ((blockAt s b).index * (launchOf s (blockAt s b)).record.items.toNat))
      ((blockStrands s b).filter fun k => (strandAt s k).cond != .done) (modBlock s b fun y => { y with undrawn := false }) := by
  have hblock : blockAt (modBlock s b fun y => { y with undrawn := false }) b = { blockAt s b with undrawn := false } := by
    rw [blockAt_modBlock, if_pos ⟨rfl, hs⟩]
  have hlaunch : launchOf (modBlock s b fun y => { y with undrawn := false }) { blockAt s b with undrawn := false } =
      launchOf s (blockAt s b) := rfl
  have hstrands : blockStrands (modBlock s b fun y => { y with undrawn := false }) b = blockStrands s b :=
    blockStrands_congr (s := s) (t := modBlock s b fun y => { y with undrawn := false }) rfl (by rw [hblock])
  have hdraw : placementDraw s b = firstDraw (modBlock s b fun y => { y with undrawn := false }) b := by
    unfold placementDraw
    dsimp only
    rw [h]
    rfl
  rw [hdraw]
  unfold firstDraw
  dsimp only
  rw [hblock, hlaunch, h, hstrands]
  rfl

theorem setupBlock_spec {s : State} {b : Nat} (hs : (tfind s.blocks b).isSome) (hr : (blockAt s b).ready = false) (hh : setupHeld s b = false)
    (hf : (blockAt s b).fault = none) (hn : ∀ h ∈ (gangAt s (blockAt s b).gang).shapes, h.index ≠ (blockAt s b).index)
    (hp : refillPoint (launchOf s (blockAt s b)) = none) :
    (blockAt (setupBlock s b) b).ready = true ∧ ∀ k ∈ blockStrands s b, ∃ lane sidx, strandAt (setupBlock s b) k =
      { entryStrand (launchOf s (blockAt s b)).record lane sidx with
        item := BitVec.ofNat 64 ((blockAt s b).index * (launchOf s (blockAt s b)).record.items.toNat) } := by
  have hset := sheavesSet_setupSheaves (launchOf s (blockAt s b)).record (blockSheaves s b) s
  have hsome : (tfind (setupSheaves (launchOf s (blockAt s b)).record (blockSheaves s b) s).blocks b).isSome := by
    rw [hset.frame]
    exact hs
  have hready : (tfind (blockReady s b).blocks b).isSome := (isSome_tmod _ _ _ _).trans hsome
  have hblock : blockAt (blockReady s b) b = { blockAt s b with ready := true } := by
    rw [blockReady, blockAt_modBlock, if_pos ⟨rfl, hsome⟩, hset.blockAt]
  have hlaunch : launchOf (blockReady s b) (blockAt (blockReady s b) b) = launchOf s (blockAt s b) := by
    rw [hblock]
    change launchAt (setupSheaves _ _ s) _ = _
    rw [hset.frame]
    rfl
  have hstrands : blockStrands (blockReady s b) b = blockStrands s b := by
    have hsheaf : sheafStrands (blockReady s b) = sheafStrands s := funext fun f => hset.sheafStrands f
    simp only [blockStrands, blockSheaves, hblock, hsheaf]
  rw [setupBlock_eq hs hr hh hf hn, placementDraw_fixed hready (by rw [hlaunch]; exact hp), hstrands, hlaunch, hblock]
  refine ⟨?_, fun k hk => ?_⟩
  · rw [(setItems_frame _ _ _).blockAt, blockAt_modBlock, if_pos ⟨rfl, hready⟩, hblock]
  · obtain ⟨f, hf, hkf⟩ := List.mem_flatMap.1 hk
    obtain ⟨lane, sidx, hentry⟩ := atEntry_setupSheaves (launchOf s (blockAt s b)).record hf hkf
    have hstrand : strandAt (blockReady s b) k = entryStrand (launchOf s (blockAt s b)).record lane sidx := by
      change tget (setupSheaves _ _ s).strands k _ = _
      rw [tget, hentry]
      rfl
    refine ⟨lane, sidx, (strandAt_setItems (s := modBlock (blockReady s b) b fun y => { y with undrawn := false }) ?_ (.inl ?_)).trans ?_⟩
    · change (tfind (setupSheaves _ _ s).strands k).isSome
      rw [hentry]
      rfl
    · rw [List.mem_filter, hstrand]
      exact ⟨hk, rfl⟩
    · rw [strandAt_modBlock, hstrand]

/-! ## Placement (R107, R108, R110) -/

theorem filter_tset {α : Type} (p : Nat → Bool) {k : Nat} (hk : p k = false) (v : α) (t : List (Nat × α)) :
    (tset t k v).filter (fun x => p x.1) = t.filter fun x => p x.1 := by
  induction t with
  | nil => simp [tset, hk]
  | cons x t ih =>
    obtain ⟨j, w⟩ := x
    rw [tset]
    split
    · rw [List.filter_cons_of_neg (by simp [hk])]
    · split
      · next e => rw [List.filter_cons_of_neg (by simp [hk]), List.filter_cons_of_neg (by simp [← e, hk])]
      · rw [List.filter_cons, List.filter_cons, ih]

/-- The blocks of a core, with their keys. -/
def blocksOn (s : State) (c : Nat) : Tab Block := s.blocks.filter fun p => p.1 / 4 == c

/-- The sheaves of a core, with their keys. -/
def sheavesOn (s : State) (c : Nat) : Tab Sheaf := s.sheaves.filter fun p => p.1 / 64 == c

/-- Two states agree on the blocks and the sheaves of a core. -/
structure SameCore (s t : State) (c : Nat) : Prop where
  blocks : blocksOn t c = blocksOn s c
  sheaves : sheavesOn t c = sheavesOn s c

namespace SameCore

variable {s t u : State} {c : Nat}

theorem refl (s : State) (c : Nat) : SameCore s s c := ⟨rfl, rfl⟩

theorem trans (h : SameCore s t c) (k : SameCore t u c) : SameCore s u c := ⟨k.blocks.trans h.blocks, k.sheaves.trans h.sheaves⟩

theorem tfind_blocks (h : SameCore s t c) {b : Nat} (hb : b / 4 = c) : tfind t.blocks b = tfind s.blocks b := by
  have hon (u : State) : tfind (blocksOn u c) b = tfind u.blocks b :=
    (tfind_filter_keys (fun k => k / 4 == c) u.blocks b).trans (if_pos (by simp [hb]))
  rw [← hon t, h.blocks, hon s]

theorem tfind_sheaves (h : SameCore s t c) {f : Nat} (hf : f / 64 = c) : tfind t.sheaves f = tfind s.sheaves f := by
  have hon (u : State) : tfind (sheavesOn u c) f = tfind u.sheaves f :=
    (tfind_filter_keys (fun k => k / 64 == c) u.sheaves f).trans (if_pos (by simp [hf]))
  rw [← hon t, h.sheaves, hon s]

theorem coreBlocks (h : SameCore s t c) : coreBlocks t c = coreBlocks s c := by
  have hon (u : State) : Machine.coreBlocks u c = tkeys (blocksOn u c) := List.filter_map
  rw [hon, hon, h.blocks]

theorem coreSheaves (h : SameCore s t c) : coreSheaves t c = coreSheaves s c := by
  have hon (u : State) : Machine.coreSheaves u c = tkeys (sheavesOn u c) := List.filter_map
  rw [hon, hon, h.sheaves]

/-- Whether a block fits on a core is read from the core's blocks and sheaves. -/
theorem fits (h : SameCore s t c) (need : Need) : fits t c need = fits s c need := by
  have hseats : coreSeats t c = coreSeats s c := by
    unfold coreSeats
    rw [h.coreSheaves]
    refine List.map_congr_left fun f hf => ?_
    have hc : f / 64 = c := by simpa using (List.mem_filter.1 hf).2
    simp only [sheafAt, tget, h.tfind_sheaves hc]
  have hpads : padRuns t c = padRuns s c := by
    unfold padRuns
    rw [h.coreBlocks]
    refine List.map_congr_left fun b hb => ?_
    have hc : b / 4 = c := by simpa using (List.mem_filter.1 hb).2
    simp only [blockAt, tget, h.tfind_blocks hc]
  have hfree : (List.range 4).find? (fun i => (tfind t.blocks (4 * c + i)).isNone) =
      (List.range 4).find? fun i => (tfind s.blocks (4 * c + i)).isNone := by
    refine List.find?_congr fun i hi => ?_
    have hi4 : i < 4 := List.mem_range.1 hi
    rw [h.tfind_blocks (by omega)]
  unfold Machine.fits
  dsimp only
  rw [hseats, hpads, hfree]

end SameCore

/-- Every seat that a block takes is one of the core's 64 sheaf slots. -/
theorem slot_of_findSeat {seats : List Seat} {log2w alloc : Nat} {offset : Option Nat} {x : Seat} (h : findSeat seats log2w alloc offset = some x) :
    x.slot < 64 := by
  unfold findSeat at h
  split at h
  · exact nomatch h
  · next slot hslot =>
    dsimp only at h
    obtain ⟨ctx, -, h⟩ := List.exists_of_findSome?_eq_some h
    obtain ⟨o, -, h⟩ := List.exists_of_findSome?_eq_some h
    split at h
    · exact nomatch h
    · obtain rfl := Option.some.inj h
      exact List.mem_range.1 (List.mem_of_find?_eq_some hslot)

theorem slot_of_findSeats {log2w : Nat} : ∀ {needs : List (Nat × Option Nat)} {seats found : List Seat},
    findSeats log2w seats needs = some found → ∀ x ∈ found, x.slot < 64
  | [], _, _, h, x, hx => by
    obtain rfl := Option.some.inj h
    exact nomatch hx
  | (alloc, offset) :: rest, seats, found, h, x, hx => by
    rw [findSeats] at h
    split at h
    · exact nomatch h
    · next y hy =>
      obtain ⟨ys, hys, rfl⟩ := Option.map_eq_some_iff.1 h
      rcases List.mem_cons.1 hx with rfl | hx
      · exact slot_of_findSeat hy
      · exact slot_of_findSeats hys x hx

/-- A block that fits takes a block slot of the core that is free, and sheaf slots of it. -/
theorem fits_spec {s : State} {c slot pad : Nat} {need : Need} {seats : List Seat} (h : fits s c need = some (slot, seats, pad)) :
    slot < 4 ∧ tfind s.blocks (4 * c + slot) = none ∧ ∀ x ∈ seats, x.slot < 64 := by
  unfold fits at h
  dsimp only at h
  split at h
  · next i found p hi hfound _ =>
    split at h
    · cases h
      refine ⟨List.mem_range.1 (List.mem_of_find?_eq_some hi), ?_, slot_of_findSeats hfound⟩
      simpa using List.find?_some hi
    · exact nomatch h
  · exact nomatch h

/-! ## A gang takes its window (R108) -/

/-- What the placing of members changes: blocks, sheaves, and of their gang only where its sheaves have moved. -/
structure MembersPlaced (s t : State) : Prop where
  frame : t = { s with blocks := t.blocks, sheaves := t.sheaves, gangs := t.gangs }
  gang : ∀ g, gangAt t g = { gangAt s g with moved := (gangAt t g).moved }
  gang_isSome : ∀ g, (tfind t.gangs g).isSome = (tfind s.gangs g).isSome

theorem MembersPlaced.refl (s : State) : MembersPlaced s s := ⟨rfl, fun _ => rfl, fun _ => rfl⟩

theorem MembersPlaced.trans {s t u : State} (h : MembersPlaced s t) (k : MembersPlaced t u) : MembersPlaced s u :=
  ⟨by rw [k.frame, h.frame], fun g => by rw [k.gang, h.gang], fun g => (k.gang_isSome g).trans (h.gang_isSome g)⟩

/-- The sheaves of a block take their seats on a core. -/
def takeSeats (c b : Nat) (idx : Nat → Nat) (l : List (Seat × Nat)) (t : State) : State :=
  l.foldl (fun u p => { u with sheaves := tset u.sheaves (64 * c + p.1.slot) (newSheaf u b (idx p.2) p.1) }) t

theorem takeSeats_frame (c b : Nat) (idx : Nat → Nat) (l : List (Seat × Nat)) (t : State) :
    takeSeats c b idx l t = { t with sheaves := (takeSeats c b idx l t).sheaves } := by
  induction l generalizing t with
  | nil => rfl
  | cons p l ih =>
    rw [takeSeats, List.foldl_cons]
    exact ih _

theorem sheavesOn_takeSeats {c d b : Nat} (hd : d ≠ c) (idx : Nat → Nat) {l : List (Seat × Nat)} (hl : ∀ p ∈ l, p.1.slot < 64) (t : State) :
    sheavesOn (takeSeats c b idx l t) d = sheavesOn t d := by
  induction l generalizing t with
  | nil => rfl
  | cons p l ih =>
    have hp : ((64 * c + p.1.slot) / 64 == d) = false := by
      have hslot := hl p List.mem_cons_self
      rw [beq_eq_false_iff_ne]
      omega
    rw [takeSeats, List.foldl_cons]
    exact (ih (fun q hq => hl q (List.mem_cons_of_mem _ hq)) _).trans (filter_tset (fun k => k / 64 == d) hp _ _)

/-- Member k of a gang has taken a block slot of its core that was free. -/
def MemberPlaced (s t : State) (g f k : Nat) : Prop :=
  ∃ i < 4, ∃ x, tfind s.blocks (4 * (f + k) + i) = none ∧ tfind t.blocks (4 * (f + k) + i) = some x ∧ x.gang = g ∧ x.grank = k ∧
    x.index = (gangAt s g).first + k ∧ x.ready = false

theorem placeMember_spec {s : State} {f k : Nat} {need : Need} (g : Nat) (h : (fits s (f + k) need).isSome) :
    MembersPlaced s (placeMember s g k f need) ∧ MemberPlaced s (placeMember s g k f need) g f k ∧
    ∀ d ≠ f + k, SameCore s (placeMember s g k f need) d := by
  generalize hu : placeMember s g k f need = u
  unfold placeMember at hu
  extract_lets x c r index shape own record blank idx at hu
  split at hu
  next e => rw [e] at h; exact nomatch h
  next slot seats pad hfit =>
  obtain ⟨hslot, hfree, hseats⟩ := fits_spec hfit
  have hzip : ∀ p ∈ seats.zipIdx, p.1.slot < 64 := fun p hp => hseats p.1 (List.fst_mem_of_mem_zipIdx hp)
  extract_lets b blk t u1 at hu
  have hbc : b / 4 = f + k := by
    unfold b c
    omega
  replace hu : takeSeats c b idx seats.zipIdx u1 = u := hu
  have hframe := takeSeats_frame c b idx seats.zipIdx u1
  rw [hu] at hframe
  have hblocks : u.blocks = tset s.blocks b blk := by rw [hframe]; rfl
  have hgangs : u.gangs = u1.gangs := by rw [hframe]
  refine ⟨⟨?_, fun y => ?_, fun y => ?_⟩, ⟨slot, hslot, blk, hfree, ?_, rfl, rfl, rfl, rfl⟩, fun d hd => ⟨?_, ?_⟩⟩
  · rw [hframe]
    rfl
  · have hgang : gangAt u y = gangAt u1 y := by
      rw [gangAt, hgangs]
      rfl
    rw [hgang, show gangAt u1 y = _ from gangAt_modGang t g _ y]
    split
    · next e => rw [e.1]; rfl
    · rfl
  · rw [hgangs]
    exact isSome_tmod _ _ _ _
  · rw [hblocks]
    exact (tfind_tset _ _ _ _).trans (if_pos rfl)
  · rw [blocksOn, hblocks]
    exact filter_tset (fun k => k / 4 == d) (by rw [hbc, beq_eq_false_iff_ne]; exact hd.symm) blk s.blocks
  · rw [← hu]
    exact sheavesOn_takeSeats hd idx hzip u1

/-- A member takes its place, where it has not retired. -/
def placeNeed (g f : Nat) (u : State) (p : Option Need × Nat) : State :=
  match p.1 with
  | some n => placeMember u g p.2 f n
  | none => u

theorem placeNeed_spec {s : State} {f : Nat} {p : Option Need × Nat} (g : Nat) (h : ∀ n, p.1 = some n → (fits s (f + p.2) n).isSome) :
    MembersPlaced s (placeNeed g f s p) ∧ (p.1.isSome → MemberPlaced s (placeNeed g f s p) g f p.2) ∧
    ∀ d ≠ f + p.2, SameCore s (placeNeed g f s p) d := by
  obtain ⟨need, k⟩ := p
  cases need with
  | none => exact ⟨.refl s, fun e => absurd e Bool.false_ne_true, fun d _ => .refl s d⟩
  | some n =>
    obtain ⟨hframe, hplaced, hother⟩ := placeMember_spec g (h n rfl)
    exact ⟨hframe, fun _ => hplaced, hother⟩

theorem MemberPlaced.later {s t u : State} {g f k : Nat} (h : MemberPlaced s t g f k) (hu : SameCore t u (f + k)) : MemberPlaced s u g f k := by
  obtain ⟨i, hi, x, hfree, hx, hrest⟩ := h
  exact ⟨i, hi, x, hfree, (hu.tfind_blocks (by omega)).trans hx, hrest⟩

theorem MemberPlaced.earlier {s t u : State} {g f k : Nat} (h : MemberPlaced t u g f k) (hs : SameCore s t (f + k))
    (hg : (gangAt t g).first = (gangAt s g).first) : MemberPlaced s u g f k := by
  obtain ⟨i, hi, x, hfree, hx, hgang, hrank, hindex, hready⟩ := h
  exact ⟨i, hi, x, (hs.tfind_blocks (by omega)).symm.trans hfree, hx, hgang, hrank, by rw [hindex, hg], hready⟩

/-- Members are placed in the order of their rank; none touches the core of another, so that what fitted still fits. -/
theorem placeNeeds_spec (g f : Nat) {needs : List (Option Need)} {n : Nat} {s : State}
    (h : ∀ p ∈ needs.zipIdx n, ∀ need, p.1 = some need → (fits s (f + p.2) need).isSome) :
    MembersPlaced s ((needs.zipIdx n).foldl (placeNeed g f) s) ∧
    (∀ p ∈ needs.zipIdx n, p.1.isSome → MemberPlaced s ((needs.zipIdx n).foldl (placeNeed g f) s) g f p.2) ∧
    ∀ d < f + n, SameCore s ((needs.zipIdx n).foldl (placeNeed g f) s) d := by
  induction needs generalizing n s with
  | nil => exact ⟨.refl s, fun p hp => (nomatch hp), fun d _ => .refl s d⟩
  | cons need needs ih =>
    rw [List.zipIdx_cons] at h ⊢
    rw [List.foldl_cons]
    obtain ⟨hframe, hplaced, hother⟩ := placeNeed_spec g (h (need, n) List.mem_cons_self)
    have hlater : ∀ p ∈ needs.zipIdx (n + 1), SameCore s (placeNeed g f s (need, n)) (f + p.2) := fun p hp => by
      have hle := List.le_snd_of_mem_zipIdx hp
      exact hother _ (by dsimp only; omega)
    obtain ⟨ihframe, ihplaced, ihother⟩ := ih (n := n + 1) (s := placeNeed g f s (need, n)) fun p hp x hx => by
      rw [(hlater p hp).fits]
      exact h p (List.mem_cons_of_mem _ hp) x hx
    have hfirst : (gangAt (placeNeed g f s (need, n)) g).first = (gangAt s g).first := by rw [hframe.gang]
    refine ⟨hframe.trans ihframe, fun p hp hsome => ?_, fun d hd => (hother d (by dsimp only; omega)).trans (ihother d (by omega))⟩
    rcases List.mem_cons.1 hp with rfl | hp
    · exact (hplaced hsome).later (ihother _ (by dsimp only; omega))
    · exact (ihplaced p hp hsome).earlier (hlater p hp) hfirst

/-- A member that has not retired needs a place. -/
theorem gangNeeds_of_live (s : State) {x : Gang} {k : Nat} (hk : k < x.size) (hr : k ∉ x.retiredMembers) :
    ∃ need, (gangNeeds s x)[k]? = some (some need) := by
  unfold gangNeeds
  dsimp only
  rw [List.getElem?_map, List.getElem?_range hk, Option.map_some, if_neg (by simpa using hr)]
  split
  · exact ⟨_, rfl⟩
  · exact ⟨_, rfl⟩

/-- The members of a gang are on their cores. -/
def gangSeated (s : State) (g f : Nat) : State := (gangNeeds s (gangAt s g)).zipIdx.foldl (placeNeed g f) s

theorem placeGang_eq (s : State) (g f : Nat) : placeGang s g f =
    modGang (gangSeated s g f) g fun x => { x with state := .placed, firstCore := f, passes := 0 } := rfl

theorem gangSeated_spec {s : State} {g f : Nat} (hf : feasible s (gangNeeds s (gangAt s g)) f = true) :
    MembersPlaced s (gangSeated s g f) ∧
    ∀ k < (gangAt s g).size, k ∉ (gangAt s g).retiredMembers → MemberPlaced s (gangSeated s g f) g f k := by
  obtain ⟨hframe, hplaced, -⟩ := placeNeeds_spec g f (needs := gangNeeds s (gangAt s g)) (n := 0) (s := s) fun p hp need hneed => by
    have h := List.all_eq_true.1 hf p hp
    rw [hneed] at h
    exact h
  refine ⟨hframe, fun k hk hr => ?_⟩
  obtain ⟨need, hneed⟩ := gangNeeds_of_live s hk hr
  exact hplaced (some need, k) (List.mk_mem_zipIdx_iff_getElem?.2 hneed) rfl

theorem now_placeGang {s : State} {g f : Nat} (hf : feasible s (gangNeeds s (gangAt s g)) f = true) : (placeGang s g f).now = s.now := by
  rw [placeGang_eq, (gangSeated_spec hf).1.frame]
  rfl

/-- The gang of a window that is feasible is placed there, every member that has not retired on its core. -/
theorem placeGang_spec {s : State} {g f : Nat} (hs : (tfind s.gangs g).isSome) (hf : feasible s (gangNeeds s (gangAt s g)) f = true) :
    (gangAt (placeGang s g f) g).state = .placed ∧ (gangAt (placeGang s g f) g).firstCore = f ∧
    ∀ k < (gangAt s g).size, k ∉ (gangAt s g).retiredMembers → MemberPlaced s (placeGang s g f) g f k := by
  obtain ⟨hframe, hplaced⟩ := gangSeated_spec hf
  have hgang := gangAt_modGang (gangSeated s g f) g (fun x => { x with state := .placed, firstCore := f, passes := 0 }) g
  rw [if_pos ⟨rfl, (hframe.gang_isSome g).trans hs⟩, ← placeGang_eq] at hgang
  exact ⟨by rw [hgang], by rw [hgang], hplaced⟩

/-- A fold that keeps what it has or takes the next element ends with one of them. -/
theorem mem_of_foldl_choice {α : Type} {step : Option α → α → Option α} (h : ∀ m a, step m a = some a ∨ step m a = m) {l : List α} {m : Option α}
    {x : α} (hx : l.foldl step m = some x) : m = some x ∨ x ∈ l := by
  induction l generalizing m with
  | nil => exact .inl hx
  | cons a l ih =>
    rcases ih hx with hstep | hmem
    · rcases h m a with e | e
      · exact .inr (by simp [Option.some.inj (e.symm.trans hstep)])
      · exact .inl (e.symm.trans hstep)
    · exact .inr (List.mem_cons_of_mem _ hmem)

theorem firstWindow_meets {s : State} {t size f : Nat} {p : Nat → Bool} (h : firstWindow s t size p = some f) : p f = true := by
  unfold firstWindow at h
  refine (List.mem_filter.1 ((mem_of_foldl_choice (fun m a => ?_) h).resolve_left (nomatch ·))).2
  cases m with
  | none => exact .inl rfl
  | some g =>
    dsimp only
    split
    · exact .inl rfl
    · exact .inr rfl

theorem windowFor_feasible {s : State} {t g f : Nat} (h : windowFor s t g = some f) : feasible s (gangNeeds s (gangAt s g)) f = true :=
  (Bool.and_eq_true_iff.1 (firstWindow_meets h)).2

theorem scan_window {s : State} {t g f : Nat} {before : List Nat} : ∀ {gs passed : List Nat}, scan s t passed gs = some (g, before, f) →
    windowFor s t g = some f
  | [], _, h => nomatch h
  | x :: gs, passed, h => by
    rw [scan] at h
    split at h
    · split at h
      · next w hw =>
        cases h
        exact hw
      · exact scan_window h
    · exact scan_window h

/-- The gangs that a scan has passed over are marked. -/
def markPassed (before : List Nat) (s : State) : State := before.foldl (fun v h => modGang v h fun x => { x with passes := x.passes + 1 }) s

/-- Marking gangs changes nothing but their passes. -/
structure PassesMarked (s t : State) : Prop where
  frame : t = { s with gangs := t.gangs }
  gang : ∀ g, gangAt t g = { gangAt s g with passes := (gangAt t g).passes }

theorem passesMarked_markPassed (before : List Nat) (s : State) : PassesMarked s (markPassed before s) := by
  refine foldl_related (R := PassesMarked) (fun _ => ⟨rfl, fun _ => rfl⟩)
    (fun h k => ⟨by rw [k.frame, h.frame], fun g => by rw [k.gang, h.gang]⟩) (fun u h => ⟨rfl, fun g => ?_⟩) before s
  rw [gangAt_modGang]
  split
  · next e => rw [e.1]
  · rfl

theorem pending_reserve (s : State) (t : Nat) : (tractAt (reserve s t) t).pending = (tractAt s t).pending := by
  unfold reserve
  dsimp only
  split
  · rfl
  · split
    · split
      · rw [tractAt_modTract, if_pos rfl]
      · rfl
    · rfl

/-- A placed gang leaves its tract's queues, and no other is placed for two ticks. -/
def queuesLeft (s : State) (t g : Nat) : State := reserve (modTract (leaveTract s t g) t fun x => { x with placeAt := s.now + 2 }) t

theorem queuesLeft_frame (s : State) (t g : Nat) : queuesLeft s t g = { s with tracts := (queuesLeft s t g).tracts } := by
  rw [queuesLeft, reserve_frame]
  rfl

theorem not_mem_pending_queuesLeft (s : State) (t g : Nat) : g ∉ (tractAt (queuesLeft s t g) t).pending := by
  rw [queuesLeft, pending_reserve, tractAt_modTract, if_pos rfl, leaveTract, tractAt_modTract, if_pos rfl]
  simp

theorem placeNext_eq {s : State} {t g f : Nat} {before : List Nat}
    (hw : ∀ g ∈ (tractAt s t).pending, (gangAt s g).state = .pending → ∃ u ∈ (partAt s (gangAt s g).part).tracts, windows s u (gangAt s g).size ≠ [])
    (hscan : scan s t [] (tractAt s t).pending = some (g, before, f)) (hat : (tractAt s t).placeAt ≤ s.now) :
    placeNext s t = queuesLeft (markPassed before (placeGang s g f)) t g := by
  have hnone : ((tractAt s t).pending.find? fun g =>
      (gangAt s g).state == .pending && (partAt s (gangAt s g).part).tracts.all fun u => (windows s u (gangAt s g).size).isEmpty) = none := by
    refine List.find?_eq_none.2 fun g hg hlost => ?_
    obtain ⟨hpending, hall⟩ := Bool.and_eq_true_iff.1 hlost
    obtain ⟨u, hu, hne⟩ := hw g hg (beq_iff_eq.1 hpending)
    exact hne (List.isEmpty_iff.1 (List.all_eq_true.1 hall u hu))
  have hmark : (markPassed before (placeGang s g f)).now = s.now := by
    rw [(passesMarked_markPassed before _).frame, now_placeGang (windowFor_feasible (scan_window hscan))]
  unfold placeNext
  rw [hnone, if_neg (by omega), hscan]
  dsimp only
  rw [queuesLeft, hmark]
  rfl

theorem placeNext_spec {s : State} {t g f : Nat} {before : List Nat}
    (hw : ∀ g ∈ (tractAt s t).pending, (gangAt s g).state = .pending → ∃ u ∈ (partAt s (gangAt s g).part).tracts, windows s u (gangAt s g).size ≠ [])
    (hscan : scan s t [] (tractAt s t).pending = some (g, before, f)) (hs : (tfind s.gangs g).isSome) (hat : (tractAt s t).placeAt ≤ s.now) :
    (gangAt (placeNext s t) g).state = .placed ∧ (gangAt (placeNext s t) g).firstCore = f ∧ g ∉ (tractAt (placeNext s t) t).pending ∧
    ∀ k < (gangAt s g).size, k ∉ (gangAt s g).retiredMembers → MemberPlaced s (placeNext s t) g f k := by
  obtain ⟨hstate, hcore, hmembers⟩ := placeGang_spec hs (windowFor_feasible (scan_window hscan))
  have hmark := passesMarked_markPassed before (placeGang s g f)
  have hgang : gangAt (placeNext s t) g = gangAt (markPassed before (placeGang s g f)) g := by
    rw [placeNext_eq hw hscan hat, queuesLeft_frame]
    rfl
  have hblocks : (placeNext s t).blocks = (placeGang s g f).blocks := by
    rw [placeNext_eq hw hscan hat, queuesLeft_frame, hmark.frame]
  refine ⟨?_, ?_, ?_, fun k hk hr => ?_⟩
  · rw [hgang, hmark.gang, hstate]
  · rw [hgang, hmark.gang, hcore]
  · rw [placeNext_eq hw hscan hat]
    exact not_mem_pending_queuesLeft _ t g
  · obtain ⟨i, hi, x, hfree, hx, hrest⟩ := hmembers k hk hr
    exact ⟨i, hi, x, hfree, by rw [hblocks]; exact hx, hrest⟩

/-- Settles O50: the dispatcher changes the tract as its lemma says; the members of a gang, each on a core of its own, are placed one
after another; a block's strands are set to its entry; a block that is done, and a launch that is complete, leave. -/
theorem gangEvents : Obligations.GangEvents := by
  unfold Obligations.GangEvents
  refine ⟨fun s key t hb hserved hd => ⟨_, rfl, formBatch_spec hb hserved hd⟩, fun s hserved => ?_, fun s hf => ⟨_, rfl, ?_⟩,
    fun s hr hdue => ⟨_, rfl, ?_⟩, fun s g before f hw hscan hs hat => ⟨_, rfl, placeNext_spec hw hscan hs hat⟩,
    fun s hs hr hh hf hn hp => ⟨_, rfl, ?_⟩, fun s hs hr hd hq hw hl hp hf => ?_, fun s hs hh hn hr => ?_⟩
  · exact ⟨_, congrArg (fun t => Host.Outcome.next (quiet s t)) (formBatch_of_other hserved), rfl, rfl, rfl⟩
  · have h := reportFreed_spec hf
    exact ⟨congrArg Tract.batchFree h, congrArg Tract.freedEntries h, congrArg Tract.returns h, congrArg Tract.credit h⟩
  · have h := sendReturns_spec hr hdue
    exact ⟨congrArg Tract.returns h, congrArg Tract.credit h⟩
  · obtain ⟨hready, hstrands⟩ := setupBlock_spec hs hr hh hf hn hp
    refine ⟨hready, fun k hk => ?_⟩
    obtain ⟨lane, sidx, hstrand⟩ := hstrands k hk
    rw [strandAt_quiet, hstrand]
    exact ⟨rfl, rfl, rfl, rfl, rfl⟩
  · refine ⟨_, congrArg (fun t => Host.Outcome.next (quiet s t)) (retireBlock_eq hs hr hd hq hw hl hp hf), blocks_retiredFrom s _,
      fun hlaunch => ?_⟩
    rw [launchAt_quiet, launchAt_modLaunch, launches_retiredFrom, if_pos ⟨rfl, hlaunch⟩, launchAt, launches_retiredFrom]
    rfl
  · refine ⟨_, congrArg (fun t => Host.Outcome.next (quiet s t)) (completeLaunch_eq hs hh hn hr), fun hslot => ?_, fun hslot => ?_⟩
    · exact sendCompletion_registered _ _ hslot
    · exact sendCompletion_held _ _ hs hslot

end Sys2Proof.Proofs
end

section
/-! SUPPORT. What a kill spares (R105, R134 to R137, R141, R356): what its members' stop changes, and the traps that waiters of other
gangs take as its requests leave the matrix engine, leave alone tracts, gangs that are not live, the retirement of quads, and where
blocks belong. -/

namespace Sys2Proof.Proofs
open Sys2Proof Sys2Proof.Machine Sys2Proof.Laws

/-! ## Tables whose entries change in place -/

/-- Where keys rise, a new value at a key leaves the list of what a function that does not see the change makes of the entries. -/
theorem map_tset_of_eq {α β : Type} {e : Nat × α → β} {k : Nat} {v w : α} (he : e (k, w) = e (k, v)) : ∀ {t : List (Nat × α)},
    (tkeys t).Pairwise (· < ·) → tfind t k = some v → (tset t k w).map e = t.map e
  | (j, x) :: rest, hp, hv => by
    obtain ⟨hj, hrest⟩ := List.pairwise_cons.1 hp
    rw [tfind] at hv
    split at hv
    · next hjk =>
      subst hjk
      obtain rfl := Option.some.inj hv
      rw [tset, if_neg (lt_irrefl j), if_pos rfl, List.map_cons, List.map_cons, he]
    · next hjk =>
      have hlt : j < k := hj k (List.mem_map_of_mem (f := (·.1)) (mem_of_tfind hv))
      rw [tset, if_neg (by omega), if_neg (Ne.symm hjk), List.map_cons, List.map_cons, map_tset_of_eq he hrest hv]

theorem map_tmod_of_eq {α β : Type} {e : Nat × α → β} {f : α → α} (he : ∀ k v, e (k, f v) = e (k, v)) {t : List (Nat × α)}
    (h : (tkeys t).Pairwise (· < ·)) (k : Nat) : (tmod t k f).map e = t.map e := by
  unfold tmod
  split
  · next v hv => exact map_tset_of_eq (he k v) h hv
  · rfl

/-! ## The RAS log, for every class -/

/-- The entry of an error that may count for its quad's retirement (R125, R141). -/
theorem reported_logRas_counted (s : State) (c : RasClass) (injected : Bool) (loc : Loc) (d0 d1 : DWord) :
    Reported (countError s c loc) (logRas s c injected loc d0 d1) := by
  have hlog : ∀ e, Reported (countError s c loc) (modModule (countError s c loc) fun m => { m with ras := m.ras ++ [e] }) := fun e =>
    { Reported.refl _ with frame := rfl, ras := List.prefix_append _ _ }
  unfold logRas
  dsimp only
  split
  · exact (hlog _).trans (reported_raise _ _ _ _ _ _)
  · exact hlog _

theorem gangs_countError (s : State) (c : RasClass) (loc : Loc) : (countError s c loc).gangs = s.gangs := by
  unfold countError
  split
  · split <;> rfl
  · rfl

theorem gangAt_logRas (s : State) (c : RasClass) (injected : Bool) (loc : Loc) (d0 d1 : DWord) (g : Nat) :
    gangAt (logRas s c injected loc d0 d1) g = gangAt s g := by
  rw [(reported_logRas_counted s c injected loc d0 d1).gangAt, gangAt, gangs_countError]
  rfl

/-- A kill takes effect at its tick, and of no other gang (R134). -/
theorem gangAt_killNow (s : State) (g : Nat) (c : RasClass) (injected : Bool) (loc : Loc) (x : Nat) :
    gangAt (killNow s g (some c) injected loc) x =
      if x = g ∧ (tfind s.gangs g).isSome then { gangAt s g with state := .killing s.now, cause := some c } else gangAt s x := by
  unfold killNow
  dsimp only
  rw [gangAt_logRas, gangAt_modGang]

/-! ## What a kill spares -/

/-- The gang that an entry of the blocks' table belongs to. -/
def memberOf (p : Nat × Block) : Nat × Nat := (p.1, p.2.gang)

/-- Tracts, gangs that are not live, the retirement of quads and the blocks' sheaves are as they were, and the blocks of the table are
the same, each of the same gang. -/
structure Spared (s t : State) : Prop where
  tracts : t.tracts = s.tracts
  gang : ∀ g, (gangAt s g).state.live = false → gangAt t g = gangAt s g
  retired : ∀ q, (quadAt t q).retired = (quadAt s q).retired
  sheafSlots : ∀ b, (blockAt t b).sheafSlots = (blockAt s b).sheafSlots
  block_isSome : ∀ b, (tfind t.blocks b).isSome = (tfind s.blocks b).isSome
  members : (tkeys s.blocks).Pairwise (· < ·) → t.blocks.map memberOf = s.blocks.map memberOf

theorem tkeys_of_members {s t : State} (h : t.blocks.map memberOf = s.blocks.map memberOf) : tkeys t.blocks = tkeys s.blocks := by
  have hkeys (u : State) : tkeys u.blocks = (u.blocks.map memberOf).map (·.1) := by rw [List.map_map]; rfl
  rw [hkeys, hkeys, h]

namespace Spared

theorem refl (s : State) : Spared s s := ⟨rfl, fun _ _ => rfl, fun _ => rfl, fun _ => rfl, fun _ => rfl, fun _ => rfl⟩

theorem trans {s t u : State} (h : Spared s t) (k : Spared t u) : Spared s u where
  tracts := k.tracts.trans h.tracts
  gang g hg := (k.gang g (by rw [h.gang g hg]; exact hg)).trans (h.gang g hg)
  retired q := (k.retired q).trans (h.retired q)
  sheafSlots b := (k.sheafSlots b).trans (h.sheafSlots b)
  block_isSome b := (k.block_isSome b).trans (h.block_isSome b)
  members hp := (k.members (by rw [tkeys_of_members (h.members hp)]; exact hp)).trans (h.members hp)

theorem foldl {α : Type} {f : State → α → State} (hf : ∀ s a, Spared s (f s a)) (l : List α) (s : State) : Spared s (l.foldl f s) :=
  foldl_related Spared.refl Spared.trans hf l s

variable {s t : State}

/-- A state with the same tracts, gangs, quads and blocks. -/
theorem of_eq (ht : t.tracts = s.tracts) (hg : t.gangs = s.gangs) (hq : t.quads = s.quads) (hb : t.blocks = s.blocks) : Spared s t where
  tracts := ht
  gang g _ := by rw [gangAt, hg]; rfl
  retired q := by rw [quadAt, hq]; rfl
  sheafSlots b := by rw [blockAt, hb]; rfl
  block_isSome b := by rw [hb]
  members _ := by rw [hb]

theorem of_reported (h : Reported s t) : Spared s t := of_eq h.tracts h.gangs h.quads h.blocks

theorem modStrand (s : State) (k : Nat) (f : Strand → Strand) : Spared s (modStrand s k f) := of_eq rfl rfl rfl rfl
theorem modSheaf (s : State) (k : Nat) (f : Sheaf → Sheaf) : Spared s (modSheaf s k f) := of_eq rfl rfl rfl rfl
theorem modCore (s : State) (c : Nat) (f : Core → Core) : Spared s (modCore s c f) := of_eq rfl rfl rfl rfl
theorem modPart (s : State) (p : Nat) (f : Partition → Partition) : Spared s (modPart s p f) := of_eq rfl rfl rfl rfl

theorem modQuad (s : State) (q : Nat) {f : Quad → Quad} (hf : ∀ x, (f x).retired = x.retired) : Spared s (modQuad s q f) :=
  { refl s with
    tracts := rfl
    retired := fun x => by
      rw [quadAt_modQuad]
      split
      · next e => rw [e]; exact hf _
      · rfl }

theorem modBlock (s : State) (b : Nat) {f : Block → Block} (hf : ∀ x, (f x).sheafSlots = x.sheafSlots ∧ (f x).gang = x.gang) :
    Spared s (modBlock s b f) :=
  { refl s with
    tracts := rfl
    sheafSlots := fun x => by
      rw [blockAt_modBlock]
      split
      · next e => rw [e.1]; exact (hf _).1
      · rfl
    block_isSome := fun x => isSome_tmod _ _ _ _
    members := fun hp => map_tmod_of_eq (fun k v => congrArg (Prod.mk k) (hf v).2) hp b }

theorem blockSheaves (h : Spared s t) (b : Nat) : blockSheaves t b = blockSheaves s b := by simp only [Machine.blockSheaves, h.sheafSlots]

theorem tkeys (h : Spared s t) (hp : (tkeys s.blocks).Pairwise (· < ·)) : tkeys t.blocks = tkeys s.blocks :=
  tkeys_of_members (h.members hp)

/-- A gang has the same blocks. -/
theorem gangBlocks (h : Spared s t) (hp : (Machine.tkeys s.blocks).Pairwise (· < ·)) (g : Nat) : gangBlocks t g = gangBlocks s g := by
  have hread (u : State) : Machine.gangBlocks u g = ((u.blocks.map memberOf).filter fun p => p.2 == g).map (·.1) := by
    rw [List.filter_map, List.map_map]
    rfl
  rw [hread, hread, h.members hp]

end Spared

theorem Spared.ite {s t u : State} {c : Prop} [Decidable c] (h : Spared s t) (k : Spared s u) : Spared s (if c then t else u) := by
  split
  · exact h
  · exact k

/-! ## Kills, errors and page faults -/

theorem spared_logRas (s : State) (c : RasClass) (injected : Bool) (loc : Loc) (d0 d1 : DWord) : Spared s (logRas s c injected loc d0 d1) := by
  have hcount : Spared s (countError s c loc) := by
    unfold countError
    split
    · split
      · exact .modQuad s _ fun _ => rfl
      · exact .modQuad s _ fun _ => rfl
      · exact .refl s
    · exact .refl s
  exact hcount.trans (.of_reported (reported_logRas_counted s c injected loc d0 d1))

/-- The kill of a gang that is live changes no other. -/
theorem spared_startKill (s : State) (g : Nat) (c : Option RasClass) (injected : Bool) (loc : Loc) :
    Spared s (startKill s g c injected loc) := by
  unfold startKill killNow
  split
  · next hl =>
    have hmark : Spared s (modGang s g fun x => { x with state := .killing s.now, cause := c }) :=
      { Spared.refl s with
        tracts := rfl
        gang := fun x hx => by
          rw [gangAt_modGang, if_neg]
          rintro ⟨rfl, -⟩
          rw [hl] at hx
          exact nomatch hx }
    cases c with
    | none => exact hmark
    | some c => exact hmark.trans (spared_logRas _ _ _ _ _ _)
  · exact .refl s

theorem spared_killOf (s : State) (k : Nat) (c : RasClass) : Spared s (killOf s k c) := spared_startKill s _ _ _ _

theorem spared_logWalk (s : State) (loc : Loc) (x : Trans) : Spared s (logWalk s loc x) := by
  unfold logWalk
  split
  · exact spared_logRas _ _ _ _ _ _
  · exact .refl s

theorem spared_openFault (s : State) (l : Launch) (va : Nat) (acc : Access) (loc : Loc) : Spared s (openFault s l va acc loc) := by
  unfold openFault faultEvent
  dsimp only
  split
  · exact .refl s
  · split
    · exact .refl s
    · exact (Spared.modPart s l.part _).trans (.of_reported (reported_raise _ _ _ _ _ _))

theorem spared_stallFault (s : State) (k : Nat) (vas : List Nat) (acc : Access) : Spared s (stallFault s k vas acc) :=
  (Spared.foldl (fun u va => spared_openFault u _ va acc _) vas s).trans (.modStrand _ _ _)

/-! ## The store record (R162 to R165) -/

theorem spared_recordsSettled {s t : State} (h : RecordsSettled s t) : Spared s t := by
  rw [h.frame]
  exact .of_eq rfl rfl rfl rfl

theorem spared_strandsMoved {s t : State} (h : StrandsMoved s t) : Spared s t := by
  unfold StrandsMoved at h
  rw [h]
  exact .of_eq rfl rfl rfl rfl

theorem spared_strike (s : State) (b unit : Nat) : Spared s (strike s b unit).2 := by
  unfold strike
  split
  · split
    · exact .modBlock s b fun _ => ⟨rfl, rfl⟩
    · exact .refl s
  · exact .refl s

theorem spared_recPut (s : State) (b pa cls hint : Nat) (bytes : List Byte) (poison : Bool) (loads : List Nat) :
    Spared s (recPut s b pa cls hint bytes poison loads) := by
  unfold recPut
  extract_lets c line off
  have hstrike := spared_strike s b 3
  split
  next hit u e =>
  rw [e] at hstrike
  extract_lets struck poison blk seq entered drained
  have hlog : Spared u struck := by
    unfold struck logStrike
    split
    · exact spared_logRas _ _ _ _ _ _
    · exact .refl u
  have hput : Spared struck entered := by
    unfold entered
    split
    · exact .modCore _ _ _
    · exact .modCore _ _ _
  have hdrain : Spared entered drained := by
    unfold drained
    split
    · exact .ite (spared_recordsSettled (recordsSettled_drainUpTo _ _ _)) (.refl _)
    · exact .refl _
  have hall : Spared s drained := ((hstrike.trans hlog).trans hput).trans hdrain
  have hlast := spared_strike drained b 4
  split
  next hit v e =>
  rw [e] at hlast
  split
  · exact ((hall.trans hlast).trans (spared_startKill _ _ _ _ _)).trans (.modCore _ _ _)
  · exact hall.trans hlast

/-! ## Trap entry (R262, R356) -/

theorem spared_pushEntry (s : State) (k : Nat) (ret : DWord) (plan : Spill) : Spared s (pushEntry s k ret plan) := by
  unfold pushEntry
  extract_lets x e
  split
  · exact ((spared_recPut _ _ _ _ _ _ _ _).trans (spared_recPut _ _ _ _ _ _ _ _)).trans (.modStrand _ _ _)
  · exact .modStrand _ _ _

theorem spared_trapEntry (s : State) (k : Nat) (c : Cause) (trpc tdet : DWord) : Spared s (trapEntry s k c trpc tdet) := by
  unfold trapEntry
  extract_lets u x b l
  have hu : Spared s u := .modStrand s k _
  have hheld : Spared u (holdTrap u k c trpc tdet) := .modStrand u k _
  refine hu.trans (.ite (spared_killOf u k _) (.ite (hheld.trans (.modStrand _ _ _)) ?_))
  split
  · exact spared_killOf u k _
  · exact (spared_logWalk u _ _).trans (spared_killOf _ k _)
  · exact spared_killOf u k _
  · exact spared_killOf u k _
  · exact hheld.trans (spared_stallFault _ _ _ _)
  · exact .ite ((hheld.trans (spared_recordsSettled (recordsSettled_drainOldest _ _))).trans (.modStrand _ _ _))
      ((spared_pushEntry u k trpc _).trans (.modStrand _ _ _))

/-! ## Requests that leave the matrix engine (R137) -/

theorem spared_wakeWhere (s : State) (ks : List Nat) (p : Cond → Bool) : Spared s (wakeWhere s ks p) :=
  spared_strandsMoved (strandsMoved_wakeWhere s ks p)

theorem spared_endRequest {act : State → Nat → State} (hact : ∀ s k, Spared s (act s k)) (s : State) (a : Arrival) :
    Spared s (endRequest act s a) := by
  unfold endRequest
  extract_lets b t u ws v
  have ht : Spared s t := .modSheaf s a.sheaf _
  have htile : Spared t (modTile t b a.tile fun y => { y with state := .ready }) := .modBlock t b fun _ => ⟨rfl, rfl⟩
  have hu : Spared t u := htile.trans (spared_wakeWhere _ _ _)
  have hv : Spared u v := .foldl (fun w k => (Spared.modStrand w k _).trans (hact _ k)) ws u
  exact ((ht.trans hu).trans hv).trans (spared_wakeWhere _ _ _)

theorem spared_trapMma (c : Cause) (s : State) (arrivals : List Arrival) : Spared s (trapMma c s arrivals) :=
  .foldl (spared_endRequest fun u k => spared_trapEntry u k c _ _) arrivals s

theorem spared_freeLatch (s : State) (q : Nat) (l : Latch) : Spared s (freeLatch s q l) := by
  unfold freeLatch wakeLatch
  refine Spared.trans ?_ (spared_wakeWhere _ _ _)
  exact .modQuad s q fun _ => rfl

theorem spared_dropRequests (s : State) (q : Nat) (hit : List Nat → Bool) : Spared s (dropRequests s q hit).2 :=
  .trans (.foldl (f := fun t l => freeLatch t q l) (fun u l => spared_freeLatch u q l) _ s)
    (.foldl (f := fun t e => dropEntry t q e) (fun u _ => .modQuad u q fun _ => rfl) _ _)

theorem spared_orphanRequests (s : State) (q : Nat) (mine : Nat → Bool) : Spared s (orphanRequests s q mine) := by
  have hdrop := spared_dropRequests s q fun fs => fs.any mine
  unfold orphanRequests
  split
  next reqs t e =>
  rw [e] at hdrop
  exact hdrop.trans (.foldl (fun u r => spared_trapMma .orphan u _) reqs t)

end Sys2Proof.Proofs
end

section
/-! SUPPORT. Kills (R102, R105, R130, R134 to R136, R138, R140): how a killed gang's members stop and its promised slots return, how its
resources are released, where a relaunched gang takes its place, and what a parity error in control state does. -/

namespace Sys2Proof.Proofs
open Sys2Proof Sys2Proof.Machine Sys2Proof.Laws

/-! ## The members of a killed gang stop (R136) -/

/-- A member's commands leave its core's copy engine. -/
def copiesDropped (s : State) (b : Nat) : State :=
  let v := dropWrites (modCore s (b / 4) fun k => { k with queue := k.queue.filter fun c => c.block != b }) b
  settle (wakeWhere v (coreStrands v (b / 4)) fun c => c == .stalled .copyQueue) (b / 4)

/-- A member is stopped, its tiles and mappings unbound. -/
def memberUnbound (s : State) (b : Nat) : State := modBlock s b fun x => { x with stopped := true, tiles := [], shared := [] }

/-- Nothing of a killed gang is left in the store records, the engines or the exchange stores on their way. -/
def unitsCleared (s : State) (g : Nat) : State :=
  let bs := gangBlocks s g
  let mine (f : Nat) : Bool := bs.contains (sheafAt s f).block && (tfind s.sheaves f).isSome
  let t := bs.foldl copiesDropped ((tkeys s.cores).foldl (fun u c => discardEntries u g c) s)
  dropMsgs ((nub (bs.map (· / 16))).foldl (fun u q => orphanRequests u q mine) t) fun _ m =>
    match m with | .xst h _ _ _ => h == g | _ => false

/-- Then its members are stopped. -/
def membersStopped (s : State) (g : Nat) : State := (gangBlocks s g).foldl memberUnbound (unitsCleared s g)

/-- What a killed gang keeps for its relaunch or its end. -/
def killNoted (s : State) (g : Nat) (x : Gang) : Gang :=
  let bs := gangBlocks s g
  { x with final := !relaunchable s g, reads := nub (x.reads ++ readsOf s g),
           replays := (x.replays.filter fun e => !(bs.any fun b => (blockAt s b).index == e.1)) ++
             bs.map (fun b => ((blockAt s b).index, (blockAt s b).tailRecord)) ++
             x.shapes.map (fun h => (h.index, h.tailRecord)),
           shapes := [] }

theorem tract_killNoted (s : State) (g : Nat) (x : Gang) : (killNoted s g x).tract = x.tract := rfl
theorem liveMembers_killNoted (s : State) (g : Nat) (x : Gang) : liveMembers (killNoted s g x) = liveMembers x := rfl

/-- A killed gang leaves its tract: the slots promised to it return. -/
def tractLeft (s : State) (g t : Nat) : State := reserve (leaveTract (returnPromised s g) t g) t

theorem treatKill_eq (s : State) (g : Nat) : treatKill s g =
    modLaunch (tractLeft (modGang (membersStopped s g) g (killNoted s g)) g (gangAt s g).tract) (gangAt s g).launchKey
      fun l => { l with resumed := l.resumed.filter (· != g) } := rfl

theorem spared_discardEntries (s : State) (g c : Nat) : Spared s (discardEntries s g c) := by
  unfold discardEntries
  split
  · exact ((Spared.modCore s c _).trans (.modCore _ _ _)).trans (spared_recordsSettled (recordsSettled_wakeRecord _ _))
  · exact .refl s

theorem spared_copiesDropped (s : State) (b : Nat) : Spared s (copiesDropped s b) := by
  unfold copiesDropped
  extract_lets v
  have hv : Spared s v := ((Spared.modCore s _ _).trans (.modCore _ _ _)).trans (.modBlock _ b fun _ => ⟨rfl, rfl⟩)
  exact (hv.trans (spared_wakeWhere _ _ _)).trans (.modCore _ _ _)

theorem spared_unitsCleared (s : State) (g : Nat) : Spared s (unitsCleared s g) := by
  unfold unitsCleared
  extract_lets bs mine t
  have ht : Spared s t := .trans (.foldl (fun u c => spared_discardEntries u g c) _ s) (.foldl spared_copiesDropped bs _)
  exact (ht.trans (.foldl (fun u q => spared_orphanRequests u q mine) _ t)).trans (.of_eq rfl rfl rfl rfl)

theorem spared_memberUnbound (s : State) (b : Nat) : Spared s (memberUnbound s b) := .modBlock s b fun _ => ⟨rfl, rfl⟩

theorem spared_membersStopped (s : State) (g : Nat) : Spared s (membersStopped s g) :=
  (spared_unitsCleared s g).trans (.foldl spared_memberUnbound _ _)

/-- A block is stopped, and its tiles are unbound. -/
def Unbound (s : State) (b : Nat) : Prop := (blockAt s b).stopped = true ∧ (blockAt s b).tiles = []

theorem unbound_memberUnbound {s : State} {b c : Nat} (h : Unbound s b ∨ b = c ∧ (tfind s.blocks b).isSome) : Unbound (memberUnbound s c) b := by
  unfold Unbound memberUnbound
  rw [blockAt_modBlock]
  split
  · exact ⟨rfl, rfl⟩
  · next hne => exact h.resolve_right fun ⟨e, hs⟩ => hne ⟨e, e ▸ hs⟩

theorem Unbound.foldl {b : Nat} (bs : List Nat) {s : State} (h : Unbound s b) : Unbound (bs.foldl memberUnbound s) b := by
  induction bs generalizing s with
  | nil => exact h
  | cons c bs ih => exact ih (unbound_memberUnbound (.inl h))

theorem unbound_foldl {b : Nat} {bs : List Nat} {s : State} (hb : b ∈ bs) (hs : (tfind s.blocks b).isSome) :
    Unbound (bs.foldl memberUnbound s) b := by
  induction bs generalizing s with
  | nil => exact nomatch hb
  | cons c bs ih =>
    rcases List.mem_cons.1 hb with rfl | hmem
    · exact (unbound_memberUnbound (.inr ⟨rfl, hs⟩)).foldl bs
    · exact ih hmem (by rw [(spared_memberUnbound s c).block_isSome]; exact hs)

theorem unbound_membersStopped {s : State} {g b : Nat} (hb : b ∈ gangBlocks s g) : Unbound (membersStopped s g) b :=
  unbound_foldl hb (by rw [(spared_unitsCleared s g).block_isSome]; exact isSome_of_mem_gangBlocks hb)

/-! ## A killed gang leaves its tract (R102, R104, R105) -/

theorem tractLeft_frame (s : State) (g t : Nat) : tractLeft s g t = { s with tracts := (tractLeft s g t).tracts } := by
  have hreturn : returnPromised s g = { s with tracts := (returnPromised s g).tracts } := by
    unfold returnPromised
    dsimp only
    split <;> rfl
  rw [tractLeft, reserve_frame, leaveTract, hreturn]
  rfl

theorem slotsReturn_addReturns (now : Nat) : ∀ (n : Nat) (x : Tract), SlotsReturn x (addReturns now n x) n
  | 0, x => slotsReturn_refl x
  | n + 1, x => by
    rw [addReturns, Nat.add_comm]
    exact slotsReturn_trans (slotsReturn_addReturn now x) (slotsReturn_addReturns now n _)

theorem slotsReturn_returnPromised (s : State) (g u : Nat) : SlotsReturn (tractAt s u) (tractAt (returnPromised s g) u)
    (if u = (gangAt s g).tract ∧ g ∈ (tractAt s (gangAt s g).tract).pending then liveMembers (gangAt s g) else 0) := by
  unfold returnPromised
  dsimp only
  by_cases hg : g ∈ (tractAt s (gangAt s g).tract).pending
  · rw [if_pos (List.contains_iff_mem.2 hg), tractAt_modTract]
    by_cases hu : u = (gangAt s g).tract
    · rw [if_pos hu, if_pos ⟨hu, hg⟩, ← hu]
      exact slotsReturn_addReturns _ _ _
    · rw [if_neg hu, if_neg fun h => hu h.1]
      exact slotsReturn_refl _
  · rw [if_neg fun h => hg (List.contains_iff_mem.1 h), if_neg fun h => hg h.2]
    exact slotsReturn_refl _

theorem slotsReturn_leaveTract (s : State) (t g u : Nat) : SlotsReturn (tractAt s u) (tractAt (leaveTract s t g) u) 0 := by
  rw [leaveTract, tractAt_modTract]
  split
  · next e => rw [e]; exact slotsReturn_refl _
  · exact slotsReturn_refl _

theorem slotsReturn_reserve (s : State) (t u : Nat) : SlotsReturn (tractAt s u) (tractAt (reserve s t) u) 0 := by
  unfold reserve
  dsimp only
  split
  · exact slotsReturn_refl _
  · split
    · split
      · rw [tractAt_modTract]
        split
        · next e => rw [e]; exact slotsReturn_refl _
        · exact slotsReturn_refl _
      · exact slotsReturn_refl _
    · exact slotsReturn_refl _

theorem slotsReturn_tractLeft (s : State) (g t u : Nat) : SlotsReturn (tractAt s u) (tractAt (tractLeft s g t) u)
    (if u = (gangAt s g).tract ∧ g ∈ (tractAt s (gangAt s g).tract).pending then liveMembers (gangAt s g) else 0) :=
  slotsReturn_trans (slotsReturn_trans (slotsReturn_returnPromised s g u) (slotsReturn_leaveTract _ t g u)) (slotsReturn_reserve _ t u)

theorem not_mem_pending_tractLeft (s : State) (g t : Nat) : g ∉ (tractAt (tractLeft s g t) t).pending := by
  rw [tractLeft, pending_reserve, leaveTract, tractAt_modTract, if_pos rfl]
  simp

/-! ## A kill takes effect (R135, R136) -/

/-- A gang whose state is not a retired one's is known. -/
theorem isSome_gangs_of_state {s : State} {g : Nat} (h : (gangAt s g).state ≠ .retired) : (tfind s.gangs g).isSome := by
  rw [Option.isSome_iff_ne_none]
  intro e
  rw [gangAt, tget, e] at h
  exact h rfl

section
variable {s : State} {g tk : Nat} (h : (gangAt s g).state = .killing tk)
include h

/-- The gang itself does not change as its members stop. -/
theorem gangAt_membersStopped : gangAt (membersStopped s g) g = gangAt s g := (spared_membersStopped s g).gang g (by rw [h]; rfl)

theorem gangAt_killNoted : gangAt (modGang (membersStopped s g) g (killNoted s g)) g = killNoted s g (gangAt s g) := by
  have hsome : (tfind (membersStopped s g).gangs g).isSome := isSome_gangs_of_state (by rw [gangAt_membersStopped h, h]; exact nofun)
  rw [gangAt_modGang, if_pos ⟨rfl, hsome⟩, gangAt_membersStopped h]

theorem gangAt_treatKill : gangAt (treatKill s g) g = killNoted s g (gangAt s g) := by
  rw [treatKill_eq, gangAt_modLaunch, tractLeft_frame]
  exact gangAt_killNoted h

theorem slotsReturn_treatKill (u : Nat) : SlotsReturn (tractAt s u) (tractAt (treatKill s g) u)
    (if u = (gangAt s g).tract ∧ g ∈ (tractAt s (gangAt s g).tract).pending then liveMembers (gangAt s g) else 0) := by
  have hleft := slotsReturn_tractLeft (modGang (membersStopped s g) g (killNoted s g)) g (gangAt s g).tract u
  have htract : tractAt (modGang (membersStopped s g) g (killNoted s g)) = tractAt s := by
    funext t
    rw [tractAt_modGang, tractAt, (spared_membersStopped s g).tracts]
    rfl
  rw [gangAt_killNoted h, htract, tract_killNoted, liveMembers_killNoted] at hleft
  rw [treatKill_eq, tractAt_modLaunch]
  exact hleft

end

theorem blocks_treatKill (s : State) (g : Nat) : (treatKill s g).blocks = (membersStopped s g).blocks := by
  rw [treatKill_eq, tractLeft_frame]
  rfl

theorem quads_treatKill (s : State) (g : Nat) : (treatKill s g).quads = (membersStopped s g).quads := by
  rw [treatKill_eq, tractLeft_frame]
  rfl

theorem killGang_of_killing {s : State} {g tk : Nat} (h : (gangAt s g).state = .killing tk) : killGang s g = treatKill s g := by
  unfold killGang
  rw [h]

theorem killGang_spec {s : State} {g tk : Nat} (h : (gangAt s g).state = .killing tk) :
    (∀ b ∈ gangBlocks s g, Unbound (killGang s g) b) ∧ (g ∈ (tractAt s (gangAt s g).tract).pending →
      SlotsReturn (tractAt s (gangAt s g).tract) (tractAt (killGang s g) (gangAt s g).tract) (liveMembers (gangAt s g)) ∧
      g ∉ (tractAt (killGang s g) (gangAt s g).tract).pending) := by
  rw [killGang_of_killing h]
  refine ⟨fun b hb => ?_, fun hg => ⟨?_, ?_⟩⟩
  · rw [Unbound, blockAt, blocks_treatKill]
    exact unbound_membersStopped hb
  · have hslots := slotsReturn_treatKill h (gangAt s g).tract
    rwa [if_pos ⟨rfl, hg⟩] at hslots
  · exact not_mem_pending_tractLeft _ g _

/-! ## A killed gang's resources are released (R135) -/

theorem reported_finalKill (s : State) (g : Nat) : ∃ f, Reported
    (modLaunch (modGang s g fun y => { y with final := true }) (gangAt s g).launchKey f) (finalKill s g) := by
  unfold finalKill
  dsimp only
  exact ⟨_, .ite (reported_raise _ _ _ _ _ _) (.refl _)⟩

theorem gangAt_state_finalKill (s : State) (g : Nat) : (gangAt (finalKill s g) g).state = (gangAt s g).state := by
  obtain ⟨f, h⟩ := reported_finalKill s g
  rw [h.gangAt, gangAt_modLaunch, gangAt_modGang]
  split <;> rfl

theorem gangLeft_finalKill {s t : State} {g : Nat} (h : GangLeft s t g) : GangLeft s (finalKill t g) g := by
  obtain ⟨f, hr⟩ := reported_finalKill t g
  exact gangLeft_congr h hr.blocks hr.sheaves hr.strands hr.tracts

/-- A gang that has left its cores since its members stopped has left them since before. -/
theorem gangLeft_of_before {s v t : State} {g : Nat} (h : GangLeft v t g) (hb : gangBlocks v g = gangBlocks s g)
    (hf : ∀ b, blockSheaves v b = blockSheaves s b) (hq : ∀ q, (quadAt v q).retired = (quadAt s q).retired)
    (ht : ∀ u, SlotsReturn (tractAt s u) (tractAt v u) 0) : GangLeft s t g := by
  obtain ⟨hgone, hslots⟩ := h
  simp only [hb, hf, hq] at hgone hslots
  exact ⟨hgone, fun u => by simpa only [Nat.zero_add] using slotsReturn_trans (ht u) (hslots u)⟩

theorem gangLeft_treated {s : State} {g tk : Nat} (h : (gangAt s g).state = .killing tk)
    (hg : g ∉ (tractAt s (gangAt s g).tract).pending) (hp : (tkeys s.blocks).Pairwise (· < ·)) :
    GangLeft s ((gangBlocks (treatKill s g) g).foldl freeBlock (treatKill s g)) g := by
  have hspared := spared_membersStopped s g
  have hblocks := blocks_treatKill s g
  have hkeys : (tkeys (treatKill s g).blocks).Pairwise (· < ·) := by
    rw [hblocks, hspared.tkeys hp]
    exact hp
  refine gangLeft_of_before (gangLeft_freeBlocks hkeys g) ?_ (fun b => ?_) (fun q => ?_) fun u => ?_
  · exact (congrArg (fun bs => (bs.filter fun p => p.2.gang == g).map (·.1)) hblocks).trans (hspared.gangBlocks hp g)
  · rw [← hspared.blockSheaves b, blockSheaves, blockAt, hblocks]
    rfl
  · rw [← hspared.retired q, quadAt, quads_treatKill]
    rfl
  · have hslots := slotsReturn_treatKill h u
    rwa [if_neg fun e => hg e.2] at hslots

/-- The members of a gang have left their cores, and it is killed. -/
def killReleased (s : State) (g : Nat) : State := modGang ((gangBlocks s g).foldl freeBlock s) g fun y => { y with state := .killed }

theorem releaseKilled_eq (s : State) (g : Nat) :
    releaseKilled s g = if (gangAt s g).final then finalKill (killReleased s g) g else killReleased s g := rfl

theorem state_killReleased {s : State} {g : Nat} (h : (tfind s.gangs g).isSome) : (gangAt (killReleased s g) g).state = .killed := by
  have hsome := foldl_related (R := fun s t : State => (tfind t.gangs g).isSome = (tfind s.gangs g).isSome) (fun _ => rfl)
    (fun h k => k.trans h) (fun u b => isSome_gangs_freeBlock u b g) (gangBlocks s g) s
  rw [killReleased, gangAt_modGang, if_pos ⟨rfl, hsome.trans h⟩]

theorem state_releaseKilled {s : State} {g : Nat} (h : (tfind s.gangs g).isSome) : (gangAt (releaseKilled s g) g).state = .killed := by
  rw [releaseKilled_eq]
  split
  · rw [gangAt_state_finalKill, state_killReleased h]
  · exact state_killReleased h

theorem gangLeft_releaseKilled {s v : State} {g : Nat} (h : GangLeft s ((gangBlocks v g).foldl freeBlock v) g) :
    GangLeft s (releaseKilled v g) g := by
  have hrel : GangLeft s (killReleased v g) g := gangLeft_congr h rfl rfl rfl rfl
  rw [releaseKilled_eq]
  split
  · exact gangLeft_finalKill hrel
  · exact hrel

theorem finishKill_due {s : State} {g tk : Nat} (h : (gangAt s g).state = .killing tk) (ht : tk + 1000 ≤ s.now) :
    finishKill s g = releaseKilled (treatKill s g) g := by
  have hdue : (killTreated s g || decide (tk + Config.killTicks ≤ s.now)) = true := by
    rw [show Config.killTicks = 1000 from rfl, decide_eq_true ht, Bool.or_true]
  unfold finishKill
  rw [h]
  exact if_pos hdue

theorem finishKill_spec {s : State} {g tk : Nat} (h : (gangAt s g).state = .killing tk) (ht : tk + 1000 ≤ s.now) :
    (gangAt (finishKill s g) g).state = .killed ∧
    (g ∉ (tractAt s (gangAt s g).tract).pending → (tkeys s.blocks).Pairwise (· < ·) → GangLeft s (finishKill s g) g) := by
  have hstate : (gangAt (treatKill s g) g).state = .killing tk := by
    rw [gangAt_treatKill h]
    exact h
  rw [finishKill_due h ht]
  exact ⟨state_releaseKilled (isSome_gangs_of_state (by rw [hstate]; exact nofun)),
    fun hg hp => gangLeft_releaseKilled (gangLeft_treated h hg hp)⟩

/-! ## A killed gang is relaunched (R103, R138, R140) -/

/-- A gang takes its place before the first gang of a list that does not come before it in block order. -/
theorem insertGang_split (s : State) (g : Nat) : ∀ gs : List Nat, ∃ before after, gs = before ++ after ∧
    insertGang s g gs = before ++ g :: after ∧ (∀ h ∈ before, (gangAt s h).first < (gangAt s g).first) ∧
    ∀ h, after.head? = some h → (gangAt s g).first ≤ (gangAt s h).first
  | [] => ⟨[], [], rfl, rfl, nofun, nofun⟩
  | h :: hs => by
    rw [insertGang]
    split
    · next hle => exact ⟨[], h :: hs, rfl, rfl, nofun, fun x hx => Option.some.inj hx ▸ hle⟩
    · next hlt =>
      obtain ⟨before, after, hsplit, hins, hbefore, hafter⟩ := insertGang_split s g hs
      refine ⟨h :: before, after, by rw [hsplit]; rfl, by rw [hins]; rfl, fun x hx => ?_, hafter⟩
      rcases List.mem_cons.1 hx with rfl | hx
      · omega
      · exact hbefore x hx

/-- A killed gang waits for its place again. -/
def gangPending (s : State) (g : Nat) : State :=
  modGang s g fun y => { y with state := .pending, cause := none, relaunches := y.relaunches + 1, retiredMembers := [], passes := 0,
                                horizon := 0, reads := [], seen := [] }

theorem first_gangPending (s : State) (g x : Nat) : (gangAt (gangPending s g) x).first = (gangAt s x).first := by
  rw [gangPending, gangAt_modGang]
  split
  · next e => rw [e.1]
  · rfl

/-- A relaunched gang takes its place in its launch's list, and is counted. -/
def relaunchNoted (s : State) (g : Nat) : State :=
  modLaunch (gangPending s g) (gangAt s g).launchKey fun l =>
    { l with resumed := insertGang (gangPending s g) g l.resumed, relaunched := l.relaunched + 1,
             retiredBlocks := l.retiredBlocks - (gangAt s g).retiredMembers.length }

theorem reported_relaunch {s : State} {g : Nat} (hk : (gangAt s g).state = .killed) (hf : (gangAt s g).final = false)
    (hs : settled s g = true) : Reported (relaunchNoted s g) (relaunch s g) := by
  unfold relaunch
  dsimp only
  rw [if_neg (by simp [hk, hf, hs])]
  exact reported_raise _ _ _ _ _ _

theorem relaunch_spec {s : State} {g : Nat} (hk : (gangAt s g).state = .killed) (hf : (gangAt s g).final = false)
    (hs : settled s g = true) :
    (gangAt (relaunch s g) g).state = .pending ∧ (gangAt (relaunch s g) g).relaunches = (gangAt s g).relaunches + 1 ∧
    ((tfind s.launches (gangAt s g).launchKey).isSome →
      (∃ before after, (launchAt s (gangAt s g).launchKey).resumed = before ++ after ∧
        (launchAt (relaunch s g) (gangAt s g).launchKey).resumed = before ++ g :: after ∧
        (∀ h ∈ before, (gangAt s h).first < (gangAt s g).first) ∧
        ∀ h, after.head? = some h → (gangAt s g).first ≤ (gangAt s h).first) ∧
      (launchAt (relaunch s g) (gangAt s g).launchKey).relaunched = (launchAt s (gangAt s g).launchKey).relaunched + 1) := by
  have hr := reported_relaunch hk hf hs
  have hsome : (tfind s.gangs g).isSome := isSome_gangs_of_state (by rw [hk]; exact nofun)
  rw [hr.gangAt, relaunchNoted, gangAt_modLaunch, gangPending, gangAt_modGang, if_pos ⟨rfl, hsome⟩]
  refine ⟨rfl, rfl, fun hl => ?_⟩
  rw [hr.launchAt, relaunchNoted, launchAt_modLaunch, if_pos ⟨rfl, hl⟩]
  refine ⟨?_, rfl⟩
  obtain ⟨before, after, hsplit, hins, hbefore, hafter⟩ := insertGang_split (gangPending s g) g (launchAt s (gangAt s g).launchKey).resumed
  simp only [first_gangPending] at hbefore hafter
  exact ⟨before, after, hsplit, hins, hbefore, hafter⟩

/-! ## Control state struck by a parity error (R130) -/

theorem startKill_live {s : State} {g : Nat} (h : (gangAt s g).state.live = true) (c : Option RasClass) (injected : Bool) (loc : Loc) :
    startKill s g c injected loc = killNow s g c injected loc := if_pos h

theorem controlError_block {s : State} {c slot : Nat} {b : Block} (hb : tfind s.blocks (4 * c + slot) = some b)
    (hl : (gangAt s b.gang).state.live = true) (hs : (tfind s.gangs b.gang).isSome) :
    (gangAt (controlError s c slot none) b.gang).state = .killing s.now ∧
    (gangAt (controlError s c slot none) b.gang).cause = some .control := by
  have herr : controlError s c slot none = killNow s b.gang (some .control) false (locCore c) := by
    unfold controlError
    rw [hb]
    exact startKill_live hl _ _ _
  rw [herr, gangAt_killNow, if_pos ⟨rfl, hs⟩]
  exact ⟨rfl, rfl⟩

/-- Every entry of a record that has a number has left its core. -/
def AllSent (n : Nat) (l : List RecEntry) : Prop := ∀ x ∈ l, x.seq = n → x.state = .sent

theorem AllSent.settleList {n : Nat} : ∀ {l : List RecEntry} {blocked : Bool}, AllSent n l → AllSent n (settleList blocked l)
  | [], _, h => h
  | e :: l, blocked, h => by
    obtain ⟨he, hl⟩ := List.forall_mem_cons.1 h
    rw [Machine.settleList]
    split
    · next hopen =>
      have ho : e.state = .opened := by simpa using (Bool.and_eq_true_iff.1 hopen).1
      have hne : e.seq ≠ n := fun hn => nomatch ho.symm.trans (he hn)
      split
      · exact List.forall_mem_cons.2 ⟨fun hn => absurd hn hne, AllSent.settleList hl⟩
      · exact List.forall_mem_cons.2 ⟨he, AllSent.settleList hl⟩
    · exact List.forall_mem_cons.2 ⟨he, AllSent.settleList hl⟩

theorem AllSent.askDrain {n seq : Nat} {l : List RecEntry} (h : AllSent n l) : AllSent n (l.map (askDrain seq)) := by
  intro x hx hn
  obtain ⟨y, hy, rfl⟩ := List.mem_map.1 hx
  rw [seq_askDrain] at hn
  have hsent := h y hy hn
  rw [Proofs.askDrain, if_neg (by simp [hsent]), hsent]

/-- A core whose record's entries of a number have all left it stays so. -/
def SentStay (n c : Nat) (s t : State) : Prop := AllSent n (coreAt s c).record → AllSent n (coreAt t c).record

theorem sentStay_settle (n c : Nat) (s : State) : SentStay n c s (settle s c) := fun h => by
  rw [settle, coreAt_modCore, if_pos rfl]
  exact h.settleList

theorem sentStay_drainOldest (n c : Nat) (s : State) : SentStay n c s (drainOldest s c) := fun h => by
  unfold drainOldest
  dsimp only
  split
  · exact h
  · split
    · rw [record_drainUpTo]
      exact h.askDrain.settleList
    · exact h

theorem sentStay_wakeRecord (n c : Nat) (s : State) : SentStay n c s (wakeRecord s c) :=
  foldl_related (R := SentStay n c) (fun _ h => h) (fun h k => k ∘ h) (fun u k => by
    split
    · exact fun h => h
    · split
      · exact fun h => h
      · exact sentStay_drainOldest n c u) _ s

/-- The gang of a record entry that is struck, live or retired, is killed. -/
def entryKill (s : State) (g c : Nat) : State :=
  if (gangAt s g).state == .retired then killNow s g (some .control) false (locCore c) else startKill s g (some .control) false (locCore c)

theorem state_entryKill {s : State} {g : Nat} (h : (gangAt s g).state.live = true ∨ (gangAt s g).state = .retired)
    (hs : (tfind s.gangs g).isSome) (c : Nat) : (gangAt (entryKill s g c) g).state = .killing s.now := by
  have hkill : entryKill s g c = killNow s g (some .control) false (locCore c) := by
    unfold entryKill
    split
    · rfl
    · next hne => exact startKill_live (h.resolve_right fun e => hne (beq_iff_eq.2 e)) _ _ _
  rw [hkill, gangAt_killNow, if_pos ⟨rfl, hs⟩]

/-- The entries of a number that have not left their core are discarded. -/
def entryDiscarded (s : State) (c seq : Nat) : State :=
  modCore s c fun k => { k with record := k.record.filter fun o => o.seq != seq || o.state == .sent }

theorem allSent_entryDiscarded (s : State) (c seq : Nat) : AllSent seq (coreAt (entryDiscarded s c seq) c).record := by
  intro x hx hn
  rw [entryDiscarded, coreAt_modCore, if_pos rfl] at hx
  obtain ⟨-, hkept⟩ := List.mem_filter.1 hx
  simpa [hn] using hkept

theorem controlError_entry {s : State} {c seq : Nat} {e : RecEntry} (slot : Nat)
    (he : ((coreAt s c).record.find? fun e => e.seq == seq) = some e) :
    controlError s c slot (some seq) = wakeRecord (settle (entryDiscarded (entryKill s e.gang c) c seq) c) c := by
  unfold controlError
  dsimp only
  rw [he]
  rfl

theorem controlError_entry_spec {s : State} {c seq : Nat} {e : RecEntry} (slot : Nat)
    (he : ((coreAt s c).record.find? fun e => e.seq == seq) = some e) :
    (∀ x ∈ (coreAt (controlError s c slot (some seq)) c).record, x.seq = seq → x.state = .sent) ∧
    ((gangAt s e.gang).state.live = true ∨ (gangAt s e.gang).state = .retired → (tfind s.gangs e.gang).isSome →
      (gangAt (controlError s c slot (some seq)) e.gang).state = .killing s.now) := by
  rw [controlError_entry slot he]
  refine ⟨sentStay_wakeRecord seq c _ (sentStay_settle seq c _ (allSent_entryDiscarded _ c seq)), fun hl hs => ?_⟩
  rw [(recordsSettled_wakeRecord _ c).frame]
  exact state_entryKill hl hs c

/-- Settles O51: what stops a killed gang's members spares its tract's slots and the places of blocks, so that its members leave their
cores as they stood; a relaunched gang goes to its place in block order; of the entries struck only those stay that have left their
core. -/
theorem killEvents : Obligations.KillEvents := by
  unfold Obligations.KillEvents
  exact ⟨fun s tk h => ⟨_, rfl, killGang_spec h⟩, fun s tk h ht => ⟨_, rfl, finishKill_spec h ht⟩,
    fun s hk hf hs => ⟨_, rfl, relaunch_spec hk hf hs⟩, fun core slot s b hb hl hs => ⟨_, rfl, controlError_block hb hl hs⟩,
    fun core slot seq s e he => ⟨_, rfl, controlError_entry_spec slot he⟩⟩

end Sys2Proof.Proofs
end

section
/-! SUPPORT. A trap that no handler takes (R134, R356): the trap is forgotten, and its gang's kill takes effect. -/

namespace Sys2Proof.Proofs
open Sys2Proof Sys2Proof.Machine Sys2Proof.Laws

/-- A strand whose trap is taken, or that no entry lists, awaits none. -/
def trapForgotten (s : State) (k : Nat) : State := modStrand s k fun y => { y with trap := none }

theorem strandAt_trapForgotten (s : State) (k : Nat) : strandAt (trapForgotten s k) k = { strandAt s k with trap := none } := by
  rw [trapForgotten, strandAt_modStrand]
  split
  · rfl
  · next h =>
    have hk : tfind s.strands k = none := Option.not_isSome_iff_eq_none.1 fun hs => h ⟨rfl, hs⟩
    rw [strandAt, tget, hk]
    rfl

/-- No handler takes a strand's trap (R356): its launch names none, the strand is in one, or it runs handler or resume code. -/
def NoHandler (s : State) (k : Nat) : Prop :=
  (launchOf s (blockAt s (blockOf s k))).record.trapOff = 0xFFFFFFFF ∨ (strandAt s k).trapDepth ≠ 0 ∨
    (sheafAt s (sheafOf k)).phase ≠ .normal

/-- The question as the trap entry asks it. -/
theorem noHandler_iff (s : State) (k : Nat) : NoHandler s k ↔ (decide ((launchOf s (blockAt s (blockOf s k))).record.trapOff = 0xFFFFFFFF) ||
    (strandAt s k).trapDepth != 0 || (sheafAt s (sheafOf k)).phase != .normal) = true := by
  simp [NoHandler, or_assoc]

theorem trapEntry_of_noHandler {s : State} {k : Nat} (h : NoHandler s k) (c : Cause) (trpc tdet : DWord) :
    trapEntry s k c trpc tdet = killOf (trapForgotten s k) k .trap := by
  have hdepth : (strandAt (trapForgotten s k) k).trapDepth = (strandAt s k).trapDepth := by rw [strandAt_trapForgotten]
  have hstill : NoHandler (trapForgotten s k) k := by rw [NoHandler, hdepth]; exact h
  unfold trapEntry
  exact if_pos ((noHandler_iff _ k).1 hstill)

/-- Settles O18: the trap is forgotten, and the kill changes the gang's entry and what the host is told, no strand. -/
theorem untrappedKills : Obligations.UntrappedKills := by
  intro s k c trpc tdet h
  dsimp only
  intro hl hg
  rw [trapEntry_of_noHandler h, killOf]
  have hgang : gangAt (startKill (trapForgotten s k) (blockAt s (blockOf s k)).gang (some .trap) false (locCore (coreOf k)))
      (blockAt s (blockOf s k)).gang = { gangAt s (blockAt s (blockOf s k)).gang with state := .killing s.now, cause := some .trap } :=
    (gangAt_startKill rfl _ _ _ _ _).trans (if_pos ⟨rfl, hg, hl⟩)
  refine ⟨congrArg Gang.state hgang, congrArg Gang.cause hgang, ?_⟩
  rw [← strandAt_trapForgotten]
  exact congrArg (fun l => tget l k Strand.blank) (reported_startKill rfl _ _ _ _).strands

end Sys2Proof.Proofs
end

section
/-! SUPPORT. Registers as destinations (R151, R152, R227, R280): what a write of one changes of its strand or its sheaf, what it leaves
alone, and what is read there afterwards. -/

namespace Sys2Proof.Proofs
open Sys2Proof Sys2Proof.Machine Sys2Proof.Laws

/-! ## Bits that are extended (R200, R280) -/

theorem signedOf_eq_emod (x w : Nat) : signedOf x w % (2 ^ w : Int) = (x : Int) % (2 ^ w : Int) := by
  have h : ((x % 2 ^ w : Nat) : Int) = (x : Int) % (2 ^ w : Int) := by push_cast; rfl
  unfold signedOf
  split
  · rw [Int.sub_emod_right, h, Int.emod_emod]
  · rw [h, Int.emod_emod]

/-- Bits that fill their register are as they are, of either sign. -/
theorem extendBits_self (x w : Nat) (signed : Bool) : extendBits x w signed w = x % 2 ^ w := by
  unfold extendBits
  split
  · rw [signedOf_eq_emod]
    norm_cast
  · rfl

theorem extendBits_lt (x : Nat) {w target : Nat} (h : w ≤ target) (signed : Bool) : extendBits x w signed target < 2 ^ target := by
  unfold extendBits
  split
  · have := Int.emod_lt_of_pos (signedOf x w) (show (0 : Int) < 2 ^ target by positivity)
    have := Int.emod_nonneg (signedOf x w) (show (2 ^ target : Int) ≠ 0 by positivity)
    zify
    omega
  · exact lt_of_lt_of_le (Nat.mod_lt _ (by positivity)) (Nat.pow_le_pow_right (by norm_num) h)

theorem tyWidth_le_64 (ty : BitVec 4) : tyWidth ty ≤ 64 := by revert ty; decide

theorem tyWidth_le_32 {ty : BitVec 4} (h : tyWidth ty ≠ 64) : tyWidth ty ≤ 32 := by revert ty; decide

/-! ## What a strand or a sheaf takes -/

/-- A strand whose vector register, or pair of them, has taken bits of a type with the poison of each half. -/
def vsTaken (x : Strand) (ty : BitVec 4) (n bits : Nat) (p : Bool × Bool) : Strand :=
  if tyWidth ty = 64 then regTaken (regTaken x n (BitVec.ofNat 32 bits) p.1) (n + 1) (BitVec.ofNat 32 (bits / 2 ^ 32)) p.2
  else regTaken x n (BitVec.ofNat 32 (extendBits bits (tyWidth ty) (tySigned ty) 32)) p.1

/-- A strand whose predicate has taken a value. -/
def predTaken (x : Strand) (n : Nat) (v : Bool) : Strand :=
  if n ≥ 7 then x else { x with preds := if v then x.preds ||| (1#8 <<< n) else x.preds &&& ~~~(1#8 <<< n) }

/-- A strand after a write of a destination. -/
def operandTaken (ty : BitVec 4) (o : Operand) (bits : Nat) (p : Bool × Bool) (x : Strand) : Strand :=
  match o with
  | .v i => vsTaken x ty i.toNat bits p
  | .b i => vsTaken x ty (x.slotReg i.toNat) bits p
  | .p i => predTaken x i.toNat (bits % 2 == 1)
  | _ => x

/-- A sheaf whose uniform register has taken a value with its poison. -/
def uniformTaken (y : Sheaf) (n : Nat) (v : DWord) (poison : Bool) : Sheaf :=
  { y with w := tset y.w n v, wPoison := if poison then sinsert n y.wPoison else sremove n y.wPoison }

/-- A strand's sheaf after a write of a destination. -/
def sheafTaken (ty : BitVec 4) (o : Operand) (bits : Nat) (p : Bool × Bool) (y : Sheaf) : Sheaf :=
  match o with
  | .w i => uniformTaken y i.toNat (BitVec.ofNat 64 (extendBits bits (tyWidth ty) (tySigned ty) 64)) (p.1 || p.2)
  | _ => y

/-! ## What every write of a register leaves alone -/

/-- A state differs from another in the registers and predicates of strands, in uniform registers, and in no other field of a strand
or a sheaf. -/
structure RegsWritten (s t : State) : Prop where
  strand : ∀ k, strandAt t k = { strandAt s k with
    v := (strandAt t k).v, vPoison := (strandAt t k).vPoison, preds := (strandAt t k).preds }
  strand_isSome : ∀ k, (tfind t.strands k).isSome = (tfind s.strands k).isSome
  sheaf : ∀ f, sheafAt t f = { sheafAt s f with w := (sheafAt t f).w, wPoison := (sheafAt t f).wPoison }
  sheaf_isSome : ∀ f, (tfind t.sheaves f).isSome = (tfind s.sheaves f).isSome

namespace RegsWritten

theorem of_eq {s t : State} (hs : t.strands = s.strands) (hf : t.sheaves = s.sheaves) : RegsWritten s t where
  strand k := by rw [show strandAt t k = strandAt s k by rw [strandAt, hs]; rfl]
  strand_isSome k := by rw [hs]
  sheaf f := by rw [show sheafAt t f = sheafAt s f by rw [sheafAt, hf]; rfl]
  sheaf_isSome f := by rw [hf]

theorem refl (s : State) : RegsWritten s s := of_eq rfl rfl

theorem trans {s t u : State} (h : RegsWritten s t) (k : RegsWritten t u) : RegsWritten s u where
  strand j := by rw [k.strand, h.strand]
  strand_isSome j := (k.strand_isSome j).trans (h.strand_isSome j)
  sheaf f := by rw [k.sheaf, h.sheaf]
  sheaf_isSome f := (k.sheaf_isSome f).trans (h.sheaf_isSome f)

theorem modStrand (s : State) (k : Nat) {f : Strand → Strand}
    (hf : ∀ x, f x = { x with v := (f x).v, vPoison := (f x).vPoison, preds := (f x).preds }) : RegsWritten s (modStrand s k f) where
  strand j := by
    rw [strandAt_modStrand]
    split
    · next h => rw [h.1]; exact hf _
    · rfl
  strand_isSome j := isSome_modStrand s k j f
  sheaf _ := rfl
  sheaf_isSome _ := rfl

theorem modSheaf (s : State) (g : Nat) {f : Sheaf → Sheaf} (hf : ∀ y, f y = { y with w := (f y).w, wPoison := (f y).wPoison }) :
    RegsWritten s (modSheaf s g f) where
  strand _ := rfl
  strand_isSome _ := rfl
  sheaf j := by
    rw [sheafAt_modSheaf]
    split
    · next h => rw [h.1]; exact hf _
    · rfl
  sheaf_isSome j := isSome_tmod _ _ _ _

theorem foldl {α : Type} {f : State → α → State} (hf : ∀ s a, RegsWritten s (f s a)) (l : List α) (s : State) :
    RegsWritten s (l.foldl f s) := foldl_related .refl (fun h k => h.trans k) hf l s

theorem block {s t : State} (h : RegsWritten s t) (k : Nat) : blockOf t k = blockOf s k := by rw [blockOf, h.sheaf]; rfl

theorem slotReg {s t : State} (h : RegsWritten s t) (k i : Nat) : (strandAt t k).slotReg i = (strandAt s k).slotReg i := by
  rw [h.strand]; rfl

end RegsWritten

theorem threads_logRas (s : State) (c : RasClass) (injected : Bool) (loc : Loc) (d0 d1 : DWord) :
    (logRas s c injected loc d0 d1).strands = s.strands ∧ (logRas s c injected loc d0 d1).sheaves = s.sheaves := by
  have hcount : (countError s c loc).strands = s.strands ∧ (countError s c loc).sheaves = s.sheaves := by
    unfold countError
    split
    · split <;> exact ⟨rfl, rfl⟩
    · exact ⟨rfl, rfl⟩
  have h := reported_logRas_counted s c injected loc d0 d1
  exact ⟨h.strands.trans hcount.1, h.sheaves.trans hcount.2⟩

theorem regsWritten_strike (s : State) (b unit : Nat) : RegsWritten s (strike s b unit).2 := by
  unfold strike
  split
  · split
    · exact .of_eq rfl rfl
    · exact .refl s
  · exact .refl s

theorem regsWritten_logStrike (s : State) (b kind : Nat) : RegsWritten s (logStrike s b kind) :=
  .of_eq (threads_logRas _ _ _ _ _ _).1 (threads_logRas _ _ _ _ _ _).2

theorem regsWritten_writeV (s : State) (k n : Nat) (v : Word) (poison : Bool) : RegsWritten s (writeV s k n v poison) := by
  unfold writeV
  refine .trans ?_ (.modStrand _ _ fun _ => ?_)
  · split
    · exact (regsWritten_strike _ _ _).trans (regsWritten_logStrike _ _ _)
    · exact regsWritten_strike _ _ _
  · rfl

theorem regsWritten_writeVsP (s : State) (k : Nat) (ty : BitVec 4) (n bits : Nat) (p : Bool × Bool) :
    RegsWritten s (writeVsP s k ty n bits p) := by
  unfold writeVsP
  split
  · exact (regsWritten_writeV _ _ _ _ _).trans (regsWritten_writeV _ _ _ _ _)
  · exact regsWritten_writeV _ _ _ _ _

theorem regsWritten_writeWs (s : State) (k : Nat) (ty : BitVec 4) (n bits : Nat) (poison : Bool) :
    RegsWritten s (writeWs s k ty n bits poison) := .modSheaf _ _ fun _ => rfl

theorem regsWritten_writeP (s : State) (k n : Nat) (v : Bool) : RegsWritten s (writeP s k n v) := by
  unfold writeP
  split
  · exact .refl s
  · exact .modStrand _ _ fun _ => rfl

theorem regsWritten_writeOperandP (s : State) (k : Nat) (ty : BitVec 4) (o : Operand) (bits : Nat) (p : Bool × Bool) :
    RegsWritten s (writeOperandP s k ty o bits p) := by
  unfold writeOperandP
  split
  · exact regsWritten_writeVsP _ _ _ _ _ _
  · exact regsWritten_writeVsP _ _ _ _ _ _
  · exact regsWritten_writeWs _ _ _ _ _ _
  · exact regsWritten_writeP _ _ _ _
  · exact .refl s

/-! ## A write where no register is shared and no error is armed (R155, R353) -/

/-- A strand's block shares no registers and has no error armed. -/
def Unshared (s : State) (k : Nat) : Prop := (blockAt s (blockOf s k)).shared = [] ∧ (blockAt s (blockOf s k)).armed = none

/-- Nothing but strands and sheaves differs. -/
def ThreadsMoved (s t : State) : Prop := t = { s with strands := t.strands, sheaves := t.sheaves }

theorem ThreadsMoved.refl (s : State) : ThreadsMoved s s := rfl

theorem ThreadsMoved.trans {s t u : State} (h : ThreadsMoved s t) (k : ThreadsMoved t u) : ThreadsMoved s u := by
  unfold ThreadsMoved at *
  rw [k, h]

theorem ThreadsMoved.blockAt {s t : State} (h : ThreadsMoved s t) (b : Nat) : blockAt t b = blockAt s b := by
  rw [h]; rfl

theorem threadsMoved_modStrand (s : State) (k : Nat) (f : Strand → Strand) : ThreadsMoved s (modStrand s k f) := rfl

theorem Unshared.congr {s t : State} {k : Nat} (h : Unshared s k) (ht : ThreadsMoved s t) (hb : blockOf t k = blockOf s k) :
    Unshared t k := by
  rw [Unshared, hb, ht.blockAt]
  exact h

theorem writeVsP_eq {s : State} {k : Nat} (h : Unshared s k) (ty : BitVec 4) (n bits : Nat) (p : Bool × Bool) :
    writeVsP s k ty n bits p = if tyWidth ty = 64 then
      modStrand (modStrand s k fun x => regTaken x n (BitVec.ofNat 32 bits) p.1) k fun x =>
        regTaken x (n + 1) (BitVec.ofNat 32 (bits / 2 ^ 32)) p.2
    else modStrand s k fun x => regTaken x n (BitVec.ofNat 32 (extendBits bits (tyWidth ty) (tySigned ty) 32)) p.1 := by
  have h' : ∀ f, Unshared (modStrand s k f) k := fun f => h.congr (threadsMoved_modStrand s k f) rfl
  unfold writeVsP
  rw [writeV_eq h.1 h.2, writeV_eq h.1 h.2, writeV_eq (h' _).1 (h' _).2]

theorem strandAt_writeVsP {s : State} {k : Nat} (h : Unshared s k) (hk : (tfind s.strands k).isSome) (ty : BitVec 4) (n bits : Nat)
    (p : Bool × Bool) (j : Nat) :
    strandAt (writeVsP s k ty n bits p) j = if j = k then vsTaken (strandAt s j) ty n bits p else strandAt s j := by
  have hmod : ∀ (u : State) (f : Strand → Strand), (tfind u.strands k).isSome →
      strandAt (modStrand u k f) j = if j = k then f (strandAt u j) else strandAt u j := by
    intro u f hu
    rw [strandAt_modStrand]
    by_cases hj : j = k
    · rw [if_pos ⟨hj, hu⟩, if_pos hj, hj]
    · rw [if_neg (fun c => hj c.1), if_neg hj]
  rw [writeVsP_eq h, vsTaken]
  split
  · rw [hmod _ _ (by rw [isSome_modStrand]; exact hk), hmod _ _ hk]
    split <;> rfl
  · rw [hmod _ _ hk]

/-- A destination of a strand whose registers are not shared: only the strand changes, and its sheaf. -/
theorem threadsMoved_writeOperandP {s : State} {k : Nat} (h : Unshared s k) (ty : BitVec 4) (o : Operand) (bits : Nat) (p : Bool × Bool) :
    ThreadsMoved s (writeOperandP s k ty o bits p) := by
  have hvs : ∀ n, ThreadsMoved s (writeVsP s k ty n bits p) := by
    intro n
    rw [writeVsP_eq h]
    split
    · rfl
    · rfl
  unfold writeOperandP
  split
  · exact hvs _
  · exact hvs _
  · rfl
  · unfold writeP
    split
    · rfl
    · rfl
  · rfl

theorem strandAt_writeOperandP {s : State} {k : Nat} (h : Unshared s k) (hk : (tfind s.strands k).isSome) (ty : BitVec 4) (o : Operand)
    (bits : Nat) (p : Bool × Bool) (j : Nat) :
    strandAt (writeOperandP s k ty o bits p) j = if j = k then operandTaken ty o bits p (strandAt s j) else strandAt s j := by
  cases o with
  | v i => exact strandAt_writeVsP h hk ty _ bits p j
  | b i =>
    refine (strandAt_writeVsP h hk ty _ bits p j).trans ?_
    split
    · next e => rw [e]; rfl
    · rfl
  | p i =>
    rw [writeOperandP, writeP, operandTaken, predTaken]
    split
    · simp
    · rw [strandAt_modStrand]
      by_cases hj : j = k
      · rw [if_pos ⟨hj, hk⟩, if_pos hj, hj]
      · rw [if_neg (fun c => hj c.1), if_neg hj]
  | _ => exact (ite_self _).symm

theorem sheafAt_writeOperandP {s : State} {k : Nat} (h : Unshared s k) (hf : (tfind s.sheaves (sheafOf k)).isSome) (ty : BitVec 4)
    (o : Operand) (bits : Nat) (p : Bool × Bool) (f : Nat) :
    sheafAt (writeOperandP s k ty o bits p) f = if f = sheafOf k then sheafTaken ty o bits p (sheafAt s f) else sheafAt s f := by
  have hvs : ∀ n, sheafAt (writeVsP s k ty n bits p) f = sheafAt s f := by
    intro n
    rw [writeVsP_eq h]
    split
    · rfl
    · rfl
  cases o with
  | v i => exact (hvs _).trans (ite_self _).symm
  | b i => exact (hvs _).trans (ite_self _).symm
  | w i =>
    rw [writeOperandP, writeWs, writeW, sheafAt_modSheaf]
    by_cases hj : f = sheafOf k
    · rw [if_pos ⟨hj, hf⟩, if_pos hj, hj]
      rfl
    · rw [if_neg (fun c => hj c.1), if_neg hj]
  | p i =>
    rw [writeOperandP, writeP]
    split
    · exact (ite_self _).symm
    · exact (ite_self _).symm
  | _ => exact (ite_self _).symm

/-! ## What a destination reads after its write (R152, R280) -/

/-- An operand that can be a destination: a vector register, a slot, a uniform register or a predicate (R225). -/
def IsDest : Operand → Prop
  | .v _ | .b _ | .w _ => True
  | .p i => i.toNat < 8
  | _ => False

/-- What a destination has of the poison that is written to its two halves. -/
def destTaint (ty : BitVec 4) (o : Operand) (p : Bool × Bool) : Bool :=
  match o with
  | .p _ => false
  | .w _ => p.1 || p.2
  | _ => if tyWidth ty = 64 then p.1 || p.2 else p.1

/-- Two strands agree in what a destination reads of one. -/
structure SameRegs (x z : Strand) : Prop where
  v : x.v = z.v
  vPoison : x.vPoison = z.vPoison
  preds : x.preds = z.preds
  slots : ∀ i, x.slotReg i = z.slotReg i

theorem contains_sinsert_ne {n m : Nat} (h : m ≠ n) (l : List Nat) (poison : Bool) :
    (if poison then sinsert n l else sremove n l).contains m = l.contains m := by
  cases poison
  · simp [sremove, h]
  · rw [if_pos rfl, sinsert]
    split
    · rfl
    · simp [h]

theorem readV_unshared {s : State} {k : Nat} (h : (blockAt s (blockOf s k)).shared = []) (n : Nat) :
    readV s k n = (tget (strandAt s k).v n 0, (strandAt s k).vPoison.contains n) := by
  unfold readV
  rw [vHome_of_unshared h]

theorem readVs_one (s : State) (k n : Nat) : readVs s k [n] = ((readV s k n).1.toNat, (readV s k n).2) := by simp [readVs]

theorem readVs_pair (s : State) (k n : Nat) : readVs s k [n, n + 1] =
    ((readV s k n).1.toNat + 2 ^ 32 * (readV s k (n + 1)).1.toNat, (readV s k n).2 || (readV s k (n + 1)).2) := by simp [readVs]

/-- The two registers of a pair hold the low and the high half of 64 bits. -/
theorem halves_eq (bits : Nat) :
    ((BitVec.ofNat 32 bits).toNat + 2 ^ 32 * (BitVec.ofNat 32 (bits / 2 ^ 32)).toNat) % 2 ^ 64 = bits % 2 ^ 64 := by
  simp only [BitVec.toNat_ofNat]
  omega

/-- Registers read back what a strand has taken. -/
theorem readVs_taken {t : State} {k n bits : Nat} {x : Strand} {ty : BitVec 4} {p : Bool × Bool}
    (hs : (blockAt t (blockOf t k)).shared = []) (hv : (strandAt t k).v = (vsTaken x ty n bits p).v)
    (hp : (strandAt t k).vPoison = (vsTaken x ty n bits p).vPoison) :
    let w := if tyWidth ty = 64 then 64 else 32
    let r := readVs t k (if w = 64 then [n, n + 1] else [n])
    r.1 % 2 ^ w = extendBits bits (tyWidth ty) (tySigned ty) w ∧ r.2 = if tyWidth ty = 64 then p.1 || p.2 else p.1 := by
  have hne : n ≠ n + 1 := Nat.ne_of_lt (Nat.lt_succ_self n)
  unfold vsTaken regTaken at hv hp
  by_cases hw : tyWidth ty = 64
  · rw [if_pos hw] at hv hp
    simp only [hw, ↓reduceIte, readVs_pair, readV_unshared hs, hv, hp, tget_tset_same, tget_tset_ne _ hne, contains_poison,
      contains_sinsert_ne hne, extendBits_self, and_true]
    exact halves_eq bits
  · rw [if_neg hw] at hv hp
    have hlt := extendBits_lt bits (tyWidth_le_32 hw) (tySigned ty)
    simp only [hw, ↓reduceIte, show (32 : Nat) ≠ 64 by decide, readVs_one, readV_unshared hs, hv, hp, tget_tset_same, contains_poison,
      BitVec.toNat_ofNat, Nat.mod_mod, and_true]
    exact Nat.mod_eq_of_lt hlt

theorem readP_predTaken {t : State} {k n : Nat} {x : Strand} {v : Bool} (h : (strandAt t k).preds = (predTaken x n v).preds) (hn : n < 8) :
    readP t k n = if 7 ≤ n then true else v := by
  unfold readP
  rw [h, predTaken]
  by_cases h7 : 7 ≤ n
  · simp [show n = 7 by omega]
  · have hne : n ≠ 7 := by omega
    cases v <;> simp [h7, hne, hn]

/-- The whole of a destination reads what was written, extended by its type, with its poison. -/
theorem dest_taken {t : State} {k bits : Nat} {ty : BitVec 4} {o : Operand} {p : Bool × Bool} {x : Strand} {y : Sheaf} (ho : IsDest o)
    (hs : (blockAt t (blockOf t k)).shared = []) (hx : SameRegs (strandAt t k) (operandTaken ty o bits p x))
    (hslot : ∀ i, (strandAt t k).slotReg i = x.slotReg i) (hy : sheafAt t (sheafOf k) = sheafTaken ty o bits p y) :
    destReads t k ty o = destBits ty o bits ∧ destPoison t k ty o = destTaint ty o p := by
  cases o with
  | v i => exact readVs_taken hs hx.v hx.vPoison
  | b i =>
    have h := readVs_taken hs hx.v hx.vPoison
    rw [← hslot] at h
    exact h
  | w i =>
    have hbits := extendBits_lt bits (tyWidth_le_64 ty) (tySigned ty)
    simp only [destReads, destPoison, destWidth, destBits, destTaint, readOperand, readW, hy, sheafTaken, uniformTaken,
      tget_tset_same, contains_poison, BitVec.toNat_ofNat, Nat.mod_mod, and_true]
    exact Nat.mod_eq_of_lt hbits
  | p i =>
    have h := readP_predTaken hx.preds ho
    simp only [destReads, destPoison, destBits, destTaint, readOperand, h, and_true]
    rcases Nat.mod_two_eq_zero_or_one bits with hb | hb <;> simp [hb]
  | _ => exact ho.elim

end Sys2Proof.Proofs
end

section
/-! SUPPORT. What a bundle's instruction reads before it writes (R149, R280), the strands that execute it (R149), and what its results
leave: the whole of D, the sticky bits and the advance (R209, R281). -/

namespace Sys2Proof.Proofs
open Sys2Proof Sys2Proof.Machine Sys2Proof.Laws

/-! ## Strands that advance are read as before -/

/-- Nothing differs but the bundle at the issue stage and the pc of strands. -/
structure PcMoved (s t : State) : Prop where
  frame : OnlyStrands s t
  strand : ∀ k, strandAt t k = { strandAt s k with pc := (strandAt t k).pc }

namespace PcMoved

variable {s t : State} (h : PcMoved s t)
include h

theorem v (k : Nat) : (strandAt t k).v = (strandAt s k).v := by rw [h.strand]
theorem vPoison (k : Nat) : (strandAt t k).vPoison = (strandAt s k).vPoison := by rw [h.strand]
theorem preds (k : Nat) : (strandAt t k).preds = (strandAt s k).preds := by rw [h.strand]
theorem cond (k : Nat) : (strandAt t k).cond = (strandAt s k).cond := by rw [h.strand]
theorem slotReg (k i : Nat) : (strandAt t k).slotReg i = (strandAt s k).slotReg i := by rw [h.strand]; rfl
theorem sheafAt (f : Nat) : sheafAt t f = sheafAt s f := by rw [h.frame]; rfl
theorem blockAt (b : Nat) : blockAt t b = blockAt s b := by rw [h.frame]; rfl
theorem blockOf (k : Nat) : blockOf t k = blockOf s k := by rw [h.frame]; rfl

theorem readV (k n : Nat) : readV t k n = readV s k n := by
  have hhome : vHome t k n = vHome s k n := by rw [h.frame]; rfl
  unfold Machine.readV
  rw [hhome]
  dsimp only
  rw [h.v, h.vPoison]

theorem readW (f n : Nat) : readW t f n = readW s f n := by rw [Machine.readW, h.sheafAt]; rfl

theorem readP (k n : Nat) : readP t k n = readP s k n := by rw [Machine.readP, h.preds]; rfl

theorem readM (f n : Nat) : readM t f n = readM s f n := by
  simp only [Machine.readM, maskOf, sheafStrands, h.sheafAt, h.cond]

theorem readSpecial (k : Nat) (i : BitVec 9) : readSpecial t k i = readSpecial s k i := by
  obtain ⟨l, hl⟩ : ∃ l, t = { s with ctl := ctlAfter s, strands := l } := ⟨_, h.frame⟩
  unfold Machine.readSpecial
  rw [h.strand, hl]
  rfl

theorem vNames (k w : Nat) (o : Operand) : vNames t k w o = vNames s k w o := by
  cases o <;> simp only [Machine.vNames, h.slotReg]

theorem readOperand (k w : Nat) (o : Operand) : readOperand t k w o = readOperand s k w o := by
  cases o <;> simp only [Machine.readOperand, readVs, h.vNames, h.readV, h.readW, h.readP, h.readM, h.readSpecial]

theorem readOffset (k : Nat) (o : Operand) : readOffset t k o = readOffset s k o := by
  cases o <;> simp only [Machine.readOffset, h.readOperand]

theorem halfPoison (k w : Nat) (o : Operand) : halfPoison t k w o = halfPoison s k w o := by
  simp only [Machine.halfPoison, h.vNames, h.readV, h.readOperand]

theorem valueAt (stem : Stem) (x : Three) (k : Nat) (p : Pos) : valueAt stem x t k p = valueAt stem x s k p := h.readOperand _ _ _

theorem laneResult (stem : Stem) (x : Three) (fn : LaneFn) (k : Nat) : laneResult stem x fn t k = laneResult stem x fn s k := by
  simp only [Machine.laneResult, h.valueAt]

theorem leaValue (x : Three) (k : Nat) : leaValue x t k = leaValue x s k := by
  simp only [Machine.leaValue, h.readOperand, h.readOffset]

end PcMoved

/-- The bundle's bystanders have gone on past the instruction (R149). -/
def bystandersPast (s : State) (b : Bundle) (g : Guard) (len : Nat) : State := advanceAll (issued s) len (bystanders s b g)

theorem strandAt_bystandersPast {s : State} {b : Bundle} (h : Standing s b) (g : Guard) (len j : Nat) :
    strandAt (bystandersPast s b g len) j = if j ∈ bystanders s b g then (strandAt s j).past len else strandAt s j :=
  strandAt_advanceAll (s := issued s) len (standing_bystanders_nodup h g) (fun _ hk => standing_present h (bystanders_sub hk)) j

theorem pcMoved_bystandersPast {s : State} {b : Bundle} (h : Standing s b) (g : Guard) (len : Nat) :
    PcMoved s (bystandersPast s b g len) where
  frame := advanceAll_rest _ _ _
  strand k := by
    rw [strandAt_bystandersPast h]
    split <;> rfl

theorem strand_isSome_bystandersPast (s : State) (b : Bundle) (g : Guard) (len j : Nat) :
    (tfind (bystandersPast s b g len).strands j).isSome = (tfind s.strands j).isSome :=
  isSome_foldl_modStrand (fun _ x => Strand.past x len) _ (issued s) j

/-! ## The strands that execute (R149) -/

theorem find_sheaf {ps : List Nat} {f k : Nat} (h : (ps.find? fun k => sheafOf k == f) = some k) : k ∈ ps ∧ sheafOf k = f :=
  ⟨List.mem_of_find?_eq_some h, by simpa using List.find?_some h⟩

/-- No two leaders are of one sheaf. -/
theorem sheafLeaders_sheaves_nodup (ps : List Nat) : ((sheafLeaders ps).map sheafOf).Nodup := by
  rw [sheafLeaders, List.map_filterMap]
  refine (nodup_nub _).filterMap fun f g e hf hg => ?_
  obtain ⟨k, hk, rfl⟩ := Option.map_eq_some_iff.1 hf
  obtain ⟨j, hj, he⟩ := Option.map_eq_some_iff.1 hg
  rw [← (find_sheaf hk).2, ← (find_sheaf hj).2, he]

theorem mem_of_mem_executors {x : Three} {ps : List Nat} {k : Nat} (h : k ∈ executors x ps) : k ∈ ps := by
  unfold executors at h
  split at h
  · obtain ⟨f, -, hf⟩ := List.mem_filterMap.1 h
    exact (find_sheaf hf).1
  · exact h

theorem executors_nodup (x : Three) {ps : List Nat} (h : ps.Nodup) : (executors x ps).Nodup := by
  unfold executors
  split
  · exact (sheafLeaders_sheaves_nodup ps).of_map _
  · exact h

theorem executors_singleton (x : Three) (k : Nat) : executors x [k] = [k] := by
  unfold executors
  split
  · simp [sheafLeaders, nub]
  · rfl

/-! ## Folds of steps that each change one entry -/

/-- A fold of steps, each of which changes one entry of a lookup, where no two change the same. -/
theorem foldl_lookup {β : Type} {look : State → Nat → β} {key : Nat → Nat} {f : Nat → β → β} {P : State → Prop}
    {step : State → Nat → State} : ∀ {ks : List Nat} {s : State},
    (∀ u k, k ∈ ks → P u → P (step u k) ∧ ∀ j, look (step u k) j = if j = key k then f k (look u j) else look u j) →
    (ks.map key).Nodup → P s →
    P (ks.foldl step s) ∧ (∀ k ∈ ks, look (ks.foldl step s) (key k) = f k (look s (key k))) ∧
      ∀ j, (∀ k ∈ ks, j ≠ key k) → look (ks.foldl step s) j = look s j
  | [], s, _, _, hs => ⟨hs, fun _ h => absurd h (List.not_mem_nil), fun _ _ => rfl⟩
  | k :: ks, s, hstep, hn, hs => by
    obtain ⟨hk, hn'⟩ := List.nodup_cons.1 hn
    obtain ⟨hP, hlook⟩ := hstep s k (by simp) hs
    obtain ⟨hQ, hin, hout⟩ := foldl_lookup (fun u j hj => hstep u j (by simp [hj])) hn' hP
    have hkey : ∀ j ∈ ks, key k ≠ key j := fun j hj e => hk (e ▸ List.mem_map_of_mem hj)
    refine ⟨hQ, fun j hj => ?_, fun j hj => ?_⟩
    · rcases List.mem_cons.1 hj with rfl | hj
      · rw [List.foldl_cons, hout _ hkey, hlook, if_pos rfl]
      · rw [List.foldl_cons, hin j hj, hlook, if_neg (hkey j hj).symm]
    · rw [List.foldl_cons, hout j fun i hi => hj i (by simp [hi]), hlook, if_neg (hj k (by simp))]

/-! ## Writes of a destination by several strands -/

/-- The operand is a destination, and a uniform register only where one strand executes for its sheaf (R223, R225). -/
def DestOk (x : Three) : Prop := IsDest x.d ∧ ∀ i, x.d = .w i → x.u = true

theorem DestOk.sheaves_nodup {x : Three} (h : DestOk x) {i : BitVec 9} (hw : x.d = .w i) (ps : List Nat) :
    ((executors x ps).map sheafOf).Nodup := by
  rw [executors, if_pos (h.2 i hw)]
  exact sheafLeaders_sheaves_nodup ps

/-- Some strands can each write a destination of its own: they and their sheaves are there, none shares registers or has an error armed,
and no two of them write one uniform register. -/
structure DestsFree (s : State) (ks : List Nat) (o : Operand) : Prop where
  unshared : ∀ k ∈ ks, Unshared s k
  strand : ∀ k ∈ ks, (tfind s.strands k).isSome
  sheaf : ∀ k ∈ ks, (tfind s.sheaves (sheafOf k)).isSome
  nodup : ks.Nodup
  sheaves_nodup : ∀ i, o = .w i → (ks.map sheafOf).Nodup

section Writes

variable {s : State} {ks : List Nat} {ty : BitVec 4} {o : Operand} {bits : Nat → Nat} {p : Nat → Bool × Bool}
  {step : State → Nat → State}

/-- Writes of a destination by such strands: each has its own, and nothing else changes. -/
theorem writes_spec (hfree : DestsFree s ks o)
    (hstep : ∀ u k, k ∈ ks → RegsWritten s u → step u k = writeOperandP u k ty o (bits k) (p k)) :
    (ThreadsMoved s (ks.foldl step s) ∧ RegsWritten s (ks.foldl step s)) ∧ ∀ k ∈ ks,
      strandAt (ks.foldl step s) k = operandTaken ty o (bits k) (p k) (strandAt s k) ∧
      sheafAt (ks.foldl step s) (sheafOf k) = sheafTaken ty o (bits k) (p k) (sheafAt s (sheafOf k)) := by
  have hkept : ∀ u k, k ∈ ks → ThreadsMoved s u ∧ RegsWritten s u → Unshared u k ∧
      ThreadsMoved s (step u k) ∧ RegsWritten s (step u k) := by
    rintro u k hm ⟨hmoved, hwrote⟩
    have hu : Unshared u k := (hfree.unshared k hm).congr hmoved (hwrote.block k)
    rw [hstep u k hm hwrote]
    exact ⟨hu, hmoved.trans (threadsMoved_writeOperandP hu ty o _ _), hwrote.trans (regsWritten_writeOperandP _ _ _ _ _ _)⟩
  have hstart : ThreadsMoved s s ∧ RegsWritten s s := ⟨.refl s, .refl s⟩
  have hids : (ks.map id).Nodup := by rw [List.map_id]; exact hfree.nodup
  obtain ⟨hmoved, hstrands, -⟩ := foldl_lookup (look := strandAt) (key := id) (f := fun k => operandTaken ty o (bits k) (p k))
    (fun u k hm hu => ⟨(hkept u k hm hu).2, fun j => by
      rw [hstep u k hm hu.2]
      exact strandAt_writeOperandP (hkept u k hm hu).1 (by rw [hu.2.strand_isSome]; exact hfree.strand k hm) ty o _ _ j⟩) hids hstart
  have hsheaf : ∀ u k, k ∈ ks → ThreadsMoved s u ∧ RegsWritten s u → ∀ f, sheafAt (step u k) f =
      if f = sheafOf k then sheafTaken ty o (bits k) (p k) (sheafAt u f) else sheafAt u f := fun u k hm hu f => by
    rw [hstep u k hm hu.2]
    exact sheafAt_writeOperandP (hkept u k hm hu).1 (by rw [hu.2.sheaf_isSome]; exact hfree.sheaf k hm) ty o _ _ f
  refine ⟨hmoved, fun k hm => ⟨hstrands k hm, ?_⟩⟩
  by_cases hu : ∃ i, o = .w i
  · obtain ⟨i, hi⟩ := hu
    exact (foldl_lookup (look := sheafAt) (key := sheafOf) (f := fun k => sheafTaken ty o (bits k) (p k))
      (fun u k hm hu => ⟨(hkept u k hm hu).2, hsheaf u k hm hu⟩) (hfree.sheaves_nodup i hi) hstart).2.1 k hm
  · have hid : ∀ k y, sheafTaken ty o (bits k) (p k) y = y := fun k y => by
      cases o with
      | w i => exact absurd ⟨i, rfl⟩ hu
      | _ => rfl
    rw [hid]
    exact (foldl_lookup (look := fun u _ => sheafAt u (sheafOf k)) (key := id) (f := fun _ y => y)
      (fun u j hm hu => ⟨(hkept u j hm hu).2, fun _ => by rw [hsheaf u j hm hu, hid, ite_self, ite_self]⟩) hids hstart).2.1 k hm

/-- Each of such strands reads back what it has written, in any state with the same registers. -/
theorem dests_written (hfree : DestsFree s ks o) (ho : IsDest o)
    (hstep : ∀ u k, k ∈ ks → RegsWritten s u → step u k = writeOperandP u k ty o (bits k) (p k)) {t : State}
    (hsheaves : t.sheaves = (ks.foldl step s).sheaves) (hblocks : t.blocks = s.blocks) {k : Nat} (hk : k ∈ ks)
    (hregs : SameRegs (strandAt t k) (strandAt (ks.foldl step s) k)) :
    destReads t k ty o = destBits ty o (bits k) ∧ destPoison t k ty o = destTaint ty o (p k) := by
  obtain ⟨⟨-, hwrote⟩, hspec⟩ := writes_spec hfree hstep
  obtain ⟨hstrand, hsheaf⟩ := hspec k hk
  have hat : ∀ f, sheafAt t f = sheafAt (ks.foldl step s) f := fun f => congrArg (fun l => tget l f Sheaf.blank) hsheaves
  have hblock : blockAt t (blockOf t k) = blockAt s (blockOf s k) := by
    rw [← hwrote.block k, blockOf, hat, blockAt, hblocks]
    rfl
  refine dest_taken (x := strandAt s k) (y := sheafAt s (sheafOf k)) ho ?_ (hstrand ▸ hregs) (fun i => ?_) ((hat _).trans hsheaf)
  · rw [hblock]
    exact (hfree.unshared k hk).1
  · rw [hregs.slots, hwrote.slotReg]

end Writes

/-- The executors of a bundle can, in a state that differs from the bundle's in pc alone. -/
theorem destsFree_executors {s u : State} {b : Bundle} (h : Standing s b) (hu : Unmapped s b) (hpc : PcMoved s u)
    (hsome : ∀ k, (tfind u.strands k).isSome = (tfind s.strands k).isSome) {x : Three} (hd : DestOk x) :
    DestsFree u (executors x (participants s b x.g)) x.d := by
  have hsub : ∀ k ∈ executors x (participants s b x.g), k ∈ b.strands := fun k hk => participants_sub (mem_of_mem_executors hk)
  exact {
    unshared := fun k hk => by
      rw [Unshared, hpc.blockOf, hpc.blockAt, standing_block h (hsub k hk)]
      exact hu
    strand := fun k hk => by
      rw [hsome]
      exact standing_present h (hsub k hk)
    sheaf := fun k hk => by
      rw [hpc.frame]
      exact standing_sheaf h (hsub k hk)
    nodup := executors_nodup x (standing_participants_nodup h x.g)
    sheaves_nodup := fun _ hw => hd.sheaves_nodup hw _ }

/-! ## Results of a bundle (R149, R209, R281) -/

theorem strandAt_setFlags {s : State} {k : Nat} (hk : (tfind s.strands k).isSome) (f : Flags) (j : Nat) :
    strandAt (setFlags s k f) j = if j = k then { strandAt s j with fstat := (strandAt s j).fstat ||| f } else strandAt s j := by
  unfold setFlags
  by_cases hf : f = 0
  · simp [hf]
  · rw [if_neg hf, strandAt_modStrand]
    by_cases hj : j = k
    · rw [if_pos ⟨hj, hk⟩, if_pos hj, hj]
    · rw [if_neg (fun c => hj c.1), if_neg hj]

theorem strandsMoved_setFlags (s : State) (k : Nat) (f : Flags) : StrandsMoved s (setFlags s k f) := by
  unfold setFlags
  split <;> rfl

theorem strand_isSome_setFlags (s : State) (k : Nat) (f : Flags) (j : Nat) :
    (tfind (setFlags s k f).strands j).isSome = (tfind s.strands j).isSome := by
  unfold setFlags
  split
  · rfl
  · exact isSome_modStrand _ _ _ _

/-- Each strand's sticky bits take those of its result. -/
theorem setFlags_all {s : State} {ps : List Nat} (hn : ps.Nodup) (hk : ∀ k ∈ ps, (tfind s.strands k).isSome) (f : Nat → Flags) :
    let t := ps.foldl (fun u k => setFlags u k (f k)) s
    StrandsMoved s t ∧ (∀ k, (tfind t.strands k).isSome = (tfind s.strands k).isSome) ∧
    (∀ k ∈ ps, strandAt t k = { strandAt s k with fstat := (strandAt s k).fstat ||| f k }) ∧
    ∀ k, k ∉ ps → strandAt t k = strandAt s k := by
  obtain ⟨⟨hmoved, hsome⟩, hin, hout⟩ := foldl_lookup (look := strandAt) (key := id)
    (f := fun k (x : Strand) => { x with fstat := x.fstat ||| f k }) (step := fun u k => setFlags u k (f k)) (s := s) (ks := ps)
    (P := fun u => StrandsMoved s u ∧ ∀ k, (tfind u.strands k).isSome = (tfind s.strands k).isSome)
    (fun u k hm hu => ⟨⟨hu.1.trans (strandsMoved_setFlags u k _), fun j => (strand_isSome_setFlags u k _ j).trans (hu.2 j)⟩,
      strandAt_setFlags (by rw [hu.2]; exact hk k hm) _⟩)
    (by rw [List.map_id]; exact hn) ⟨.refl s, fun _ => rfl⟩
  exact ⟨hmoved, hsome, hin, fun k hm => hout k fun j hj e => hm (e ▸ hj)⟩

/-- The writes of the results, before the sticky bits. -/
def resultsWritten (s : State) (x : Three) (dty : BitVec 4) (ps : List Nat) (result : Nat → Nat × Flags) (p : Nat → Bool × Bool) :
    State := (executors x ps).foldl (fun u k => writeOperandP u k dty x.d (result k).1 (p k)) s

theorem writeResults_eq (s : State) (x : Three) (dty : BitVec 4) (ps : List Nat) (result : Nat → Nat × Flags) (p : Nat → Bool × Bool) :
    writeResults s x dty ps result p = ps.foldl (fun u k => setFlags u k (result (if x.u then sheafLead ps k else k)).2)
      (resultsWritten s x dty ps result p) := by
  unfold writeResults resultsWritten executors
  split <;> rfl

/-- Each participant has its result and its sticky bits and goes on. -/
def resultsTaken (s : State) (x : Three) (dty : BitVec 4) (ps : List Nat) (result : Nat → Nat × Flags) (p : Nat → Bool × Bool)
    (len : Nat) : State := advanceAll (writeResults s x dty ps result p) len ps

/-- Beside the writes only pc and the sticky bits of the participants change. -/
theorem resultsTaken_spec {s : State} {ps : List Nat} (hn : ps.Nodup) (hk : ∀ k ∈ ps, (tfind s.strands k).isSome) (x : Three)
    (dty : BitVec 4) (result : Nat → Nat × Flags) (p : Nat → Bool × Bool) (len : Nat) :
    let w := resultsWritten s x dty ps result p
    let t := resultsTaken s x dty ps result p len
    RegsWritten s w ∧ StrandsMoved w t ∧
    (∀ k ∈ ps, strandAt t k = { strandAt w k with
      pc := (strandAt s k).pc + BitVec.ofNat 64 len
      fstat := (strandAt s k).fstat ||| (result (if x.u then sheafLead ps k else k)).2 }) ∧
    ∀ k, k ∉ ps → strandAt t k = strandAt w k := by
  intro w t
  have hwrote : RegsWritten s w := .foldl (fun u k => regsWritten_writeOperandP u k dty x.d _ _) _ _
  have hk' : ∀ k ∈ ps, (tfind w.strands k).isSome := fun k hm => by
    rw [hwrote.strand_isSome]
    exact hk k hm
  obtain ⟨hmoved, hsome, hflag, hplain⟩ := setFlags_all hn hk' fun k => (result (if x.u then sheafLead ps k else k)).2
  have ht : t = advanceAll (ps.foldl (fun u k => setFlags u k (result (if x.u then sheafLead ps k else k)).2) w) len ps := by
    rw [← writeResults_eq]
    rfl
  have hpast := strandAt_advanceAll len hn fun k hm => (hsome k).trans (hk' k hm)
  rw [ht]
  refine ⟨hwrote, hmoved.trans (advanceAll_rest _ _ _), fun k hm => ?_, fun k hm => ?_⟩
  · rw [hpast, if_pos hm, hflag k hm, hwrote.strand]
    rfl
  · rw [hpast, if_neg hm, hplain k hm]

/-- What the results of a bundle leave: each of its strands past the instruction, the sticky bits, and the whole of D. -/
theorem laneResults_of_writes {i : Instr} {stem : Stem} {code : Code} {dty : BitVec 4} {s : State} {b : Bundle}
    {result : Nat → Nat × Flags} {p : Nat → Bool × Bool} (hb : Standing s b) (hd : DestOk (code.norm stem))
    (hexec : exec i s = .next (executed s (resultsTaken (bystandersPast s b (code.norm stem).g code.len) (code.norm stem) dty
      (participants s b (code.norm stem).g) result p code.len))) :
    LaneResults i stem code dty (fun k => (result k).1) (fun k => (result k).2) (fun k => destTaint dty (code.norm stem).d (p k)) s b := by
  unfold LaneResults
  generalize code.norm stem = x at hd hexec
  refine ⟨_, hexec, ?_⟩
  have hsub : ∀ k ∈ participants s b x.g, k ∈ b.strands := fun k hk => participants_sub hk
  have hpc := pcMoved_bystandersPast hb x.g code.len
  have hsome := strand_isSome_bystandersPast s b x.g code.len
  have hstart := strandAt_bystandersPast hb x.g code.len
  generalize bystandersPast s b x.g code.len = s1 at hpc hsome hstart
  obtain ⟨hwrote, hmoved, hdone, hplain⟩ := resultsTaken_spec (s := s1) (standing_participants_nodup hb x.g)
    (fun k hk => by rw [hsome]; exact standing_present hb (hsub k hk)) x dty result p code.len
  have hs1 : ∀ k ∈ participants s b x.g, strandAt s1 k = strandAt s k := fun k hk => by
    rw [hstart, if_neg fun hy => (mem_bystanders.1 hy).2 hk]
  refine ⟨fun k hk => ?_, fun k hk => ?_, fun hu k hk => ?_, rfl⟩
  · rw [strandAt_executed]
    by_cases hm : k ∈ participants s b x.g
    · rw [hdone k hm, hs1 k hm]
    · rw [hplain k hm, hwrote.strand, hstart, if_pos (mem_bystanders.2 ⟨hk, hm⟩)]
      rfl
  · rw [strandAt_executed, hdone k hk, hs1 k hk]
  · have hfree := destsFree_executors hb hu hpc hsome hd
    have hblocks : (resultsWritten s1 x dty (participants s b x.g) result p).blocks = s1.blocks := by
      have h := (writes_spec hfree (step := fun u k => writeOperandP u k dty x.d (result k).1 (p k)) fun _ _ _ _ => rfl).1.1
      rw [resultsWritten, h]
    refine dests_written hfree hd.1 (fun _ _ _ _ => rfl) hmoved.sheaves (hmoved.blocks.trans hblocks) hk ?_
    rw [hdone k (mem_of_mem_executors hk)]
    exact ⟨rfl, rfl, rfl, fun _ => rfl⟩

end Sys2Proof.Proofs
end

section
/-! SUPPORT. Instructions of registers alone (R281): every form runs its row, and its destination is one that the decoder accepts. -/

namespace Sys2Proof.Proofs
open Sys2Proof Sys2Proof.Machine Sys2Proof.Laws

/-! ## Every form runs its row -/

/-- Every instruction is the one of its stem and code. -/
theorem view_statement (i : Instr) : View.Statement i := by cases i <;> exact Eq.refl _

theorem ofCode_of_view {i : Instr} {stem : Stem} {code : Code} (h : i.view = some (stem, code)) : Instr.ofCode stem code = some i := by
  have hi := view_statement i
  unfold View.Statement at hi
  rw [h] at hi
  exact hi

/-- The execution of an instruction is that of its row: each arm of exec, once. -/
theorem exec_aluRow {i : Instr} {stem : Stem} {code : Code} {r : AluRow} (hv : i.view = some (stem, code)) (hr : aluRow stem = some r)
    (s : State) : exec i s = .next (alu stem code r.fn r.dty r.readsD r.moves s) := by
  have h := ofCode_of_view hv
  cases stem <;> cases hr <;> rcases code with x | ⟨x, v⟩ | x <;> cases h <;> rfl

theorem exec_lea {i : Instr} {code : Code} (hv : i.view = some (.lea, code)) (s : State) : exec i s = .next (leaRun code s) := by
  have h := ofCode_of_view hv
  cases code <;> cases h <;> rfl

/-! ## Destinations that the decoder accepts (R225, R237) -/

theorem bodyOk_of_codeOk {stem : Stem} {code : Code} (h : codeOk stem code = true) : bodyOk stem (code.norm stem) = true :=
  (Bool.and_eq_true_iff.1 h).2

theorem operandOk_d {stem : Stem} {code : Code} (h : codeOk stem code = true) : operandOk stem (code.norm stem) .d = true := by
  have hb := bodyOk_of_codeOk h
  simp only [bodyOk, Bool.and_eq_true] at hb
  exact hb.1.1.1.2

theorem fieldsOk_of_codeOk {stem : Stem} {code : Code} (h : codeOk stem code = true) : fieldsOk stem (code.norm stem) = true := by
  have hb := bodyOk_of_codeOk h
  simp only [bodyOk, Bool.and_eq_true] at hb
  exact hb.1.1.1.1.2

/-- A register that a stem writes: a vector register, or with U a uniform one. -/
theorem registerDest {stem : Stem} {x : Three} (h : operandOk stem x .d = true) (hr : roleOf stem x.mod .d = some .d)
    (hw : dTakesW stem = false) : DestOk x ∧ ∀ i, x.d ≠ .p i := by
  unfold operandOk at h
  rw [hr, show x.at .d = x.d from rfl] at h
  unfold DestOk
  cases hd : x.d <;> rw [hd] at h <;> simp_all [IsDest]

/-- A predicate that a stem writes. -/
theorem predicateDest {stem : Stem} {x : Three} (h : operandOk stem x .d = true) (hr : roleOf stem x.mod .d = some .p) : DestOk x := by
  unfold operandOk at h
  rw [hr, show x.at .d = x.d from rfl] at h
  unfold DestOk
  cases hd : x.d <;> rw [hd] at h <;> simp_all [IsDest]

theorem roleOf_d {stem : Stem} (hm : stem ≠ .mmov) (hp : stem ≠ .pmov) (mod : BitVec 9) : roleOf stem mod .d = (opRow stem).d := by
  unfold roleOf
  split <;> simp_all

theorem roleOf_pmov_d (mod : BitVec 9) : roleOf .pmov mod .d = some .d ∨ roleOf .pmov mod .d = some .p := by
  unfold roleOf
  generalize mod.toNat = n
  match n with
  | 0 | 1 | _ + 3 => exact .inr rfl
  | 2 => exact .inl rfl

/-- What the rows have in common: D is a register or a predicate, a uniform register only with U; mov alone moves poison. -/
theorem aluRow_kinds {stem : Stem} {r : AluRow} (h : aluRow stem = some r) :
    dTakesW stem = false ∧ stem ≠ .mmov ∧ ((opRow stem).d = some .d ∨ (opRow stem).d = some .p) ∧
      (r.moves = true → stem = .mov) := by
  cases stem <;> cases h <;> exact ⟨rfl, by decide, by decide, by decide⟩

theorem destOk_of_aluRow {stem : Stem} {code : Code} {r : AluRow} (hr : aluRow stem = some r) (hc : codeOk stem code = true) :
    DestOk (code.norm stem) := by
  obtain ⟨hw, hm, hrow, -⟩ := aluRow_kinds hr
  have hd := operandOk_d hc
  have hrole : roleOf stem (code.norm stem).mod .d = some .d ∨ roleOf stem (code.norm stem).mod .d = some .p := by
    by_cases hp : stem = .pmov
    · subst hp
      exact roleOf_pmov_d _
    · rw [roleOf_d hm hp]
      exact hrow
  exact hrole.elim (fun h => (registerDest hd h hw).1) (predicateDest hd)

/-! ## What a bundle that passes its checks leaves -/

theorem destTaint_clean (ty : BitVec 4) (o : Operand) : destTaint ty o (false, false) = false := by
  unfold destTaint
  split <;> simp

/-- The registers that an operand names: none, one, or a pair of 64 bits. -/
theorem vNames_cases (s : State) (k w : Nat) (o : Operand) :
    (vNames s k w o = [] ∨ ∃ n, vNames s k w o = [n]) ∨
      w = 64 ∧ ∃ n, vNames s k w o = [n, n + 1] ∧ (readOperand s k w o).2 = ((readV s k n).2 || (readV s k (n + 1)).2) := by
  have hregs : ∀ n, (if w = 64 then [n, n + 1] else [n]) = [n] ∨ w = 64 := fun n => by
    by_cases hw : w = 64
    · exact .inr hw
    · exact .inl (if_neg hw)
  cases o with
  | v i =>
    refine (hregs i.toNat).imp (fun h => .inr ⟨_, h⟩) fun hw => ⟨hw, i.toNat, if_pos hw, ?_⟩
    simp [readOperand, vNames, hw, readVs_pair]
  | b i =>
    refine (hregs ((strandAt s k).slotReg i.toNat)).imp (fun h => .inr ⟨_, h⟩) fun hw => ⟨hw, _, if_pos hw, ?_⟩
    simp [readOperand, vNames, hw, readVs_pair]
  | _ => exact .inl (.inl rfl)

/-- A result in registers has the poison of its source, where the two are of one width. -/
theorem destTaint_halfPoison (s : State) (k : Nat) {w : Nat} {ty : BitVec 4} {o : Operand} (a : Operand) (hp : ∀ i, o ≠ .p i)
    (hw : w = 64 → tyWidth ty = 64) : destTaint ty o (halfPoison s k w a) = (readOperand s k w a).2 := by
  unfold halfPoison destTaint
  rcases vNames_cases s k w a with (h | ⟨n, h⟩) | ⟨h64, n, h, hpoison⟩
  · rw [h]
    split <;> simp_all
  · rw [h]
    split <;> simp_all
  · rw [h, hpoison, if_pos (hw h64)]
    split <;> simp_all

theorem alu_pass {s : State} {b : Bundle} {stem : Stem} {code : Code} (r : AluRow) (hb : Standing s b)
    (h : AllPass (participants s b (code.norm stem).g) (aluCheck stem (code.norm stem) r.readsD r.moves s)) :
    alu stem code r.fn r.dty r.readsD r.moves s = executed s (resultsTaken (bystandersPast s b (code.norm stem).g code.len)
      (code.norm stem) (r.dty (code.norm stem)) (participants s b (code.norm stem).g) (laneResult stem (code.norm stem) r.fn s)
      (fun k => if r.moves then halfPoison s k (operandWidth stem (code.norm stem) .a) (code.norm stem).a else (false, false)) code.len) := by
  have hpc := pcMoved_bystandersPast hb (code.norm stem).g code.len
  unfold alu
  dsimp only
  rw [runBundle_pass hb.1 h]
  simp only [bystandersPast, resultsTaken] at hpc ⊢
  simp only [funext fun k => hpc.laneResult stem (code.norm stem) r.fn k, hpc.halfPoison]

/-- An instruction of registers alone whose checks find nothing leaves its row's results (R281). -/
theorem laneResults_aluRow {i : Instr} {stem : Stem} {code : Code} {r : AluRow} {s : State} {b : Bundle} (hv : i.view = some (stem, code))
    (hc : codeOk stem code = true) (hr : aluRow stem = some r) (hb : Standing s b)
    (h : AllPass (participants s b (code.norm stem).g) (aluCheck stem (code.norm stem) r.readsD r.moves s)) :
    LaneResults i stem code (r.dty (code.norm stem)) (fun k => (laneResult stem (code.norm stem) r.fn s k).1)
      (fun k => (laneResult stem (code.norm stem) r.fn s k).2) (fun k => r.moves && (valueAt stem (code.norm stem) s k .a).2) s b := by
  have hrun := laneResults_of_writes hb (destOk_of_aluRow hr hc) ((exec_aluRow hv hr s).trans (congrArg _ (alu_pass r hb h)))
  have htaint : ∀ k, destTaint (r.dty (code.norm stem)) (code.norm stem).d
      (if r.moves then halfPoison s k (operandWidth stem (code.norm stem) .a) (code.norm stem).a else (false, false)) =
        (r.moves && (valueAt stem (code.norm stem) s k .a).2) := fun k => by
    by_cases hm : r.moves = true
    · obtain rfl := (aluRow_kinds hr).2.2.2 hm
      cases hr
      exact destTaint_halfPoison s k _ (registerDest (operandOk_d hc) rfl rfl).2 fun h64 => by
        have hmax : max 8 (tyWidth (code.norm .mov).ty) = 64 := h64
        show tyWidth (code.norm .mov).ty = 64
        omega
    · rw [if_neg hm, destTaint_clean, Bool.eq_false_iff.2 hm, Bool.false_and]
  simpa only [htaint] using hrun

theorem leaRun_pass {s : State} {b : Bundle} {code : Code} (hb : Standing s b)
    (h : AllPass (participants s b (code.norm .lea).g) fun k =>
      (Verdict.trapIf (rangeFails .lea (code.norm .lea) s k) .regrange).and (Verdict.poisonIf (leaValue (code.norm .lea) s k).2)) :
    leaRun code s = executed s (resultsTaken (bystandersPast s b (code.norm .lea).g code.len) (code.norm .lea) Ty.b64
      (participants s b (code.norm .lea).g) (fun k => ((leaValue (code.norm .lea) s k).1, 0)) (fun _ => (false, false)) code.len) := by
  have hpc := pcMoved_bystandersPast hb (code.norm .lea).g code.len
  unfold leaRun
  dsimp only
  rw [runBundle_pass hb.1 h]
  simp only [bystandersPast, resultsTaken] at hpc ⊢
  simp only [hpc.leaValue]

/-- lea leaves the address that it forms (R291). -/
theorem laneResults_lea {i : Instr} {code : Code} {s : State} {b : Bundle} (hv : i.view = some (.lea, code))
    (hc : codeOk .lea code = true) (hb : Standing s b)
    (h : AllPass (participants s b (code.norm .lea).g) fun k =>
      (Verdict.trapIf (rangeFails .lea (code.norm .lea) s k) .regrange).and (Verdict.poisonIf (leaValue (code.norm .lea) s k).2)) :
    LaneResults i .lea code Ty.b64 (fun k => (leaValue (code.norm .lea) s k).1) (fun _ => 0) (fun _ => false) s b := by
  have hrun := laneResults_of_writes hb (registerDest (operandOk_d hc) rfl rfl).1
    ((exec_lea hv s).trans (congrArg _ (leaRun_pass hb h)))
  simpa only [destTaint_clean] using hrun

end Sys2Proof.Proofs
end

section
/-! SUPPORT. The integer rows (R201, R282, R283, R285 to R290): what each computes is what the manual says of its bits and its value. -/

namespace Sys2Proof.Proofs
open Sys2Proof Sys2Proof.Machine Sys2Proof.Laws

/-! ## Bits of numbers -/

theorem bitsBelow_succ (w : Nat) (f : Nat → Bool) : bitsBelow (w + 1) f = bitsBelow w f + if f w then 2 ^ w else 0 := by
  simp [bitsBelow, List.range_succ]

theorem bitsBelow_lt (w : Nat) (f : Nat → Bool) : bitsBelow w f < 2 ^ w := by
  induction w with
  | zero => simp [bitsBelow]
  | succ w ih =>
    rw [bitsBelow_succ, Nat.pow_succ]
    split <;> omega

theorem testBit_bitsBelow (w : Nat) (f : Nat → Bool) (i : Nat) : (bitsBelow w f).testBit i = (decide (i < w) && f i) := by
  induction w with
  | zero => simp [bitsBelow]
  | succ w ih =>
    have hlt := bitsBelow_lt w f
    rw [bitsBelow_succ]
    rcases Nat.lt_trichotomy i w with h | rfl | h
    · rw [show decide (i < w + 1) = decide (i < w) by simp [h, Nat.lt_succ_of_lt h], ← ih]
      split
      · rw [Nat.add_comm, Nat.testBit_two_pow_add_gt h]
      · rfl
    · split
      · next hf => rw [Nat.add_comm, Nat.testBit_two_pow_add_eq, Nat.testBit_lt_two_pow hlt]; simp [hf]
      · next hf => rw [Nat.add_zero, Nat.testBit_lt_two_pow hlt]; simp [hf]
    · have hbig : bitsBelow w f + (if f w then 2 ^ w else 0) < 2 ^ i :=
        lt_of_lt_of_le (bitsBelow_succ w f ▸ bitsBelow_lt (w + 1) f) (Nat.pow_le_pow_right (by norm_num) h)
      rw [Nat.testBit_lt_two_pow hbig, decide_eq_false (by omega), Bool.false_and]

/-- A number below 2^w is that of its bits. -/
theorem eq_bitsBelow {n w : Nat} {f : Nat → Bool} (h : ∀ i, n.testBit i = (decide (i < w) && f i)) : n = bitsBelow w f :=
  Nat.eq_of_testBit_eq fun i => (h i).trans (testBit_bitsBelow w f i).symm

/-- Bits gathered one after another are the sum of their powers. -/
theorem foldl_bits (f : Nat → Bool) (g : Nat → Nat) : ∀ (l : List Nat) (r : Nat),
    l.foldl (fun r i => if f i then r + 2 ^ g i else r) r = r + (l.map fun i => if f i then 2 ^ g i else 0).sum
  | [], r => by simp
  | i :: l, r => by
    rw [List.foldl_cons, foldl_bits f g l, List.map_cons, List.sum_cons]
    split <;> omega

/-- The bit of an integer in two's complement without end. -/
def intBit (v : Int) (i : Nat) : Bool := decide (v / 2 ^ i % 2 = 1)

theorem intBit_natCast (n i : Nat) : intBit (n : Int) i = n.testBit i := by
  rw [intBit, Nat.testBit_eq_decide_div_mod_eq]
  refine decide_eq_decide.2 ?_
  norm_cast

theorem intBit_div (v : Int) (m i : Nat) : intBit (v / 2 ^ m) i = intBit v (i + m) := by
  rw [intBit, intBit, Int.ediv_ediv_of_nonneg (by positivity), ← pow_add, Nat.add_comm]

theorem testBit_intBits (v : Int) (w i : Nat) : (intBits v w).testBit i = (decide (i < w) && intBit v i) := by
  have hnat : ((intBits v w : Nat) : Int) = v % 2 ^ w := Int.toNat_of_nonneg (Int.emod_nonneg v (by positivity))
  by_cases h : i < w
  · have hpow : (2 : Int) ^ w = 2 ^ i * (2 * 2 ^ (w - i - 1)) := by
      rw [← pow_succ', ← pow_add]
      congr 1
      omega
    have hdiv : v % 2 ^ w / 2 ^ i % 2 = v / 2 ^ i % 2 := by
      have hv : v = v % 2 ^ w + 2 ^ i * (2 * (2 ^ (w - i - 1) * (v / 2 ^ w))) := by
        have := Int.emod_add_mul_ediv v (2 ^ w)
        rw [hpow] at this ⊢
        linarith [this]
      conv_rhs => rw [hv, Int.add_mul_ediv_left _ _ (by positivity), Int.add_mul_emod_self_left]
    rw [← intBit_natCast, hnat, intBit, hdiv, decide_eq_true h, Bool.true_and, intBit]
  · have hlt : intBits v w < 2 ^ w := by
      have := Int.emod_lt_of_pos v (show (0 : Int) < 2 ^ w by positivity)
      zify
      omega
    rw [Nat.testBit_lt_two_pow (lt_of_lt_of_le hlt (Nat.pow_le_pow_right (by norm_num) (not_lt.1 h))), decide_eq_false h,
      Bool.false_and]

/-- The top bit of a number of some bits says whether it is in the upper half. -/
theorem testBit_top {x w : Nat} (hw : 0 < w) (hx : x < 2 ^ w) : x.testBit (w - 1) = decide (2 ^ (w - 1) ≤ x) := by
  have hpow : 2 ^ w = 2 ^ (w - 1) * 2 := by rw [← Nat.pow_succ]; congr 1; omega
  by_cases h : 2 ^ (w - 1) ≤ x
  · rw [decide_eq_true h]
    exact Nat.testBit_of_two_pow_le_and_two_pow_add_one_gt h (by rwa [Nat.sub_add_cancel hw])
  · rw [decide_eq_false h, Nat.testBit_lt_two_pow (not_le.1 h)]

/-- A signed number repeats its top bit. -/
theorem intBit_signedOf {w : Nat} (hw : 0 < w) (x i : Nat) :
    intBit (signedOf x w) i = if i < w then x.testBit i else x.testBit (w - 1) := by
  split
  · next h =>
    have hbits := testBit_intBits (signedOf x w) w i
    rw [decide_eq_true h, Bool.true_and] at hbits
    have hmod : intBits (signedOf x w) w = x % 2 ^ w := by
      rw [intBits, signedOf_eq_emod]
      norm_cast
    rw [← hbits, hmod, Nat.testBit_mod_two_pow, decide_eq_true h, Bool.true_and]
  · next h =>
    have hlt : x % 2 ^ w < 2 ^ w := Nat.mod_lt _ (by positivity)
    have hle : (2 : Int) ^ w ≤ 2 ^ i := pow_le_pow_right₀ (by norm_num) (not_lt.1 h)
    have htop : x.testBit (w - 1) = decide (2 ^ (w - 1) ≤ x % 2 ^ w) := by
      rw [← testBit_top hw hlt, Nat.testBit_mod_two_pow, decide_eq_true (by omega), Bool.true_and]
    have hcast : ((x % 2 ^ w : Nat) : Int) < 2 ^ w := by exact_mod_cast hlt
    rw [htop, signedOf]
    by_cases hs : 2 ^ (w - 1) ≤ x % 2 ^ w
    · rw [if_pos hs, decide_eq_true hs, intBit]
      have hneg : (((x % 2 ^ w : Nat) : Int) - 2 ^ w) / 2 ^ i = -1 := by
        rw [Int.ediv_eq_iff_of_pos (by positivity)]
        constructor <;> omega
      rw [hneg]
      rfl
    · rw [if_neg hs, decide_eq_false hs, intBit, Int.ediv_eq_zero_of_lt (by positivity) (by omega)]
      rfl

/-! ## Values of a type (R200, R201) -/

/-- The bits of a value: its own below the width, then its sign. -/
theorem intBit_intVal {ty : BitVec 4} (hw : 0 < tyWidth ty) {a : Nat} (ha : a < 2 ^ tyWidth ty) (i : Nat) :
    intBit (intVal ty a) i = if i < tyWidth ty then a.testBit i else tySigned ty && a.testBit (tyWidth ty - 1) := by
  unfold intVal
  by_cases hs : tySigned ty = true
  · rw [if_pos hs, intBit_signedOf hw, hs, Bool.true_and]
  · rw [if_neg hs, intBit_natCast, Nat.mod_eq_of_lt ha, Bool.eq_false_iff.2 hs, Bool.false_and]
    split
    · rfl
    · next h => exact Nat.testBit_lt_two_pow (lt_of_lt_of_le ha (Nat.pow_le_pow_right (by norm_num) (not_lt.1 h)))

/-- The sign of a value is its top bit, of a signed type. -/
theorem intVal_neg {ty : BitVec 4} (hw : 0 < tyWidth ty) {a : Nat} (ha : a < 2 ^ tyWidth ty) :
    decide (intVal ty a < 0) = (tySigned ty && a.testBit (tyWidth ty - 1)) := by
  have hcast : (a : Int) < 2 ^ tyWidth ty := by exact_mod_cast ha
  unfold intVal signedOf
  rw [Nat.mod_eq_of_lt ha, testBit_top hw ha]
  by_cases hs : tySigned ty = true
  · rw [if_pos hs, hs, Bool.true_and]
    split
    · next h => rw [decide_eq_true (by omega), decide_eq_true h]
    · next h => rw [decide_eq_false (by omega), decide_eq_false h]
  · rw [if_neg hs, Bool.eq_false_iff.2 hs, Bool.false_and, decide_eq_false (by omega)]

/-- The bits of a type are those of its value. -/
theorem intBits_intVal {ty : BitVec 4} {a : Nat} (ha : a < 2 ^ tyWidth ty) : intBits (intVal ty a) (tyWidth ty) = a := by
  have hmod : intVal ty a % 2 ^ tyWidth ty = (a : Int) := by
    have hself : (a : Int) % 2 ^ tyWidth ty = a := Int.emod_eq_of_lt (by positivity) (by exact_mod_cast ha)
    unfold intVal
    split
    · rw [signedOf_eq_emod, hself]
    · rw [Nat.mod_eq_of_lt ha, hself]
  rw [intBits, hmod, Int.toNat_natCast]

/-- Clamping to the range of a type. -/
theorem satInt_clamped (ty : BitVec 4) (v : Int) :
    (intBits (satInt v ty).1 (tyWidth ty), (satInt v ty).2) = clamped ty v := by
  have hrange : (intRange ty).1 ≤ (intRange ty).2 := by
    have hhalf : (1 : Int) ≤ 2 ^ (tyWidth ty - 1) := one_le_pow₀ (by norm_num)
    have hfull : (1 : Int) ≤ 2 ^ tyWidth ty := one_le_pow₀ (by norm_num)
    unfold intRange
    dsimp only
    split
    · show -(2 : Int) ^ (tyWidth ty - 1) ≤ 2 ^ (tyWidth ty - 1) - 1
      omega
    · show (0 : Int) ≤ 2 ^ tyWidth ty - 1
      omega
  have hlo : (if tySigned ty then -(2 ^ (tyWidth ty - 1) : Int) else 0) = (intRange ty).1 := by unfold intRange; dsimp only; split <;> rfl
  have hhi : (if tySigned ty then (2 : Int) ^ (tyWidth ty - 1) - 1 else 2 ^ tyWidth ty - 1) = (intRange ty).2 := by
    unfold intRange; dsimp only; split <;> rfl
  unfold clamped satInt
  dsimp only
  rw [hlo, hhi]
  generalize (intRange ty).1 = lo at hrange
  generalize (intRange ty).2 = hi at hrange
  rcases lt_or_ge v lo with h | h
  · rw [if_pos h, min_eq_right (by omega), max_eq_left (by omega), if_neg (by omega)]
    rfl
  · rw [if_neg (by omega)]
    rcases lt_or_ge hi v with h' | h'
    · rw [if_pos h', min_eq_left (by omega), max_eq_right hrange, if_neg (by omega)]
      rfl
    · rw [if_neg (by omega), min_eq_right h', max_eq_right h, if_pos rfl]
      rfl

theorem narrow_eq (x : Three) (v : Int) :
    narrow x v = if x.mod = 1 then clamped x.ty v else ((v % (2 ^ tyWidth x.ty : Int)).toNat, 0) := by
  rw [narrow, satInt_clamped]
  rfl

/-! ## Row by row -/

section Rows

variable {x : Three} {a b : Nat} (ha : a < 2 ^ tyWidth x.ty) (hb : b < 2 ^ tyWidth x.ty) (c d : Nat)

theorem iadd_rule : iaddFn x a b c d = integerRule .iadd x a b c d := narrow_eq _ _

theorem isub_rule : isubFn x a b c d = integerRule .isub x a b c d := narrow_eq _ _

theorem imul_rule : imulFn x a b c d = integerRule .imul x a b c d := narrow_eq _ _

theorem imad_rule : imadFn x a b c d = integerRule .imad x a b c d := narrow_eq _ _

theorem imulh_rule : imulhFn x a b c d = integerRule .imulh x a b c d := rfl

theorem iabs_rule : iabsFn x a b c d = integerRule .iabs x a b c d := by
  have habs : ((intVal x.ty a).natAbs : Int) = if intVal x.ty a < 0 then -intVal x.ty a else intVal x.ty a := by
    split <;> omega
  rw [iabsFn, narrow_eq, habs]
  rfl

include ha hb in
theorem imin_rule : iminFn x a b c d = integerRule .imin x a b c d := by
  have ha' := intBits_intVal ha
  have hb' := intBits_intVal hb
  refine Prod.ext ?_ rfl
  show (if intVal x.ty b < intVal x.ty a then b else a) = intBits (min (intVal x.ty a) (intVal x.ty b)) (tyWidth x.ty)
  split
  · rw [min_eq_right (by omega), hb']
  · rw [min_eq_left (by omega), ha']

include ha hb in
theorem imax_rule : imaxFn x a b c d = integerRule .imax x a b c d := by
  have ha' := intBits_intVal ha
  have hb' := intBits_intVal hb
  refine Prod.ext ?_ rfl
  show (if intVal x.ty a < intVal x.ty b then b else a) = intBits (max (intVal x.ty a) (intVal x.ty b)) (tyWidth x.ty)
  split
  · rw [max_eq_right (by omega), hb']
  · rw [max_eq_left (by omega), ha']

/-- A number of the type's width has no bit at or above it. -/
theorem testBit_above {n w i : Nat} (hn : n < 2 ^ w) (hi : ¬i < w) : n.testBit i = false :=
  Nat.testBit_lt_two_pow (lt_of_lt_of_le hn (Nat.pow_le_pow_right (by norm_num) (not_lt.1 hi)))

/-- Bits that a bitwise operation gives, where it gives none at or above the width. -/
theorem eq_bitsBelow_of {n w : Nat} {f : Nat → Bool} (hn : n < 2 ^ w) (h : ∀ i < w, n.testBit i = f i) : n = bitsBelow w f := by
  refine eq_bitsBelow fun i => ?_
  by_cases hi : i < w
  · rw [h i hi, decide_eq_true hi, Bool.true_and]
  · rw [testBit_above hn hi, decide_eq_false hi, Bool.false_and]

include ha in
theorem and_rule : andFn x a b c d = integerRule .and x a b c d :=
  Prod.ext (eq_bitsBelow_of (lt_of_le_of_lt Nat.and_le_left ha) fun _ _ => Nat.testBit_and _ _ _) rfl

include ha hb in
theorem or_rule : orFn x a b c d = integerRule .or x a b c d :=
  Prod.ext (eq_bitsBelow_of (Nat.or_lt_two_pow ha hb) fun _ _ => Nat.testBit_or _ _ _) rfl

include ha hb in
theorem xor_rule : xorFn x a b c d = integerRule .xor x a b c d :=
  Prod.ext (eq_bitsBelow_of (Nat.xor_lt_two_pow ha hb) fun _ _ => Nat.testBit_xor _ _ _) rfl

include ha in
theorem not_rule : notFn x a b c d = integerRule .not x a b c d := by
  refine Prod.ext (eq_bitsBelow fun i => ?_) rfl
  show (2 ^ tyWidth x.ty - 1 - a % 2 ^ tyWidth x.ty).testBit i = _
  rw [Nat.mod_eq_of_lt ha, Nat.sub_sub, Nat.add_comm 1, Nat.testBit_two_pow_sub_succ ha]

theorem shl_rule : shlFn x a b c d = integerRule .shl x a b c d := by
  refine Prod.ext (eq_bitsBelow fun i => ?_) rfl
  show (if b < tyWidth x.ty then a * 2 ^ b % 2 ^ tyWidth x.ty else 0).testBit i = _
  split
  · rw [Nat.testBit_mod_two_pow, Nat.testBit_mul_two_pow]
  · next h =>
    rw [Nat.zero_testBit]
    by_cases hi : i < tyWidth x.ty
    · rw [decide_eq_false (show ¬b ≤ i by omega), Bool.false_and, Bool.and_false]
    · rw [decide_eq_false hi, Bool.false_and]

include ha in
theorem shr_rule : shrFn x a b c d = integerRule .shr x a b c d := by
  refine Prod.ext (eq_bitsBelow_of ?_ fun i hi => ?_) rfl
  · show (if b < tyWidth x.ty then a / 2 ^ b else 0) < _
    split
    · exact lt_of_le_of_lt (Nat.div_le_self _ _) ha
    · positivity
  · show (if b < tyWidth x.ty then a / 2 ^ b else 0).testBit i = _
    split
    · exact Nat.testBit_div_two_pow _ _
    · rw [Nat.zero_testBit, testBit_above ha (by omega)]

include ha in
theorem sra_rule (hw : 0 < tyWidth x.ty) : sraFn x a b c d = integerRule .sra x a b c d := by
  refine Prod.ext (eq_bitsBelow fun i => ?_) rfl
  show (intBits (intVal x.ty a / 2 ^ min b (tyWidth x.ty)) (tyWidth x.ty)).testBit i = _
  rw [testBit_intBits, intBit_div, intBit_intVal hw ha, intVal_neg hw ha]
  by_cases hb : b ≤ tyWidth x.ty
  · rw [min_eq_left hb]
  · rw [min_eq_right (by omega), if_neg (by omega), if_neg (by omega)]

include ha in
theorem rot_rule (hw : 0 < tyWidth x.ty) : rotFn x a b c d = integerRule .rot x a b c d := by
  refine Prod.ext (eq_bitsBelow fun i => ?_) rfl
  show (a * 2 ^ (b % tyWidth x.ty) % 2 ^ tyWidth x.ty + a / 2 ^ (tyWidth x.ty - b % tyWidth x.ty)).testBit i = _
  have hn : b % tyWidth x.ty < tyWidth x.ty := Nat.mod_lt _ hw
  generalize b % tyWidth x.ty = n at hn
  generalize tyWidth x.ty = w at *
  have hpow : 2 ^ w = 2 ^ (w - n) * 2 ^ n := by rw [← Nat.pow_add]; congr 1; omega
  have hlow : a / 2 ^ (w - n) < 2 ^ n := Nat.div_lt_of_lt_mul (hpow ▸ ha)
  rw [hpow, Nat.mul_mod_mul_right, Nat.mul_comm _ (2 ^ n), Nat.testBit_two_pow_mul_add _ hlow]
  by_cases hi : i < n
  · rw [if_pos hi, Nat.testBit_div_two_pow, decide_eq_true (by omega), Bool.true_and]
    congr 1
    rw [Nat.mod_eq_of_lt (by omega)]
    omega
  · rw [if_neg hi, Nat.testBit_mod_two_pow]
    by_cases hiw : i < w
    · rw [decide_eq_true hiw, decide_eq_true (by omega), show i + w - n = i - n + w by omega, Nat.add_mod_right,
        Nat.mod_eq_of_lt (by omega)]
    · rw [decide_eq_false hiw, decide_eq_false (by omega), Bool.false_and, Bool.false_and]

theorem popc_rule : popcFn x a b c d = integerRule .popc x a b c d := Prod.ext List.countP_eq_length_filter rfl

/-- The leading numbers of a range that pass a test, where the first that fails is known. -/
theorem takeWhile_range {p : Nat → Bool} {m w : Nat} (hm : m < w) (hlow : ∀ i < m, p i = true) (hp : p m = false) :
    (List.range w).takeWhile p = List.range m := by
  obtain ⟨k, rfl⟩ : ∃ k, w = m + (k + 1) := ⟨w - m - 1, by omega⟩
  rw [List.range_add, List.takeWhile_append_of_pos fun i hi => hlow i (List.mem_range.1 hi), List.range_succ_eq_map, List.map_cons,
    List.takeWhile_cons_of_neg (by simpa using hp), List.append_nil]

include ha in
theorem clz_rule : clzFn x a b c d = integerRule .clz x a b c d := by
  refine Prod.ext ?_ rfl
  show (if a = 0 then tyWidth x.ty else tyWidth x.ty - 1 - a.log2) =
    ((List.range (tyWidth x.ty)).takeWhile fun i => !a.testBit (tyWidth x.ty - 1 - i)).length
  split
  · next h =>
    rw [h, List.takeWhile_eq_self_iff.2 fun i _ => by rw [Nat.zero_testBit]; rfl, List.length_range]
  · next h =>
    have hlog : a.log2 < tyWidth x.ty := (Nat.log2_lt h).2 ha
    rw [takeWhile_range (m := tyWidth x.ty - 1 - a.log2) (by omega), List.length_range]
    · intro i hi
      rw [Nat.testBit_lt_two_pow]
      · rfl
      · exact (Nat.log2_lt h).1 (by omega)
    · rw [show tyWidth x.ty - 1 - (tyWidth x.ty - 1 - a.log2) = a.log2 by omega, Nat.testBit_log2 h]
      rfl

theorem brev_rule : brevFn x a b c d = integerRule .brev x a b c d := by
  refine Prod.ext ?_ rfl
  show (List.range (tyWidth x.ty)).foldl (fun r i => if a.testBit i then r + 2 ^ (tyWidth x.ty - 1 - i) else r) 0 =
    bitsBelow (tyWidth x.ty) fun i => a.testBit (tyWidth x.ty - 1 - i)
  rw [foldl_bits, Nat.zero_add]
  show ∑ i ∈ Finset.range (tyWidth x.ty), (if a.testBit i then 2 ^ (tyWidth x.ty - 1 - i) else 0) =
    ∑ i ∈ Finset.range (tyWidth x.ty), if a.testBit (tyWidth x.ty - 1 - i) then 2 ^ i else 0
  rw [← Finset.sum_range_reflect]
  refine Finset.sum_congr rfl fun i hi => ?_
  rw [show tyWidth x.ty - 1 - (tyWidth x.ty - 1 - i) = i by have := Finset.mem_range.1 hi; omega]

include ha in
/-- The field's own bits, and above them its sign. -/
theorem bfx_rule (hw : 0 < tyWidth x.ty) : bfxFn x a b c d = integerRule .bfx x a b c d := by
  have hfield := intBit_intVal hw ha
  unfold bfxFn integerRule
  extract_lets w p n f va vb wrap put bits field holds
  have hn : n ≤ w := min_le_right _ _
  have hbit : ∀ i, f.testBit i = (decide (i < n) && field (i + p)) := fun i => by
    rw [testBit_intBits, intBit_div, hfield]
  have hgoal : ∀ r : Nat, (∀ i, r.testBit i = (decide (i < w) && (decide (n ≠ 0) &&
      if i < n then field (p + i) else tySigned x.ty && field (p + n - 1)))) → ((r, 0) : Nat × Flags) = bits _ :=
    fun r h => Prod.ext (eq_bitsBelow h) rfl
  by_cases h0 : n = 0
  · rw [if_pos h0]
    refine hgoal 0 fun i => ?_
    rw [Nat.zero_testBit, decide_eq_false (not_not.2 h0), Bool.false_and, Bool.and_false]
  · rw [if_neg h0]
    refine hgoal _ fun i => ?_
    rw [decide_eq_true h0, Bool.true_and]
    by_cases hs : tySigned x.ty = true
    · rw [if_pos hs, testBit_intBits, intBit_signedOf (Nat.pos_of_ne_zero h0), hbit, hbit, hs, Bool.true_and,
        decide_eq_true (show n - 1 < n by omega), Bool.true_and]
      split
      · next hi => rw [decide_eq_true hi, Bool.true_and, Nat.add_comm i p]
      · rw [show n - 1 + p = p + n - 1 by omega]
    · rw [if_neg hs, hbit, Bool.eq_false_iff.2 hs, Bool.false_and]
      by_cases hi : i < n
      · rw [if_pos hi, decide_eq_true hi, decide_eq_true (show i < w by omega), Nat.add_comm i p]
      · rw [if_neg hi, decide_eq_false hi, Bool.false_and, Bool.and_false]

theorem bfi_rule : bfiFn x a b c d = integerRule .bfi x a b c d := by
  refine Prod.ext ?_ rfl
  refine (foldl_bits _ _ _ _).trans ((Nat.zero_add _).trans ?_)
  refine congrArg (bitsBelow (tyWidth x.ty)) (funext fun i => ?_)
  simp only [Bool.and_eq_true, decide_eq_true_eq]

theorem sel_rule : selFn x a b c d = integerRule .sel x a b c d := rfl

theorem mov_rule : movFn x a b c d = integerRule .mov x a b c d := rfl

theorem movi_rule : moviFn x a b c d = integerRule .movi x a b c d := rfl

theorem icmp_rule : icmpFn x a b c d = integerRule .icmp x a b c d := by
  have hcmp : ∀ (m : Nat) (u v : Int), intCmp m u v = match m with
      | 1 => decide (u = v)
      | 2 => decide (u ≠ v)
      | 3 => decide (u < v)
      | 4 => decide (u ≤ v)
      | 5 => decide (v < u)
      | _ => decide (v ≤ u) := by
    intro m u v
    unfold intCmp
    split <;> simp [bne, beq_eq_decide]
  rw [icmpFn, hcmp]
  rfl

end Rows

/-! ## The rows together -/

/-- The types of the integer rows are of 8 bits or more. -/
theorem integerRow_width : ∀ stem ∈ integerRows, ∀ ty ∈ (opRow stem).tys, 8 ≤ tyWidth ty := by decide

/-- The rows whose B is of 32 bits whatever the type: shift counts and control words (R286, R288). -/
def countRows : List Stem := [.shl, .shr, .sra, .rot, .bfx, .bfi]

theorem integerRow_operands {stem : Stem} (h : stem ∈ integerRows) (x : Three) :
    operandWidth stem x .a = max 8 (tyWidth x.ty) ∧
      operandWidth stem x .b = if stem ∈ countRows then 32 else max 8 (tyWidth x.ty) := by
  unfold integerRows at h
  fin_cases h <;> exact ⟨rfl, rfl⟩

/-- Each integer row gives what the manual says. -/
theorem integerRow_rule {stem : Stem} (h : stem ∈ integerRows) : ∃ r, aluRow stem = some r ∧ r.dty = ownTy ∧
    r.readsD = (stem == .bfi) ∧ r.moves = (stem == .mov) ∧ ∀ (x : Three) (a b c d : Nat), 0 < tyWidth x.ty → a < 2 ^ tyWidth x.ty →
      (stem ∉ countRows → b < 2 ^ tyWidth x.ty) → r.fn x a b c d = integerRule stem x a b c d := by
  unfold integerRows at h
  fin_cases h
  all_goals refine ⟨_, rfl, rfl, rfl, rfl, fun x a b c d hw ha hb => ?_⟩
  · exact iadd_rule c d
  · exact isub_rule c d
  · exact imul_rule c d
  · exact imad_rule c d
  · exact imulh_rule c d
  · exact imin_rule ha (hb (by decide)) c d
  · exact imax_rule ha (hb (by decide)) c d
  · exact iabs_rule c d
  · exact and_rule ha c d
  · exact or_rule ha (hb (by decide)) c d
  · exact xor_rule ha (hb (by decide)) c d
  · exact not_rule ha c d
  · exact shl_rule c d
  · exact shr_rule ha c d
  · exact sra_rule ha c d hw
  · exact rot_rule ha c d hw
  · exact popc_rule c d
  · exact clz_rule ha c d
  · exact brev_rule c d
  · exact bfx_rule ha c d hw
  · exact bfi_rule c d
  · exact sel_rule c d
  · exact mov_rule c d
  · exact movi_rule c d
  · exact icmp_rule c d

theorem readOperand_lt (s : State) (k : Nat) {w : Nat} (hw : 0 < w) (o : Operand) : (readOperand s k w o).1 < 2 ^ w := by
  have hone : 1 < 2 ^ w := Nat.one_lt_two_pow (by omega)
  have hmod : ∀ n, n % 2 ^ w < 2 ^ w := fun n => Nat.mod_lt _ (by positivity)
  cases o with
  | p i =>
    show (if readP s k i.toNat then 1 else 0) < 2 ^ w
    split <;> omega
  | none => exact Nat.two_pow_pos w
  | t i => exact Nat.two_pow_pos w
  | _ => exact hmod _

/-- What an integer row computes of a strand's operands is what the manual says of them. -/
theorem laneResult_integerRule {stem : Stem} {code : Code} (h : stem ∈ integerRows) (hc : codeOk stem code = true) :
    ∃ r, aluRow stem = some r ∧ r.dty = ownTy ∧ r.readsD = (stem == .bfi) ∧ r.moves = (stem == .mov) ∧ ∀ s k,
      laneResult stem (code.norm stem) r.fn s k = integerRule stem (code.norm stem) (srcOf stem code s k .a) (srcOf stem code s k .b)
        (srcOf stem code s k .c) (srcOf stem code s k .d) := by
  obtain ⟨r, hr, hdty, hreads, hmoves, hrule⟩ := integerRow_rule h
  obtain ⟨hA, hB⟩ := integerRow_operands h (code.norm stem)
  have hty : 8 ≤ tyWidth (code.norm stem).ty := by
    have hf := fieldsOk_of_codeOk hc
    simp only [fieldsOk, Bool.and_eq_true] at hf
    exact integerRow_width stem h _ (List.contains_iff_mem.1 hf.1.1.1.1.1.1.2)
  rw [max_eq_right hty] at hA hB
  have hpos : 0 < tyWidth (code.norm stem).ty := by omega
  refine ⟨r, hr, hdty, hreads, hmoves, fun s k => hrule _ _ _ _ _ hpos ?_ fun hn => ?_⟩
  · rw [valueAt, hA]
    exact readOperand_lt s k hpos _
  · rw [valueAt, hB, if_neg hn]
    exact readOperand_lt s k hpos _

/-- Settles O24: a row's results stand in the whole of D once its writes, of which no two meet, are done; an integer row computes,
bit for bit, what the manual says. -/
theorem registerResults : Obligations.RegisterResults := by
  unfold Obligations.RegisterResults
  refine ⟨fun i stem code r s b hv hc hr hb h => laneResults_aluRow hv hc hr hb h, fun i stem code s b hv hc hs hb => ?_,
    fun i code s b hv hc hb h => laneResults_lea hv hc hb h⟩
  intro x src rule h
  obtain ⟨r, hr, hdty, hreads, hmoves, hrule⟩ := laneResult_integerRule hs hc
  have hrun := laneResults_aluRow hv hc hr hb (hreads.symm ▸ hmoves.symm ▸ h)
  simp only [hdty, hmoves, hrule] at hrun
  exact hrun

end Sys2Proof.Proofs
end

section
/-! SUPPORT. What a load reads (R157, R165, R174, R305, R308): its address, its translation, the bytes of the scratchpad, of the record and
of the L1, none of which a bundle's bystanders change; and what the core keeps of a load that it serves. -/

namespace Sys2Proof.Proofs
open Sys2Proof Sys2Proof.Machine Sys2Proof.Laws

/-! ## Addresses and translations -/

/-- A walk and its leaf's permission look at no strand. -/
theorem translate_strands (s : State) (c : Control) (l : List (Nat × Strand)) (core : Option Nat) (x : Launch) (va : Nat) (acc : Access) :
    translate { s with ctl := c, strands := l } core x va acc = translate s core x va acc := rfl

namespace PcMoved

variable {s t : State} (h : PcMoved s t)
include h

theorem coreAt (c : Nat) : coreAt t c = coreAt s c := by rw [h.frame]; rfl

theorem strandLaunch (k : Nat) : strandLaunch t k = strandLaunch s k := by rw [h.frame]; rfl

theorem memTarget (stem : Stem) (x : Three) (k : Nat) : memTarget stem x t k = memTarget stem x s k := by
  simp only [Machine.memTarget, effectiveAddress, h.readOffset, h.readOperand]

theorem memTranslate (stem : Stem) (k va : Nat) : memTranslate stem t k va = memTranslate stem s k va := by
  unfold Machine.memTranslate
  rw [h.strandLaunch, h.frame]
  exact translate_strands s _ _ _ _ _ _

theorem nearByte (c pa : Nat) (useL1 : Bool) : nearByte t c pa useL1 = nearByte s c pa useL1 := by
  rw [h.frame]; rfl

theorem loads (k : Nat) : (strandAt t k).loads = (strandAt s k).loads := by rw [h.strand]
theorem seen (k : Nat) : (strandAt t k).seen = (strandAt s k).seen := by rw [h.strand]

theorem l1Serves (k pa n cls : Nat) : l1Serves t k pa n cls = l1Serves s k pa n cls := by
  simp only [Machine.l1Serves, loadsBehind, loadsOf, l1Older, sheafStrands, h.sheafAt, h.coreAt, h.loads, h.seen]

theorem destOf (k : Nat) (o : Operand) : destOf t k o = destOf s k o := by
  cases o <;> simp only [Machine.destOf, h.slotReg]

end PcMoved

/-! ## What a core keeps of a load that it serves (R87, R177, R383) -/

/-- A state differs from another in cores, and in strands by what their loads have returned. -/
structure LoadNoted (s t : State) : Prop where
  frame : t = { s with cores := t.cores, strands := t.strands }
  strand : ∀ k, strandAt t k = { strandAt s k with seen := (strandAt t k).seen }
  isSome : ∀ k, (tfind t.strands k).isSome = (tfind s.strands k).isSome

namespace LoadNoted

theorem refl (s : State) : LoadNoted s s := ⟨rfl, fun _ => rfl, fun _ => rfl⟩

theorem trans {s t u : State} (h : LoadNoted s t) (k : LoadNoted t u) : LoadNoted s u where
  frame := by rw [k.frame, h.frame]
  strand j := by rw [k.strand, h.strand]
  isSome j := (k.isSome j).trans (h.isSome j)

theorem modCore (s : State) (c : Nat) (f : Core → Core) : LoadNoted s (modCore s c f) := ⟨rfl, fun _ => rfl, fun _ => rfl⟩

theorem noteSeen (s : State) (k born : Nat) (pas : List Nat) : LoadNoted s (noteSeen s k born pas) :=
  ⟨rfl, strandAt_noteSeen s k born pas, fun j => isSome_modStrand s k j _⟩

theorem foldl {f : State → Nat → State} (hf : ∀ u k, LoadNoted u (f u k)) (l : List Nat) (s : State) : LoadNoted s (l.foldl f s) :=
  foldl_related .refl (fun h k => h.trans k) hf l s

variable {s t : State} (h : LoadNoted s t)
include h

theorem net : t.net = s.net := by rw [h.frame]
theorem ctl : t.ctl = s.ctl := by rw [h.frame]
theorem blocks : t.blocks = s.blocks := by rw [h.frame]
theorem blockAt (b : Nat) : blockAt t b = blockAt s b := by rw [h.frame]; rfl
theorem blockOf (k : Nat) : blockOf t k = blockOf s k := by rw [h.frame]; rfl
theorem sheaves : t.sheaves = s.sheaves := by rw [h.frame]
theorem slotReg (k i : Nat) : (strandAt t k).slotReg i = (strandAt s k).slotReg i := by rw [h.strand]; rfl

end LoadNoted

theorem loadNoted_fillTlb (s : State) (c : Nat) (l : Launch) (va : Nat) : LoadNoted s (fillTlb s c l va) := by
  unfold fillTlb
  split
  · exact .modCore s c _
  · exact .refl s

theorem loadNoted_takeL1 (s : State) (c : Nat) (ks : List Nat) (pa n : Nat) : LoadNoted s (takeL1 s c ks pa n) := by
  unfold takeL1
  dsimp only
  split
  · split
    · exact .refl s
    · exact (LoadNoted.foldl (fun u k => .noteSeen u k _ _) ks s).trans (.modCore _ c _)
  · exact .refl s

theorem loadNoted_noteWalks (stem : Stem) (x : Three) (s : State) (ps : List Nat) : LoadNoted s (noteWalks stem x s ps) := by
  refine LoadNoted.foldl (fun u k => ?_) ps s
  split
  · exact loadNoted_fillTlb _ _ _ _
  · exact .refl u

/-! ## Loads from the scratchpad (R157, R161) -/

/-- A fold whose steps change nothing. -/
theorem foldl_fixed {α : Type} {f : State → α → State} {s : State} : ∀ {l : List α}, (∀ a ∈ l, f s a = s) → l.foldl f s = s
  | [], _ => rfl
  | a :: l, h => by
    rw [List.foldl_cons, h a (by simp)]
    exact foldl_fixed fun c hc => h c (by simp [hc])

/-- Accesses to the scratchpad walk no page table. -/
theorem noteWalks_scratch {stem : Stem} {x : Three} {s : State} {ps : List Nat}
    (h : ∀ k ∈ ps, ∃ off, (memTarget stem x s k).1 = .scratch off) : noteWalks stem x s ps = s := by
  refine foldl_fixed fun k hk => ?_
  obtain ⟨off, ho⟩ := h k hk
  rw [ho]

section Idle

variable {s : State} {b : Nat} (h : ∀ c ∈ (coreAt s (b / 4)).queue, c.block ≠ b)
include h

/-- With no copy command of a block queued, its scratchpad holds no granule that is yet to be settled. -/
theorem seePad_idle (off n : Nat) : seePad s b off n = s := by
  have hgranule : ∀ g, seeGranule s b g = s := fun g => by
    refine if_neg ?_
    rw [List.any_eq_true]
    rintro ⟨c, hc, hu⟩
    simp only [unsettled, copyCovers, Bool.and_eq_true, beq_iff_eq] at hu
    exact h c hc hu.2.1
  exact foldl_fixed fun g _ => hgranule g

theorem loadPadByte_idle (off : Nat) : loadPadByte s b off = readPad s b off := by
  have hnone : fillingByte s b off = none := by
    refine List.findSome?_eq_none_iff.2 fun c hc => if_neg ?_
    simp only [Bool.and_eq_true, beq_iff_eq]
    exact fun hcop => h c hc hcop.1.2
  rw [loadPadByte, hnone]
  rfl

end Idle

/-- Loads of some strands of blocks with no copy command settle nothing. -/
theorem seeTargets_idle {stem : Stem} {x : Three} {s : State} {ps : List Nat}
    (h : ∀ k ∈ ps, ∀ c ∈ (coreAt s (blockOf s k / 4)).queue, c.block ≠ blockOf s k) : seeTargets stem x s ps = s := by
  refine foldl_fixed fun k hk => ?_
  split
  · exact seePad_idle (h k hk) _ _
  · rfl

/-! ## Values that come back (R132, R280, R308) -/

/-- The destination that a load resolved is the operand, while the strand's carrel map stays. -/
theorem writeDestP_destOf {s u : State} {k : Nat} (hslot : ∀ i, (strandAt u k).slotReg i = (strandAt s k).slotReg i) (ty : BitVec 4)
    {o : Operand} (ho : IsDest o) (hp : ∀ i, o ≠ .p i) (bits : Nat) (p : Bool × Bool) :
    writeDestP u k ty (destOf s k o) bits p = writeOperandP u k ty o bits p := by
  cases o with
  | b i => rw [writeOperandP, hslot]; rfl
  | p i => exact absurd rfl (hp i)
  | v i => rfl
  | w i => rfl
  | _ => exact ho.elim

/-- A register has the poison of every byte that it is written from. -/
theorem destTaint_bytes {ty : BitVec 4} {o : Operand} (hp : ∀ i, o ≠ .p i) {bs : List (Byte × Bool)} (hl : bs.length = accessBytes ty) :
    destTaint ty o (bytesValue bs).2 = bs.any (·.2) := by
  have hall : ((bs.take 4).any (·.2) || (bs.drop 4).any (·.2)) = bs.any (·.2) := by rw [← List.any_append, List.take_append_drop]
  unfold destTaint bytesValue
  split
  · exact absurd rfl (hp _)
  · exact hall
  · split
    · exact hall
    · next hw =>
      have := tyWidth_le_32 hw
      rw [List.take_of_length_le (by rw [hl, accessBytes]; omega)]

end Sys2Proof.Proofs
end

section
/-! SUPPORT. Loads (R48, R148, R174, R308): from the scratchpad, from the record and the L1, and with a request. -/

namespace Sys2Proof.Proofs
open Sys2Proof Sys2Proof.Machine Sys2Proof.Laws

/-! ## The run of a load -/

theorem exec_ld {i : Instr} {code : Code} (hv : i.view = some (.ld, code)) (s : State) : exec i s = .next (ldRun code s) := by
  have h := ofCode_of_view hv
  cases code <;> cases h <;> rfl

/-- A load writes a register: a vector register, or with U a uniform one. -/
theorem destOk_ld {code : Code} (hc : codeOk .ld code = true) : DestOk (code.norm .ld) ∧ ∀ i, (code.norm .ld).d ≠ .p i :=
  registerDest (operandOk_d hc) rfl rfl

/-- The loads of a bundle, each on what the one before left, all on the memory that the bundle met. -/
def loadsRun (x : Three) (s : State) (ps : List Nat) : State :=
  (executors x ps).foldl (loadStrand x ps (seeTargets .ld x s (executors x ps))) (noteWalks .ld x (seeTargets .ld x s (executors x ps)) ps)

theorem ldRun_pass {s : State} {b : Bundle} {code : Code} (hb : Standing s b)
    (h : AllPass (participants s b (code.norm .ld).g) (memCheck .ld (code.norm .ld) s)) :
    ldRun code s = executed s (advanceAll (loadsRun (code.norm .ld) (bystandersPast s b (code.norm .ld).g code.len)
      (participants s b (code.norm .ld).g)) code.len (participants s b (code.norm .ld).g)) := by
  unfold ldRun
  dsimp only
  rw [runBundle_pass hb.1 h]
  rfl

/-- Where the bundle's effect leaves pc alone, each of its strands goes on past the instruction. -/
theorem pc_advanced {s u : State} {b : Bundle} (hb : Standing s b) {g : Guard} {len : Nat}
    (hpc : ∀ j, (strandAt u j).pc = (strandAt (bystandersPast s b g len) j).pc)
    (hsome : ∀ j, (tfind u.strands j).isSome = (tfind s.strands j).isSome) {k : Nat} (hk : k ∈ b.strands) :
    (strandAt (advanceAll u len (participants s b g)) k).pc = (strandAt s k).pc + BitVec.ofNat 64 len := by
  have hpast := strandAt_advanceAll len (standing_participants_nodup hb g) fun j hj => by
    rw [hsome]
    exact standing_present hb (participants_sub hj)
  rw [hpast]
  have hstart := strandAt_bystandersPast hb g len k
  by_cases hm : k ∈ participants s b g
  · rw [if_neg fun hy => (mem_bystanders.1 hy).2 hm] at hstart
    rw [if_pos hm, Strand.past, hpc, hstart]
  · rw [if_pos (mem_bystanders.2 ⟨hk, hm⟩)] at hstart
    rw [if_neg hm, hpc, hstart]
    rfl

theorem sameRegs_advanceAll {u : State} {ps : List Nat} (hn : ps.Nodup) (hs : ∀ k ∈ ps, (tfind u.strands k).isSome) (len k : Nat) :
    SameRegs (strandAt (advanceAll u len ps) k) (strandAt u k) := by
  rw [strandAt_advanceAll len hn hs]
  split
  · exact ⟨rfl, rfl, rfl, fun _ => rfl⟩
  · exact ⟨rfl, rfl, rfl, fun _ => rfl⟩

/-! ## From the scratchpad (R157, R308) -/

/-- The bytes of an access to a block's scratchpad, with their poison. -/
def padBytes (s : State) (b off : Nat) (ty : BitVec 4) : List (Byte × Bool) :=
  (List.range (accessBytes ty)).map fun j => readPad s b (off + j)

/-- The offset of a target in the scratchpad. -/
def padOffset : Target → Nat
  | .scratch off => off.toNat
  | _ => 0

section Pad

variable {s u : State} {b : Bundle} {x : Three} (hb : Standing s b) (hpc : PcMoved s u)
  (hidle : ∀ c ∈ (coreAt s (b.block / 4)).queue, c.block ≠ b.block)
include hb hpc hidle

/-- A load of one strand is the write of its bytes. -/
theorem loadStrand_scratch (hd : DestOk x) (hp : ∀ i, x.d ≠ .p i) {ps : List Nat} {v : State} {k : Nat} (hk : k ∈ b.strands) {off : Int}
    (hoff : (memTarget .ld x s k).1 = .scratch off) (hv : RegsWritten u v) :
    loadStrand x ps u v k = writeOperandP v k x.ty x.d (bytesValue (padBytes s b.block off.toNat x.ty)).1
      (bytesValue (padBytes s b.block off.toNat x.ty)).2 := by
  have hblock : blockOf u k = b.block := (hpc.blockOf k).trans (standing_block hb hk)
  have hbytes : (List.range (accessBytes x.ty)).map (fun j => loadPadByte u (blockOf u k) (off.toNat + j)) =
      padBytes s b.block off.toNat x.ty := by
    refine List.map_congr_left fun j _ => ?_
    rw [hblock, loadPadByte_idle (by rw [hpc.coreAt]; exact hidle), readPad, hpc.blockAt]
    rfl
  unfold loadStrand
  rw [hpc.memTarget, hoff]
  dsimp only
  rw [loadPad, hbytes, writeDestP_destOf (fun i => hv.slotReg k i) x.ty hd.1 hp]

theorem seeTargets_pad {ks : List Nat} (hks : ∀ k ∈ ks, k ∈ b.strands) : seeTargets .ld x u ks = u := by
  refine seeTargets_idle fun k hk => ?_
  rw [hpc.blockOf, standing_block hb (hks k hk), hpc.coreAt]
  exact hidle

end Pad

/-- Each strand that executes has the bytes at its offset in the whole of D. -/
theorem load_scratch {i : Instr} {code : Code} {s : State} {b : Bundle} (hv : i.view = some (.ld, code)) (hc : codeOk .ld code = true)
    (hb : Standing s b) (hu : Unmapped s b) (h : AllPass (participants s b (code.norm .ld).g) (memCheck .ld (code.norm .ld) s))
    (hpad : ∀ k ∈ participants s b (code.norm .ld).g, ∃ off, (memTarget .ld (code.norm .ld) s k).1 = .scratch off)
    (hidle : ∀ c ∈ (coreAt s (b.block / 4)).queue, c.block ≠ b.block) :
    Completes i s fun t =>
      t = { s with ctl := t.ctl, strands := t.strands, sheaves := t.sheaves } ∧
      (∀ k ∈ b.strands, (strandAt t k).pc = (strandAt s k).pc + BitVec.ofNat 64 code.len) ∧
      ∀ k ∈ executors (code.norm .ld) (participants s b (code.norm .ld).g), ∀ off,
        (memTarget .ld (code.norm .ld) s k).1 = .scratch off →
          destReads t k (code.norm .ld).ty (code.norm .ld).d = destBits (code.norm .ld).ty (code.norm .ld).d
            (leNat ((padBytes s b.block off.toNat (code.norm .ld).ty).map (·.1))) ∧
          destPoison t k (code.norm .ld).ty (code.norm .ld).d = (padBytes s b.block off.toNat (code.norm .ld).ty).any (·.2) := by
  refine ⟨_, (exec_ld hv s).trans (congrArg _ (ldRun_pass hb h)), ?_⟩
  obtain ⟨hd, hp⟩ := destOk_ld hc
  generalize code.norm .ld = x at *
  have hpc := pcMoved_bystandersPast hb x.g code.len
  have hsome := strand_isSome_bystandersPast s b x.g code.len
  have hstand : ∀ k ∈ executors x (participants s b x.g), k ∈ b.strands := fun k hk => participants_sub (mem_of_mem_executors hk)
  have hfree := destsFree_executors hb hu hpc hsome hd
  have hpcs : ∀ w : State, RegsWritten (bystandersPast s b x.g code.len) w → ∀ k ∈ b.strands,
      (strandAt (advanceAll w code.len (participants s b x.g)) k).pc = (strandAt s k).pc + BitVec.ofNat 64 code.len := fun w hw k hk =>
    pc_advanced hb (fun j => by rw [hw.strand]) (fun j => (hw.strand_isSome j).trans (hsome j)) hk
  generalize bystandersPast s b x.g code.len = u at *
  have hrun : loadsRun x u (participants s b x.g) =
      (executors x (participants s b x.g)).foldl (loadStrand x (participants s b x.g) u) u := by
    rw [loadsRun, seeTargets_pad hb hpc hidle hstand, noteWalks_scratch fun k hk => by rw [hpc.memTarget]; exact hpad k hk]
  have hstep : ∀ v k, k ∈ executors x (participants s b x.g) → RegsWritten u v → loadStrand x (participants s b x.g) u v k =
      writeOperandP v k x.ty x.d (bytesValue (padBytes s b.block (padOffset (memTarget .ld x s k).1) x.ty)).1
        (bytesValue (padBytes s b.block (padOffset (memTarget .ld x s k).1) x.ty)).2 := fun v k hk hv => by
    obtain ⟨off, hoff⟩ := hpad k (mem_of_mem_executors hk)
    rw [loadStrand_scratch hb hpc hidle hd hp (hstand k hk) hoff hv, hoff]
    rfl
  obtain ⟨⟨hmoved, hwrote⟩, -⟩ := writes_spec hfree hstep
  have hregs := sameRegs_advanceAll (standing_participants_nodup hb x.g) (fun k hk => by
    rw [hwrote.strand_isSome, hsome]
    exact standing_present hb (participants_sub hk)) code.len
  rw [hrun]
  refine ⟨?_, fun k hk => hpcs _ hwrote k hk, fun k hk off hoff => ?_⟩
  · rw [advanceAll_rest, hmoved, hpc.frame]
    rfl
  · have hread := dests_written (t := executed s (advanceAll ((executors x (participants s b x.g)).foldl
      (loadStrand x (participants s b x.g) u) u) code.len (participants s b x.g))) hfree hd.1 hstep (by rw [advanceAll_rest]; rfl)
      (by rw [advanceAll_rest, hmoved]; rfl) hk (hregs k)
    rw [hoff, destTaint_bytes hp (by simp [padBytes])] at hread
    exact hread

end Sys2Proof.Proofs
end

section
/-! SUPPORT. Loads from memory (R48, R148, R165, R174, R308): at once where the record and the L1 hold every byte, else with a request. -/

namespace Sys2Proof.Proofs
open Sys2Proof Sys2Proof.Machine Sys2Proof.Laws

/-! ## A load of one strand from memory -/

/-- The bytes of an access that the core holds for a strand: of the record, else of the L1 where it may serve the load. -/
def heldBytes (s : State) (k pa cls : Nat) (ty : BitVec 4) : List (Option (Byte × Bool)) :=
  nearBytes s (coreOf k) pa (accessBytes ty) (l1Serves s k pa (accessBytes ty) cls)

/-- Those bytes as a load takes them, once none is missing. -/
def takenBytes (s : State) (k pa cls : Nat) (ty : BitVec 4) : List (Byte × Bool) := (heldBytes s k pa cls ty).map (·.getD (0, false))

theorem PcMoved.heldBytes {s t : State} (h : PcMoved s t) (k pa cls : Nat) (ty : BitVec 4) :
    heldBytes t k pa cls ty = heldBytes s k pa cls ty := by
  simp only [Proofs.heldBytes, nearBytes, h.l1Serves, h.nearByte]

theorem PcMoved.takenBytes {s t : State} (h : PcMoved s t) (k pa cls : Nat) (ty : BitVec 4) :
    takenBytes t k pa cls ty = takenBytes s k pa cls ty := by
  simp only [Proofs.takenBytes, h.heldBytes]

/-- What the core notes of a load frees and binds no destination. -/
theorem LoadNoted.destsFree {s t : State} (h : LoadNoted s t) {ks : List Nat} {o : Operand} (hfree : DestsFree s ks o) :
    DestsFree t ks o where
  unshared k hk := by
    rw [Unshared, h.blockOf, h.blockAt]
    exact hfree.unshared k hk
  strand k hk := by
    rw [h.isSome]
    exact hfree.strand k hk
  sheaf k hk := by
    rw [h.sheaves]
    exact hfree.sheaf k hk
  nodup := hfree.nodup
  sheaves_nodup := hfree.sheaves_nodup

/-- The load of a strand that waits for a reply. -/
def awaited (s : State) (x : Three) (k pa cls : Nat) : PendingLoad :=
  { id := s.ctl.nextId, pa := pa, dest := destOf s k x.d, ty := x.ty, known := heldBytes s k pa cls x.ty, acquire := x.ord == 1,
    riders := [] }

/-- The strand has the load. -/
def loadPending (w s : State) (x : Three) (k pa cls : Nat) : State := addPending (fresh w).2 k (awaited s x k pa cls)

/-- Its request is on its way. -/
def loadAsked (w s : State) (x : Three) (k pa cls : Nat) : State :=
  if cls = 4 then postHost (loadPending w s x k pa cls)
    (.hostLoad pa (lineRequest (loadPending w s x k pa cls) k pa cls x.ch.toNat false [(k, s.ctl.nextId)]))
  else requestLine (loadPending w s x k pa cls) (lineRequest (loadPending w s x k pa cls) k pa cls x.ch.toNat false [(k, s.ctl.nextId)])
    (loadsBehind s k pa (accessBytes x.ty))

/-- A load of one strand from memory: what the core notes of it, then the write of its bytes or its request. -/
theorem loadGlobal_eq {s v : State} (h : LoadNoted s v) (x : Three) (k pa cls : Nat) : ∃ w, LoadNoted s w ∧
    loadGlobal s v x k [] pa cls = if (heldBytes s k pa cls x.ty).all Option.isSome then
      writeDestP w k x.ty (destOf s k x.d) (bytesValue (takenBytes s k pa cls x.ty)).1 (bytesValue (takenBytes s k pa cls x.ty)).2
    else loadAsked w s x k pa cls := by
  have hall : ∀ p : Nat → Bool, [k].all p = p k := fun p => by simp
  have hany : ∀ p : Nat → Bool, [k].any p = p k := fun p => by simp
  refine ⟨if l1Serves s k pa (accessBytes x.ty) cls then takeL1 v (coreOf k) [k] pa (accessBytes x.ty) else v, ?_, ?_⟩
  · split
    · exact h.trans (loadNoted_takeL1 _ _ _ _ _)
    · exact h
  · have hw : LoadNoted s (if l1Serves s k pa (accessBytes x.ty) cls then takeL1 v (coreOf k) [k] pa (accessBytes x.ty) else v) := by
      split
      · exact h.trans (loadNoted_takeL1 _ _ _ _ _)
      · exact h
    unfold loadGlobal
    dsimp only
    rw [hall, hany]
    generalize (if l1Serves s k pa (accessBytes x.ty) cls then takeL1 v (coreOf k) [k] pa (accessBytes x.ty) else v) = w at hw
    unfold loadAsked loadPending awaited
    rw [← hw.ctl]
    rfl

/-- The loads of a bundle with one participant whose target is memory. -/
theorem loadsRun_single {s u : State} (hpc : PcMoved s u) {x : Three} {k va pa : Nat} {leaf : Leaf}
    (hva : (memTarget .ld x s k).1 = .global va) (htr : memTranslate .ld s k va = .ok pa leaf) :
    ∃ v, LoadNoted u v ∧ loadsRun x u [k] = loadGlobal u v x k [] pa leaf.cls := by
  have hsee : seeTargets .ld x u [k] = u := foldl_fixed fun j hj => by
    rw [List.mem_singleton.1 hj, hpc.memTarget, hva]
  have hriders : ridersOf x [k] k = [] := by
    unfold ridersOf partOf
    split
    · simp
    · rfl
  refine ⟨noteWalks .ld x u [k], loadNoted_noteWalks _ _ _ _, ?_⟩
  rw [loadsRun, executors_singleton, hsee]
  show loadStrand x [k] u (noteWalks .ld x u [k]) k = _
  unfold loadStrand
  rw [hpc.memTarget, hva]
  dsimp only
  rw [hpc.memTranslate, htr]
  dsimp only
  rw [hriders]

/-! ## Requests (R48) -/

/-- A message asks for a line on behalf of a waiter, under some number of the fabric. -/
def Asks (s : State) (line : Nat) (w : Nat × Nat) : Prop := ∃ id m, tfind s.net id = some m ∧ m.requests line w

theorem asks_postFrom {m : Msg} {line : Nat} {w : Nat × Nat} (h : m.requests line w) (s : State) (die port : Option Nat) :
    Asks (postFrom s die port m) line w := ⟨s.ctl.nextId, m, tfind_tset_same _ _ _, h⟩

/-- A message that a load joins still asks for its line, and for the load. -/
theorem requests_joined {now : Nat} {r : ReadReq} {m : Msg} (h : joinable now r m = true) {w : Nat × Nat} (hw : w ∈ r.waiters) :
    (joined r.waiters m).requests r.line w := by
  unfold joinable at h
  split at h
  · simp only [Bool.and_eq_true, beq_iff_eq] at h
    exact ⟨h.1.1.1.1.2, List.mem_append_right _ hw⟩
  · simp only [Bool.and_eq_true, beq_iff_eq] at h
    exact ⟨h.1.1.2, List.mem_append_right _ hw⟩
  · cases h

theorem asks_requestLine (s : State) {r : ReadReq} {w : Nat × Nat} (hw : w ∈ r.waiters) (behind : Bool) :
    Asks (requestLine s r behind) r.line w := by
  unfold requestLine
  split
  · next m hm =>
    have hj : joinable s.now r m.2 = true := by
      split at hm
      · cases hm
      · exact List.find?_some (p := fun m : Nat × Msg => joinable s.now r m.2) hm
    exact ⟨m.1, _, tfind_tset_same _ _ _, requests_joined hj hw⟩
  · exact asks_postFrom (m := .read (readSlice s r.core r.line r.cls) r) ⟨rfl, hw⟩ _ _ _

theorem strands_requestLine (s : State) (r : ReadReq) (behind : Bool) : (requestLine s r behind).strands = s.strands := by
  unfold requestLine
  split <;> rfl

/-- The strand's loads end with the one that waits, and no other strand has changed. -/
theorem strandAt_loadPending {w : State} {k : Nat} (hk : (tfind w.strands k).isSome) (s : State) (x : Three) (pa cls j : Nat) :
    strandAt (loadPending w s x k pa cls) j =
      if j = k then { strandAt w k with loads := (strandAt w k).loads ++ [awaited s x k pa cls] } else strandAt w j := by
  rw [loadPending, addPending, strandAt_modStrand]
  exact if_congr (and_iff_left hk) rfl rfl

theorem loadAsked_spec (w s : State) (x : Three) (k pa cls : Nat) :
    (loadAsked w s x k pa cls).strands = (loadPending w s x k pa cls).strands ∧
      Asks (loadAsked w s x k pa cls) (pa / 64) (k, s.ctl.nextId) := by
  have hmem : (k, s.ctl.nextId) ∈ [(k, s.ctl.nextId)] := List.mem_singleton.2 rfl
  unfold loadAsked
  split
  · exact ⟨(reported_countFrames _ _ _).strands,
      asks_postFrom (m := .hostLoad pa (lineRequest _ k pa cls _ false [(k, s.ctl.nextId)])) ⟨rfl, hmem⟩ _ _ _⟩
  · exact ⟨strands_requestLine _ _ _, asks_requestLine _ (r := lineRequest _ k pa cls _ false [(k, s.ctl.nextId)]) hmem _⟩

/-! ## The clauses -/

/-- Once the only participant's effect has left pc alone, every strand of the bundle goes on. -/
theorem pc_advanced_single {s : State} {b : Bundle} (hb : Standing s b) {g : Guard} {k : Nat} (hk : participants s b g = [k]) (len : Nat)
    (u : State) (hpc : ∀ j, (strandAt u j).pc = (strandAt (bystandersPast s b g len) j).pc)
    (hsome : ∀ j, (tfind u.strands j).isSome = (tfind (bystandersPast s b g len).strands j).isSome) :
    ∀ j ∈ b.strands, (strandAt (advanceAll u len [k]) j).pc = (strandAt s j).pc + BitVec.ofNat 64 len := fun j hj => by
  have h := pc_advanced hb hpc (fun j => (hsome j).trans (strand_isSome_bystandersPast s b g len j)) hj
  rwa [hk] at h

/-- A strand that has written its destination and gone on reads it back. -/
theorem written_advanced {w : State} {k : Nat} {o : Operand} (hfree : DestsFree w [k] o) (ho : IsDest o) (s : State) (ty : BitVec 4)
    (bits : Nat) (p : Bool × Bool) (len : Nat) :
    let t := executed s (advanceAll (writeOperandP w k ty o bits p) len [k])
    t.net = w.net ∧ destReads t k ty o = destBits ty o bits ∧ destPoison t k ty o = destTaint ty o p := by
  have hone := List.mem_singleton.2 (rfl : k = k)
  have hmoved := threadsMoved_writeOperandP (hfree.unshared k hone) ty o bits p
  have hwrote := regsWritten_writeOperandP w k ty o bits p
  have hregs := sameRegs_advanceAll hfree.nodup (fun j hj => (hwrote.strand_isSome j).trans (hfree.strand j hj)) len k
  generalize hv : writeOperandP w k ty o bits p = v at *
  refine ⟨by rw [advanceAll_rest, hmoved]; rfl, ?_⟩
  exact dests_written (ks := [k]) (step := fun u j => writeOperandP u j ty o bits p) (bits := fun _ => bits) (p := fun _ => p) hfree ho
    (fun _ _ _ _ => rfl) (by rw [List.foldl_cons, List.foldl_nil, hv, advanceAll_rest]; rfl) (by rw [advanceAll_rest, hmoved]; rfl) hone
    (by rw [List.foldl_cons, List.foldl_nil, hv]; exact hregs)

section Single

variable {i : Instr} {code : Code} {s : State} {b : Bundle} {k va pa : Nat} {leaf : Leaf} (hv : i.view = some (.ld, code))
  (hb : Standing s b) (hk : participants s b (code.norm .ld).g = [k]) (hcheck : memCheck .ld (code.norm .ld) s k = Verdict.ok)
  (hva : (memTarget .ld (code.norm .ld) s k).1 = .global va) (htr : memTranslate .ld s k va = .ok pa leaf)
include hv hb hk hcheck hva htr

/-- The load runs on a state in which the core has noted it. -/
theorem exec_ld_global : ∃ v, LoadNoted (bystandersPast s b (code.norm .ld).g code.len) v ∧
    exec i s = .next (executed s (advanceAll (loadGlobal (bystandersPast s b (code.norm .ld).g code.len) v (code.norm .ld) k [] pa leaf.cls)
      code.len [k])) := by
  have hpass : AllPass (participants s b (code.norm .ld).g) (memCheck .ld (code.norm .ld) s) := fun j hj => by
    rw [hk] at hj
    rw [List.mem_singleton.1 hj]
    exact hcheck
  obtain ⟨v, hnoted, hrun⟩ := loadsRun_single (pcMoved_bystandersPast hb (code.norm .ld).g code.len) hva htr
  exact ⟨v, hnoted, by rw [exec_ld hv, ldRun_pass hb hpass, hk, hrun]⟩

/-- A load whose every byte the core holds: the whole of D has them (R165, R174, R308). -/
theorem load_held (hc : codeOk .ld code = true) (hu : Unmapped s b)
    (hheld : (heldBytes s k pa leaf.cls (code.norm .ld).ty).all Option.isSome = true) :
    Completes i s fun t => t.net = s.net ∧ t.mem = s.mem ∧
      (∀ j ∈ b.strands, (strandAt t j).pc = (strandAt s j).pc + BitVec.ofNat 64 code.len) ∧
      destReads t k (code.norm .ld).ty (code.norm .ld).d =
        destBits (code.norm .ld).ty (code.norm .ld).d
          (leNat ((takenBytes s k pa leaf.cls (code.norm .ld).ty).map (·.1))) ∧
      destPoison t k (code.norm .ld).ty (code.norm .ld).d =
        (takenBytes s k pa leaf.cls (code.norm .ld).ty).any (·.2) := by
  obtain ⟨v, hnoted, hexec⟩ := exec_ld_global hv hb hk hcheck hva htr
  have hpast := pcMoved_bystandersPast hb (code.norm .ld).g code.len
  obtain ⟨w, hw, hload⟩ := loadGlobal_eq hnoted (code.norm .ld) k pa leaf.cls
  rw [hpast.heldBytes, hpast.takenBytes, if_pos hheld] at hload
  obtain ⟨hd, hp⟩ := destOk_ld hc
  rw [writeDestP_destOf (hw.slotReg k) _ hd.1 hp] at hload
  rw [hload] at hexec
  have hfree := hw.destsFree (destsFree_executors hb hu hpast (strand_isSome_bystandersPast s b _ _) hd)
  rw [hk, executors_singleton] at hfree
  refine ⟨_, hexec, ?_⟩
  have hpcs := pc_advanced_single hb hk code.len
  generalize bystandersPast s b (code.norm .ld).g code.len = u at *
  obtain ⟨hnet, hreads, hpoison⟩ := written_advanced hfree hd.1 s (code.norm .ld).ty
    (bytesValue (takenBytes s k pa leaf.cls (code.norm .ld).ty)).1 (bytesValue (takenBytes s k pa leaf.cls (code.norm .ld).ty)).2 code.len
  have hwrote := regsWritten_writeOperandP w k (code.norm .ld).ty (code.norm .ld).d
    (bytesValue (takenBytes s k pa leaf.cls (code.norm .ld).ty)).1 (bytesValue (takenBytes s k pa leaf.cls (code.norm .ld).ty)).2
  refine ⟨?_, rfl, ?_, hreads, hpoison.trans (destTaint_bytes hp (by simp [takenBytes, heldBytes, nearBytes]))⟩
  · rw [hnet, hw.net, hpast.frame]
  · exact hpcs _ (fun j => by rw [hwrote.strand, hw.strand]) fun j => (hwrote.strand_isSome j).trans (hw.isSome j)

/-- A load of which a byte is missing waits for it, and asks (R48, R148, R174). -/
theorem load_missing (hmiss : (heldBytes s k pa leaf.cls (code.norm .ld).ty).all Option.isSome = false) :
    Completes i s fun t => t.mem = s.mem ∧ (strandAt t k).pc = (strandAt s k).pc + BitVec.ofNat 64 code.len ∧
      (strandAt t k).v = (strandAt s k).v ∧ (strandAt t k).loads = (strandAt s k).loads ++ [awaited s (code.norm .ld) k pa leaf.cls] ∧
      Asks t (pa / 64) (k, s.ctl.nextId) := by
  obtain ⟨v, hnoted, hexec⟩ := exec_ld_global hv hb hk hcheck hva htr
  have hpast := pcMoved_bystandersPast hb (code.norm .ld).g code.len
  have hpresent := strand_isSome_bystandersPast s b (code.norm .ld).g code.len
  obtain ⟨w, hw, hload⟩ := loadGlobal_eq hnoted (code.norm .ld) k pa leaf.cls
  rw [hpast.heldBytes, if_neg (by rw [hmiss]; decide)] at hload
  rw [hload] at hexec
  refine ⟨_, hexec, rfl, ?_⟩
  have hpcs := pc_advanced_single hb hk code.len
  have hmem : k ∈ b.strands := participants_sub (by rw [hk]; exact List.mem_singleton.2 rfl)
  generalize bystandersPast s b (code.norm .ld).g code.len = u at *
  have hid : u.ctl.nextId = s.ctl.nextId := by rw [hpast.frame]; rfl
  have hw' : (tfind w.strands k).isSome := by rw [hw.isSome, hpresent]; exact standing_present hb hmem
  have hawaited : awaited u (code.norm .ld) k pa leaf.cls = awaited s (code.norm .ld) k pa leaf.cls := by
    rw [awaited, hid, hpast.destOf, hpast.heldBytes]
    rfl
  obtain ⟨hstrands, hasks⟩ := loadAsked_spec w u (code.norm .ld) k pa leaf.cls
  have hat : ∀ j, strandAt (loadAsked w u (code.norm .ld) k pa leaf.cls) j = strandAt (loadPending w u (code.norm .ld) k pa leaf.cls) j :=
    fun j => congrArg (fun l => tget l j Strand.blank) hstrands
  have hsome : ∀ j, (tfind (loadAsked w u (code.norm .ld) k pa leaf.cls).strands j).isSome = (tfind u.strands j).isSome := fun j => by
    rw [hstrands]
    exact (isSome_modStrand _ _ _ _).trans (hw.isSome j)
  have hstrand : strandAt (executed s (advanceAll (loadAsked w u (code.norm .ld) k pa leaf.cls) code.len [k])) k =
      { strandAt w k with loads := (strandAt w k).loads ++ [awaited u (code.norm .ld) k pa leaf.cls] }.past code.len := by
    have h := strandAt_advanceAll (ks := [k]) (s := loadAsked w u (code.norm .ld) k pa leaf.cls) code.len (by simp) (fun j hj => by
      rw [List.mem_singleton.1 hj, hsome, hpresent]
      exact standing_present hb hmem) k
    rw [strandAt_executed, h, if_pos (List.mem_singleton.2 rfl), hat, strandAt_loadPending hw', if_pos rfl]
  refine ⟨hpcs _ (fun j => ?_) hsome k hmem, ?_, ?_, ?_⟩
  · rw [hat, strandAt_loadPending hw']
    split
    · next h => rw [h, hw.strand]
    · rw [hw.strand]
  · rw [hstrand, Strand.past, hw.strand, hpast.strand]
  · rw [hstrand, Strand.past, hw.strand, hpast.strand, hawaited]
  · rw [← hid, Asks, show (executed s (advanceAll (loadAsked w u (code.norm .ld) k pa leaf.cls) code.len [k])).net =
      (loadAsked w u (code.norm .ld) k pa leaf.cls).net by rw [advanceAll_rest]; rfl]
    exact hasks

end Single

theorem heldBytes_all {s : State} {k pa cls : Nat} {ty : BitVec 4} : (heldBytes s k pa cls ty).all Option.isSome = true ↔
    ∀ j < accessBytes ty, (nearByte s (coreOf k) (pa + j) (l1Serves s k pa (accessBytes ty) cls)).isSome := by
  simp [heldBytes, nearBytes]

theorem takenBytes_eq (s : State) (k pa cls : Nat) (ty : BitVec 4) : takenBytes s k pa cls ty = (List.range (accessBytes ty)).map
    fun j => (nearByte s (coreOf k) (pa + j) (l1Serves s k pa (accessBytes ty) cls)).getD (0, false) := List.map_map

theorem heldBytes_getElem? {s : State} {k pa cls j : Nat} {ty : BitVec 4} (h : j < accessBytes ty) : (heldBytes s k pa cls ty)[j]? =
    some (nearByte s (coreOf k) (pa + j) (l1Serves s k pa (accessBytes ty) cls)) := by
  simp [heldBytes, nearBytes, h]

/-- Settles O27: loads of the scratchpad and of bytes that the core holds write the whole of D; a load of which a byte is missing stands
in its strand while its request is on the fabric. -/
theorem loads : Obligations.Loads := by
  unfold Obligations.Loads
  refine ⟨fun i code s b hv hc hb hu => ?_, fun i code s b k va pa leaf hv hc hb hu => ?_, fun i code s b k va pa leaf hv hb => ?_⟩
  · exact fun hpass hpad hidle => load_scratch hv hc hb hu hpass hpad hidle
  · intro x hk hcheck hva htr hnear
    obtain ⟨t, hexec, hnet, hmem, hpcs, hdest⟩ := load_held hv hb hk hcheck hva htr hc hu (heldBytes_all.2 hnear)
    refine ⟨t, hexec, hnet, hmem, hpcs, ?_⟩
    rw [takenBytes_eq] at hdest
    exact hdest
  · intro x hk hcheck hva htr hmissing
    have hmiss : (heldBytes s k pa leaf.cls x.ty).all Option.isSome = false := by
      rw [Bool.eq_false_iff]
      intro hall
      obtain ⟨j, hj, hnone⟩ := hmissing
      have h := heldBytes_all.1 hall j hj
      rw [hnone] at h
      cases h
    obtain ⟨t, hexec, hmem, hpc, hreg, hloads, hasks⟩ := load_missing hv hb hk hcheck hva htr hmiss
    exact ⟨t, hexec, hmem, hpc, hreg, ⟨_, hloads, rfl, rfl, rfl, rfl, rfl, fun j hj => heldBytes_getElem? hj⟩, hasks⟩

end Sys2Proof.Proofs
end

section
/-! SUPPORT. What a step can leave (R144, R162, R174, R175): every meaning ends in one of four ways, which say what becomes of memory
and of the bundle at the issue stage. -/

namespace Sys2Proof.Proofs
open Sys2Proof Sys2Proof.Machine Sys2Proof.Laws

/-! ## The four ways in which a meaning ends -/

/-- The one event that puts a bundle at the issue stage. -/
def choosesBundle : Instr → Bool
  | .issueCycle => true
  | _ => false

theorem rflRun_executed (code : Code) (s : State) : ∃ u, rflRun code s = executed s u := by
  unfold rflRun
  split
  · exact ⟨_, rfl⟩
  · exact ⟨_, rfl⟩

/-- An instruction leaves what its strands' execution leaves: each arm of exec but that of rfl says so by itself. -/
theorem exec_encodable {i : Instr} (h : i.encodable = true) (s : State) : ∃ u, exec i s = .next (executed s u) := by
  obtain ⟨⟨stem, code⟩, hv⟩ := Option.isSome_iff_exists.1 h
  have hi := ofCode_of_view hv
  have hrfl : exec i s = .next (rflRun code s) → ∃ u, exec i s = .next (executed s u) := fun e => by
    rw [e]
    exact (rflRun_executed code s).imp fun u hu => congrArg _ hu
  cases stem with
  | rfl => cases code <;> cases hi <;> exact hrfl rfl
  | _ => rcases code with x | ⟨x, v⟩ | x <;> cases hi <;> exact ⟨_, rfl⟩

/-- An event that neither chooses a bundle nor may change memory is a step of the fabric. -/
theorem exec_quiet {i : Instr} (h : i.view = none) (hm : mayChangeMemory i = false) (hc : choosesBundle i = false) (s : State) :
    ∃ u, exec i s = .next (quiet s u) := by
  cases i <;> cases h <;> cases hm <;> cases hc <;> exact ⟨_, rfl⟩

/-- An event that may change memory is a step of a home or of the host. -/
theorem exec_commit {i : Instr} (hm : mayChangeMemory i = true) (s : State) : ∃ r, exec i s = .next (commit s r) := by
  cases i <;> cases hm <;> exact ⟨_, rfl⟩

theorem exec_choosesBundle {i : Instr} (hc : choosesBundle i = true) (s : State) : ∃ u, exec i s = .next (atIssue s u) := by
  cases i <;> cases hc
  exact ⟨_, rfl⟩

/-- What a step leaves, by the way in which its meaning ends. -/
inductive Leaves (s : State) (i : Instr) : State → Prop where
  | strands (u : State) : i.encodable = true → Leaves s i (executed s u)
  | fabric (u : State) : i.encodable = false → mayChangeMemory i = false → Leaves s i (quiet s u)
  | home (r : State × List MemEffect) : mayChangeMemory i = true → Leaves s i (commit s r)
  | issue (u : State) : choosesBundle i = true → Leaves s i (atIssue s u)

theorem leaves_of_exec {i : Instr} {s t : State} (h : exec i s = .next t) : Leaves s i t := by
  have ends : ∀ u, exec i s = .next u → t = u := fun u hu => (Host.Outcome.next.inj (h.symm.trans hu))
  by_cases he : i.encodable = true
  · obtain ⟨u, hu⟩ := exec_encodable he s
    exact ends _ hu ▸ .strands u he
  by_cases hm : mayChangeMemory i = true
  · obtain ⟨r, hr⟩ := exec_commit hm s
    exact ends _ hr ▸ .home r hm
  by_cases hc : choosesBundle i = true
  · obtain ⟨u, hu⟩ := exec_choosesBundle hc s
    exact ends _ hu ▸ .issue u hc
  · have hv : i.view = none := Option.not_isSome_iff_eq_none.1 he
    obtain ⟨u, hu⟩ := exec_quiet hv (Bool.eq_false_iff.2 hm) (Bool.eq_false_iff.2 hc) s
    exact ends _ hu ▸ .fabric u (Bool.eq_false_iff.2 he) (Bool.eq_false_iff.2 hm)

/-! ## Memory -/

/-- Settles O9: of the four ways in which a meaning ends, only a step of a home or of the host takes another memory. -/
theorem memoryChangesAtHomes : Obligations.MemoryChangesAtHomes := by
  unfold Obligations.MemoryChangesAtHomes
  refine ⟨fun i s t he h => ?_, fun i s t hm h a => ?_⟩
  · obtain ⟨u, hu⟩ := exec_encodable he s
    cases h.symm.trans hu
    exact ⟨rfl, rfl, rfl⟩
  · cases leaves_of_exec h with
    | strands u he => rfl
    | fabric u he hq => rfl
    | home r hr => rw [hm] at hr; cases hr
    | issue u hc => rfl

/-! ## The invariant of every step -/

/-- A state with canonical memory at whose issue stage no bundle stands. -/
theorem stepInv_of_no_bundle {s : State} (hm : s.mem.wf = true) (hb : s.ctl.bundle = none) : StepInv s :=
  ⟨hm, fun b h => by rw [hb] at h; cases h⟩

/-- Whatever an issue cycle left at the issue stage, what is handed on stands there (R10, R147). -/
theorem bundleOk_atIssue (s u : State) : BundleOk (atIssue s u) := by
  intro b hb
  obtain ⟨c, -, rfl⟩ := Option.map_eq_some_iff.1 hb
  have horder : LaneOrder (atIssue s u) (soundBundle u c).strands := byLane_order u (c.strands.filter (standsIn u c))
  refine ⟨hb, horder.nodup, horder, fun k hk => ?_⟩
  exact (List.mem_filter.1 (mem_byLane hk)).2

/-- With no bundle at the issue stage, every meaning keeps the invariant: only an issue cycle puts one there. -/
theorem stepInv_exec {i : Instr} {s t : State} (hm : s.mem.wf = true) (hb : s.ctl.bundle = none) (h : exec i s = .next t) : StepInv t := by
  have hkept : ∀ u, keptBundle s u = none := fun u => by
    unfold keptBundle
    cases u.ctl.bundle with
    | none => rfl
    | some c => exact hb
  cases leaves_of_exec h with
  | strands u he => exact stepInv_of_no_bundle hm rfl
  | fabric u he hq => exact stepInv_of_no_bundle hm (hkept u)
  | home r hr => exact stepInv_of_no_bundle (wf_memApply r.2 hm) (hkept r.1)
  | issue u hc => exact ⟨hm, bundleOk_atIssue s u⟩

theorem stepInv_firstMove {otherwise : State → Host.Outcome State Fault Refusal}
    (ho : ∀ s t, s.mem.wf = true → s.ctl.bundle = none → otherwise s = .next t → StepInv t) {s t : State} (hm : s.mem.wf = true)
    (hb : s.ctl.bundle = none) : ∀ ps : List Planned, firstMove s otherwise ps = .next t → StepInv t
  | [], h => ho s t hm hb h
  | p :: ps, h => by
    have hbegin : (begin s p).mem = s.mem ∧ (begin s p).ctl.bundle = s.ctl.bundle := by simp [begin]
    unfold firstMove at h
    split at h
    · next u hu =>
      split at h
      · exact stepInv_firstMove ho hm hb ps h
      · cases h
        exact stepInv_exec (hbegin.1 ▸ hm) (hbegin.2.trans hb) hu
    · cases h
    · cases h

theorem stepInv_tick {s : State} (hm : s.mem.wf = true) (hb : s.ctl.bundle = none) : StepInv (tick s) :=
  stepInv_of_no_bundle (by simpa [tick] using hm) (by simpa [tick] using hb)

theorem stepInv_turnStep (s t : State) (hm : s.mem.wf = true) (hb : s.ctl.bundle = none) (h : turnStep s = .next t) : StepInv t := by
  unfold turnStep at h
  split at h
  · next c _ =>
    refine stepInv_firstMove (fun u v hu hub hv => ?_) (s := noteTurn s c) hm hb _ h
    cases hv
    exact stepInv_of_no_bundle hu hub
  · cases h
    exact stepInv_tick hm hb

theorem stepInv_eventStep {s t : State} (hm : s.mem.wf = true) (hb : s.ctl.bundle = none) (h : eventStep s = .next t) : StepInv t := by
  unfold eventStep at h
  split at h
  · next p rest _ =>
    have hbegin : (begin (takePlanned s rest) p).mem = s.mem ∧ (begin (takePlanned s rest) p).ctl.bundle = s.ctl.bundle := by
      simp [begin, takePlanned]
    split at h
    · exact stepInv_exec (hbegin.1 ▸ hm) (hbegin.2.trans hb) h
    · cases h
      exact stepInv_of_no_bundle (hbegin.1 ▸ hm) (hbegin.2.trans hb)
  · split at h
    · cases h
      exact stepInv_tick hm hb
    · split at h
      · exact stepInv_turnStep s t hm hb h
      · exact stepInv_firstMove stepInv_turnStep (s := noteMove s) hm hb _ h

/-! ## Fetched instructions -/

theorem encodable_of_ofCode {stem : Stem} {code : Code} {i : Instr} (h : Instr.ofCode stem code = some i) : i.encodable = true := by
  cases stem <;> rcases code with x | ⟨x, v⟩ | x <;> cases h <;> rfl

/-- What decodes is the instruction of a row, never an event (R237). -/
theorem encodable_of_decode {bs rest : List Byte} {i : Instr} (h : decode bs = .ok (i, rest)) : i.encodable = true := by
  unfold decode at h
  split at h
  · cases h
  dsimp only at h
  split at h
  · cases h
  split_ifs at h
  split at h
  · cases h
  split at h
  · cases h
  · next hi =>
    split_ifs at h
    cases h
    exact encodable_of_ofCode hi

/-- A fetch that stops leaves what an execution leaves; one that does not gives a decoded instruction. -/
theorem fetchInstr_cases (s : State) (b : Bundle) :
    (∃ u, fetchInstr s b = .stop (executed s u)) ∨ ∃ i, i.encodable = true ∧ fetchInstr s b = .run i := by
  unfold fetchInstr
  dsimp only
  split
  · split
    · next h => exact .inr ⟨_, encodable_of_decode h, rfl⟩
    · exact .inl ⟨_, rfl⟩
  · exact .inl ⟨_, rfl⟩
  · exact .inl ⟨_, rfl⟩

/-- Settles O6: the instruction of a bundle takes it off the issue stage and leaves memory alone; with none there, each event keeps
memory canonical, and the issue cycle alone puts a bundle there, cut to the strands that stand in it. -/
theorem stepKeepsInv : Obligations.StepKeepsInv := by
  unfold Obligations.StepKeepsInv
  intro s t hs h
  obtain ⟨hm, -⟩ := hs
  unfold step at h
  split at h
  · next b _ =>
    rcases fetchInstr_cases s b with ⟨u, hu⟩ | ⟨i, hi, hu⟩
    · rw [hu] at h
      cases h
      exact stepInv_of_no_bundle hm rfl
    · rw [hu] at h
      obtain ⟨u, hu⟩ := exec_encodable hi s
      cases h.symm.trans hu
      exact stepInv_of_no_bundle hm rfl
  · next hb => exact stepInv_eventStep hm hb h

end Sys2Proof.Proofs
end

section
/-! SUPPORT. A register that another block's sheaf shares (R155): a frame that leaves out the bundle's own block alone does not hold. -/

namespace Sys2Proof.Proofs
open Sys2Proof Sys2Proof.Machine Sys2Proof.Laws

/-- A mapping that gives sheaf 1 the first registers of sheaf 0. -/
def borrowedRegs : SharedMap := { a := 1, f := 0, b := 0, g := 0, n := 8, full := [], queue := [] }

/-- The bundle of the strand of key 0 alone. -/
def loneBundle : Bundle := { core := 0, block := 0, pc := 0, strands := [0] }

/-- That strand, of sheaf 0 and of block 0, is about to run, its v1 is 7 and its v2 is 3; sheaf 1, of block 1, has the mapping. -/
def borrowedState : State :=
  { State.reset with
    ctl := { State.reset.ctl with bundle := some loneBundle },
    strands := [(0, { Strand.blank with v := [(1, 7), (2, 3)], cond := .running })],
    sheaves := [(0, { Sheaf.blank with alloc := 32 }), (1, { Sheaf.blank with block := 1 })],
    blocks := [(1, { Block.blank with shared := [borrowedRegs] })] }

/-- v2 := v1 − v2. -/
def borrowedSub : Short := { g := ⟨7, false⟩, u := false, s := false, b := 2, a := 1, d := 2 }

/-- The state after it. -/
def borrowedNext : State := alu .isub (.short borrowedSub) isubFn ownTy false false borrowedState

theorem standing_borrowedState : Standing borrowedState loneBundle := by
  unfold Standing
  decide +kernel

theorem allPass_borrowedState : AllPass (participants borrowedState loneBundle ((Code.short borrowedSub).norm .isub).g)
    (aluCheck .isub ((Code.short borrowedSub).norm .isub) false false borrowedState) := by
  unfold AllPass
  decide +kernel

/-- The strand of sheaf 1 reads another v2 once the strand of sheaf 0 has written its own. -/
theorem readV_borrowedState : 64 ∉ participants borrowedState loneBundle ((Code.short borrowedSub).norm .isub).g ∧
    readV borrowedNext 64 2 ≠ readV borrowedState 64 2 := by decide +kernel

/-- Refutes O25: its frame says that a strand which does not execute reads every register as before, which fails where a sheaf of another
block shares the destination, as in `borrowedState`: the statement asks of the bundle's own block alone that it shares no registers. -/
theorem not_aluFrame : ¬ Obligations.AluFrame := by
  unfold Obligations.AluFrame
  rintro ⟨hrow, -⟩
  have hframe := hrow (.isub borrowedSub) .isub (.short borrowedSub) (plainRow isubFn) borrowedState
    borrowedNext loneBundle rfl (by decide) rfl standing_borrowedState ⟨rfl, rfl⟩
    allPass_borrowedState rfl
  obtain ⟨-, -, -, hread, -⟩ := hframe
  exact readV_borrowedState.2 (hread 64 2 (.inl readV_borrowedState.1))

end Sys2Proof.Proofs
end

section
/-! SUPPORT. Branches (R146, R261): each participant goes to its target, and the lift counters of sheaves that branch backward. -/

namespace Sys2Proof.Proofs
open Sys2Proof Sys2Proof.Machine Sys2Proof.Laws

/-! ## Lift counters (R146) -/

/-- Nothing but sheaves differs. -/
def SheavesMoved (s t : State) : Prop := t = { s with sheaves := t.sheaves }

theorem SheavesMoved.refl (s : State) : SheavesMoved s s := rfl

theorem SheavesMoved.trans {s t u : State} (h : SheavesMoved s t) (k : SheavesMoved t u) : SheavesMoved s u := by
  unfold SheavesMoved at *
  rw [k, h]

theorem sheavesMoved_modSheaf (s : State) (f : Nat) (g : Sheaf → Sheaf) : SheavesMoved s (modSheaf s f g) := rfl

/-- A sheaf's lift counter has risen, up to 64. -/
def Sheaf.lifted (y : Sheaf) : Sheaf := { y with backedge := min 64 (y.backedge + 1) }

/-- A sheaf's lift counter rises where a strand of it branched backward while a ready strand of it stood above. -/
theorem countBackedges_spec {s : State} (b : Bundle) (taken : List (Nat × DWord))
    (hs : ∀ p ∈ taken, (tfind s.sheaves (sheafOf p.1)).isSome) :
    SheavesMoved s (countBackedges b taken s) ∧ ∀ f, sheafAt (countBackedges b taken s) f =
      if f ∈ b.above ∧ ∃ p ∈ taken, sheafOf p.1 = f ∧ p.2 ≤ b.pc then Sheaf.lifted (sheafAt s f) else sheafAt s f := by
  have hcond : ∀ f, ((taken.any fun p => sheafOf p.1 == f && decide (p.2 ≤ b.pc)) && b.above.contains f) = true ↔
      f ∈ b.above ∧ ∃ p ∈ taken, sheafOf p.1 = f ∧ p.2 ≤ b.pc := fun f => by
    simp only [Bool.and_eq_true, List.any_eq_true, beq_iff_eq, decide_eq_true_eq, List.contains_iff_mem]
    exact and_comm
  have hmem : ∀ f, f ∈ nub (taken.map fun p => sheafOf p.1) ↔ ∃ p ∈ taken, sheafOf p.1 = f := fun f => by simp [mem_nub]
  unfold countBackedges
  obtain ⟨⟨hmoved, -⟩, hin, hout⟩ := foldl_lookup (look := sheafAt) (key := id) (s := s)
    (f := fun f y => if f ∈ b.above ∧ ∃ p ∈ taken, sheafOf p.1 = f ∧ p.2 ≤ b.pc then Sheaf.lifted y else y)
    (ks := nub (taken.map fun p => sheafOf p.1))
    (P := fun u => SheavesMoved s u ∧ ∀ f, (tfind u.sheaves f).isSome = (tfind s.sheaves f).isSome)
    (step := fun t f => if (taken.any fun p => sheafOf p.1 == f && decide (p.2 ≤ b.pc)) && b.above.contains f then
      modSheaf t f fun y => { y with backedge := min 64 (y.backedge + 1) } else t)
    (fun u f hf hu => by
      obtain ⟨p, hp, rfl⟩ := (hmem f).1 hf
      simp only [hcond]
      by_cases hc : sheafOf p.1 ∈ b.above ∧ ∃ q ∈ taken, sheafOf q.1 = sheafOf p.1 ∧ q.2 ≤ b.pc
      · simp only [if_pos hc]
        refine ⟨⟨hu.1.trans (sheavesMoved_modSheaf _ _ _), fun j => (isSome_tmod _ _ _ _).trans (hu.2 j)⟩, fun j => ?_⟩
        rw [sheafAt_modSheaf, hu.2, id]
        by_cases hj : j = sheafOf p.1
        · rw [if_pos ⟨hj, hs p hp⟩, if_pos hj, hj, Sheaf.lifted]
        · rw [if_neg (fun c => hj c.1), if_neg hj]
      · simp only [if_neg hc, ite_self]
        exact ⟨hu, fun _ => trivial⟩)
    (by rw [List.map_id]; exact nodup_nub _) ⟨.refl s, fun _ => rfl⟩
  refine ⟨hmoved, fun f => ?_⟩
  by_cases hf : f ∈ nub (taken.map fun p => sheafOf p.1)
  · exact hin f hf
  · rw [hout f fun j hj e => hf (e ▸ hj), if_neg fun c => hf ((hmem f).2 (c.2.imp fun p hp => ⟨hp.1, hp.2.1⟩))]

/-! ## Branches (R261) -/

theorem PcMoved.branchTarget {s t : State} (h : PcMoved s t) (stem : Stem) (x : Three) (b : Bundle) (k : Nat) :
    branchTarget stem x t b k = branchTarget stem x s b k := by
  have hlaunch : launchOf t (Machine.blockAt t b.block) = launchOf s (Machine.blockAt s b.block) := by rw [h.frame]; rfl
  simp only [Machine.branchTarget, h.valueAt, hlaunch]

/-- A strand that has branched to a target. -/
def branched (x : Three) (target : DWord) (y : Strand) : Strand :=
  { y with pc := target, cond := if x.mod = 1 then .deferred else y.cond }

/-- The execution of a branch whose checks pass. -/
theorem exec_branch {i : Instr} {stem : Stem} {code : Code} {s : State} {b : Bundle} (hv : i.view = some (stem, code))
    (hstem : stem = .bra ∨ stem = .brx) (hb : Standing s b)
    (h : stem = .brx → AllPass (participants s b (code.norm stem).g) (indirectCheck .brx (code.norm stem) s)) :
    exec i s = .next (executed s (takeBranch stem (code.norm stem) (bystandersPast s b (code.norm stem).g code.len) b
      (participants s b (code.norm stem).g))) := by
  have hi := ofCode_of_view hv
  rcases hstem with rfl | rfl
  · have he : exec i s = .next (braRun code s) := by cases code <;> cases hi <;> rfl
    rw [he, braRun, controlRun, controlAs, runBundle_pass hb.1 fun _ _ => rfl]
    rfl
  · have he : exec i s = .next (brxRun code s) := by cases code <;> cases hi <;> rfl
    rw [he, brxRun, controlRun, controlAs, runBundle_pass hb.1 (h rfl)]
    rfl

/-- Settles O11: the strands' moves are one change for each participant, and the counters' rise changes sheaves alone. -/
theorem branchesTake : Obligations.BranchesTake := by
  unfold Obligations.BranchesTake
  intro i stem code s b hv hstem hb
  dsimp only
  intro hcheck
  refine ⟨_, exec_branch hv hstem hb hcheck, ?_⟩
  generalize code.norm stem = x
  have hpc := pcMoved_bystandersPast hb x.g code.len
  obtain ⟨taken, htaken⟩ : ∃ l, l = (participants s b x.g).map fun k => (k, branchTarget stem x s b k) := ⟨_, rfl⟩
  have hmem : ∀ p ∈ taken, p.1 ∈ participants s b x.g ∧ branchTarget stem x s b p.1 = p.2 := fun p hp => by
    rw [htaken] at hp
    obtain ⟨k, hk, rfl⟩ := List.mem_map.1 hp
    exact ⟨hk, rfl⟩
  have hrun : takeBranch stem x (bystandersPast s b x.g code.len) b (participants s b x.g) = countBackedges b taken
      ((participants s b x.g).foldl (fun t k => modStrand t k (branched x (branchTarget stem x s b k)))
        (bystandersPast s b x.g code.len)) := by
    unfold takeBranch
    simp only [hpc.branchTarget, List.foldl_map, htaken]
    rfl
  have hmoves := bundleBecomes_fold hb x.g code.len fun k => branched x (branchTarget stem x s b k)
  have hframe : StrandsMoved (issued s) ((participants s b x.g).foldl
      (fun t k => modStrand t k (branched x (branchTarget stem x s b k))) (bystandersPast s b x.g code.len)) :=
    (show StrandsMoved (issued s) (bystandersPast s b x.g code.len) from advanceAll_rest _ _ _).trans (foldl_modStrand_rest _ _ _)
  rw [hrun]
  change BundleBecomes s ((participants s b x.g).foldl (fun t k => modStrand t k (branched x (branchTarget stem x s b k)))
    (bystandersPast s b x.g code.len)) _ _ _ _ at hmoves
  generalize (participants s b x.g).foldl (fun t k => modStrand t k (branched x (branchTarget stem x s b k)))
    (bystandersPast s b x.g code.len) = u at hmoves hframe
  obtain ⟨hsheaves, hcount⟩ := countBackedges_spec (s := u) b taken fun p hp => by
    rw [hframe.sheaves]
    exact standing_sheaf hb (participants_sub (hmem p hp).1)
  refine ⟨?_, fun k => ?_, fun f => ?_⟩
  · unfold OnlyThreads
    rw [hsheaves, hframe]
    rfl
  · have h : strandAt (executed s (countBackedges b taken u)) k = strandAt u k := by
      rw [strandAt_executed, hsheaves]
      rfl
    exact h.trans (hmoves k)
  · rw [sheafAt_executed, hcount, hframe.sheafAt]
    have hany : (∃ p ∈ taken, sheafOf p.1 = f ∧ p.2 ≤ b.pc) ↔
        ∃ k ∈ participants s b x.g, sheafOf k = f ∧ branchTarget stem x s b k ≤ b.pc := by
      rw [htaken]
      simp
    simp only [hany]
    rfl

end Sys2Proof.Proofs
end

section
/-! SUPPORT. Writes of special registers (R351 to R353): what a special register reads after one, and what arms an error. -/

namespace Sys2Proof.Proofs
open Sys2Proof Sys2Proof.Machine Sys2Proof.Laws

theorem extract_low_byte (v : DWord) : (v.extractLsb' 0 8).toNat = v.toNat % 256 := by
  simp [BitVec.extractLsb'_toNat]

theorem extract_einj_unit (v : DWord) : (v.extractLsb' 0 4).toNat = v.toNat % 16 := by
  simp [BitVec.extractLsb'_toNat]

theorem extract_einj_kind (v : DWord) : (v.extractLsb' 8 2).toNat = v.toNat / 256 % 4 := by
  simp [BitVec.extractLsb'_toNat, Nat.shiftRight_eq_div_pow]

/-- A write of the flag registers keeps the low eight bits. -/
theorem flagBits_kept (v : DWord) : (v.setWidth 16 &&& flagBits).toNat = v.toNat % 256 := by
  have h : v.setWidth 16 &&& flagBits = (v.setWidth 8).setWidth 16 := by
    ext n hn
    simp only [flagBits, BitVec.getElem_and, BitVec.getElem_setWidth, BitVec.getLsbD_setWidth]
    interval_cases n <;> simp
  rw [h]
  simp
  omega

theorem byte_eq_one_iff (v : DWord) : v.setWidth 8 = (1 : Byte) ↔ v.toNat % 256 = 1 := by
  rw [← BitVec.toNat_inj]
  simp

/-- A write of `%rlim` changes that register alone, and it only within 1 to 48. -/
theorem blockAt_writeRlim {s : State} {b : Nat} (v : Nat) (hb : (tfind s.blocks b).isSome) :
    (blockAt (writeRlim s b v) b).rlim = if 1 ≤ v ∧ v ≤ 48 then v else (blockAt s b).rlim := by
  unfold writeRlim
  by_cases h : 1 ≤ v ∧ v ≤ 48
  · simp [Config.recordEntries, h, blockAt_modBlock, hb]
  · have hout : ¬ (decide (1 ≤ v) && decide (v ≤ Config.recordEntries)) = true := fun hin => by
      rw [Bool.and_eq_true] at hin
      exact h ⟨of_decide_eq_true hin.1, of_decide_eq_true hin.2⟩
    rw [if_neg h, if_neg hout]

/-- A write of `%einj` leaves KIND and UNIT there, of a pair that disarms or that has an effect. -/
theorem blockAt_writeEinj {s : State} {b : Nat} (kind : Nat) (unit : BitVec 4) (hb : (tfind s.blocks b).isSome) :
    (blockAt (writeEinj s b kind unit) b).einj = if kind = 0 ∨ einjValid kind unit.toNat = true then
      BitVec.ofNat 32 (256 * kind + unit.toNat) else (blockAt s b).einj := by
  unfold writeEinj
  by_cases h : kind = 0 ∨ einjValid kind unit.toNat = true
  · simp [h, blockAt_modBlock, hb]
  · rw [if_neg h, if_neg (by simpa using h)]

/-- A KIND and a UNIT written to `%einj` are what is armed. -/
theorem armed_of_einj {x : Block} {kind : Nat} {unit : BitVec 4} (h : x.einj = BitVec.ofNat 32 (256 * kind + unit.toNat))
    (hkind : kind < 4) : x.armed = if kind = 0 then none else some (kind, unit.toNat) := by
  have hu := unit.isLt
  have hk : (x.einj.extractLsb' 8 2).toNat = kind := by
    rw [h]
    simp [BitVec.extractLsb'_toNat, Nat.shiftRight_eq_div_pow]
    omega
  have hunit : (x.einj.extractLsb' 0 4).toNat = unit.toNat := by
    rw [h]
    simp [BitVec.extractLsb'_toNat]
    omega
  simp only [Block.armed, hk, hunit]

/-- What is armed after a write of a pair that has an effect. -/
theorem armed_writeEinj {s : State} {b kind : Nat} {unit : BitVec 4} (hb : (tfind s.blocks b).isSome) (hkind : kind < 4)
    (h : kind = 0 ∨ einjValid kind unit.toNat = true) :
    (blockAt (writeEinj s b kind unit) b).armed = if kind = 0 then none else some (kind, unit.toNat) :=
  armed_of_einj (by rw [blockAt_writeEinj kind unit hb, if_pos h]) hkind

section
variable {s : State} {k : Nat} (hk : (tfind s.strands k).isSome)
include hk

/-- The special registers of a strand that its own field keeps. -/
theorem strandAt_modStrand_self (f : Strand → Strand) : strandAt (modStrand s k f) k = f (strandAt s k) := by
  simp [strandAt_modStrand, hk]

variable (hb : (tfind s.blocks (blockOf s k)).isSome)
include hb

/-- After a write of a special register it reads what its rule makes of its old value and the bits written (R351 to R353). -/
theorem readSpecial_writeSpecial (i : BitVec 9) (v : DWord) :
    readSpecial (writeSpecial s k i v) k i = specialAfter i (readSpecial s k i) v.toNat := by
  by_cases hcsp : i.toNat = 0x013
  · simp only [readSpecial, writeSpecial, specialAfter, hcsp, strandAt_modStrand_self hk]
  by_cases hfstat : i.toNat = 0x014
  · simp only [readSpecial, writeSpecial, specialAfter, hfstat, strandAt_modStrand_self hk, flagBits_kept]
  by_cases hfmask : i.toNat = 0x015
  · simp only [readSpecial, writeSpecial, specialAfter, hfmask, strandAt_modStrand_self hk, flagBits_kept]
  by_cases hnbv : i.toNat = 0x016
  · simp only [readSpecial, writeSpecial, specialAfter, hnbv, byte_eq_one_iff]
    split
    · rw [strandAt_modStrand_self hk]
      rfl
    · rfl
  by_cases hrlim : i.toNat = 0x018
  · have h := blockAt_writeRlim (v.toNat % 256) hb
    have hsheaf : sheafAt (writeRlim s (blockOf s k) (v.toNat % 256)) (sheafOf k) = sheafAt s (sheafOf k) := by
      unfold writeRlim
      split <;> simp
    simp only [readSpecial, writeSpecial, specialAfter, hrlim, extract_low_byte, hsheaf]
    exact h
  by_cases heinj : i.toNat = 0x01E
  · have h := blockAt_writeEinj (v.toNat / 256 % 4) (v.extractLsb' 0 4) hb
    have hsheaf : sheafAt (writeEinj s (blockOf s k) (v.toNat / 256 % 4) (v.extractLsb' 0 4)) (sheafOf k) =
        sheafAt s (sheafOf k) := by
      unfold writeEinj
      split <;> simp
    simp only [readSpecial, writeSpecial, specialAfter, heinj, extract_einj_kind, hsheaf]
    refine (congrArg BitVec.toNat h).trans ?_
    rw [extract_einj_unit]
    split
    · simp
      omega
    · rfl
  · simp only [writeSpecial, specialAfter]

end

/-- A write of a special register leaves every other strand as it was. -/
theorem strandAt_writeSpecial_other (s : State) {k j : Nat} (i : BitVec 9) (v : DWord) (h : j ≠ k) :
    strandAt (writeSpecial s k i v) j = strandAt s j := by
  have hmod : ∀ f, strandAt (modStrand s k f) j = strandAt s j := fun f => by
    rw [strandAt_modStrand, if_neg fun hj => h hj.1]
  unfold writeSpecial
  dsimp only
  split
  · exact hmod _
  · exact hmod _
  · exact hmod _
  · split
    · exact hmod _
    · rfl
  · unfold writeRlim
    split <;> simp
  · unfold writeEinj
    split <;> simp
  · rfl

/-- Settles O60: each event is the write of its register under that register's rule, and nothing else. -/
theorem specialWriteEvents : Obligations.SpecialWriteEvents := by
  unfold Obligations.SpecialWriteEvents
  refine ⟨fun core slot v s hb => ⟨_, rfl, ?_⟩, fun core slot unit s hb => ⟨_, rfl, ?_⟩, fun core slot unit s hb hu => ⟨_, rfl, ?_⟩,
    fun core slot unit s hb hu => ⟨_, rfl, ?_⟩, fun core slot s hb => ⟨_, rfl, ?_⟩, fun k index v s hk hb => ⟨_, rfl, ?_, ?_⟩⟩
  · dsimp only
    rw [blockAt_quiet]
    exact blockAt_writeRlim _ hb
  · dsimp only
    rw [blockAt_quiet]
    refine ⟨armed_writeEinj hb (by decide) (.inl rfl), ?_⟩
    rw [blockAt_writeEinj 0 unit hb, if_pos (.inl rfl)]
    refine BitVec.eq_of_toNat_eq ?_
    simp
  · dsimp only
    rw [blockAt_quiet]
    exact armed_writeEinj hb (by decide) (.inr (by simpa [einjValid] using hu))
  · dsimp only
    rw [blockAt_quiet]
    exact armed_writeEinj hb (by decide) (.inr (by simpa [einjValid] using hu))
  · dsimp only
    rw [blockAt_quiet]
    exact armed_writeEinj (kind := 3) hb (by decide) (.inr rfl)
  · rw [if_pos hk]
    exact readSpecial_writeSpecial hk hb index v
  · intro j hj
    rw [if_pos hk, strandAt_quiet, strandAt_writeSpecial_other s index v hj]
    exact ⟨rfl, rfl, rfl⟩

end Sys2Proof.Proofs
end

section
/-! SUPPORT. Instructions of a sheaf (R345) whose participants are of one sheaf; predicates written to several strands; and changes of
strands that leave one that is not there as it was. -/

namespace Sys2Proof.Proofs
open Sys2Proof Sys2Proof.Machine Sys2Proof.Laws

/-! ## Participants of one sheaf -/

section OneSheaf

variable {ps : List Nat} {f : Nat}

theorem partOf_one (h : ∀ k ∈ ps, sheafOf k = f) : partOf ps f = ps :=
  List.filter_eq_self.2 fun k hk => by simpa using h k hk

theorem nub_replicate (f : Nat) : ∀ n, nub (List.replicate (n + 1) f) = [f]
  | 0 => by simp [nub]
  | n + 1 => by
    rw [List.replicate_succ, nub, nub_replicate f n]
    simp

theorem sheavesOf_one (s : State) (hne : ps ≠ []) (h : ∀ k ∈ ps, sheafOf k = f) : sheavesOf s ps = [f] := by
  have hmap : ps.map sheafOf = List.replicate ps.length f := by
    refine List.eq_replicate_iff.2 ⟨List.length_map _, fun g hg => ?_⟩
    obtain ⟨k, hk, rfl⟩ := List.mem_map.1 hg
    exact h k hk
  obtain ⟨n, hn⟩ := Nat.exists_eq_succ_of_ne_zero (fun e => hne (List.eq_nil_of_length_eq_zero e))
  rw [sheavesOf, hmap, hn, nub_replicate]
  rfl

theorem headD_mem (hne : ps ≠ []) : ps.headD 0 ∈ ps := by
  cases ps with
  | nil => exact absurd rfl hne
  | cons k ks => exact List.mem_cons_self

/-- The one sheaf's lead is the first participant. -/
theorem sheafLead_one (h : ∀ k ∈ ps, sheafOf k = f) {k : Nat} (hk : k ∈ ps) : sheafLead ps k = ps.headD 0 := by
  cases ps with
  | nil => cases hk
  | cons j ks =>
    have hj : sheafOf j = sheafOf k := (h j List.mem_cons_self).trans (h k hk).symm
    simp [sheafLead, hj]

/-- Checks that see the lead alone pass where those of the first participant do. -/
theorem allPass_one {check : Nat → Verdict} (hne : ps ≠ []) (h : ∀ k ∈ ps, sheafOf k = f)
    (hpass : AllPass ps fun k => check (sheafLead ps k)) : check (ps.headD 0) = Verdict.ok := by
  have hlead : check (sheafLead ps (ps.headD 0)) = Verdict.ok := hpass _ (headD_mem hne)
  rwa [sheafLead_one h (headD_mem hne)] at hlead

end OneSheaf

/-! ## An instruction of a sheaf whose checks pass (R345) -/

theorem sheafRun_pass {stem : Stem} {code : Code} {check : Three → State → Nat → Verdict}
    {effect : Three → State → Bundle → List Nat → State} {s : State} {b : Bundle} (hb : Standing s b)
    (h : AllPass (participants s b (code.norm stem).g) fun k =>
      check (code.norm stem) (issued s) (sheafLead (participants s b (code.norm stem).g) k)) :
    sheafRun stem code check effect s = executed s (effect (code.norm stem) (bystandersPast s b (code.norm stem).g code.len) b
      (participants s b (code.norm stem).g)) := by
  have hps : participants s (s.ctl.bundle.getD { core := 0, block := 0, pc := 0, strands := [] }) (code.norm stem).g =
      participants s b (code.norm stem).g := by rw [hb.1]; rfl
  unfold sheafRun
  dsimp only
  rw [hps, runBundle_pass hb.1 h]
  rfl

theorem currentPs_of_standing {s : State} {b : Bundle} (hb : Standing s b) (g : Guard) : currentPs s g = participants s b g := by
  rw [currentPs, hb.1]
  rfl

/-! ## Verdicts -/

theorem and_eq_ok {x y : Verdict} (h : x.and y = Verdict.ok) : x = Verdict.ok ∧ y = Verdict.ok := by
  obtain ⟨xt, xp, xf, xe, xw⟩ := x
  obtain ⟨yt, yp, yf, ye, yw⟩ := y
  simp only [Verdict.and, Verdict.ok, Verdict.mk.injEq, List.append_eq_nil_iff, Bool.or_eq_false_iff] at h ⊢
  obtain ⟨⟨h1, h2⟩, ⟨h3, h4⟩, ⟨h5, h6⟩, ⟨h7, h8⟩, h9⟩ := h
  cases xw
  · exact ⟨⟨h1, h3, h5, h7, rfl⟩, h2, h4, h6, h8, h9⟩
  · cases h9

theorem trapIf_eq_ok {p : Bool} {c : Cause} (h : Verdict.trapIf p c = Verdict.ok) : p = false := by
  cases p
  · rfl
  · simp [Verdict.trapIf, Verdict.trap, Verdict.ok] at h

/-! ## What an executed instruction of strands alone leaves -/

theorem onlyStrands_executed {s u w : State} (h : OnlyStrands s u) (hm : StrandsMoved u w) : OnlyStrands s (executed s w) := by
  unfold OnlyStrands
  rw [hm, h]
  rfl

theorem onlyThreads_executed {s u w : State} (h : OnlyStrands s u) (hm : ThreadsMoved u w) : OnlyThreads s (executed s w) := by
  unfold OnlyThreads
  rw [hm, h]
  rfl

theorem StrandsMoved.threads {s t : State} (h : StrandsMoved s t) : ThreadsMoved s t := by
  unfold ThreadsMoved
  rw [h]

theorem strandsMoved_advanceAll (s : State) (len : Nat) (ks : List Nat) : StrandsMoved s (advanceAll s len ks) := advanceAll_rest _ _ _

/-! ## Changes of strands that leave a blank one as it is -/

theorem strandAt_modStrand_blank {f : Strand → Strand} (hf : f Strand.blank = Strand.blank) (s : State) (k j : Nat) :
    strandAt (modStrand s k f) j = if j = k then f (strandAt s j) else strandAt s j := by
  rw [strandAt_modStrand]
  by_cases hj : j = k
  · subst hj
    by_cases hs : (tfind s.strands j).isSome
    · simp [hs]
    · have hblank : strandAt s j = Strand.blank := by
        rw [strandAt, tget, Option.not_isSome_iff_eq_none.1 hs]
        rfl
      simp [hs, hblank, hf]
  · simp [hj]

/-- Such a change of several strands, of which some may not be there. -/
theorem strandAt_foldl_blank {f : Strand → Strand} (hf : f Strand.blank = Strand.blank) {ks : List Nat} (hn : ks.Nodup) (s : State) :
    StrandsMoved s (ks.foldl (fun t k => modStrand t k f) s) ∧
    ∀ j, strandAt (ks.foldl (fun t k => modStrand t k f) s) j = if j ∈ ks then f (strandAt s j) else strandAt s j := by
  obtain ⟨hm, hin, hout⟩ := foldl_lookup (look := strandAt) (key := id) (f := fun _ => f) (P := StrandsMoved s)
    (step := fun t k => modStrand t k f) (fun u k _ hu => ⟨hu.trans (strandsMoved_modStrand u k f), strandAt_modStrand_blank hf u k⟩)
    (by rw [List.map_id]; exact hn) (StrandsMoved.refl s)
  refine ⟨hm, fun j => ?_⟩
  split
  · next hj => exact hin j hj
  · next hj => exact hout j fun k hk e => hj (e ▸ hk)

theorem isSome_foldl_of_step {f : State → Nat → State} (hf : ∀ s k j, (tfind (f s k).strands j).isSome = (tfind s.strands j).isSome)
    (ks : List Nat) (s : State) (j : Nat) : (tfind (ks.foldl f s).strands j).isSome = (tfind s.strands j).isSome :=
  foldl_related (R := fun a b : State => (tfind b.strands j).isSome = (tfind a.strands j).isSome) (fun _ => rfl)
    (fun h i => i.trans h) (fun s k => hf s k j) ks s

/-! ## Predicates written to several strands (R151) -/

theorem strandsMoved_writeP (s : State) (k n : Nat) (v : Bool) : StrandsMoved s (writeP s k n v) := by
  unfold writeP
  split <;> rfl

theorem strandAt_writeP {s : State} {k : Nat} (hk : (tfind s.strands k).isSome) (n : Nat) (v : Bool) (j : Nat) :
    strandAt (writeP s k n v) j = if j = k then predTaken (strandAt s j) n v else strandAt s j := by
  unfold writeP predTaken
  by_cases hn : n ≥ 7
  · simp [hn]
  · rw [if_neg hn, if_neg hn, strandAt_modStrand]
    by_cases hj : j = k
    · rw [if_pos ⟨hj, hk⟩, if_pos hj, hj]
    · rw [if_neg (fun c => hj c.1), if_neg hj]

/-- Each strand has its predicate, and nothing else changes. -/
theorem writeP_all {s : State} {ks : List Nat} (hn : ks.Nodup) (hk : ∀ k ∈ ks, (tfind s.strands k).isSome) (n : Nat) (v : Nat → Bool) :
    let t := ks.foldl (fun u k => writeP u k n (v k)) s
    StrandsMoved s t ∧ RegsWritten s t ∧ (∀ k ∈ ks, strandAt t k = predTaken (strandAt s k) n (v k)) ∧
    ∀ k, k ∉ ks → strandAt t k = strandAt s k := by
  obtain ⟨⟨hmoved, hwrote⟩, hin, hout⟩ := foldl_lookup (look := strandAt) (key := id) (s := s) (ks := ks)
    (f := fun k x => predTaken x n (v k)) (step := fun u k => writeP u k n (v k)) (P := fun u => StrandsMoved s u ∧ RegsWritten s u)
    (fun u k hm hu => ⟨⟨hu.1.trans (strandsMoved_writeP u k n _), hu.2.trans (regsWritten_writeP u k n _)⟩,
      strandAt_writeP (by rw [hu.2.strand_isSome]; exact hk k hm) n _⟩)
    (by rw [List.map_id]; exact hn) ⟨.refl s, .refl s⟩
  exact ⟨hmoved, hwrote, hin, fun k hm => hout k fun j hj e => hm (e ▸ hj)⟩

/-- The participants of a bundle have written a predicate and gone on: each reads it, and every strand of the bundle is past the
instruction. -/
theorem predicates_answered {s u : State} {b : Bundle} (hb : Standing s b) {g : Guard} {n : Nat} (hn : n < 8) (v : Nat → Bool) (len : Nat)
    (hpc : ∀ j, (strandAt u j).pc = (strandAt (bystandersPast s b g len) j).pc)
    (hsome : ∀ j, (tfind u.strands j).isSome = (tfind s.strands j).isSome) :
    let t := advanceAll ((participants s b g).foldl (fun w k => writeP w k n (v k)) u) len (participants s b g)
    StrandsMoved u t ∧ (∀ k ∈ b.strands, (strandAt t k).pc = (strandAt s k).pc + BitVec.ofNat 64 len) ∧
    ∀ k ∈ participants s b g, readP t k n = (decide (7 ≤ n) || v k) := by
  have hps := standing_participants_nodup hb g
  have hthere : ∀ k ∈ participants s b g, (tfind u.strands k).isSome := fun k hk => by
    rw [hsome]
    exact standing_present hb (participants_sub hk)
  obtain ⟨hmoved, hwrote, hin, -⟩ := writeP_all hps hthere n v
  intro t
  refine ⟨hmoved.trans (strandsMoved_advanceAll _ _ _), fun k hk => ?_, fun k hk => ?_⟩
  · exact pc_advanced hb (fun j => by rw [hwrote.strand]; exact hpc j) (fun j => (hwrote.strand_isSome j).trans (hsome j)) hk
  · have hregs := sameRegs_advanceAll hps (fun j hj => (hwrote.strand_isSome j).trans (hthere j hj)) len k
    rw [readP_predTaken (x := strandAt u k) (v := v k) (by rw [hregs.preds, hin k hk]) hn]
    split
    · next h => simp [h]
    · next h => simp [h]

/-- The number of a predicate that an instruction writes. -/
theorem predNumber_lt {stem : Stem} {code : Code} (hc : codeOk stem code = true) (hr : roleOf stem (code.norm stem).mod .d = some .p) :
    predNumber (code.norm stem).d < 8 := by
  have hd := (predicateDest (operandOk_d hc) hr).1
  generalize (code.norm stem).d = d at hd
  cases d with
  | p i => exact hd
  | _ => exact Nat.lt_succ_self 7

end Sys2Proof.Proofs
end

section
/-! SUPPORT. Register growth (R154, R346, R347): the answer of regx at once, its request, and the registers that regf returns. -/

namespace Sys2Proof.Proofs
open Sys2Proof Sys2Proof.Machine Sys2Proof.Laws

/-! ## The execution of regx and regf -/

/-- The check that regx makes of one strand. -/
def regxCheck (x : Three) (s : State) (k : Nat) : Verdict :=
  (Verdict.trapIf (rangeFails .regx x s k) .regrange).and (Verdict.poisonIf (countOperand s k x.a).2)

/-- The state after a sheaf returns n granules. -/
def regsReturned (s : State) (f n : Nat) : State := if n = 0 then s else shrink s f ((sheafAt s f).alloc - 32 * n)

section Regx

variable {i : Instr} {code : Code} {s : State} {b : Bundle} {f : Nat}

theorem exec_regx (hv : i.view = some (.regx, code)) (hb : Standing s b) (hne : participants s b (code.norm .regx).g ≠ [])
    (hf : ∀ k ∈ participants s b (code.norm .regx).g, sheafOf k = f)
    (h : AllPass (participants s b (code.norm .regx).g) fun k =>
      regxCheck (code.norm .regx) s (sheafLead (participants s b (code.norm .regx).g) k)) :
    exec i s = .next (executed s (regxSheaf (code.norm .regx) code.len (bystandersPast s b (code.norm .regx).g code.len)
      (participants s b (code.norm .regx).g) f)) := by
  have he : exec i s = .next (regxRun code s) := by
    have hi := ofCode_of_view hv
    cases code <;> cases hi <;> rfl
  rw [he, regxRun, sheafRun_pass hb h, sheavesOf_one _ hne hf]
  simp only [List.foldl_cons, List.foldl_nil, partOf_one hf]

theorem exec_regf (hv : i.view = some (.regf, code)) (hb : Standing s b) (hne : participants s b (code.norm .regf).g ≠ [])
    (hf : ∀ k ∈ participants s b (code.norm .regf).g, sheafOf k = f)
    (h : AllPass (participants s b (code.norm .regf).g) fun k =>
      regfCheck (code.norm .regf) s (sheafLead (participants s b (code.norm .regf).g) k)) :
    let u := bystandersPast s b (code.norm .regf).g code.len
    let n := (countOperand s ((participants s b (code.norm .regf).g).headD 0) (code.norm .regf).a).1
    exec i s = .next (executed s (advanceAll (regsReturned u f n) code.len
      (participants s b (code.norm .regf).g))) := by
  have he : exec i s = .next (regfRun code s) := by
    have hi := ofCode_of_view hv
    cases code <;> cases hi <;> rfl
  have hpc := pcMoved_bystandersPast hb (code.norm .regf).g code.len
  intro u n
  rw [he, regfRun, sheafRun_pass hb h, sheavesOf_one _ hne hf]
  simp only [List.foldl_cons, List.foldl_nil, partOf_one hf, countOperand, hpc.readOperand, hpc.sheafAt, regsReturned, n, u]

end Regx

/-! ## A request (R154) -/

/-- A strand that waits on its sheaf's request, if it is Running or Deferred. -/
def heldForRegx (x : Strand) : Strand :=
  match x.cond with
  | .running => { x with cond := .waiting (.regx false) }
  | .deferred => { x with cond := .waiting (.regx true) }
  | _ => x

theorem strandAt_holdForRegx (s : State) (f : Nat) : StrandsMoved s (holdForRegx s f) ∧
    ∀ k, strandAt (holdForRegx s f) k = if k ∈ sheafStrands s f then heldForRegx (strandAt s k) else strandAt s k := by
  obtain ⟨hm, hin, hout⟩ := foldl_lookup (look := strandAt) (key := id) (f := fun _ => heldForRegx) (P := StrandsMoved s) (s := s)
    (ks := sheafStrands s f)
    (step := fun t k => match (strandAt t k).cond with
      | .running => setCond t k (.waiting (.regx false))
      | .deferred => setCond t k (.waiting (.regx true))
      | _ => t)
    (fun u k _ hu => by
      have hset : ∀ c, (strandAt u k).cond ≠ .done → ∀ j,
          strandAt (setCond u k c) j = if j = k then { strandAt u j with cond := c } else strandAt u j := fun c hc j => by
        rw [setCond, strandAt_modStrand]
        by_cases hj : j = k
        · rw [if_pos ⟨hj, isSome_of_cond rfl hc⟩, if_pos hj, hj]
        · rw [if_neg (fun e => hj e.1), if_neg hj]
      unfold heldForRegx
      split
      · next hc =>
        refine ⟨hu.trans (strandsMoved_modStrand _ _ _), fun j => ?_⟩
        rw [hset _ (by rw [hc]; exact Cond.noConfusion), id]
        split
        · next hj => rw [hj, hc]
        · rfl
      · next hc =>
        refine ⟨hu.trans (strandsMoved_modStrand _ _ _), fun j => ?_⟩
        rw [hset _ (by rw [hc]; exact Cond.noConfusion), id]
        split
        · next hj => rw [hj, hc]
        · rfl
      · next hr hd =>
        refine ⟨hu, fun j => ?_⟩
        rw [id]
        split
        · next hj =>
          rw [hj]
          split
          · next hc => exact absurd hc hr
          · next hc => exact absurd hc hd
          · rfl
        · rfl)
    (by rw [List.map_id]; exact sheafStrands_nodup s f) (StrandsMoved.refl s)
  refine ⟨hm, fun k => ?_⟩
  split
  · next hk => exact hin k hk
  · next hk => exact hout k fun j hj e => hk (e ▸ hj)

theorem pc_heldForRegx (x : Strand) : (heldForRegx x).pc = x.pc := by
  unfold heldForRegx
  split <;> rfl

/-! ## Registers returned (R347) -/

/-- A strand whose registers from an allocation up are lost. -/
def cutAt (alloc : Nat) (x : Strand) : Strand :=
  { x with v := x.v.filter fun p => decide (p.1 < alloc), vPoison := x.vPoison.filter (decide <| · < alloc) }

theorem tget_cutAt (alloc : Nat) (x : Strand) (r : Nat) : tget (cutAt alloc x).v r 0 = if r < alloc then tget x.v r 0 else 0 := by
  have h : tfind (cutAt alloc x).v r = if decide (r < alloc) then tfind x.v r else none :=
    tfind_filter_keys (fun n => decide (n < alloc)) x.v r
  rw [tget, h]
  by_cases hr : r < alloc
  · simp [hr, tget]
  · simp [hr]

theorem shrink_spec {s : State} {f : Nat} (hf : (tfind s.sheaves f).isSome) (alloc : Nat) :
    ThreadsMoved s (shrink s f alloc) ∧ (sheafAt (shrink s f alloc) f).alloc = alloc ∧
    (∀ j, (tfind (shrink s f alloc).strands j).isSome = (tfind s.strands j).isSome) ∧
    ∀ k, strandAt (shrink s f alloc) k = if k ∈ sheafStrands s f then cutAt alloc (strandAt s k) else strandAt s k := by
  obtain ⟨hm, hstrand⟩ := strandAt_foldl_blank (f := cutAt alloc) rfl (sheafStrands_nodup s f) (modSheaf s f fun y => { y with alloc := alloc })
  refine ⟨(show ThreadsMoved s (modSheaf s f fun y => { y with alloc := alloc }) from rfl).trans hm.threads, ?_, ?_, hstrand⟩
  · refine (congrArg Sheaf.alloc (hm.sheafAt f)).trans ?_
    rw [sheafAt_modSheaf, if_pos ⟨rfl, hf⟩]
  · exact isSome_foldl_modStrand (fun _ => cutAt alloc) (sheafStrands s f) (modSheaf s f fun y => { y with alloc := alloc })

theorem regsReturned_spec {s : State} {f : Nat} (hf : (tfind s.sheaves f).isSome) (n : Nat) :
    let t := regsReturned s f n
    ThreadsMoved s t ∧ (sheafAt t f).alloc = (sheafAt s f).alloc - 32 * n ∧
    (∀ j, (tfind t.strands j).isSome = (tfind s.strands j).isSome) ∧ (∀ k, (strandAt t k).pc = (strandAt s k).pc) ∧
    (∀ k ∈ sheafStrands s f, ∀ r, (sheafAt t f).alloc ≤ r → r < (sheafAt s f).alloc → tget (strandAt t k).v r 0 = 0) ∧
    ∀ k r, r < (sheafAt t f).alloc → tget (strandAt t k).v r 0 = tget (strandAt s k).v r 0 := by
  intro t
  by_cases hn : n = 0
  · have ht : t = s := if_pos hn
    rw [ht, hn]
    exact ⟨.refl s, rfl, fun _ => rfl, fun _ => rfl, fun _ _ r hr hlt => absurd hlt (Nat.not_lt.2 hr), fun _ _ _ => rfl⟩
  · have ht : t = shrink s f ((sheafAt s f).alloc - 32 * n) := if_neg hn
    obtain ⟨hm, halloc, hsome, hcut⟩ := shrink_spec hf ((sheafAt s f).alloc - 32 * n)
    rw [ht, halloc]
    refine ⟨hm, rfl, hsome, fun k => ?_, fun k hk r hr _ => ?_, fun k r hr => ?_⟩
    · rw [hcut]
      split <;> rfl
    · rw [hcut, if_pos hk, tget_cutAt, if_neg (Nat.not_lt.2 hr)]
    · rw [hcut]
      split
      · rw [tget_cutAt, if_pos hr]
      · rfl

/-- Settles O34: an answer writes the predicate of each participant; a request holds the sheaf's strands; and registers that the
sheaf returns leave every strand's table. -/
theorem registerFile : Obligations.RegisterFile := by
  unfold Obligations.RegisterFile
  refine ⟨fun i code s b f hv hc hb => ?_, fun i code s b f hv hb => ?_⟩
  · intro x ps n hne hf hpass
    have hexec := exec_regx hv hb hne hf hpass
    have hhead : f = sheafOf (ps.headD 0) := (hf _ (headD_mem hne)).symm
    have hsheaf : (tfind s.sheaves f).isSome := hhead ▸ standing_sheaf hb (participants_sub (headD_mem hne))
    have hpc := pcMoved_bystandersPast hb x.g code.len
    have hsome := strand_isSome_bystandersPast s b x.g code.len
    have hcount : (countOperand (bystandersPast s b x.g code.len) (ps.headD 0) x.a).1 = n := congrArg Prod.fst (hpc.readOperand _ _ _)
    refine ⟨fun hans => ⟨_, hexec, ?_⟩, fun hn0 hfit => ⟨_, hexec, ?_⟩⟩
    · obtain ⟨hmoved, hpcs, hread⟩ := predicates_answered hb (g := x.g) (u := bystandersPast s b x.g code.len)
        (predNumber_lt hc (roleOf_d (by decide) (by decide) _)) (fun _ => decide (n = 0)) code.len (fun _ => rfl) hsome
      have hrun : regxSheaf x code.len (bystandersPast s b x.g code.len) ps f =
          advanceAll (ps.foldl (fun w k => writeP w k (predNumber x.d) (decide (n = 0))) (bystandersPast s b x.g code.len)) code.len ps := by
        unfold regxSheaf
        dsimp only
        rw [hcount, hpc.sheafAt]
        by_cases h0 : n = 0
        · simp only [h0, if_true, decide_true]
        · rw [if_neg h0, if_pos (hans.resolve_left h0), decide_eq_false h0]
      rw [hrun]
      exact ⟨onlyStrands_executed hpc.frame hmoved, hpcs, hread⟩
    · have hps : ∀ k ∈ ps, strandAt (bystandersPast s b x.g code.len) k = strandAt s k := fun k hk => by
        rw [strandAt_bystandersPast hb, if_neg fun hy => (mem_bystanders.1 hy).2 hk]
      generalize hu : bystandersPast s b x.g code.len = u at *
      have hrun : regxSheaf x code.len u ps f = holdForRegx (modCore (modSheaf u f fun y =>
          { y with regx := some { granules := n, pred := predNumber x.d, len := code.len, strands := ps } }) (f / 64) fun c =>
            { c with regxQueue := c.regxQueue ++ [f] }) f := by
        unfold regxSheaf
        dsimp only
        rw [hcount, hpc.sheafAt, if_neg hn0, if_neg (Nat.not_lt.2 hfit)]
      rw [hrun]
      generalize hw : (modCore (modSheaf u f fun y =>
          { y with regx := some { granules := n, pred := predNumber x.d, len := code.len, strands := ps } }) (f / 64) fun c =>
            { c with regxQueue := c.regxQueue ++ [f] }) = w
      have hwf : sheafAt w f = { sheafAt s f with
          regx := some { granules := n, pred := predNumber x.d, len := code.len, strands := ps } } := by
        rw [← hw, sheafAt_modCore, sheafAt_modSheaf, hpc.sheafAt, if_pos ⟨rfl, by rw [hpc.frame]; exact hsheaf⟩]
      have hwk : ∀ k, strandAt w k = strandAt u k := fun k => by rw [← hw]; rfl
      have hstrands : sheafStrands w f = sheafStrands s f := by
        rw [sheafStrands, hwf]
        rfl
      obtain ⟨hm, hheld⟩ := strandAt_holdForRegx w f
      refine ⟨?_, ?_, ?_, fun k hk hrun => ?_, fun k hk => ?_⟩
      · rw [sheafAt_executed, hm.sheafAt, hwf]
      · rw [sheafAt_executed, hm.sheafAt, hwf]
      · rw [coreAt_executed, hm.coreAt, ← hw, coreAt_modCore, if_pos rfl, ← hpc.coreAt]
        rfl
      · rw [strandAt_executed, hheld, if_pos (hstrands ▸ hk), hwk, heldForRegx, hpc.cond, hrun]
      · rw [strandAt_executed, hheld, ← hps k hk, hwk]
        split
        · exact pc_heldForRegx _
        · rfl
  · intro x ps n hne hf hpass
    refine ⟨_, exec_regf hv hb hne hf hpass, ?_⟩
    have hhead : f = sheafOf (ps.headD 0) := (hf _ (headD_mem hne)).symm
    have hsheaf : (tfind s.sheaves f).isSome := hhead ▸ standing_sheaf hb (participants_sub (headD_mem hne))
    have hpc := pcMoved_bystandersPast hb x.g code.len
    have hsome := strand_isSome_bystandersPast s b x.g code.len
    obtain ⟨hm, halloc, hthere, hpcs, hlost, hkept⟩ := regsReturned_spec (s := bystandersPast s b x.g code.len) (f := f)
      (by rw [hpc.frame]; exact hsheaf) n
    have hstart : ∀ k, (strandAt (bystandersPast s b x.g code.len) k).v = (strandAt s k).v := hpc.v
    have hadv := fun k => @pc_advanced s (regsReturned (bystandersPast s b x.g code.len) f n) b hb x.g code.len hpcs
      (fun j => (hthere j).trans (hsome j)) k
    have hregs : ∀ k, (strandAt (advanceAll (regsReturned (bystandersPast s b x.g code.len) f n) code.len ps) k).v =
        (strandAt (regsReturned (bystandersPast s b x.g code.len) f n) k).v := fun k =>
      (sameRegs_advanceAll (standing_participants_nodup hb x.g) (fun j hj => by
        rw [hthere, hsome]
        exact standing_present hb (participants_sub hj)) code.len k).v
    have hsheaves := (strandsMoved_advanceAll (regsReturned (bystandersPast s b x.g code.len) f n) code.len ps).sheafAt f
    have hold : sheafStrands (bystandersPast s b x.g code.len) f = sheafStrands s f := by rw [sheafStrands, hpc.sheafAt]; rfl
    rw [hpc.sheafAt] at halloc hlost
    rw [hold] at hlost
    refine ⟨onlyThreads_executed hpc.frame (hm.trans (strandsMoved_advanceAll _ _ _).threads), fun k hk => hadv k hk, ?_,
      fun k hk r hr hlt => ?_, fun k r hr => ?_⟩
    · rw [sheafAt_executed, hsheaves, halloc]
    · rw [sheafAt_executed, hsheaves] at hr
      rw [strandAt_executed, hregs, hlost k hk r hr hlt]
    · rw [sheafAt_executed, hsheaves] at hr
      rw [strandAt_executed, hregs, hkept k r hr, hstart]

end Sys2Proof.Proofs
end

section
/-! SUPPORT. Shared mappings (R155, R348, R349): a new one is read through at once, and one that ends leaves its registers at 0. -/

namespace Sys2Proof.Proofs
open Sys2Proof Sys2Proof.Machine Sys2Proof.Laws

/-! ## What advances with a change of other tables -/

/-- Where the effect leaves every strand as it is, the whole bundle goes on past the instruction (R149). -/
theorem bundleBecomes_past {s w : State} {b : Bundle} (hb : Standing s b) {g : Guard} {len : Nat}
    (hw : w.strands = (bystandersPast s b g len).strands) :
    BundleBecomes s (executed s (advanceAll w len (participants s b g))) b (participants s b g) len fun _ y => y.past len := by
  have hk : ∀ k, strandAt w k = strandAt (bystandersPast s b g len) k := fun k => congrArg (fun l => tget l k Strand.blank) hw
  have hpast := strandAt_advanceAll (s := w) len (standing_participants_nodup hb g) fun k hk => by
    rw [hw, strand_isSome_bystandersPast]
    exact standing_present hb (participants_sub hk)
  intro k
  rw [strandAt_executed, hpast, hk, strandAt_bystandersPast hb]
  dsimp only
  by_cases hm : k ∈ participants s b g
  · rw [if_pos hm, if_neg fun hy => (mem_bystanders.1 hy).2 hm, if_pos hm]
  · rw [if_neg hm, if_neg hm]
    by_cases hs : k ∈ b.strands
    · rw [if_pos (mem_bystanders.2 ⟨hs, hm⟩), if_pos hs]
    · rw [if_neg fun hy => hs (mem_bystanders.1 hy).1, if_neg hs]

/-! ## The execution of shmap and shunm -/

section PcMoved

variable {s t : State} (h : PcMoved s t)
include h

theorem PcMoved.livePartner (b idx : Nat) : livePartner t b idx = livePartner s b idx := by
  simp only [Machine.livePartner, blockSheaves, sheafStrands, h.blockAt, h.sheafAt, h.cond]

theorem PcMoved.mappingNamed (f r : Nat) : mappingNamed t f r = mappingNamed s f r := by
  simp only [Machine.mappingNamed, mappingsOf, h.blockAt, h.sheafAt]

end PcMoved

/-- The mapping that a shmap of a sheaf with a partner adds. -/
def newMapping (x : Three) (s : State) (k p : Nat) : SharedMap :=
  { a := sheafOf k, f := regName x.d, b := p, g := regName x.a, n := (countOperand s k x.b).1, full := [], queue := [] }

/-- A mapping joins those of a block. -/
def withMapping (s : State) (b : Nat) (m : SharedMap) : State := modBlock s b fun y => { y with shared := y.shared ++ [m] }

section Exec

variable {i : Instr} {code : Code} {s : State} {b : Bundle} {f : Nat}

theorem exec_shmap {p : Nat} (hv : i.view = some (.shmap, code)) (hb : Standing s b)
    (hne : participants s b (code.norm .shmap).g ≠ []) (hf : ∀ k ∈ participants s b (code.norm .shmap).g, sheafOf k = f)
    (h : AllPass (participants s b (code.norm .shmap).g) fun k =>
      shmapCheck (code.norm .shmap) s (sheafLead (participants s b (code.norm .shmap).g) k))
    (hp : livePartner s b.block (valueAt .shmap (code.norm .shmap) s ((participants s b (code.norm .shmap).g).headD 0) .c).1 = some p) :
    exec i s = .next (executed s (advanceAll (withMapping (bystandersPast s b (code.norm .shmap).g code.len) b.block
      (newMapping (code.norm .shmap) s ((participants s b (code.norm .shmap).g).headD 0) p)) code.len
        (participants s b (code.norm .shmap).g))) := by
  have he : exec i s = .next (shmapRun code s) := by
    have hi := ofCode_of_view hv
    rcases code with x | ⟨x, v⟩ | x <;> cases hi
    rfl
  have hpc := pcMoved_bystandersPast hb (code.norm .shmap).g code.len
  have hblock := standing_block hb (participants_sub (headD_mem hne))
  rw [he, shmapRun, sheafRun_pass hb h, sheavesOf_one _ hne hf]
  simp only [List.foldl_cons, List.foldl_nil, partOf_one hf, shmapSheaf, hpc.blockOf, hblock, hpc.livePartner, hpc.valueAt, hp,
    countOperand, hpc.readOperand]
  rfl

theorem exec_shunm (hv : i.view = some (.shunm, code)) (hb : Standing s b)
    (hne : participants s b (code.norm .shunm).g ≠ []) (hf : ∀ k ∈ participants s b (code.norm .shunm).g, sheafOf k = f)
    {m : SharedMap} (hm : mappingNamed s f (regName (code.norm .shunm).a) = some m) :
    exec i s = .next (executed s (advanceAll (shunmSheaf (code.norm .shunm) (bystandersPast s b (code.norm .shunm).g code.len) f) code.len
      (participants s b (code.norm .shunm).g))) := by
  have he : exec i s = .next (shunmRun code s) := by
    have hi := ofCode_of_view hv
    rcases code with x | ⟨x, v⟩ | x <;> cases hi
    rfl
  rw [he, shunmRun, sheafRun_pass hb, sheavesOf_one _ hne hf]
  · rfl
  · intro k hk
    dsimp only
    rw [sheafLead_one hf hk, hf _ (headD_mem hne)]
    exact congrArg (fun o : Option SharedMap => Verdict.trapIf o.isNone .prot) hm

end Exec

/-! ## A new mapping is read through (R155, R348) -/

/-- A shmap that passes its check gives a range of its sheaf that no mapping has. -/
theorem rangeShared_of_shmapCheck {x : Three} {s : State} {k p : Nat} (h : shmapCheck x s k = Verdict.ok)
    (hp : livePartner s (sheafAt s (sheafOf k)).block (valueAt .shmap x s k .c).1 = some p) :
    rangeShared s (sheafOf k) (regName x.d) (regName x.d + (countOperand s k x.b).1) = false := by
  have hcause : shmapCause x s k = none := by
    have hc := (and_eq_ok (and_eq_ok h).1).2
    cases hs : shmapCause x s k with
    | none => rfl
    | some c =>
      rw [hs] at hc
      cases hc
  unfold shmapCause at hcause
  dsimp only at hcause
  rw [hp] at hcause
  split at hcause
  · cases hcause
  · dsimp only at hcause
    split at hcause
    · cases hcause
    · next hno =>
      simp only [Bool.or_eq_true, not_or, Bool.not_eq_true] at hno
      exact hno.1.2

/-- A register of a range that is the newest mapping's alone is the partner's. -/
theorem vHome_withMapping {s t : State} {m : SharedMap} {j r : Nat} (hphase : (sheafAt t m.a).phase = .normal)
    (hshared : (blockAt t (sheafAt t m.a).block).shared = (blockAt s (sheafAt s m.a).block).shared ++ [m])
    (hfree : rangeShared s m.a m.f (m.f + m.n) = false) (hj : j < 64) (hr : r < m.n) :
    vHome t (strandKey m.a j) (m.f + r) = (strandKey m.b j, m.g + r) := by
  have hkey : sheafOf (strandKey m.a j) = m.a ∧ strandKey m.a j % 64 = j := by
    unfold sheafOf strandKey
    omega
  have hold : (blockAt s (sheafAt s m.a).block).shared.find? (fun o => o.a == m.a && decide (o.f ≤ m.f + r) && decide (m.f + r < o.f + o.n)) =
      none := by
    refine List.find?_eq_none.2 fun o ho hin => ?_
    have hno := (List.any_eq_false.1 hfree) o ho
    simp only [Bool.and_eq_true, decide_eq_true_eq, beq_iff_eq] at hin
    simp only [Bool.or_eq_true, Bool.and_eq_true, decide_eq_true_eq, beq_iff_eq, not_or] at hno
    exact hno.1 ⟨⟨hin.1.1, by omega⟩, by omega⟩
  unfold vHome
  dsimp only
  rw [hkey.1, hkey.2, hphase, hshared]
  simp [List.find?_append, hold, hr]

theorem readV_of_home {s : State} {k n j r : Nat} (h : vHome s k n = (j, r)) :
    readV s k n = (tget (strandAt s j).v r 0, (strandAt s j).vPoison.contains r) := by
  unfold readV
  rw [h]

/-! ## A mapping that ends (R349) -/

/-- A strand whose registers of a range read 0 again. -/
def rangeCleared (lo n : Nat) (y : Strand) : Strand :=
  { y with v := y.v.filter fun p => decide (p.1 < lo) || decide (lo + n ≤ p.1),
           vPoison := y.vPoison.filter fun i => decide (i < lo) || decide (lo + n ≤ i) }

theorem tget_rangeCleared (lo n : Nat) (y : Strand) (r : Nat) :
    tget (rangeCleared lo n y).v r 0 = if lo ≤ r ∧ r < lo + n then 0 else tget y.v r 0 := by
  have h : tfind (rangeCleared lo n y).v r = if (decide (r < lo) || decide (lo + n ≤ r)) then tfind y.v r else none :=
    tfind_filter_keys (fun i => decide (i < lo) || decide (lo + n ≤ i)) y.v r
  rw [tget, h]
  by_cases hr : lo ≤ r ∧ r < lo + n
  · rw [if_pos hr, if_neg (by simpa using hr)]
    rfl
  · rw [if_neg hr, if_pos (by simp only [Bool.or_eq_true, decide_eq_true_eq]; omega)]
    rfl

theorem clearRegs_spec (s : State) (f lo n : Nat) : StrandsMoved s (clearRegs s f lo n) ∧
    (∀ j, (tfind (clearRegs s f lo n).strands j).isSome = (tfind s.strands j).isSome) ∧
    ∀ k, strandAt (clearRegs s f lo n) k = if k ∈ sheafStrands s f then rangeCleared lo n (strandAt s k) else strandAt s k := by
  obtain ⟨hm, hk⟩ := strandAt_foldl_blank (f := rangeCleared lo n) rfl (sheafStrands_nodup s f) s
  exact ⟨hm, isSome_foldl_modStrand (fun _ => rangeCleared lo n) (sheafStrands s f) s, hk⟩

/-- The state after a mapping of a block, on which no strand waits, has ended. -/
def mappingEnded (s : State) (b : Nat) (m : SharedMap) : State :=
  clearRegs (clearRegs (modBlock s b fun y => { y with shared := y.shared.filter (· != m) }) m.a m.f m.n) m.b m.g m.n

theorem shunmSheaf_eq {x : Three} {s : State} {f : Nat} {m : SharedMap} (hm : mappingNamed s f (regName x.a) = some m)
    (hq : m.queue = []) : shunmSheaf x s f = mappingEnded s (sheafAt s f).block m := by
  unfold shunmSheaf
  rw [hm]
  dsimp only
  rw [waitersOf, hq]
  rfl

theorem mappingEnded_spec {s : State} {b : Nat} (hb : (tfind s.blocks b).isSome) (m : SharedMap) :
    m ∉ (blockAt (mappingEnded s b m) b).shared ∧ (∀ j, (tfind (mappingEnded s b m).strands j).isSome = (tfind s.strands j).isSome) ∧
    (∀ k, (strandAt (mappingEnded s b m) k).pc = (strandAt s k).pc) ∧
    (∀ k ∈ sheafStrands s m.a, ∀ r, m.f ≤ r → r < m.f + m.n → tget (strandAt (mappingEnded s b m) k).v r 0 = 0) ∧
    ∀ k ∈ sheafStrands s m.b, ∀ r, m.g ≤ r → r < m.g + m.n → tget (strandAt (mappingEnded s b m) k).v r 0 = 0 := by
  unfold mappingEnded
  obtain ⟨hm1, hs1, hk1⟩ := clearRegs_spec (modBlock s b fun y => { y with shared := y.shared.filter (· != m) }) m.a m.f m.n
  obtain ⟨hm2, hs2, hk2⟩ := clearRegs_spec (clearRegs (modBlock s b fun y => { y with shared := y.shared.filter (· != m) }) m.a m.f m.n)
    m.b m.g m.n
  have hblock0 : m ∉ (blockAt (modBlock s b fun y => { y with shared := y.shared.filter (· != m) }) b).shared := by
    rw [blockAt_modBlock, if_pos ⟨rfl, hb⟩]
    simp
  have hstrands0 : ∀ k, strandAt (modBlock s b fun y => { y with shared := y.shared.filter (· != m) }) k = strandAt s k := fun _ => rfl
  have hother : sheafStrands (clearRegs (modBlock s b fun y => { y with shared := y.shared.filter (· != m) }) m.a m.f m.n) m.b =
      sheafStrands s m.b := by
    rw [sheafStrands, hm1.sheafAt]
    rfl
  rw [hother] at hk2
  rw [show sheafStrands (modBlock s b fun y => { y with shared := y.shared.filter (· != m) }) m.a = sheafStrands s m.a from rfl] at hk1
  rw [show (modBlock s b fun y => { y with shared := y.shared.filter (· != m) }).strands = s.strands from rfl] at hs1
  generalize (modBlock s b fun y => { y with shared := y.shared.filter (· != m) }) = s0 at *
  generalize clearRegs s0 m.a m.f m.n = s1 at *
  refine ⟨?_, fun j => (hs2 j).trans (hs1 j), fun k => ?_, fun k hk r hlo hhi => ?_, fun k hk r hlo hhi => ?_⟩
  · rw [hm2.blockAt, hm1.blockAt]
    exact hblock0
  · rw [hk2]
    have hpc : (strandAt s1 k).pc = (strandAt s k).pc := by
      rw [hk1, hstrands0]
      split <;> rfl
    split <;> exact hpc
  · have hzero : tget (strandAt s1 k).v r 0 = 0 := by
      rw [hk1, if_pos hk, tget_rangeCleared, if_pos ⟨hlo, hhi⟩]
    rw [hk2]
    split
    · rw [tget_rangeCleared, hzero, ite_self]
    · exact hzero
  · rw [hk2, if_pos hk, tget_rangeCleared, if_pos ⟨hlo, hhi⟩]

/-- Settles O35: the newest mapping is the first that a register of its range meets, since the check found the range free; the end of a
mapping takes it out of the block and clears both ranges. -/
theorem mappings : Obligations.Mappings := by
  unfold Obligations.Mappings
  refine ⟨fun i code s b f p hv hb hblock => ?_, fun i code s b f m hv hb hblock => ?_⟩
  · intro x ps k hne hf hpass hp
    refine ⟨_, exec_shmap hv hb hne hf hpass hp, bundleBecomes_past hb rfl, rfl, ?_⟩
    have hpc := pcMoved_bystandersPast hb x.g code.len
    have hk := headD_mem hne
    have hkf : sheafOf k = f := hf k hk
    have hown : (sheafAt s f).block = b.block := hkf ▸ standing_block hb (participants_sub hk)
    subst hkf
    intro m
    have hmoved : StrandsMoved (withMapping (bystandersPast s b x.g code.len) b.block m)
        (advanceAll (withMapping (bystandersPast s b x.g code.len) b.block m) code.len ps) := strandsMoved_advanceAll _ _ _
    have hshared : (blockAt (executed s (advanceAll (withMapping (bystandersPast s b x.g code.len) b.block m) code.len ps)) b.block).shared =
        (blockAt s b.block).shared ++ [m] := by
      rw [blockAt_executed, hmoved.blockAt, withMapping, blockAt_modBlock, if_pos ⟨rfl, by rw [hpc.frame]; exact hblock⟩, hpc.blockAt]
    refine ⟨hshared, fun hphase j hj r hr => ?_⟩
    have hsheaf : sheafAt (executed s (advanceAll (withMapping (bystandersPast s b x.g code.len) b.block m) code.len ps)) (sheafOf k) =
        sheafAt s (sheafOf k) := (hmoved.sheafAt _).trans (hpc.sheafAt _)
    have hfree := rangeShared_of_shmapCheck (allPass_one hne hf hpass) (by rw [hown]; exact hp)
    have hhome := vHome_withMapping (s := s) (m := m) (j := j) (r := r) (by rw [hsheaf]; exact hphase)
      (by rw [hsheaf, hown]; exact hshared) hfree hj hr
    have hregs := bundleBecomes_past hb (g := x.g) (len := code.len) (w := withMapping (bystandersPast s b x.g code.len) b.block m) rfl
      (strandKey p j)
    have hkept : (strandAt (executed s (advanceAll (withMapping (bystandersPast s b x.g code.len) b.block m) code.len ps))
        (strandKey p j)) = { strandAt s (strandKey p j) with pc := (strandAt (executed s
          (advanceAll (withMapping (bystandersPast s b x.g code.len) b.block m) code.len ps)) (strandKey p j)).pc } := by
      refine hregs.trans ?_
      rw [show strandAt _ _ = _ from hregs]
      dsimp only
      split
      · rfl
      · split <;> rfl
    refine (readV_of_home hhome).trans ?_
    rw [hkept]
  · intro x ps hne hf hm hq
    have hpc := pcMoved_bystandersPast hb x.g code.len
    have hown : (sheafAt s f).block = b.block := by
      rw [← hf _ (headD_mem hne)]
      exact standing_block hb (participants_sub (headD_mem hne))
    have hexec := exec_shunm hv hb hne hf hm
    rw [shunmSheaf_eq (by rw [hpc.mappingNamed]; exact hm) hq, hpc.sheafAt, hown] at hexec
    have hstrands : ∀ g, sheafStrands (bystandersPast s b x.g code.len) g = sheafStrands s g := fun g => by
      rw [sheafStrands, hpc.sheafAt]
      rfl
    obtain ⟨hgone, hsome, hpcs, hfirst, hsecond⟩ := mappingEnded_spec (s := bystandersPast s b x.g code.len) (b := b.block)
      (by rw [hpc.frame]; exact hblock) m
    rw [hstrands] at hfirst hsecond
    have hthere := fun j => (hsome j).trans (strand_isSome_bystandersPast s b x.g code.len j)
    have hregs := fun k => (sameRegs_advanceAll (u := mappingEnded (bystandersPast s b x.g code.len) b.block m)
      (standing_participants_nodup hb x.g) (fun j hj => by
        rw [hthere]
        exact standing_present hb (participants_sub hj)) code.len k).v
    refine ⟨_, hexec, ?_, fun k hk => pc_advanced hb hpcs hthere hk, fun k hk r hlo hhi => ?_, fun k hk r hlo hhi => ?_⟩
    · rw [blockAt_executed, (strandsMoved_advanceAll _ _ _).blockAt]
      exact hgone
    · rw [strandAt_executed, hregs, hfirst k hk r hlo hhi]
    · rw [strandAt_executed, hregs, hsecond k hk r hlo hhi]

end Sys2Proof.Proofs
end

section
/-! SUPPORT. Writes of a scratchpad (R157, R353) and what they leave alone; the tile table (R159, R323 to R326). -/

namespace Sys2Proof.Proofs
open Sys2Proof Sys2Proof.Machine Sys2Proof.Laws

/-! ## What a write of a scratchpad leaves alone -/

/-- A state differs from another in scratchpads and armed errors, and in what the RAS log, the engine's commands and the free choices
take: its strands, sheaves and messages are the same, and of a block only the scratchpad and `%einj` may differ. -/
structure PadWritten (s t : State) : Prop where
  strands : t.strands = s.strands
  sheaves : t.sheaves = s.sheaves
  net : t.net = s.net
  block : ∀ b, blockAt t b = { blockAt s b with
    pad := (blockAt t b).pad, padPoison := (blockAt t b).padPoison, einj := (blockAt t b).einj }
  block_isSome : ∀ b, (tfind t.blocks b).isSome = (tfind s.blocks b).isSome

namespace PadWritten

theorem of_eq {s t : State} (hs : t.strands = s.strands) (hf : t.sheaves = s.sheaves) (hn : t.net = s.net) (hb : t.blocks = s.blocks) :
    PadWritten s t where
  strands := hs
  sheaves := hf
  net := hn
  block b := by rw [show blockAt t b = blockAt s b by rw [blockAt, hb]; rfl]
  block_isSome b := by rw [hb]

theorem refl (s : State) : PadWritten s s := of_eq rfl rfl rfl rfl

theorem trans {s t u : State} (h : PadWritten s t) (k : PadWritten t u) : PadWritten s u where
  strands := k.strands.trans h.strands
  sheaves := k.sheaves.trans h.sheaves
  net := k.net.trans h.net
  block b := by rw [k.block, h.block]
  block_isSome b := (k.block_isSome b).trans (h.block_isSome b)

theorem modBlock (s : State) (b : Nat) {f : Block → Block}
    (hf : ∀ x, f x = { x with pad := (f x).pad, padPoison := (f x).padPoison, einj := (f x).einj }) : PadWritten s (modBlock s b f) where
  strands := rfl
  sheaves := rfl
  net := rfl
  block c := by
    rw [blockAt_modBlock]
    split
    · next h => rw [h.1]; exact hf _
    · rfl
  block_isSome c := isSome_tmod _ _ _ _

variable {s t : State} (h : PadWritten s t)
include h

theorem strandAt (k : Nat) : strandAt t k = strandAt s k := by rw [Machine.strandAt, h.strands]; rfl

theorem tileAt (b n : Nat) : tileAt t b n = tileAt s b n := by rw [Machine.tileAt, h.block]; rfl

end PadWritten

theorem padWritten_logStrike (s : State) (b kind : Nat) : PadWritten s (logStrike s b kind) := by
  have hcount : ∀ c loc, PadWritten s (countError s c loc) := fun c loc => by
    unfold countError
    split
    · split <;> exact .of_eq rfl rfl rfl rfl
    · exact .refl s
  have hlog : ∀ u v, Reported u v → PadWritten u v := fun u v h => by
    rw [h.frame]
    exact .of_eq rfl rfl rfl rfl
  exact (hcount _ _).trans (hlog _ _ (reported_logRas_counted s _ true _ 0 0))

theorem padWritten_strikePad (s : State) (b : Nat) : PadWritten s (strikePad s b).2 := by
  have hstrike : PadWritten s (strike s b 2).2 := by
    unfold strike
    split
    · split
      · exact .modBlock s b fun _ => rfl
      · exact .refl s
    · exact .refl s
  unfold strikePad
  dsimp only
  split
  · exact hstrike.trans (padWritten_logStrike _ _ _)
  · exact hstrike

theorem pad_strikePad (s : State) (b c : Nat) : (blockAt (strikePad s b).2 c).pad = (blockAt s c).pad := by
  have hstrike : (blockAt (strike s b 2).2 c).pad = (blockAt s c).pad := by
    unfold strike
    split
    · split
      · rw [blockAt_modBlock]
        split
        · next h => rw [h.1]
        · rfl
      · rfl
    · rfl
  have hlog : ∀ kind, (blockAt (logStrike (strike s b 2).2 b kind) c).pad = (blockAt (strike s b 2).2 c).pad := fun kind => by
    have hr := (reported_logRas_counted (strike s b 2).2 (if kind = 1 then .corrected else .uncorrected) true (locCore (b / 4)) 0 0).frame
    have hc : ∀ cls loc, (countError (strike s b 2).2 cls loc).blocks = (strike s b 2).2.blocks := fun cls loc => by
      unfold countError
      split
      · split <;> rfl
      · rfl
    rw [logStrike, blockAt, hr]
    exact congrArg (fun l => (tget l c Block.blank).pad) (hc _ _)
  unfold strikePad
  dsimp only
  split
  · exact (hlog _).trans hstrike
  · exact hstrike

theorem settleStore_frame (passed : List Nat) (s : State) (b off : Nat) (bytes : List Byte) (poison : Bool) :
    settleStore passed s b off bytes poison = { s with cores := (settleStore passed s b off bytes poison).cores } := by
  unfold settleStore
  refine foldl_related (R := fun s t : State => t = { s with cores := t.cores }) (fun _ => rfl)
    (by intro _ _ _ h k; rw [k, h]) (fun u g => ?_) _ s
  split <;> rfl

theorem padWritten_putPadBy (passed : List Nat) (s : State) (b off : Nat) (bytes : List Byte) (poison : Bool) :
    PadWritten s (putPadBy passed s b off bytes poison) := by
  have hsettle : PadWritten s (settleStore passed s b off bytes poison) := by
    rw [settleStore_frame]
    exact .of_eq rfl rfl rfl rfl
  exact hsettle.trans (.modBlock _ _ fun _ => rfl)

theorem padWritten_writePadBy (passed : List Nat) (s : State) (b off : Nat) (bytes : List Byte) (poison : Bool) :
    PadWritten s (writePadBy passed s b off bytes poison) := (padWritten_strikePad s b).trans (padWritten_putPadBy _ _ _ _ _ _)

theorem padWritten_passedGranules (s : State) (b : Nat) (gs : List Nat) : PadWritten s (passedGranules s b gs).2 := by
  obtain ⟨n, hn⟩ := passedGranules_eq s b gs
  rw [hn]
  exact .of_eq rfl rfl rfl rfl

theorem writePad_eq (s : State) (b off : Nat) (bytes : List Byte) (poison : Bool) : ∃ passed u, PadWritten (strikePad s b).2 u ∧
    u.blocks = (strikePad s b).2.blocks ∧ writePad s b off bytes poison = putPadBy passed u b off bytes (poison || (strikePad s b).1) := by
  refine ⟨_, _, padWritten_passedGranules _ b (granulesOf off bytes.length), ?_, rfl⟩
  obtain ⟨n, hn⟩ := passedGranules_eq (strikePad s b).2 b (granulesOf off bytes.length)
  rw [hn]

theorem padWritten_writePad (s : State) (b off : Nat) (bytes : List Byte) (poison : Bool) : PadWritten s (writePad s b off bytes poison) := by
  obtain ⟨passed, u, hu, -, he⟩ := writePad_eq s b off bytes poison
  rw [he]
  exact ((padWritten_strikePad s b).trans hu).trans (padWritten_putPadBy _ _ _ _ _ _)

/-! ## What a scratchpad reads after a write (R157) -/

theorem readPad_putPadBy {s : State} {b : Nat} (hb : (tfind s.blocks b).isSome) (passed : List Nat) (off : Nat) (bytes : List Byte)
    (poison : Bool) (a : Nat) : (readPad (putPadBy passed s b off bytes poison) b a).1 =
      if off ≤ a ∧ a < off + bytes.length then (bytes[a - off]?).getD 0 else (readPad s b a).1 := by
  have hpad : (blockAt (putPadBy passed s b off bytes poison) b).pad = setBytes (blockAt s b).pad off bytes := by
    rw [putPadBy, blockAt_modBlock, settleStore_frame, if_pos ⟨rfl, hb⟩]
    rfl
  unfold readPad
  dsimp only
  rw [hpad, tget, tfind_setBytes]
  split <;> rfl

theorem readPad_strikePad (s : State) (b a : Nat) : (readPad (strikePad s b).2 b a).1 = (readPad s b a).1 := by
  unfold readPad
  dsimp only
  rw [pad_strikePad]

theorem readPad_writePadBy {s : State} {b : Nat} (hb : (tfind s.blocks b).isSome) (passed : List Nat) (off : Nat) (bytes : List Byte)
    (poison : Bool) (a : Nat) : (readPad (writePadBy passed s b off bytes poison) b a).1 =
      if off ≤ a ∧ a < off + bytes.length then (bytes[a - off]?).getD 0 else (readPad s b a).1 := by
  rw [writePadBy, readPad_putPadBy (by rw [(padWritten_strikePad s b).block_isSome]; exact hb), readPad_strikePad]

theorem readPad_writePad {s : State} {b : Nat} (hb : (tfind s.blocks b).isSome) (off : Nat) (bytes : List Byte) (poison : Bool) (a : Nat) :
    (readPad (writePad s b off bytes poison) b a).1 =
      if off ≤ a ∧ a < off + bytes.length then (bytes[a - off]?).getD 0 else (readPad s b a).1 := by
  obtain ⟨passed, u, hu, hblocks, he⟩ := writePad_eq s b off bytes poison
  have hread : (readPad u b a).1 = (readPad (strikePad s b).2 b a).1 := by
    unfold readPad blockAt
    rw [hblocks]
  rw [he, readPad_putPadBy (by rw [hu.block_isSome, (padWritten_strikePad s b).block_isSome]; exact hb), hread, readPad_strikePad]

end Sys2Proof.Proofs
end

section
/-! SUPPORT. Tiles bound, freed, marked and read (R159, R323 to R326), and the commands of the copy queue (R166, R316, R330). -/

namespace Sys2Proof.Proofs
open Sys2Proof Sys2Proof.Machine Sys2Proof.Laws

/-! ## What a bundle reads of tiles -/

section PcMoved

variable {s t : State} (h : PcMoved s t)
include h

theorem PcMoved.tileAt (b n : Nat) : tileAt t b n = tileAt s b n := by simp only [Machine.tileAt, h.blockAt]

theorem PcMoved.boundTiles (c : Nat) : boundTiles t c = boundTiles s c := by rw [h.frame]; rfl

theorem PcMoved.copyVa (stem : Stem) (x : Three) (k : Nat) : copyVa stem x t k = copyVa stem x s k := by
  simp only [Machine.copyVa, h.memTarget]

theorem PcMoved.sheavesOf (ps : List Nat) : sheavesOf t ps = sheavesOf s ps := by
  have hinsert : ∀ f gs, insertSheaf t f gs = insertSheaf s f gs := fun f gs => by
    induction gs with
    | nil => rfl
    | cons g gs ih => simp only [insertSheaf, h.sheafAt, ih]
  have hfun : insertSheaf t = insertSheaf s := funext fun f => funext (hinsert f)
  rw [Machine.sheavesOf, hfun]
  rfl

theorem PcMoved.notLowestSheaf (ps : List Nat) (k : Nat) : notLowestSheaf t ps k = notLowestSheaf s ps k := by
  simp only [Machine.notLowestSheaf, h.sheavesOf]

theorem PcMoved.rangeFails (stem : Stem) (x : Three) (k : Nat) : rangeFails stem x t k = rangeFails stem x s k := by
  have hout : outOfRange t k = outOfRange s k := funext fun n => by rw [outOfRange, h.sheafAt]; rfl
  simp only [Machine.rangeFails, regRange, h.vNames, hout]

theorem PcMoved.tdefCheck (ps : List Nat) (x : Three) (k : Nat) : tdefCheck ps x t k = tdefCheck ps x s k := by
  simp only [Machine.tdefCheck, descCheck, h.blockOf, h.blockAt, h.valueAt, h.tileAt, h.notLowestSheaf]

theorem PcMoved.boundCheck (ps : List Nat) (x : Three) (k : Nat) : boundCheck ps x t k = boundCheck ps x s k := by
  simp only [Machine.boundCheck, h.blockOf, h.tileAt, h.notLowestSheaf]

theorem PcMoved.copyCheck (stem : Stem) (ps : List Nat) (x : Three) (k : Nat) : copyCheck stem ps x t k = copyCheck stem ps x s k := by
  simp only [Machine.copyCheck, h.blockOf, h.copyVa, h.valueAt, h.tileAt, h.memTarget, h.rangeFails, h.notLowestSheaf]

end PcMoved

theorem pcMoved_issued (s : State) : PcMoved s (issued s) := ⟨rfl, fun _ => rfl⟩

theorem StrandsMoved.tileAt {s t : State} (h : StrandsMoved s t) (b n : Nat) : tileAt t b n = tileAt s b n := by
  simp only [Machine.tileAt, h.blockAt]

theorem StrandsMoved.readPad {s t : State} (h : StrandsMoved s t) (b a : Nat) : readPad t b a = readPad s b a := by
  simp only [Machine.readPad, h.blockAt]

theorem tileAt_modTile {s : State} {b n : Nat} (hb : (tfind s.blocks b).isSome) {tile : Tile} (ht : tileAt s b n = some tile)
    (f : Tile → Tile) : tileAt (modTile s b n f) b n = some (f tile) := by
  rw [tileAt, modTile, blockAt_modBlock, if_pos ⟨rfl, hb⟩]
  simp [show tfind (blockAt s b).tiles n = some tile from ht]

/-- Every strand of the bundle is past the instruction, where the effect leaves strands as they are. -/
theorem pc_past {s w : State} {b : Bundle} (hb : Standing s b) {g : Guard} {len : Nat}
    (hw : w.strands = (bystandersPast s b g len).strands) {k : Nat} (hk : k ∈ b.strands) :
    (strandAt (executed s (advanceAll w len (participants s b g))) k).pc = (strandAt s k).pc + BitVec.ofNat 64 len := by
  have h : ∀ j, strandAt w j = strandAt (bystandersPast s b g len) j := fun j => congrArg (fun l => tget l j Strand.blank) hw
  exact pc_advanced hb (fun j => by rw [h]) (fun j => by rw [hw, strand_isSome_bystandersPast]) hk

/-! ## tdef (R326) -/

section Tdef

variable {i : Instr} {code : Code} {s : State} {b : Bundle} {f : Nat} (hv : i.view = some (.tdef, code)) (hb : Standing s b)
  (hne : participants s b (code.norm .tdef).g ≠ []) (hf : ∀ k ∈ participants s b (code.norm .tdef).g, sheafOf k = f)
include hv hb hne hf

theorem exec_tdef (hpass : AllPass (participants s b (code.norm .tdef).g) fun k => tdefCheck (participants s b (code.norm .tdef).g)
      (code.norm .tdef) s (sheafLead (participants s b (code.norm .tdef).g) k)) :
    exec i s = .next (executed s (advanceAll (tdefSheaf (code.norm .tdef) (bystandersPast s b (code.norm .tdef).g code.len)
      (participants s b (code.norm .tdef).g) f) code.len (participants s b (code.norm .tdef).g))) := by
  have he : exec i s = .next (tdefRun code s) := by
    have hi := ofCode_of_view hv
    cases hi
    rfl
  rw [he, tdefRun, currentPs_of_standing hb, sheafRun_pass hb fun k hk => ((pcMoved_issued s).tdefCheck _ _ _).trans (hpass k hk),
    sheavesOf_one _ hne hf]
  simp only [List.foldl_cons, List.foldl_nil, partOf_one hf]

end Tdef

/-- The block's table after a tdef of it: the tile is bound where the core's table has room. -/
def tileBound (s : State) (b f n : Nat) (d : DWord) : State :=
  if boundTiles s (f / 64) < Config.tileEntries then
    modBlock s b fun y => { y with tiles := tset y.tiles n { desc := d, state := .empty, f := false, p := false, ec := 0 } }
  else s

theorem strands_tileBound (s : State) (b f n : Nat) (d : DWord) : (tileBound s b f n d).strands = s.strands := by
  unfold tileBound
  split <;> rfl

theorem tiles_tileBound {s : State} {b : Nat} (hb : (tfind s.blocks b).isSome) (f n : Nat) (d : DWord) :
    (blockAt (tileBound s b f n d) b).tiles = if boundTiles s (f / 64) < Config.tileEntries then
      tset (blockAt s b).tiles n { desc := d, state := .empty, f := false, p := false, ec := 0 } else (blockAt s b).tiles := by
  unfold tileBound
  split
  · rw [blockAt_modBlock, if_pos ⟨rfl, hb⟩]
  · rfl

/-! ## tfree and tmark (R324, R326) -/

section Named

variable {i : Instr} {stem : Stem} {code : Code} {s : State} {b : Bundle} {tile : Tile} (hv : i.view = some (stem, code))
  (hb : Standing s b) (hne : participants s b (code.norm stem).g ≠ [])
  (h : AllPass (participants s b (code.norm stem).g) fun k =>
    boundCheck (participants s b (code.norm stem).g) (code.norm stem) s (sheafLead (participants s b (code.norm stem).g) k))
  (ht : tileAt s b.block (tileNumber (code.norm stem).a) = some tile) (hs : tile.state = .empty ∨ tile.state = .ready)

/-- A tile that no copy command fills or drains makes no instruction wait. -/
theorem tileBusy_idle {s : State} {b n : Nat} {tile : Tile} (ht : tileAt s b n = some tile)
    (hs : tile.state = .empty ∨ tile.state = .ready) : tileBusy s b n = false := by
  unfold tileBusy
  rw [ht]
  rcases hs with hs | hs <;> simp [hs]

include hv hb hne h ht hs

theorem exec_tfree (hstem : stem = .tfree) : exec i s = .next (executed s (advanceAll
    (modBlock (bystandersPast s b (code.norm stem).g code.len) b.block fun y =>
      { y with tiles := terase y.tiles (tileNumber (code.norm stem).a) }) code.len (participants s b (code.norm stem).g))) := by
  subst hstem
  have he : exec i s = .next (tfreeRun code s) := by
    have hi := ofCode_of_view hv
    cases hi
    rfl
  have hbusy := tileBusy_idle (((pcMoved_bystandersPast hb (code.norm .tfree).g code.len).tileAt _ _).trans ht) hs
  rw [he, tfreeRun, currentPs_of_standing hb, sheafRun_pass hb fun k hk => ((pcMoved_issued s).boundCheck _ _ _).trans (h k hk)]
  dsimp only
  rw [hbusy, if_neg Bool.false_ne_true, if_neg (by simpa using hne)]

theorem exec_tmark (hstem : stem = .tmark) : exec i s = .next (executed s (advanceAll
    (tmarkTile (bystandersPast s b (code.norm stem).g code.len) b.block (tileNumber (code.norm stem).a)) code.len
      (participants s b (code.norm stem).g))) := by
  subst hstem
  have he : exec i s = .next (tmarkRun code s) := by
    have hi := ofCode_of_view hv
    cases hi
    rfl
  have hbusy := tileBusy_idle (((pcMoved_bystandersPast hb (code.norm .tmark).g code.len).tileAt _ _).trans ht) hs
  rw [he, tmarkRun, currentPs_of_standing hb, sheafRun_pass hb fun k hk => ((pcMoved_issued s).boundCheck _ _ _).trans (h k hk)]
  dsimp only
  rw [hbusy, if_neg Bool.false_ne_true, if_neg (by simpa using hne)]

end Named

theorem length_headerBytes (d : DWord) : (headerBytes d).length = 16 := by simp [headerBytes, length_leBytes]

/-- A tile that is marked: its header is written but for the book, and it is Ready with its status clear. -/
theorem tmarkTile_spec {s : State} {b n : Nat} {tile : Tile} (hb : (tfind s.blocks b).isSome) (ht : tileAt s b n = some tile) :
    let t := tmarkTile s b n
    t.strands = s.strands ∧
    tileAt t b n = some { tile with state := .ready, f := false, p := false, ec := 0 } ∧
    (∀ j < 16, some (readPad t b (tileOff tile.desc + j)).1 = (headerBytes tile.desc)[j]?) ∧
    (∀ j < 32, (readPad t b (tileOff tile.desc + 0x20 + j)).1 = 0) ∧
    ∀ j < 16, (readPad t b (tileOff tile.desc + 0x10 + j)).1 = (readPad s b (tileOff tile.desc + 0x10 + j)).1 := by
  have hfirst := padWritten_writePad s b (tileOff tile.desc) (headerBytes tile.desc) false
  have hboth := hfirst.trans (padWritten_writePad (writePad s b (tileOff tile.desc) (headerBytes tile.desc) false) b
    (tileOff tile.desc + 0x20) (List.replicate 32 0) false)
  have hread : ∀ a, (readPad (tmarkTile s b n) b a).1 = if tileOff tile.desc + 0x20 ≤ a ∧ a < tileOff tile.desc + 0x20 + 32 then
      ((List.replicate 32 (0 : Byte))[a - (tileOff tile.desc + 0x20)]?).getD 0
      else if tileOff tile.desc ≤ a ∧ a < tileOff tile.desc + 16 then ((headerBytes tile.desc)[a - tileOff tile.desc]?).getD 0
      else (readPad s b a).1 := fun a => by
    have hmod : ∀ u g, (readPad (modTile u b n g) b a).1 = (readPad u b a).1 := fun u g => by
      unfold readPad modTile
      dsimp only
      rw [blockAt_modBlock]
      split <;> rfl
    unfold tmarkTile
    rw [ht]
    dsimp only
    rw [hmod, readPad_writePad (by rw [hfirst.block_isSome]; exact hb), readPad_writePad hb, List.length_replicate, length_headerBytes]
  have htile : tmarkTile s b n = modTile (writePad (writePad s b (tileOff tile.desc) (headerBytes tile.desc) false) b
      (tileOff tile.desc + 0x20) (List.replicate 32 0) false) b n fun t => { t with state := .ready, f := false, p := false, ec := 0 } := by
    unfold tmarkTile
    rw [ht]
  intro t
  refine ⟨?_, ?_, fun j hj => ?_, fun j hj => ?_, fun j hj => ?_⟩
  · rw [show t = _ from htile]
    exact hboth.strands
  · rw [show t = _ from htile]
    exact tileAt_modTile (by rw [hboth.block_isSome]; exact hb) ((hboth.tileAt b n).trans ht) _
  · rw [hread, if_neg (by omega), if_pos (by omega), Nat.add_sub_cancel_left,
      List.getElem?_eq_getElem (by rw [length_headerBytes]; exact hj)]
    rfl
  · rw [hread, if_pos (by omega), Nat.add_sub_cancel_left, List.getElem?_replicate, if_pos hj]
    rfl
  · rw [hread, if_neg (by omega), if_neg (by omega)]

/-! ## tstat (R326) -/

/-- An instruction whose row has no U executes in each participant. -/
theorem noU_of_codeOk {stem : Stem} {code : Code} (h : codeOk stem code = true) (hu : (opRow stem).u = false) : (code.norm stem).u = false := by
  have hf := fieldsOk_of_codeOk h
  unfold fieldsOk at hf
  simp only [Bool.and_eq_true, hu, Bool.or_false, Bool.not_eq_true'] at hf
  exact hf.1.2

theorem executors_noU {x : Three} (h : x.u = false) (ps : List Nat) : executors x ps = ps := by simp [executors, h]

theorem exec_tstat {i : Instr} {code : Code} {s : State} {b : Bundle} (hv : i.view = some (.tstat, code)) (hb : Standing s b)
    (h : ∀ k ∈ participants s b (code.norm .tstat).g, rangeFails .tstat (code.norm .tstat) s k = false) :
    exec i s = .next (executed s (advanceAll ((participants s b (code.norm .tstat).g).foldl (fun u k => writeOperandP u k Ty.b32
      (code.norm .tstat).d (tileStatus (tileAt s b.block (tileNumber (code.norm .tstat).a))) (false, false))
        (bystandersPast s b (code.norm .tstat).g code.len)) code.len (participants s b (code.norm .tstat).g))) := by
  have he : exec i s = .next (tstatRun code s) := by
    have hi := ofCode_of_view hv
    cases code <;> cases hi <;> rfl
  have htile := (pcMoved_bystandersPast hb (code.norm .tstat).g code.len).tileAt b.block (tileNumber (code.norm .tstat).a)
  unfold bystandersPast at htile
  rw [he, tstatRun, runBundle_pass hb.1 fun k hk => congrArg (Verdict.trapIf · Cause.regrange) (h k hk), htile]
  rfl

/-- The fields of the status word of a bound tile (R326). -/
theorem tileStatus_fields (t : Tile) (_ : t.ec < 8) :
    tileStatus (some t) % 4 = t.state.code ∧ (tileStatus (some t)).testBit 2 = true ∧ (tileStatus (some t)).testBit 3 = t.p ∧
      (tileStatus (some t)).testBit 4 = t.f ∧ tileStatus (some t) / 32 = t.ec := by
  have hcode : t.state.code < 4 := by cases t.state <;> decide
  have hbits : tileStatus (some t) = t.state.code + 4 + (if t.p then 8 else 0) + (if t.f then 16 else 0) + 32 * t.ec := rfl
  generalize tileStatus (some t) = w at hbits
  simp only [Nat.testBit_eq_decide_div_mod_eq]
  cases hp : t.p <;> cases hf : t.f <;> simp only [hp, hf, if_true, Bool.false_eq_true, if_false] at hbits
  all_goals
    refine ⟨by omega, ?_, ?_, ?_, by omega⟩ <;> simp <;> omega

/-- Settles O38: each instruction's effect on the block's table, and the scratchpad's bytes of a header written in two parts. -/
theorem tiles : Obligations.Tiles := by
  unfold Obligations.Tiles
  refine ⟨fun i code s b f hv hc hb hblock => ?_, fun i stem code s b tile hv hstem hb hblock => ?_,
    fun i code s b hv hc hb hu => ?_, rfl, tileStatus_fields⟩
  · intro x ps hne hf hpass
    refine ⟨_, exec_tdef hv hb hne hf hpass, ?_⟩
    have hpc := pcMoved_bystandersPast hb x.g code.len
    have hown : (sheafAt s f).block = b.block := by
      rw [← hf _ (headD_mem hne)]
      exact standing_block hb (participants_sub (headD_mem hne))
    have hrun : tdefSheaf x (bystandersPast s b x.g code.len) ps f = ps.foldl (fun w k => writeP w k (predNumber x.d)
        (decide (boundTiles s (f / 64) < Config.tileEntries))) (tileBound (bystandersPast s b x.g code.len) b.block f (tileNumber x.a)
          (BitVec.ofNat 64 (valueAt .tdef x s (ps.headD 0) .b).1)) := by
      unfold tdefSheaf tileBound
      simp only [hpc.sheafAt, hown, hpc.boundTiles, hpc.valueAt]
    have hthere : (tfind (bystandersPast s b x.g code.len).blocks b.block).isSome := by
      rw [hpc.frame]
      exact hblock
    have hbound := tiles_tileBound hthere f (tileNumber x.a) (BitVec.ofNat 64 (valueAt .tdef x s (ps.headD 0) .b).1)
    have hstrands := strands_tileBound (bystandersPast s b x.g code.len) b.block f (tileNumber x.a)
      (BitVec.ofNat 64 (valueAt .tdef x s (ps.headD 0) .b).1)
    rw [hpc.boundTiles, hpc.blockAt] at hbound
    generalize tileBound (bystandersPast s b x.g code.len) b.block f (tileNumber x.a)
      (BitVec.ofNat 64 (valueAt .tdef x s (ps.headD 0) .b).1) = w at hrun hbound hstrands
    obtain ⟨hmoved, hpcs, hread⟩ := predicates_answered hb (g := x.g) (u := w)
      (predNumber_lt hc (roleOf_d (by decide) (by decide) _)) (fun _ => decide (boundTiles s (f / 64) < Config.tileEntries)) code.len
      (fun j => congrArg (fun l => (tget l j Strand.blank).pc) hstrands)
      (fun j => by rw [hstrands]; exact strand_isSome_bystandersPast s b x.g code.len j)
    rw [hrun]
    exact ⟨hpcs, hread, by rw [blockAt_executed, hmoved.blockAt]; exact hbound⟩
  · intro x ps hne hpass ht hs
    have hpc := pcMoved_bystandersPast hb x.g code.len
    have hthere : (tfind (bystandersPast s b x.g code.len).blocks b.block).isSome := by
      rw [hpc.frame]
      exact hblock
    rcases hstem with hstem | hstem
    · refine ⟨_, exec_tfree hv hb hne hpass ht hs hstem, fun k hk => pc_past hb (by rfl) hk, rfl, fun _ => ?_, fun h => ?_, fun h => ?_⟩
      · rw [blockAt_executed, (strandsMoved_advanceAll _ _ _).blockAt, blockAt_modBlock, if_pos ⟨rfl, hthere⟩, hpc.blockAt]
      · exact absurd (hstem.symm.trans h) (by decide)
      · exact absurd (hstem.symm.trans h) (by decide)
    · obtain ⟨hstrands, htile, hheader, hzero, hbook⟩ := tmarkTile_spec hthere ((hpc.tileAt b.block (tileNumber x.a)).trans ht)
      have hmoved := strandsMoved_advanceAll (tmarkTile (bystandersPast s b x.g code.len) b.block (tileNumber x.a)) code.len ps
      have hread : ∀ a, readPad (executed s (advanceAll (tmarkTile (bystandersPast s b x.g code.len) b.block (tileNumber x.a)) code.len ps))
          b.block a = readPad (tmarkTile (bystandersPast s b x.g code.len) b.block (tileNumber x.a)) b.block a := fun a => hmoved.readPad _ a
      have hold : ∀ a, readPad (bystandersPast s b x.g code.len) b.block a = readPad s b.block a := fun a => by
        unfold readPad
        rw [hpc.blockAt]
      refine ⟨_, exec_tmark hv hb hne hpass ht hs hstem, fun k hk => pc_past hb hstrands hk, rfl, fun h => ?_,
        fun _ => ⟨(hmoved.tileAt _ _).trans htile, fun j hj => ?_⟩, fun _ => ⟨fun j hj => ?_, fun j hj => ?_⟩⟩
      · exact absurd (hstem.symm.trans h) (by decide)
      · rw [hread]
        exact hheader j hj
      · rw [hread]
        exact hzero j hj
      · rw [hread, ← hold]
        exact hbook j hj
  · intro x ps hrange
    refine ⟨_, exec_tstat hv hb hrange, ?_⟩
    have hpc := pcMoved_bystandersPast hb x.g code.len
    have hsome := strand_isSome_bystandersPast s b x.g code.len
    have hd := (registerDest (operandOk_d hc) (roleOf_d (by decide) (by decide) _) (by decide)).1
    have hfree := destsFree_executors hb hu hpc hsome hd
    rw [executors_noU (noU_of_codeOk hc rfl)] at hfree
    have hstep : ∀ u k, k ∈ ps → RegsWritten (bystandersPast s b x.g code.len) u → writeOperandP u k Ty.b32 x.d
        (tileStatus (tileAt s b.block (tileNumber x.a))) (false, false) = writeOperandP u k Ty.b32 x.d
        (tileStatus (tileAt s b.block (tileNumber x.a))) (false, false) := fun _ _ _ _ => rfl
    obtain ⟨⟨hmoved, hwrote⟩, -⟩ := writes_spec (ty := Ty.b32) (bits := fun _ => tileStatus (tileAt s b.block (tileNumber x.a)))
      (p := fun _ => (false, false)) hfree hstep
    have hregs := sameRegs_advanceAll (standing_participants_nodup hb x.g) (fun k hk => by
      rw [hwrote.strand_isSome, hsome]
      exact standing_present hb (participants_sub hk)) code.len
    refine ⟨onlyThreads_executed hpc.frame (hmoved.trans (strandsMoved_advanceAll _ _ _).threads), fun k hk => ?_, fun k hk => ?_⟩
    · exact pc_advanced hb (fun j => by rw [hwrote.strand]) (fun j => (hwrote.strand_isSome j).trans (hsome j)) hk
    · exact (dests_written (ty := Ty.b32) (bits := fun _ => tileStatus (tileAt s b.block (tileNumber x.a)))
        (p := fun _ => (false, false)) hfree hd.1 hstep (by rw [advanceAll_rest])
        (by rw [advanceAll_rest, hmoved]) hk (hregs k)).1

end Sys2Proof.Proofs
end

section
/-! SUPPORT. A copy command enters the core's queue (R160, R166, R316, R330). -/

namespace Sys2Proof.Proofs
open Sys2Proof Sys2Proof.Machine Sys2Proof.Laws

/-! ## A new command -/

/-- The command that a sheaf's cpy, cpo or cpr enters, under a number. -/
def newCommand (stem : Stem) (x : Three) (s : State) (k id : Nat) : CopyCmd :=
  { kind := copyKind stem, block := blockOf s k, sheaf := sheafOf k, tile := tileNumber x.d, va := ((copyVa stem x s k).1).getD 0,
    fmt := BitVec.ofNat 64 (valueAt stem x s k .c).1, ty := x.ty, hint := x.ch.toNat, op := id, started := false, lines := [],
    awaited := 0, image := [], imagePoison := [], seen := [], touched := [], places := [], poison := false, fault := none, ec := 0 }

/-- A tile that a command fills or drains. -/
def tileTaken (stem : Stem) (y : Tile) : Tile :=
  { y with state := if stem = .cpy then .filling else .draining, f := false, p := false, ec := 0 }

/-- The command is at the end of the queue, the sheaf counts it, and its tile is taken. -/
theorem enqueueCopy_spec {stem : Stem} {x : Three} {s : State} {k : Nat} {tile : Tile} (hblock : (tfind s.blocks (blockOf s k)).isSome)
    (hsheaf : (tfind s.sheaves (sheafOf k)).isSome) (ht : tileAt s (blockOf s k) (tileNumber x.d) = some tile) :
    let t := enqueueCopy stem x s k
    t.strands = s.strands ∧ t.net = s.net ∧ (sheafAt t (sheafOf k)).copies = (sheafAt s (sheafOf k)).copies + 1 ∧
    tileAt t (blockOf s k) (tileNumber x.d) = some (tileTaken stem tile) ∧
    (coreAt t (blockOf s k / 4)).queue = (coreAt s (blockOf s k / 4)).queue ++ [newCommand stem x s k s.ctl.nextId] := by
  obtain ⟨u, hu, hstrands, hnet, hsheaves, hcores, htile⟩ : ∃ u, enqueueCopy stem x s k = modCore u (blockOf s k / 4) (fun c =>
      { c with queue := c.queue ++ [newCommand stem x s k s.ctl.nextId] }) ∧ u.strands = s.strands ∧ u.net = s.net ∧
      sheafAt u (sheafOf k) = { sheafAt s (sheafOf k) with copies := (sheafAt s (sheafOf k)).copies + 1 } ∧ u.cores = s.cores ∧
      tileAt u (blockOf s k) (tileNumber x.d) = some (tileTaken stem tile) := by
    have htaken : ∀ v, v.blocks = (modTile s (blockOf s k) (tileNumber x.d) (tileTaken stem)).blocks →
        tileAt v (blockOf s k) (tileNumber x.d) = some (tileTaken stem tile) := fun v hv => by
      rw [tileAt, blockAt, hv]
      exact tileAt_modTile hblock ht _
    have hkept : ∀ v, (tfind v.blocks (blockOf s k)).isSome → tileAt v (blockOf s k) (tileNumber x.d) = some (tileTaken stem tile) →
        ∀ g : Block → Block, (∀ y, (g y).tiles = y.tiles) →
          tileAt (modBlock v (blockOf s k) g) (blockOf s k) (tileNumber x.d) = some (tileTaken stem tile) := fun v hv hvt g hg => by
      rw [tileAt, blockAt_modBlock, if_pos ⟨rfl, hv⟩, hg]
      exact hvt
    have hcounted : ∀ v : State, v.sheaves = s.sheaves → sheafAt (modSheaf v (sheafOf k) fun y => { y with copies := y.copies + 1 })
        (sheafOf k) = { sheafAt s (sheafOf k) with copies := (sheafAt s (sheafOf k)).copies + 1 } := fun v hv => by
      rw [sheafAt_modSheaf, if_pos ⟨rfl, by rw [hv]; exact hsheaf⟩, sheafAt, hv]
      rfl
    by_cases hstem : stem = .cpy
    · subst hstem
      exact ⟨_, rfl, rfl, rfl, hcounted _ rfl, rfl, htaken _ rfl⟩
    · have hbeq : (stem == .cpy) = false := by simpa using hstem
      refine ⟨modBlock (modSheaf (modTile (fresh s).2 (blockOf s k) (tileNumber x.d) (tileTaken stem)) (sheafOf k) fun y =>
          { y with copies := y.copies + 1 }) (blockOf s k) fun y =>
            { y with ops := y.ops ++ [{ id := s.ctl.nextId, kind := .copy, sourceRead := false, count := 0, hint := x.ch.toNat }] },
        ?_, rfl, rfl, hcounted _ rfl, rfl, hkept _ ?_ (htaken _ rfl) _ fun _ => rfl⟩
      · unfold enqueueCopy tileTaken
        simp only [hbeq, hstem, Bool.false_eq_true, if_false]
        rfl
      · exact (isSome_tmod _ _ _ _).trans hblock
  have hcore : ∀ c, coreAt u c = coreAt s c := fun c => by rw [coreAt, hcores]; rfl
  intro t
  rw [show t = _ from hu]
  refine ⟨hstrands, hnet, ?_, htile, ?_⟩
  · rw [sheafAt_modCore, hsheaves]
  · rw [coreAt_modCore, if_pos rfl, hcore]

/-! ## The execution of cpy, cpo and cpr -/

theorem exec_copy {i : Instr} {stem : Stem} {code : Code} {s : State} {b : Bundle} {f : Nat} {tile : Tile}
    (hv : i.view = some (stem, code)) (hstem : stem = .cpy ∨ stem = .cpo ∨ stem = .cpr) (hb : Standing s b)
    (hne : participants s b (code.norm stem).g ≠ []) (hf : ∀ k ∈ participants s b (code.norm stem).g, sheafOf k = f)
    (h : AllPass (participants s b (code.norm stem).g) fun k =>
      copyCheck stem (participants s b (code.norm stem).g) (code.norm stem) s (sheafLead (participants s b (code.norm stem).g) k))
    (ht : tileAt s b.block (tileNumber (code.norm stem).d) = some tile) (hs : tile.state = .empty ∨ tile.state = .ready)
    (hroom : (coreAt s b.core).queue.length < Config.copyQueue) :
    exec i s = .next (executed s (advanceAll (enqueueCopy stem (code.norm stem) (bystandersPast s b (code.norm stem).g code.len)
      ((participants s b (code.norm stem).g).headD 0)) code.len (participants s b (code.norm stem).g))) := by
  have he : exec i s = .next (copyRun stem code s) := by
    have hi := ofCode_of_view hv
    rcases hstem with rfl | rfl | rfl
    · rcases code with x | ⟨x, v⟩ | x <;> cases hi
      rfl
    · rcases code with x | ⟨x, v⟩ | x <;> cases hi
      rfl
    · rcases code with x | ⟨x, v⟩ | x <;> cases hi
      rfl
  have hpc := pcMoved_bystandersPast hb (code.norm stem).g code.len
  have hbusy := tileBusy_idle ((hpc.tileAt _ _).trans ht) hs
  have hfull : ¬ ((coreAt s b.core).queue.length + [f].length > Config.copyQueue) := Nat.not_lt.2 hroom
  rw [he, copyRun, currentPs_of_standing hb, sheafRun_pass hb fun k hk => ((pcMoved_issued s).copyCheck _ _ _ _).trans (h k hk)]
  dsimp only
  rw [hbusy, if_neg Bool.false_ne_true, sheavesOf_one _ hne hf, hpc.coreAt, if_neg hfull]
  simp only [List.foldl_cons, List.foldl_nil, partOf_one hf]

/-- The address of a command that passes its check. -/
theorem copyVa_of_copyCheck {stem : Stem} {ps : List Nat} {x : Three} {s : State} {k : Nat} (h : copyCheck stem ps x s k = Verdict.ok) :
    (copyVa stem x s k).1 = some (((copyVa stem x s k).1).getD 0) := by
  have hva : (copyVa stem x s k).1.isNone = false := trapIf_eq_ok (and_eq_ok (and_eq_ok (and_eq_ok h).1).2).2
  cases hc : (copyVa stem x s k).1 with
  | some va => rfl
  | none =>
    rw [hc] at hva
    cases hva

/-- Settles O39: the command enters as its sheaf's lead sees the operands, and only the core, the sheaf and the block's tile change. -/
theorem copiesQueue : Obligations.CopiesQueue := by
  unfold Obligations.CopiesQueue
  intro i stem code s b f tile hv hstem hb hblock x ps hne hf hpass ht hs hroom
  have hpc := pcMoved_bystandersPast hb x.g code.len
  have hlead := participants_sub (headD_mem hne)
  have hown : blockOf s (ps.headD 0) = b.block := standing_block hb hlead
  have hcore : b.block / 4 = b.core := by
    have h := hb.2.2.2 _ hlead
    simp only [standsIn, Bool.and_eq_true, beq_iff_eq] at h
    exact h.1.1.1.2
  have hown' : blockOf (bystandersPast s b x.g code.len) (ps.headD 0) = b.block := (hpc.blockOf _).trans hown
  obtain ⟨hstrands, hnet, hcopies, htile, hqueue⟩ := enqueueCopy_spec (stem := stem) (x := x) (k := ps.headD 0) (tile := tile)
    (s := bystandersPast s b x.g code.len) (by rw [hown', hpc.frame]; exact hblock)
    (by rw [hpc.frame]; exact standing_sheaf hb hlead) (by rw [hown', hpc.tileAt]; exact ht)
  rw [hf _ (headD_mem hne), hpc.sheafAt] at hcopies
  rw [hown'] at htile hqueue
  rw [hcore, hpc.coreAt] at hqueue
  have hmoved := strandsMoved_advanceAll (enqueueCopy stem x (bystandersPast s b x.g code.len) (ps.headD 0)) code.len ps
  refine ⟨_, exec_copy hv hstem hb hne hf hpass ht hs hroom, bundleBecomes_past hb hstrands, rfl, ?_, ?_,
    (hmoved.tileAt _ _).trans htile,
    newCommand stem x (bystandersPast s b x.g code.len) (ps.headD 0) (bystandersPast s b x.g code.len).ctl.nextId, ?_, rfl, hown', rfl,
    ?_, ?_, rfl⟩
  · rw [executed_net, hmoved, hnet, hpc.frame]
  · rw [sheafAt_executed, hmoved.sheafAt]
    exact hcopies
  · rw [coreAt_executed, hmoved.coreAt]
    exact hqueue
  · rw [newCommand, hpc.copyVa]
    exact copyVa_of_copyCheck (allPass_one hne hf hpass)
  · rw [newCommand, hpc.valueAt]

end Sys2Proof.Proofs
end

section
/-! SUPPORT. A store of one strand (R157, R163, R309, R310): into the scratchpad, into its block's record entry, or stalled. -/

namespace Sys2Proof.Proofs
open Sys2Proof Sys2Proof.Machine Sys2Proof.Laws

/-! ## The execution of a store of one strand -/

theorem PcMoved.storeOp {s t : State} (h : PcMoved s t) (x : Three) (k : Nat) : storeOp x t k = storeOp x s k := by
  simp only [Machine.storeOp, h.valueAt, h.memTarget, h.memTranslate]

/-- What a store of one strand makes of a state, by the granules that copy commands have passed. -/
def storeRan (passed : List Nat) (len b : Nat) (s : State) (k : Nat) (o : StoreOp) : State :=
  if storeBlocked s b o then setCond (drainOldest s (b / 4)) k (.stalled .record)
  else advanceAll (applyStore passed [k] s b o) len [k]

section Exec

variable {i : Instr} {code : Code} {s : State} {b : Bundle} {k : Nat}

theorem exec_st (hv : i.view = some (.st, code)) (s : State) : exec i s = .next (stRun code s) := by
  have h := ofCode_of_view hv
  cases code <;> cases h <;> rfl

theorem exec_st_single (hv : i.view = some (.st, code)) (hb : Standing s b) (hk : participants s b (code.norm .st).g = [k])
    (hcheck : memCheck .st (code.norm .st) s k = Verdict.ok) :
    let u := bystandersPast s b (code.norm .st).g code.len
    let o := storeOp (code.norm .st) s k
    let r := passedGranules (noteWalks .st (code.norm .st) u [k]) b.block (storeGranules [o])
    exec i s = .next (executed s (storeRan r.1 code.len b.block r.2 k o)) := by
  have hpass : AllPass (participants s b (code.norm .st).g) (memCheck .st (code.norm .st) (issued s)) := fun j hj => by
    rw [hk] at hj
    rw [List.mem_singleton.1 hj]
    exact hcheck
  have hpc := pcMoved_bystandersPast hb (code.norm .st).g code.len
  have hriders : (if (code.norm .st).u then partOf [k] (sheafOf k) else [k]) = [k] := by
    split
    · simp [partOf]
    · rfl
  intro u o r
  have hop : (executors (code.norm .st) [k]).map (storeOp (code.norm .st) (advanceAll (issued s) code.len
      (bystanders s b (code.norm .st).g))) = [o] := by
    rw [executors_singleton]
    exact congrArg (fun p => [p]) (hpc.storeOp (code.norm .st) k)
  rw [exec_st hv, stRun]
  dsimp only
  rw [runBundle_pass hb.1 hpass, hk]
  simp only [hop]
  change Host.Outcome.next (executed s (storeAll r.1 code.len (fun j => if (code.norm .st).u then partOf [k] (sheafOf j) else [j]) b.block r.2
    [o])) = _
  simp only [storeAll, storeRan, List.foldl_cons, List.foldl_nil, show o.strand = k from rfl, hriders]

end Exec

/-- A strand of the bundle differs in pc alone, where the effect leaves strands as they are. -/
theorem onlyPc_past {s w : State} {b : Bundle} (hb : Standing s b) {g : Guard} {len : Nat}
    (hw : w.strands = (bystandersPast s b g len).strands) (j : Nat) :
    strandAt (executed s (advanceAll w len (participants s b g))) j = { strandAt s j with
      pc := (strandAt (executed s (advanceAll w len (participants s b g))) j).pc } := by
  have h := bundleBecomes_past hb hw j
  rw [show strandAt _ _ = _ from h]
  dsimp only
  split
  · rfl
  · split <;> rfl

/-! ## The walks of a store -/

/-- A state differs from another in cores, and in none of their store records. -/
structure RecordsKept (s t : State) : Prop where
  frame : t = { s with cores := t.cores }
  record : ∀ c, (coreAt t c).record = (coreAt s c).record

namespace RecordsKept

theorem refl (s : State) : RecordsKept s s := ⟨rfl, fun _ => rfl⟩

theorem trans {s t u : State} (h : RecordsKept s t) (k : RecordsKept t u) : RecordsKept s u :=
  ⟨by rw [k.frame, h.frame], fun c => (k.record c).trans (h.record c)⟩

variable {s t : State} (h : RecordsKept s t)
include h

theorem strands : t.strands = s.strands := by rw [h.frame]
theorem blockAt (b : Nat) : blockAt t b = blockAt s b := by rw [h.frame]; rfl

theorem recordFull (b line : Nat) : recordFull t b line = recordFull s b line := by
  unfold Machine.recordFull openEntry recordCount
  rw [h.record, h.blockAt]

end RecordsKept

theorem recordsKept_noteWalks (stem : Stem) (x : Three) (ps : List Nat) (s : State) : RecordsKept s (noteWalks stem x s ps) := by
  refine foldl_related RecordsKept.refl RecordsKept.trans (fun u k => ?_) ps s
  split
  · unfold fillTlb
    split
    · refine ⟨rfl, fun c => ?_⟩
      rw [coreAt_modCore]
      split
      · next h => rw [h]
      · rfl
    · exact .refl u
  · exact .refl u

/-! ## What draining keeps of the record (R164) -/

section Drain

variable {α : Type} {g : RecEntry → α} (hstate : ∀ e st, g { e with state := st } = g e) (hdue : ∀ e d, g { e with due := d } = g e)
include hstate

theorem map_settleList : ∀ (l : List RecEntry) (blocked : Bool), (settleList blocked l).map g = l.map g
  | [], _ => rfl
  | e :: l, blocked => by
    rw [settleList]
    split
    · split
      · rw [List.map_cons, map_settleList l, List.map_cons, hstate]
      · rw [List.map_cons, map_settleList l, List.map_cons]
    · rw [List.map_cons, map_settleList l, List.map_cons]

include hdue

/-- Draining changes of the entries only how they stand. -/
theorem map_record_drainUpTo (s : State) (c n : Nat) : (coreAt (drainUpTo s c n) c).record.map g = (coreAt s c).record.map g := by
  rw [record_drainUpTo, map_settleList hstate, List.map_map]
  refine List.map_congr_left fun e _ => ?_
  rw [Function.comp_apply, askDrain]
  split
  · exact hdue e true
  · rfl

theorem map_record_drainOldest (s : State) (c : Nat) : (coreAt (drainOldest s c) c).record.map g = (coreAt s c).record.map g := by
  unfold drainOldest
  dsimp only
  split
  · rfl
  · split
    · exact map_record_drainUpTo hstate hdue s c _
    · rfl

end Drain

theorem cores_drainUpTo (s : State) (c n : Nat) : drainUpTo s c n = { s with cores := (drainUpTo s c n).cores } := rfl

theorem cores_drainOldest (s : State) (c : Nat) : drainOldest s c = { s with cores := (drainOldest s c).cores } := by
  unfold drainOldest
  dsimp only
  split
  · rfl
  · split <;> rfl

/-! ## Bytes put into the record (R163) -/

/-- The block's open entry for the line has the bytes, or a new one. -/
def recEntered (s : State) (b pa cls hint : Nat) (bytes : List Byte) (poison : Bool) (loads : List Nat) : State :=
  match openEntry s b (pa / 64) with
  | some e => modCore s (b / 4) fun k => { k with record := k.record.map fun x => if x.seq == e.seq then
      { x with cls := cls, data := setBytes x.data (pa % 64) bytes, poison := granules x.poison (pa % 64) bytes.length poison,
               loads := x.loads ++ loads.filter fun i => !x.loads.contains i, hint := hint } else x }
  | none => modCore s (b / 4) fun k =>
      { k with record := k.record ++ [{ seq := k.seq, line := pa / 64, cls := cls, data := setBytes [] (pa % 64) bytes,
                                        poison := granules [] (pa % 64) bytes.length poison, block := b, gang := (blockAt s b).gang,
                                        launch := (blockAt s b).launch, part := (blockAt s b).part, state := .opened, alloc := s.now,
                                        due := false, loads := loads, hint := hint }],
               seq := k.seq + 1 }

/-- An entry that fills its line begins to drain. -/
def recFilled (s : State) (b line : Nat) : State :=
  match openEntry s b line with
  | some e => if e.data.length = 64 then drainUpTo s (b / 4) e.seq else s
  | none => s

theorem cores_recEntered (s : State) (b pa cls hint : Nat) (bytes : List Byte) (poison : Bool) (loads : List Nat) :
    recEntered s b pa cls hint bytes poison loads = { s with cores := (recEntered s b pa cls hint bytes poison loads).cores } := by
  unfold recEntered
  split <;> rfl

theorem cores_recFilled (s : State) (b line : Nat) : recFilled s b line = { s with cores := (recFilled s b line).cores } := by
  unfold recFilled
  split
  · split <;> rfl
  · rfl

theorem strike_unarmed {s : State} {b : Nat} (h : (blockAt s b).armed = none) (unit : Nat) : strike s b unit = (none, s) := by
  unfold strike
  rw [h]

/-- With no error armed nothing else happens. -/
theorem recPut_unarmed {s : State} {b : Nat} (h : (blockAt s b).armed = none) (pa cls hint : Nat) (bytes : List Byte) (poison : Bool)
    (loads : List Nat) : recPut s b pa cls hint bytes poison loads =
      recFilled (recEntered s b pa cls hint bytes poison loads) b (pa / 64) := by
  have hrun : ∀ w : State, w.blocks = s.blocks → (blockAt w b).armed = none := fun w hw => by
    rw [blockAt, hw]
    exact h
  have hlast : strike (recFilled (recEntered s b pa cls hint bytes poison loads) b (pa / 64)) b 4 =
      (none, recFilled (recEntered s b pa cls hint bytes poison loads) b (pa / 64)) :=
    strike_unarmed (hrun _ (by rw [cores_recFilled, cores_recEntered])) 4
  unfold recPut
  extract_lets c line off
  split
  next hit u e =>
  rw [strike_unarmed h] at e
  obtain ⟨rfl, rfl⟩ := Prod.mk.inj e
  extract_lets struck taint blk seq entered drained
  have htaint : taint = poison := Bool.or_false poison
  have hdrained : drained = recFilled (recEntered s b pa cls hint bytes poison loads) b (pa / 64) := by
    unfold drained entered
    rw [htaint]
    rfl
  rw [hdrained]
  split
  next hit v e =>
  rw [hlast] at e
  obtain ⟨rfl, rfl⟩ := Prod.mk.inj e
  rfl

/-- What a record entry holds. -/
def entryContent (e : RecEntry) : Nat × Nat × Nat × Tab Byte := (e.block, e.line, e.cls, e.data)

theorem mem_recEntered (s : State) (b pa cls hint : Nat) (bytes : List Byte) (poison : Bool) (loads : List Nat) :
    ∃ e ∈ (coreAt (recEntered s b pa cls hint bytes poison loads) (b / 4)).record, ∃ old,
      entryContent e = (b, pa / 64, cls, setBytes old (pa % 64) bytes) := by
  unfold recEntered
  split
  · next e he =>
    have hmem := List.mem_of_find?_eq_some he
    have hown := List.find?_some he
    simp only [Bool.and_eq_true, beq_iff_eq] at hown
    rw [coreAt_modCore, if_pos rfl]
    refine ⟨_, List.mem_map_of_mem hmem, e.data, ?_⟩
    simp only [beq_self_eq_true, if_true, entryContent, hown.1.1.1, hown.1.2]
  · rw [coreAt_modCore, if_pos rfl]
    exact ⟨_, List.mem_append_right _ (List.mem_singleton_self _), [], rfl⟩

theorem mem_recFilled {s : State} {b : Nat} (line : Nat) {e : RecEntry} (he : e ∈ (coreAt s (b / 4)).record) :
    ∃ e' ∈ (coreAt (recFilled s b line) (b / 4)).record, entryContent e' = entryContent e := by
  have hmap : (coreAt (recFilled s b line) (b / 4)).record.map entryContent = (coreAt s (b / 4)).record.map entryContent := by
    unfold recFilled
    split
    · split
      · exact map_record_drainUpTo (fun _ _ => rfl) (fun _ _ => rfl) _ _ _
      · rfl
    · rfl
  have hin : entryContent e ∈ (coreAt (recFilled s b line) (b / 4)).record.map entryContent := by
    rw [hmap]
    exact List.mem_map_of_mem he
  exact List.mem_map.1 hin

/-- The record holds the bytes in an entry of the block. -/
theorem mem_recPut {s : State} {b : Nat} (h : (blockAt s b).armed = none) (pa cls hint : Nat) (bytes : List Byte) (poison : Bool)
    (loads : List Nat) : ∃ e ∈ (coreAt (recPut s b pa cls hint bytes poison loads) (b / 4)).record, e.block = b ∧ e.line = pa / 64 ∧
      e.cls = cls ∧ ∀ j < bytes.length, tfind e.data (pa % 64 + j) = bytes[j]? := by
  obtain ⟨e, he, old, hcontent⟩ := mem_recEntered s b pa cls hint bytes poison loads
  obtain ⟨e', he', hsame⟩ := mem_recFilled (pa / 64) he
  rw [hcontent] at hsame
  simp only [entryContent, Prod.mk.injEq] at hsame
  obtain ⟨hblock, hline, hcls, hdata⟩ := hsame
  rw [recPut_unarmed h]
  refine ⟨e', he', hblock, hline, hcls, fun j hj => ?_⟩
  rw [hdata, tfind_setBytes, if_pos (by omega), Nat.add_sub_cancel_left]

/-! ## The clauses -/

section Global

variable {x : Three} {s : State} {k va pa : Nat} {leaf : Leaf} (hva : (memTarget .st x s k).1 = .global va)
  (htr : memTranslate .st s k va = .ok pa leaf)
include hva htr

/-- The store of a strand to memory. -/
theorem storeOp_global : (storeOp x s k).target = .global va ∧ (storeOp x s k).pa = pa ∧ (storeOp x s k).cls = leaf.cls ∧
    (storeOp x s k).bytes = leBytes (accessBytes x.ty) (valueAt .st x s k .d).1 := by
  unfold storeOp
  simp only [hva, htr, Trans.place]
  exact ⟨trivial, rfl, rfl, trivial⟩

end Global

/-- Settles O28: the three ways of a store of one strand, each by what it leaves of scratchpad and record. -/
theorem stores : Obligations.Stores := by
  unfold Obligations.Stores
  refine ⟨fun i code s b k off hv hb hblock => ?_, fun i code s b k va pa leaf hv hb harmed => ?_,
    fun i code s b k va pa leaf hv hb => ?_⟩
  · intro x hk hcheck hoff
    have hexec := exec_st_single hv hb hk hcheck
    have hpc := pcMoved_bystandersPast hb x.g code.len
    have htarget : (storeOp x s k).target = .scratch off := hoff
    have hbytes : (storeOp x s k).bytes = leBytes (accessBytes x.ty) (valueAt .st x s k .d).1 := rfl
    have hthere : (tfind (bystandersPast s b x.g code.len).blocks b.block).isSome := by
      rw [hpc.frame]
      exact hblock
    have hpassed := padWritten_passedGranules (bystandersPast s b x.g code.len) b.block (storeGranules [storeOp x s k])
    have hreadPassed : ∀ a, (readPad (passedGranules (bystandersPast s b x.g code.len) b.block (storeGranules [storeOp x s k])).2 b.block a) =
        readPad s b.block a := fun a => by
      obtain ⟨n, hn⟩ := passedGranules_eq (bystandersPast s b x.g code.len) b.block (storeGranules [storeOp x s k])
      rw [hn]
      unfold readPad
      exact congrArg (fun y : Block => (tget y.pad a 0, y.padPoison.contains (a / 8))) (hpc.blockAt b.block)
    dsimp only at hexec
    rw [noteWalks_scratch (fun j hj => ⟨off, by rw [List.mem_singleton.1 hj, hpc.memTarget]; exact hoff⟩)] at hexec
    generalize passedGranules (bystandersPast s b x.g code.len) b.block (storeGranules [storeOp x s k]) = r at *
    have hrun : storeRan r.1 code.len b.block r.2 k (storeOp x s k) =
        advanceAll (writePadBy r.1 r.2 b.block off.toNat (storeOp x s k).bytes (storeOp x s k).poison) code.len [k] := by
      unfold storeRan storeBlocked applyStore
      rw [htarget]
      rfl
    rw [show storeRan _ _ _ _ _ _ = _ from hrun] at hexec
    have hwritten := hpassed.trans (padWritten_writePadBy r.1 r.2 b.block off.toNat (storeOp x s k).bytes (storeOp x s k).poison)
    have hread := readPad_writePadBy (by rw [hpassed.block_isSome]; exact hthere) r.1 off.toNat (storeOp x s k).bytes (storeOp x s k).poison
    generalize writePadBy r.1 r.2 b.block off.toNat (storeOp x s k).bytes (storeOp x s k).poison = w at *
    have hmoved := strandsMoved_advanceAll w code.len [k]
    rw [← hk] at hexec hmoved
    rw [hbytes, length_leBytes] at hread
    refine ⟨_, hexec, fun j hj => pc_past hb hwritten.strands hj, ?_, rfl, fun j hj => ?_, fun a ha => ?_, onlyPc_past hb hwritten.strands⟩
    · rw [executed_net, hmoved, hwritten.net, hpc.frame]
    · rw [show readPad (executed s _) b.block (off.toNat + j) = _ from hmoved.readPad _ _, hread, if_pos (by omega), Nat.add_sub_cancel_left,
        List.getElem?_eq_getElem (by rw [length_leBytes]; exact hj)]
      rfl
    · rw [show readPad (executed s _) b.block a = _ from hmoved.readPad _ _, hread, if_neg (by omega), hreadPassed]
  · intro x hk hcheck hva htr hroom
    have hexec := exec_st_single hv hb hk hcheck
    have hpc := pcMoved_bystandersPast hb x.g code.len
    have hkept := recordsKept_noteWalks .st x [k] (bystandersPast s b x.g code.len)
    obtain ⟨htarget, hpa, hcls, hbytes⟩ := storeOp_global hva htr
    have hblocks : (blockAt (noteWalks .st x (bystandersPast s b x.g code.len) [k]) b.block).armed = none := by
      rw [hkept.blockAt, hpc.blockAt]
      exact harmed
    have hfull : recordFull (noteWalks .st x (bystandersPast s b x.g code.len) [k]) b.block (pa / 64) = false := by
      rw [hkept.recordFull]
      refine Eq.trans ?_ hroom
      unfold recordFull openEntry
      rw [hpc.coreAt, hpc.blockAt]
    have hnone : ∀ w, passedGranules w b.block (storeGranules [storeOp x s k]) = ([], w) := fun w => by
      unfold storeGranules
      simp only [List.flatMap_cons, htarget]
      rfl
    dsimp only at hexec
    generalize noteWalks .st x (bystandersPast s b x.g code.len) [k] = u at *
    have hrun : ∀ passed, storeRan passed code.len b.block u k (storeOp x s k) = advanceAll (recPut u b.block (storeOp x s k).pa
        (storeOp x s k).cls (storeOp x s k).hint (storeOp x s k).bytes (storeOp x s k).poison (nub ([k].flatMap (loadIds u))))
          code.len [k] := fun passed => by
      unfold storeRan storeBlocked applyStore
      rw [htarget, hpa]
      dsimp only
      rw [hfull]
      rfl
    rw [hnone, show storeRan _ _ _ _ _ _ = _ from hrun _] at hexec
    obtain ⟨e, he, hown, hline, hecls, hdata⟩ := mem_recPut hblocks (storeOp x s k).pa (storeOp x s k).cls (storeOp x s k).hint
      (storeOp x s k).bytes (storeOp x s k).poison (nub ([k].flatMap (loadIds u)))
    have hframe : recPut u b.block (storeOp x s k).pa (storeOp x s k).cls (storeOp x s k).hint (storeOp x s k).bytes
        (storeOp x s k).poison (nub ([k].flatMap (loadIds u))) = { u with cores := (recPut u b.block (storeOp x s k).pa
          (storeOp x s k).cls (storeOp x s k).hint (storeOp x s k).bytes (storeOp x s k).poison
            (nub ([k].flatMap (loadIds u)))).cores } := by
      rw [recPut_unarmed hblocks, cores_recFilled, cores_recEntered]
    generalize recPut u b.block (storeOp x s k).pa (storeOp x s k).cls (storeOp x s k).hint (storeOp x s k).bytes
      (storeOp x s k).poison (nub ([k].flatMap (loadIds u))) = w at *
    have hstrands : w.strands = (bystandersPast s b x.g code.len).strands := by rw [hframe, hkept.frame]
    have hmoved := strandsMoved_advanceAll w code.len [k]
    rw [hbytes, length_leBytes, hpa] at hdata
    rw [hpa] at hline
    rw [hcls] at hecls
    rw [← hk] at hexec hmoved
    refine ⟨_, hexec, fun j hj => pc_past hb hstrands hj, rfl, ?_, onlyPc_past hb hstrands, e, ?_, hown, hline, hecls, hdata⟩
    · rw [executed_net, hmoved, hframe, hkept.frame, hpc.frame]
    · rw [coreAt_executed, hmoved.coreAt]
      exact he
  · intro x hk hcheck hva htr hfull
    have hexec := exec_st_single hv hb hk hcheck
    have hpc := pcMoved_bystandersPast hb x.g code.len
    have hkept := recordsKept_noteWalks .st x [k] (bystandersPast s b x.g code.len)
    obtain ⟨htarget, hpa, hcls, hbytes⟩ := storeOp_global hva htr
    have hin : k ∈ participants s b x.g := by
      rw [hk]
      exact List.mem_singleton_self k
    have hstrand : ∀ j, strandAt (noteWalks .st x (bystandersPast s b x.g code.len) [k]) j = strandAt (bystandersPast s b x.g code.len) j :=
      fun j => congrArg (fun l => tget l j Strand.blank) hkept.strands
    have hpcs : (strandAt (bystandersPast s b x.g code.len) k) = strandAt s k := by
      rw [strandAt_bystandersPast hb, if_neg fun hy => (mem_bystanders.1 hy).2 hin]
    have hthere : (tfind (noteWalks .st x (bystandersPast s b x.g code.len) [k]).strands k).isSome := by
      rw [hkept.strands, strand_isSome_bystandersPast]
      exact standing_present hb (participants_sub hin)
    have hblocked : recordFull (noteWalks .st x (bystandersPast s b x.g code.len) [k]) b.block (pa / 64) = true := by
      rw [hkept.recordFull]
      refine Eq.trans ?_ hfull
      unfold recordFull openEntry
      rw [hpc.coreAt, hpc.blockAt]
    have hrecord : (coreAt (noteWalks .st x (bystandersPast s b x.g code.len) [k]) (b.block / 4)).record =
        (coreAt s (b.block / 4)).record := by rw [hkept.record, hpc.coreAt]
    have hnone : ∀ w, passedGranules w b.block (storeGranules [storeOp x s k]) = ([], w) := fun w => by
      unfold storeGranules
      simp only [List.flatMap_cons, htarget]
      rfl
    dsimp only at hexec
    generalize noteWalks .st x (bystandersPast s b x.g code.len) [k] = u at *
    have hrun : ∀ passed, storeRan passed code.len b.block u k (storeOp x s k) =
        setCond (drainOldest u (b.block / 4)) k (.stalled .record) := fun passed => by
      unfold storeRan storeBlocked
      rw [htarget, hpa]
      dsimp only
      rw [hblocked]
      rfl
    rw [hnone, show storeRan _ _ _ _ _ _ = _ from hrun _] at hexec
    have hend : strandAt (executed s (setCond (drainOldest u (b.block / 4)) k (.stalled .record))) k =
        { strandAt s k with cond := .stalled .record } := by
      rw [strandAt_executed, setCond, strandAt_modStrand, cores_drainOldest, if_pos ⟨rfl, hthere⟩, ← hpcs, ← hstrand]
      rfl
    refine ⟨_, hexec, by rw [hend], by rw [hend], rfl, ?_⟩
    rw [← hrecord]
    exact map_record_drainOldest (g := (·.data)) (fun _ _ => rfl) (fun _ _ => rfl) u (b.block / 4)

end Sys2Proof.Proofs
end

section
/-! SUPPORT. The collectives vote and shfl (R151, R271, R272): the sheaves of a bundle, each sheaf's vote, and the source of a shuffle. -/

namespace Sys2Proof.Proofs
open Sys2Proof Sys2Proof.Machine Sys2Proof.Laws

/-! ## The sheaves of some strands -/

theorem insertSheaf_perm (s : State) (f : Nat) : ∀ gs, (insertSheaf s f gs).Perm (f :: gs)
  | [] => .refl _
  | g :: gs => by
    unfold insertSheaf
    split
    · exact .refl _
    · exact ((insertSheaf_perm s f gs).cons g).trans (.swap f g gs)

theorem sheavesOf_perm (s : State) (ps : List Nat) : (sheavesOf s ps).Perm (nub (ps.map sheafOf)) := by
  unfold sheavesOf
  induction nub (ps.map sheafOf) with
  | nil => exact .refl _
  | cons f fs ih => exact (insertSheaf_perm s f _).trans (ih.cons f)

/-- The participants, sheaf by sheaf. -/
def bySheaf (s : State) (ps : List Nat) : List Nat := (sheavesOf s ps).flatMap (partOf ps)

theorem mem_partOf {ps : List Nat} {f k : Nat} : k ∈ partOf ps f ↔ k ∈ ps ∧ sheafOf k = f := by simp [partOf]

theorem mem_bySheaf {s : State} {ps : List Nat} {k : Nat} : k ∈ bySheaf s ps ↔ k ∈ ps := by
  simp only [bySheaf, List.mem_flatMap, (sheavesOf_perm s ps).mem_iff, mem_nub, mem_partOf]
  exact ⟨fun ⟨_, _, h, _⟩ => h, fun h => ⟨_, List.mem_map_of_mem h, h, rfl⟩⟩

theorem nodup_bySheaf (s : State) {ps : List Nat} (h : ps.Nodup) : (bySheaf s ps).Nodup := by
  refine List.nodup_flatMap.2 ⟨fun f _ => h.filter _, ?_⟩
  refine List.Pairwise.imp (fun {f g} hne k hf hg => hne ?_) ((sheavesOf_perm s ps).nodup_iff.2 (nodup_nub _))
  rw [← (mem_partOf.1 hf).2, ← (mem_partOf.1 hg).2]

/-! ## vote (R271) -/

/-- The outcome of a vote by the participants of a sheaf. -/
def voteOf (x : Three) (s : State) (part : List Nat) : Bool :=
  let any := part.any fun k => (valueAt .vote x s k .a).1 == 1
  let all := part.all fun k => (valueAt .vote x s k .a).1 == 1
  if x.mod = 1 then any else if x.mod = 2 then all else any == all

/-- A match on a MOD's number is a test of the MOD. -/
theorem match_mod {α : Type} (m : BitVec 9) (a b c : α) :
    (match m.toNat with | 1 => a | 2 => b | _ => c) = if m = 1 then a else if m = 2 then b else c := by
  have hm : ∀ n : BitVec 9, m = n ↔ m.toNat = n.toNat := fun n => BitVec.toNat_inj.symm
  simp only [hm, show (1 : BitVec 9).toNat = 1 from rfl, show (2 : BitVec 9).toNat = 2 from rfl]
  split
  · next h => simp [h]
  · next h => simp [h]
  · next h1 h2 => rw [if_neg h1, if_neg h2]

section Vote

variable {i : Instr} {code : Code} {s : State} {b : Bundle} {d : BitVec 9} (hv : i.view = some (.vote, code)) (hb : Standing s b)
  (hd : (code.norm .vote).d = .p d)
include hv hb hd

theorem exec_vote :
    exec i s = .next (executed s (advanceAll ((bySheaf s (participants s b (code.norm .vote).g)).foldl (fun u k => writeP u k d.toNat
      (voteOf (code.norm .vote) s (partOf (participants s b (code.norm .vote).g) (sheafOf k))))
        (bystandersPast s b (code.norm .vote).g code.len)) code.len (participants s b (code.norm .vote).g))) := by
  have he : exec i s = .next (voteRun code s) := by
    have hi := ofCode_of_view hv
    cases code <;> cases hi <;> rfl
  have hpc := pcMoved_bystandersPast hb (code.norm .vote).g code.len
  have hwrite : ∀ u k (r : Bool), writeOperand u k Ty.b32 (.p d) (if r then 1 else 0) false = writeP u k d.toNat r := fun u k r => by
    cases r <;> rfl
  have hpart : ∀ (ps : List Nat) (f : Nat) (u : State) (r : Nat → Bool), (partOf ps f).foldl (fun v k => writeOperand v k Ty.b32 (.p d) (if r f then 1 else 0) false) u =
      (partOf ps f).foldl (fun v k => writeP v k d.toNat (r (sheafOf k))) u := fun ps f u r => by
    refine List.foldl_ext _ _ _ fun v k hk => ?_
    rw [hwrite, (mem_partOf.1 hk).2]
  rw [he, voteRun, controlRun, controlAs]
  dsimp only
  rw [runBundle_pass hb.1 fun _ _ => rfl, bySheaf, List.foldl_flatMap]
  change Host.Outcome.next (executed s (advanceAll ((sheavesOf (bystandersPast s b (code.norm .vote).g code.len) _).foldl _
    (bystandersPast s b (code.norm .vote).g code.len)) _ _)) = _
  rw [hpc.sheavesOf]
  refine congrArg (fun u => Host.Outcome.next (executed s (advanceAll u code.len (participants s b (code.norm .vote).g)))) ?_
  refine List.foldl_ext _ _ _ fun u f _ => ?_
  rw [hd]
  refine Eq.trans ?_ (hpart (participants s b (code.norm .vote).g) f u fun g =>
    voteOf (code.norm .vote) s (partOf (participants s b (code.norm .vote).g) g))
  have hvote : ∀ part : List Nat, voteOf (code.norm .vote) s part = match (code.norm .vote).mod.toNat with
      | 1 => part.any fun k => decide ((valueAt .vote (code.norm .vote) (bystandersPast s b (code.norm .vote).g code.len) k .a).1 = 1)
      | 2 => part.all fun k => decide ((valueAt .vote (code.norm .vote) (bystandersPast s b (code.norm .vote).g code.len) k .a).1 = 1)
      | _ => (part.any fun k => decide ((valueAt .vote (code.norm .vote) (bystandersPast s b (code.norm .vote).g code.len) k .a).1 = 1)) ==
        part.all fun k => decide ((valueAt .vote (code.norm .vote) (bystandersPast s b (code.norm .vote).g code.len) k .a).1 = 1) :=
    fun part => by
      rw [match_mod]
      simp only [hpc.valueAt]
      rfl
  rw [hvote]
  rfl

end Vote

/-- A predicate that is not written reads as before. -/
theorem readP_predTaken_ne {t : State} {k n m : Nat} {x : Strand} {v : Bool} (h : (strandAt t k).preds = (predTaken x m v).preds)
    (hne : n ≠ m) : readP t k n = (n == 7 || x.preds.getLsbD n) := by
  unfold readP
  rw [h, predTaken]
  split
  · rfl
  · have hbit : (1#8 <<< m).getLsbD n = false := by
      rw [BitVec.getLsbD_shiftLeft, BitVec.getLsbD_one]
      rcases Nat.lt_or_gt_of_ne hne with hlt | hgt
      · simp [hlt]
      · have : n - m ≠ 0 := by omega
        simp [this]
    cases v
    · by_cases hn : n < 8
      · simp only [Bool.false_eq_true, if_false, BitVec.getLsbD_and, BitVec.getLsbD_not, hbit, hn, decide_true, Bool.not_false,
          Bool.and_true]
      · simp only [Bool.false_eq_true, if_false, BitVec.getLsbD_and, BitVec.getLsbD_of_ge x.preds n (by omega), Bool.false_and]
    · simp only [if_true, BitVec.getLsbD_or, hbit, Bool.or_false]

/-! ## shfl (R272) -/

/-- The strand whose A a participant of a shuffle takes. -/
def shflSource (x : Three) (s : State) (ps : List Nat) (k : Nat) : Nat :=
  match shflIndex x.mod.toNat (k % 64) (valueAt .shfl x s k .b).1 with
  | some j => if j < (sheafAt s (sheafOf k)).width && ps.contains (strandKey (sheafOf k) j) then strandKey (sheafOf k) j else k
  | none => k

theorem shflValue_eq (x : Three) (s : State) (ps : List Nat) (k : Nat) : shflValue x s ps k =
    ((valueAt .shfl x s (shflSource x s ps k) .a).1, halfPoison s (shflSource x s ps k) (operandWidth .shfl x .a) x.a) := by
  unfold shflValue shflSource
  dsimp only
  cases shflIndex x.mod.toNat (k % 64) (valueAt .shfl x s k .b).1 with
  | none => rfl
  | some j =>
    dsimp only
    split <;> rfl

theorem PcMoved.shflValue {s t : State} (h : PcMoved s t) (x : Three) (ps : List Nat) (k : Nat) :
    shflValue x t ps k = shflValue x s ps k := by
  simp only [Machine.shflValue, h.valueAt, h.halfPoison, h.sheafAt]

/-- The index of a shuffle as a number with a sign. -/
def shflOffset (m : BitVec 9) (i c : Nat) : Int :=
  if m = 1 then c else if m = 2 then (i : Nat) - (c : Int) else if m = 3 then (i : Nat) + (c : Int) else (i ^^^ c : Nat)

theorem shflIndex_eq (m : BitVec 9) (i c : Nat) :
    shflIndex m.toNat i c = if 0 ≤ shflOffset m i c then some (shflOffset m i c).toNat else none := by
  have hm : ∀ n : BitVec 9, m = n ↔ m.toNat = n.toNat := fun n => BitVec.toNat_inj.symm
  unfold shflIndex shflOffset
  simp only [hm, show (1 : BitVec 9).toNat = 1 from rfl, show (2 : BitVec 9).toNat = 2 from rfl, show (3 : BitVec 9).toNat = 3 from rfl]
  split
  · next h => simp [h]
  · next h =>
    simp only [h, show (2 : Nat) ≠ 1 by decide, if_true, if_false]
    by_cases hle : c ≤ i
    · rw [if_pos hle, if_pos (by omega)]
      exact congrArg some (by omega)
    · rw [if_neg hle, if_neg (by omega)]
  · next h =>
    simp only [h, show (3 : Nat) ≠ 1 by decide, show (3 : Nat) ≠ 2 by decide, if_true, if_false]
    rw [if_pos (by omega)]
    exact congrArg some (by omega)
  · next h1 h2 h3 =>
    rw [if_neg h1, if_neg h2, if_neg h3, if_pos (by omega)]
    rfl

theorem valueAt_shflSource (x : Three) (s : State) (ps : List Nat) (k : Nat) :
    let j := shflOffset x.mod (k % 64) (valueAt .shfl x s k .b).1
    valueAt .shfl x s (shflSource x s ps k) .a =
      if 0 ≤ j ∧ j < (sheafAt s (sheafOf k)).width ∧ strandKey (sheafOf k) j.toNat ∈ ps
      then valueAt .shfl x s (strandKey (sheafOf k) j.toNat) .a else valueAt .shfl x s k .a := by
  intro j
  unfold shflSource
  rw [shflIndex_eq]
  by_cases h0 : 0 ≤ j
  · rw [if_pos h0]
    have hlt : j < ((sheafAt s (sheafOf k)).width : Int) ↔ j.toNat < (sheafAt s (sheafOf k)).width := by omega
    by_cases hin : j.toNat < (sheafAt s (sheafOf k)).width ∧ strandKey (sheafOf k) j.toNat ∈ ps
    · rw [if_pos ⟨h0, hlt.2 hin.1, hin.2⟩]
      exact congrArg (fun n => valueAt .shfl x s n .a) (if_pos (by simpa using hin))
    · rw [if_neg fun h => hin ⟨hlt.1 h.2.1, h.2.2⟩]
      exact congrArg (fun n => valueAt .shfl x s n .a) (if_neg (by simpa using hin))
  · rw [if_neg h0, if_neg fun h => h0 h.1]

theorem exec_shfl {i : Instr} {code : Code} {s : State} {b : Bundle} (hv : i.view = some (.shfl, code)) (hb : Standing s b)
    (h : AllPass (participants s b (code.norm .shfl).g) fun k => (Verdict.trapIf (rangeFails .shfl (code.norm .shfl) s k) .regrange).and
      (Verdict.poisonIf (valueAt .shfl (code.norm .shfl) s k .b).2)) :
    exec i s = .next (executed s (advanceAll ((participants s b (code.norm .shfl).g).foldl (fun u k => writeOperandP u k
      (code.norm .shfl).ty (code.norm .shfl).d (shflValue (code.norm .shfl) s (participants s b (code.norm .shfl).g) k).1
        (shflValue (code.norm .shfl) s (participants s b (code.norm .shfl).g) k).2)
          (bystandersPast s b (code.norm .shfl).g code.len)) code.len (participants s b (code.norm .shfl).g))) := by
  have he : exec i s = .next (shflRun code s) := by
    have hi := ofCode_of_view hv
    cases code <;> cases hi <;> rfl
  have hpc := pcMoved_bystandersPast hb (code.norm .shfl).g code.len
  rw [he, shflRun, controlRun, controlAs]
  rw [runBundle_pass hb.1 h]
  change Host.Outcome.next (executed s (advanceAll ((participants s b (code.norm .shfl).g).foldl (fun u k => writeOperandP u k
      (code.norm .shfl).ty (code.norm .shfl).d (shflValue (code.norm .shfl) (bystandersPast s b (code.norm .shfl).g code.len)
        (participants s b (code.norm .shfl).g) k).1 (shflValue (code.norm .shfl) (bystandersPast s b (code.norm .shfl).g code.len)
          (participants s b (code.norm .shfl).g) k).2) (bystandersPast s b (code.norm .shfl).g code.len)) _ _)) = _
  simp only [hpc.shflValue]

/-- A destination that is no uniform register: only the strand changes. -/
theorem strandsMoved_writeOperandP {s : State} {k : Nat} (h : Unshared s k) (ty : BitVec 4) {o : Operand} (ho : ∀ i, o ≠ .w i) (bits : Nat)
    (p : Bool × Bool) : StrandsMoved s (writeOperandP s k ty o bits p) := by
  have hvs : ∀ n, StrandsMoved s (writeVsP s k ty n bits p) := fun n => by
    rw [writeVsP_eq h]
    split
    · rfl
    · rfl
  cases o with
  | v i => exact hvs _
  | b i => exact hvs _
  | w i => exact absurd rfl (ho i)
  | p i => exact strandsMoved_writeP _ _ _ _
  | _ => exact .refl s

/-- The types of shfl. -/
theorem ty_shfl {code : Code} (h : codeOk .shfl code = true) : (code.norm .shfl).ty = Ty.b32 ∨ (code.norm .shfl).ty = Ty.b64 := by
  have hf := fieldsOk_of_codeOk h
  unfold fieldsOk at hf
  simp only [Bool.and_eq_true] at hf
  have hty := hf.1.1.1.1.1.1.2
  simpa [opRow] using hty

section Word

variable {x : Three} (hty : x.ty = Ty.b32 ∨ x.ty = Ty.b64)
include hty

/-- A whole register of a bit type is as wide as the type. -/
theorem destWidth_word (hw : ∀ i, x.d ≠ .w i) : destWidth x.ty x.d = tyWidth x.ty := by
  unfold destWidth
  split
  · next i h => exact absurd h (hw i)
  · rcases hty with h | h <;> rw [h] <;> decide

/-- A result of a bit type in a register is itself. -/
theorem destBits_word (hp : ∀ i, x.d ≠ .p i) (hw : ∀ i, x.d ≠ .w i) (bits : Nat) : destBits x.ty x.d bits = bits % 2 ^ tyWidth x.ty := by
  unfold destBits
  split
  · next i h => exact absurd h (hp i)
  · rw [destWidth_word hty hw, extendBits_self]

theorem width_shfl : operandWidth .shfl x .a = tyWidth x.ty ∧ (operandWidth .shfl x .a = 64 → tyWidth x.ty = 64) := by
  have h : operandWidth .shfl x .a = max 8 (tyWidth x.ty) := rfl
  rw [h]
  rcases hty with e | e <;> rw [e] <;> decide

theorem valueAt_shfl_lt (s : State) (k : Nat) : (valueAt .shfl x s k .a).1 < 2 ^ tyWidth x.ty := by
  rw [← (width_shfl hty).1]
  refine readOperand_lt s k ?_ _
  rw [(width_shfl hty).1]
  rcases hty with e | e <;> rw [e] <;> decide

end Word

/-- Settles O22: a vote writes one predicate in each participant, sheaf by sheaf; a shuffle's values are all read from the state before
it. -/
theorem collectives : Obligations.Collectives := by
  unfold Obligations.Collectives
  refine ⟨fun i code s b d hv hc hb => ?_, fun i code s b hv hc hb hu => ?_⟩
  · intro x ps hd
    refine ⟨_, exec_vote hv hb hd, ?_⟩
    have hd8 : d.toNat < 8 := by
      have h := (predicateDest (operandOk_d hc) (roleOf_d (by decide) (by decide) _)).1
      rw [show (code.norm .vote).d = .p d from hd] at h
      exact h
    have hpc := pcMoved_bystandersPast hb x.g code.len
    have hsome := strand_isSome_bystandersPast s b x.g code.len
    obtain ⟨hmoved, hwrote, hin, hout⟩ := writeP_all (s := bystandersPast s b x.g code.len)
      (nodup_bySheaf s (standing_participants_nodup hb x.g)) (fun k hk => by
        rw [hsome]
        exact standing_present hb (participants_sub (mem_bySheaf.1 hk))) d.toNat fun k => voteOf x s (partOf ps (sheafOf k))
    have hthere : ∀ k, (tfind ((bySheaf s ps).foldl (fun u k => writeP u k d.toNat (voteOf x s (partOf ps (sheafOf k))))
        (bystandersPast s b x.g code.len)).strands k).isSome = (tfind s.strands k).isSome := fun k => (hwrote.strand_isSome k).trans (hsome k)
    have hpreds := fun k => (sameRegs_advanceAll (standing_participants_nodup hb x.g) (fun j hj => by
      rw [hthere]
      exact standing_present hb (participants_sub hj)) code.len k).preds
    refine ⟨onlyStrands_executed hpc.frame (hmoved.trans (strandsMoved_advanceAll _ _ _)), fun k hk => ?_, fun k hk => ?_,
      fun k n hn => ?_, fun k hk n => ?_⟩
    · exact pc_advanced hb (fun j => by rw [hwrote.strand]) hthere hk
    · have h := readP_predTaken (v := voteOf x s (partOf ps (sheafOf k))) ((hpreds k).trans (congrArg Strand.preds
        (hin k (mem_bySheaf.2 hk)))) hd8
      refine Eq.trans h ?_
      split
      · next h7 => rw [decide_eq_true h7, Bool.true_or]
      · next h7 => rw [decide_eq_false h7, Bool.false_or]; rfl
    · by_cases hk : k ∈ ps
      · have h := readP_predTaken_ne (v := voteOf x s (partOf ps (sheafOf k))) ((hpreds k).trans (congrArg Strand.preds
          (hin k (mem_bySheaf.2 hk)))) hn
        refine Eq.trans h ?_
        rw [hpc.preds]
        rfl
      · unfold readP
        rw [strandAt_executed, hpreds, hout k (fun h => hk (mem_bySheaf.1 h)), hpc.preds]
    · unfold readP
      rw [strandAt_executed, hpreds, hout k (fun h => hk (mem_bySheaf.1 h)), hpc.preds]
  · intro x ps hpass
    refine ⟨_, exec_shfl hv hb hpass, ?_⟩
    have hpc := pcMoved_bystandersPast hb x.g code.len
    have hsome := strand_isSome_bystandersPast s b x.g code.len
    obtain ⟨hd, hnp⟩ := registerDest (operandOk_d hc) (roleOf_d (by decide) (by decide) _) (by decide)
    have hnou := noU_of_codeOk hc rfl
    have hnw : ∀ i, x.d ≠ .w i := fun i h => by
      have := hd.2 i h
      rw [hnou] at this
      cases this
    have hfree := destsFree_executors hb hu hpc hsome hd
    rw [executors_noU hnou] at hfree
    have hstep : ∀ u k, k ∈ ps → RegsWritten (bystandersPast s b x.g code.len) u → writeOperandP u k x.ty x.d
        (shflValue x s ps k).1 (shflValue x s ps k).2 = writeOperandP u k x.ty x.d (shflValue x s ps k).1 (shflValue x s ps k).2 :=
      fun _ _ _ _ => rfl
    have hwrote := (writes_spec hfree hstep).1.2
    have hmoved : StrandsMoved (bystandersPast s b x.g code.len) (ps.foldl (fun u k => writeOperandP u k x.ty x.d
        (shflValue x s ps k).1 (shflValue x s ps k).2) (bystandersPast s b x.g code.len)) := by
      refine (List.foldlRecOn (motive := fun u => StrandsMoved (bystandersPast s b x.g code.len) u ∧
        RegsWritten (bystandersPast s b x.g code.len) u) ps _ ⟨.refl _, .refl _⟩ fun u hkept k hk => ⟨?_, ?_⟩).1
      · exact hkept.1.trans (strandsMoved_writeOperandP ((hfree.unshared k hk).congr hkept.1.threads (hkept.2.block k)) _ hnw _ _)
      · exact hkept.2.trans (regsWritten_writeOperandP _ _ _ _ _ _)
    have hregs := sameRegs_advanceAll (standing_participants_nodup hb x.g) (fun k hk => by
      rw [hwrote.strand_isSome, hsome]
      exact standing_present hb (participants_sub hk)) code.len
    refine ⟨onlyStrands_executed hpc.frame (hmoved.trans (strandsMoved_advanceAll _ _ _)), fun k hk => ?_, fun k hk => ?_⟩
    · exact pc_advanced hb (fun j => by rw [hwrote.strand]) (fun j => (hwrote.strand_isSome j).trans (hsome j)) hk
    · obtain ⟨hread, hpoison⟩ := dests_written hfree hd.1 hstep (by rw [advanceAll_rest]) (by rw [advanceAll_rest, hmoved]) hk (hregs k)
      rw [destBits_word (ty_shfl hc) hnp hnw, shflValue_eq, Nat.mod_eq_of_lt (valueAt_shfl_lt (ty_shfl hc) _ _)] at hread
      rw [shflValue_eq, destTaint_halfPoison s _ x.a hnp (width_shfl (ty_shfl hc)).2] at hpoison
      rw [← destWidth_word (ty_shfl hc) hnw]
      exact (Prod.ext hread hpoison).trans (valueAt_shflSource x s ps k)

end Sys2Proof.Proofs
end

section
/-! SUPPORT. Traps that a bundle's checks find (R260, R281, R306, R354, R356): who takes them, the entry of a handler with room on the
stack, and what the checks of the rows of addresses are. -/

namespace Sys2Proof.Proofs
open Sys2Proof Sys2Proof.Machine Sys2Proof.Laws

/-! ## The entry of a handler (R262, R356) -/

/-- A strand that has entered its handler, with the address to return to on its stack. -/
def handlerEntered (c : Cause) (trpc tdet pc : DWord) (y : Strand) : Strand :=
  { y with stack := y.stack ++ [{ ret := trpc, x := y.x, y := y.y }], depth := y.depth + 1, trapDepth := y.depth + 1, trap := none,
           tcause := BitVec.ofNat 8 c.code, trpc := trpc, tdet := tdet, pc := pc }

theorem spillAddress_ne_room (s : State) (k va : Nat) : spillAddress s k va ≠ .room := by
  unfold spillAddress
  dsimp only
  split
  · exact Spill.noConfusion
  · split
    · exact Spill.noConfusion
    · split <;> exact Spill.noConfusion

/-- A push has room on chip where the stack holds fewer than four entries and the depth has not reached its end. -/
theorem spillPlan_room_iff (s : State) (k : Nat) :
    spillPlan s k = .room ↔ (strandAt s k).stack.length < 4 ∧ (strandAt s k).depth ≠ 0xFFFFFFFF := by
  unfold spillPlan
  dsimp only
  by_cases hfull : (strandAt s k).stack.length ≥ 4
  · have hno : ¬ (strandAt s k).stack.length < 4 := Nat.not_lt.2 hfull
    simp only [hno, false_and, iff_false]
    split
    · exact Spill.noConfusion
    · split
      · exact Spill.noConfusion
      · split
        · next h => simp [hfull] at h
        · split
          · exact Spill.noConfusion
          · exact spillAddress_ne_room s k _
  · have hlt : (strandAt s k).stack.length < 4 := Nat.lt_of_not_le hfull
    by_cases hd : (strandAt s k).depth = 0xFFFFFFFF
    · simp [hfull, hd]
    · rw [if_neg (by simp [hfull]), if_neg (by simpa using hd), if_pos (by simp [hfull])]
      exact ⟨fun _ => ⟨hlt, hd⟩, fun _ => rfl⟩

/-- What lets a strand enter its handler does not change with other strands. -/
theorem canTrap_congr {s t : State} {k : Nat} (hm : StrandsMoved s t) (hk : strandAt t k = strandAt s k) (h : canTrap s k) : canTrap t k := by
  obtain ⟨hoff, hdepth, hphase, hroom⟩ := h
  have hl : launchOf t (blockAt t (blockOf t k)) = launchOf s (blockAt s (blockOf s k)) := by rw [hm]; rfl
  refine ⟨?_, ?_, ?_, ?_⟩
  · rw [hl]
    exact hoff
  · rw [hk]
    exact hdepth
  · rw [hm.sheafAt]
    exact hphase
  · rw [spillPlan_room_iff, hk, ← spillPlan_room_iff]
    exact hroom

/-- Nothing but the strand changes, and it is in its handler. -/
theorem trapEntry_enters {s : State} {k : Nat} (hk : (tfind s.strands k).isSome) (h : canTrap s k) (c : Cause) (trpc tdet : DWord) :
    StrandsMoved s (trapEntry s k c trpc tdet) ∧
    (∀ j, (tfind (trapEntry s k c trpc tdet).strands j).isSome = (tfind s.strands j).isSome) ∧
    ∀ j, strandAt (trapEntry s k c trpc tdet) j =
      if j = k then handlerEntered c trpc tdet (handlerOf s k) (strandAt s j) else strandAt s j := by
  obtain ⟨hoff, hdepth, hphase, hroom⟩ := h
  have hself := strandAt_trapForgotten s k
  obtain ⟨hlen, hmax⟩ := (spillPlan_room_iff s k).1 hroom
  have hplan : spillPlan (trapForgotten s k) k = .room := by
    rw [spillPlan_room_iff, hself]
    exact ⟨hlen, hmax⟩
  have hhandled : ¬ NoHandler (trapForgotten s k) k := by
    rw [NoHandler, hself]
    exact fun hno => hno.elim hoff (Or.elim · (fun h => h hdepth) fun h => h hphase)
  have hwaits : spillWaits (trapForgotten s k) k = false := by
    unfold spillWaits
    rw [hself, decide_eq_false (Nat.not_le.2 hlen), Bool.false_and]
  have hentry : trapEntry s k c trpc tdet = modStrand (modStrand (trapForgotten s k) k fun y =>
      { y with stack := y.stack ++ [{ ret := trpc, x := (strandAt (trapForgotten s k) k).x, y := (strandAt (trapForgotten s k) k).y }],
               depth := y.depth + 1 }) k fun y =>
      { y with tcause := BitVec.ofNat 8 c.code, trpc := trpc, tdet := tdet, trapDepth := y.depth, pc := handlerOf s k } := by
    have hno := fun e => hhandled ((noHandler_iff (trapForgotten s k) k).2 e)
    have hgoes : ¬ spillWaits (trapForgotten s k) k = true := by
      rw [hwaits]
      exact Bool.false_ne_true
    unfold trapForgotten at hplan
    unfold trapEntry
    refine (if_neg hno).trans ((if_neg hgoes).trans ?_)
    rw [hplan]
    rfl
  rw [hentry]
  refine ⟨rfl, fun j => by simp only [isSome_modStrand, trapForgotten], fun j => ?_⟩
  have hthere : (tfind (trapForgotten s k).strands k).isSome := (isSome_modStrand _ _ _ _).trans hk
  rw [strandAt_modStrand, strandAt_modStrand, strandAt_modStrand]
  by_cases hj : j = k
  · subst hj
    rw [if_pos ⟨rfl, (isSome_modStrand _ _ _ _).trans hthere⟩, if_pos ⟨rfl, hthere⟩, if_pos rfl, hself]
    rfl
  · rw [if_neg fun e => hj e.1, if_neg fun e => hj e.1, if_neg hj, trapForgotten, strandAt_modStrand, if_neg fun e => hj e.1]

/-- Several strands enter their handlers, each with the same detail. -/
theorem trapEntries_enter (c : Cause) (trpc tdet : DWord) : ∀ {ks : List Nat} {s : State}, ks.Nodup →
    (∀ k ∈ ks, (tfind s.strands k).isSome) → (∀ k ∈ ks, canTrap s k) →
    let t := ks.foldl (fun t k => trapEntry t k c trpc tdet) s
    StrandsMoved s t ∧ ∀ j, strandAt t j = if j ∈ ks then handlerEntered c trpc tdet (handlerOf s j) (strandAt s j) else strandAt s j
  | [], s, _, _, _ => ⟨.refl s, fun _ => by simp⟩
  | k :: ks, s, hn, hthere, hcan => by
    obtain ⟨hk, hn⟩ := List.nodup_cons.1 hn
    obtain ⟨hmoved, hsome, hat⟩ := trapEntry_enters (hthere k (by simp)) (hcan k (by simp)) c trpc tdet
    have hother : ∀ j ∈ ks, strandAt (trapEntry s k c trpc tdet) j = strandAt s j := fun j hj => by
      rw [hat, if_neg]
      rintro rfl
      exact hk hj
    have hthere' : ∀ j ∈ ks, (tfind (trapEntry s k c trpc tdet).strands j).isSome := fun j hj => by
      rw [hsome]
      exact hthere j (by simp [hj])
    have hcan' : ∀ j ∈ ks, canTrap (trapEntry s k c trpc tdet) j := fun j hj => canTrap_congr hmoved (hother j hj) (hcan j (by simp [hj]))
    obtain ⟨hmoved', hat'⟩ := trapEntries_enter c trpc tdet hn hthere' hcan'
    have hhandler : ∀ j, handlerOf (trapEntry s k c trpc tdet) j = handlerOf s j := fun j => by rw [hmoved]; rfl
    refine ⟨hmoved.trans hmoved', fun j => ?_⟩
    rw [List.foldl_cons, hat', hhandler, hat]
    by_cases hj : j = k
    · subst hj
      rw [if_neg hk, if_pos rfl, if_pos List.mem_cons_self]
    · rw [if_neg hj]
      by_cases hm : j ∈ ks
      · rw [if_pos hm, if_pos (List.mem_cons_of_mem _ hm)]
      · rw [if_neg hm, if_neg (by simp [hj, hm])]

/-! ## A bundle some of whose participants trap (R260, R354) -/

section Traps

variable {s : State} {b : Bundle} {g : Guard} {check : Nat → Verdict} {p : Nat → Bool} {c : Cause} {ps : List Nat}

/-- Where some participants take one cause and the others pass, the decision is their traps. -/
theorem decideAll_traps (hcause : ∀ k ∈ ps, (check k).cause = if p k then some c else none) (hbad : ps.filter p ≠ []) :
    decideAll ps check = .traps ((ps.filter p).map fun k => (k, c)) := by
  have hmap : (ps.filterMap fun k => (check k).cause.map fun c => (k, c)) = (ps.filter p).map fun k => (k, c) := by
    clear hbad
    induction ps with
    | nil => rfl
    | cons k ks ih =>
      have hk := hcause k (by simp)
      have hks := ih fun j hj => hcause j (by simp [hj])
      by_cases hp : p k
      · rw [if_pos hp] at hk
        simp [hk, hp, hks]
      · rw [if_neg hp] at hk
        simp [hk, hp, hks]
  unfold decideAll
  simp only [hmap, List.isEmpty_map]
  rw [if_pos]
  cases hf : ps.filter p with
  | nil => exact absurd hf hbad
  | cons k ks => rfl

/-- Checks that meet no malformed entry log none. -/
theorem logWalks_none (s : State) (core : Nat) (h : ∀ k ∈ ps, (check k).walk = none) : logWalks s core (ps.map check) = s := by
  induction ps with
  | nil => rfl
  | cons k ks ih =>
    have hks := ih fun j hj => h j (by simp [hj])
    unfold logWalks at hks ⊢
    rw [List.map_cons, List.foldl_cons, h k (by simp)]
    exact hks

/-- The traps of one cause name the lanes of all that take it. -/
theorem takeTraps_one (s : State) (pc : DWord) (bad : List Nat) (c : Cause) : takeTraps s pc (bad.map fun k => (k, c)) =
    bad.foldl (fun t k => trapEntry t k c pc (laneMask s bad)) s := by
  have hself : ((bad.map fun k => (k, c)).filter fun q => q.2 == c) = bad.map fun k => (k, c) :=
    List.filter_eq_self.2 fun q hq => by
      obtain ⟨k, -, rfl⟩ := List.mem_map.1 hq
      simp
  unfold takeTraps
  rw [List.foldl_map]
  simp only [hself, List.map_map]
  rw [show (bad.map ((·.1) ∘ fun k => (k, c))) = bad from by rw [Function.comp_def]; exact List.map_id _]

/-- Such a bundle: those that trap enter their handlers with return to the instruction, and nothing else happens. -/
theorem bundle_traps {len : Nat} {acc : Access} {check : State → Nat → Verdict} {effect : State → Bundle → List Nat → State}
    (hb : Standing s b) (hcause : ∀ k ∈ participants s b g, (check (issued s) k).cause = if p k then some c else none)
    (hwalk : ∀ k ∈ participants s b g, (check (issued s) k).walk = none) (hbad : (participants s b g).filter p ≠ [])
    (hcan : ∀ k ∈ (participants s b g).filter p, canTrap s k) :
    let t := executed s (runBundle s g len acc check effect)
    OnlyStrands s t ∧ StrandsBecome s t fun k y => if k ∈ (participants s b g).filter p then
      handlerEntered c b.pc (laneMask s ((participants s b g).filter p)) (handlerOf s k) y else y := by
  have hrun : runBundle s g len acc check effect = ((participants s b g).filter p).foldl
      (fun t k => trapEntry t k c b.pc (laneMask s ((participants s b g).filter p))) (issued s) := by
    unfold runBundle
    rw [hb.1]
    dsimp only
    rw [show participants (issued s) b g = participants s b g from rfl, decideAll_traps hcause hbad, logWalks_none _ _ hwalk]
    exact takeTraps_one (issued s) b.pc _ c
  obtain ⟨hmoved, hat⟩ := trapEntries_enter c b.pc (laneMask s ((participants s b g).filter p)) (s := issued s)
    ((standing_participants_nodup hb g).filter p) (fun k hk => standing_present hb (participants_sub (List.mem_filter.1 hk).1)) hcan
  intro t
  rw [show t = _ from congrArg (executed s) hrun]
  exact ⟨onlyStrands_executed (pcMoved_issued s).frame hmoved, hat⟩

end Traps

/-! ## The rows of addresses -/

theorem memCheck_issued (stem : Stem) (x : Three) (s : State) (k : Nat) : memCheck stem x (issued s) k = memCheck stem x s k := by rfl

theorem xstCheck_issued (x : Three) (s : State) (k : Nat) : xstCheck x (issued s) k = xstCheck x s k := by rfl

theorem rinvCheck_issued (x : Three) (s : State) (k : Nat) : rinvCheck x (issued s) k = rinvCheck x s k := by rfl

theorem accCheck_issued (stem : Stem) (x : Three) (s : State) (k : Nat) : accCheck stem x (issued s) k = accCheck stem x s k := by rfl

theorem accoCheck_issued (x : Three) (s : State) (k : Nat) : accoCheck x (issued s) k = accoCheck x s k := by rfl

/-- Attempting a bundle's instruction changes nothing that the row of addresses reads. -/
theorem addressCheck_issued (stem : Stem) (x : Three) (s : State) (ps : List Nat) (k : Nat) :
    addressCheck stem x (issued s) ps k = addressCheck stem x s ps k := by
  unfold addressCheck
  split
  case h_1 => exact xstCheck_issued x s k
  case h_2 => exact rinvCheck_issued x s k
  case h_3 => rfl
  case h_8 => exact accoCheck_issued x s (sheafLead ps k)
  case h_9 => exact memCheck_issued stem x s k
  all_goals exact accCheck_issued _ x s k

/-- Each row's execution checks its participants as the row of addresses says. -/
theorem exec_addressRow {i : Instr} {stem : Stem} {code : Code} (hv : i.view = some (stem, code)) (hrow : stem ∈ addressRows) (s : State) :
    ∃ (acc : Access) (effect : State → Bundle → List Nat → State),
      exec i s = .next (executed s (runBundle s (code.norm stem).g code.len acc
        (fun t => addressCheck stem (code.norm stem) t (currentPs s (code.norm stem).g)) effect)) := by
  have hi := ofCode_of_view hv
  simp only [addressRows, List.mem_cons, List.not_mem_nil, or_false] at hrow
  rcases hrow with rfl | rfl | rfl | rfl | rfl | rfl | rfl | rfl | rfl | rfl | rfl | rfl | rfl <;>
    rcases code with x | ⟨x, v⟩ | x <;> cases hi <;> exact ⟨_, _, rfl⟩

/-- The cause of a check of registers alone. -/
theorem aluCheck_cause (stem : Stem) (x : Three) (readsD moves : Bool) (s : State) (k : Nat) :
    (aluCheck stem x readsD moves s k).cause = (if rangeFails stem x s k then some .regrange else none) ∧
      (aluCheck stem x readsD moves s k).walk = none := by
  unfold aluCheck
  cases rangeFails stem x s k <;> exact ⟨rfl, rfl⟩

/-- Settles O19: the strands whose checks find the cause enter their handlers, and since one does, the bundle's effect does not run. -/
theorem checksTrap : Obligations.ChecksTrap := by
  unfold Obligations.ChecksTrap
  refine ⟨fun i stem code r s b hv hr hb => ?_, fun i stem code s b c n hv hrow hc hb => ?_⟩
  · intro x ps bad hne hcan
    obtain ⟨effect, he⟩ : ∃ effect, alu stem code r.fn r.dty r.readsD r.moves s =
        executed s (runBundle s x.g code.len .read (aluCheck stem x r.readsD r.moves) effect) := ⟨_, rfl⟩
    obtain ⟨honly, hat⟩ := bundle_traps (len := code.len) (acc := .read) (effect := effect) hb
      (fun k _ => (aluCheck_cause stem x r.readsD r.moves (issued s) k).1)
      (fun k _ => (aluCheck_cause stem x r.readsD r.moves (issued s) k).2) hne hcan
    exact ⟨_, (exec_aluRow hv hr s).trans (congrArg _ he), honly, hat⟩
  · intro x ps check bad hne hpass hcan
    obtain ⟨acc, effect, he⟩ := exec_addressRow hv hrow s
    rw [currentPs_of_standing hb] at he
    have hmem : ∀ k, k ∈ bad ↔ k ∈ ps ∧ (check k).cause = some c := fun k => by simp [bad]
    have hcause : ∀ k ∈ ps, (addressCheck stem x (issued s) ps k).cause = if decide ((check k).cause = some c) then some c else none := fun k hk => by
      rw [addressCheck_issued]
      by_cases hk' : (check k).cause = some c
      · rw [decide_eq_true hk', if_pos rfl]
        exact hk'
      · rw [decide_eq_false hk', if_neg Bool.false_ne_true]
        exact (hpass k hk fun h => hk' ((hmem k).1 h).2).1
    have hwalk : ∀ k ∈ ps, (addressCheck stem x (issued s) ps k).walk = none := fun k hk => by
      rw [addressCheck_issued]
      by_cases hk' : k ∈ bad
      · exact (hcan k hk').2
      · exact (hpass k hk hk').2
    have hcode : BitVec.ofNat 8 c.code = n := by
      simp only [List.mem_cons, Prod.mk.injEq, List.not_mem_nil, or_false] at hc
      rcases hc with ⟨rfl, rfl⟩ | ⟨rfl, rfl⟩ <;> rfl
    obtain ⟨honly, hat⟩ := bundle_traps (len := code.len) (acc := acc)
      (check := fun t => addressCheck stem x t ps) (effect := effect) hb hcause hwalk hne fun k hk => (hcan k hk).1
    refine ⟨_, he, honly, fun k => (hat k).trans ?_⟩
    simp only [handlerEntered, hcode]
    rfl

end Sys2Proof.Proofs
end

section
/-! SUPPORT. A pass of a request whose sheaf stands in no block (R192): its deliveries are counted nowhere. -/

namespace Sys2Proof.Proofs
open Sys2Proof Sys2Proof.Machine Sys2Proof.Laws

/-- An arrival of sheaf 0 with one row of B, at address 0. -/
def strayArrival : Arrival := { Arrival.blank with k := 1 }

/-- The request of that arrival alone. -/
def strayEntry : TableEntry := { members := [strayArrival], row := 0, entered := 0, granted := 0, aged := 0, checked := true }

/-- Its pass over the row. -/
def strayPass : Pass := { entry := 0, row := 0, stop := 1, grids := [] }

/-- A page of host memory. -/
def hostPage : Leaf := { cls := 0, fail := false, w := true, x := false, base := 2 ^ 47, size := 2 ^ 16 }

/-- Quad 0 makes the pass and has B's page in its TLB; sheaf 0 and its block do not exist. -/
def strayState : State :=
  { State.reset with
    quads := [(0, { Quad.reset with table := [strayEntry], pass := some strayPass, tlb := [entryOf Launch.blank 0 hostPage] })] }

theorem passEntry_strayState : passEntry strayState (strayState.arg 0) = some (strayPass, strayEntry) := by decide +kernel

theorem failingRow_strayState : failingRow strayState strayEntry strayPass = none := by decide +kernel

theorem passHeld_strayState : passHeld strayState (strayState.arg 0) strayEntry strayPass = false := by decide +kernel

/-- Block 0, which sheaf 0 stands for, counts no operation at the end of the pass. -/
theorem ops_endPass_strayState : (blockAt (quiet strayState (endPass strayState (strayState.arg 0))) 0).ops = [] := by decide +kernel

/-- Refutes O53: at the end of a pass it asks that the block of each member counts the deliveries, without asking that the block
exists; in `strayState` no block does, and nothing is counted. -/
theorem not_engineEvents : ¬ Obligations.EngineEvents := by
  unfold Obligations.EngineEvents
  rintro ⟨-, -, -, -, -, -, -, -, -, -, hpassEnd, -⟩
  obtain ⟨t, hstep, -, hdelivers, -⟩ :=
    hpassEnd strayState strayPass strayEntry passEntry_strayState failingRow_strayState passHeld_strayState
  obtain rfl : quiet strayState (endPass strayState (strayState.arg 0)) = t := Host.Outcome.next.inj hstep
  obtain ⟨hcounts, -⟩ := hdelivers (by decide)
  obtain ⟨o, ho, -⟩ := hcounts 0 (by decide +kernel)
  rw [ops_endPass_strayState] at ho
  exact List.not_mem_nil ho

end Sys2Proof.Proofs
end

section
/-! SUPPORT. The run of an atomic or a reduction of one strand (R172, R317 to R319): at the scratchpad's banks or as one message, then the
fence that an atom or a cas closes with. -/

namespace Sys2Proof.Proofs
open Sys2Proof Sys2Proof.Machine Sys2Proof.Laws

/-! ## Operands and places -/

section Operands

variable {s t : State} (h : PcMoved s t)
include h

theorem PcMoved.laneOp (stem : Stem) (x : Three) (k pa : Nat) : laneOp stem x t k pa = laneOp stem x s k pa := by
  simp only [Machine.laneOp, h.valueAt]

theorem PcMoved.globalPlace (stem : Stem) (x : Three) (k : Nat) : globalPlace stem x t k = globalPlace stem x s k := by
  simp only [Machine.globalPlace, h.memTarget, h.memTranslate]

end Operands

theorem globalPlace_of_ok {stem : Stem} {x : Three} {s : State} {k va pa : Nat} {leaf : Leaf} (hva : (memTarget stem x s k).1 = .global va)
    (htr : memTranslate stem s k va = .ok pa leaf) : globalPlace stem x s k = some (pa, leaf) := by
  rw [globalPlace, hva]
  dsimp only
  rw [htr]
  rfl

/-- The value of an operand of at most 64 bits stands whole in a doubleword. -/
theorem toNat_valueAt {stem : Stem} {x : Three} {p : Pos} (hw : operandWidth stem x p = max 8 (tyWidth x.ty)) (s : State) (k : Nat) :
    (BitVec.ofNat 64 (valueAt stem x s k p).1).toNat = (valueAt stem x s k p).1 := by
  have hle : operandWidth stem x p ≤ 64 := by
    have := tyWidth_le_64 x.ty
    omega
  have hlt : (valueAt stem x s k p).1 < 2 ^ operandWidth stem x p := readOperand_lt s k (by omega) _
  rw [BitVec.toNat_ofNat, Nat.mod_eq_of_lt (hlt.trans_le (Nat.pow_le_pow_right (by decide) hle))]

section Stems

variable {stem : Stem} (hs : stem = .atom ∨ stem = .cas ∨ stem = .red)
include hs

/-- The data of an update is C, or D of a reduction. -/
theorem laneOp_value (x : Three) (s : State) (k pa : Nat) :
    (laneOp stem x s k pa).value.toNat = (valueAt stem x s k (if stem = .red then .d else .c)).1 := by
  refine toNat_valueAt (p := if stem = .red then .d else .c) ?_ s k
  rcases hs with rfl | rfl | rfl <;> rfl

/-- A cas compares with B. -/
theorem laneOp_expected (x : Three) (s : State) (k pa : Nat) :
    (laneOp stem x s k pa).expected.toNat = if stem = .cas then (valueAt stem x s k .b).1 else 0 := by
  unfold laneOp
  rcases hs with rfl | rfl | rfl
  · rfl
  · exact toNat_valueAt rfl s k
  · rfl

theorem isAtomic_of_stem : isAtomic stem = true := by
  rcases hs with rfl | rfl | rfl <;> rfl

/-- An atom or a cas writes a register: a vector register, or with U a uniform one. -/
theorem destOk_atomic {code : Code} (hc : codeOk stem code = true) (hr : stem ≠ .red) :
    DestOk (code.norm stem) ∧ ∀ i, (code.norm stem).d ≠ .p i := by
  rcases hs with rfl | rfl | rfl
  · exact registerDest (operandOk_d hc) rfl rfl
  · exact registerDest (operandOk_d hc) rfl rfl
  · exact absurd rfl hr

theorem exec_atomic {i : Instr} {code : Code} (hv : i.view = some (stem, code)) (s : State) : exec i s = .next (atomicRun stem code s) := by
  have h := ofCode_of_view hv
  rcases hs with rfl | rfl | rfl <;> rcases code with x | ⟨x, v⟩ | x <;> cases h <;> rfl

end Stems

/-! ## The run of one strand -/

/-- The fence that an atom or a cas closes with (R318). -/
def closed (stem : Stem) (k sc : Nat) (v : State) : State := if stem = .red then v else startFence v k sc

/-- The state after the closing fence and the advance of the only participant, whose atomic left a state. -/
def atomicEnd (stem : Stem) (s : State) (len k sc : Nat) (w : State) : State := executed s (advanceAll (closed stem k sc w) len [k])

/-- The effect of a bundle's atomics: at the scratchpad's banks, then line by line, then the fences. -/
def atomicsDone (stem : Stem) (x : Three) (b : Nat) (ps : List Nat) (t : State) : State :=
  let u := ps.foldl (fun u k => match (memTarget stem x t k).1 with
    | .scratch off => atomicPad stem x ps t u k off.toNat
    | _ => u) (noteWalks stem x t ps)
  let lines := nub (ps.filterMap fun k => (globalPlace stem x t k).map fun p => p.1 / 64)
  let u := lines.foldl (sendLine stem x t b ps) u
  if stem = .red then u else ps.foldl (fun v k => startFence v k (scopeOf x t stem k)) u

theorem atomicsDone_scratch {stem : Stem} {x : Three} {k : Nat} {t : State} {off : Int} (hoff : (memTarget stem x t k).1 = .scratch off)
    (b : Nat) : atomicsDone stem x b [k] t = closed stem k (scopeOf x t stem k) (atomicPad stem x [k] t t k off.toNat) := by
  have hplace : globalPlace stem x t k = none := by rw [globalPlace, hoff]
  have hwalks : noteWalks stem x t [k] = t := noteWalks_scratch fun j hj => ⟨off, by rw [List.mem_singleton.1 hj, hoff]⟩
  simp only [atomicsDone, closed, hwalks, List.foldl_cons, List.foldl_nil, List.filterMap_cons, List.filterMap_nil, hoff, hplace,
    Option.map_none, nub]

theorem atomicsDone_global {stem : Stem} {x : Three} {k va : Nat} {t : State} (hva : (memTarget stem x t k).1 = .global va) {pa : Nat}
    {leaf : Leaf} (hplace : globalPlace stem x t k = some (pa, leaf)) (b : Nat) : atomicsDone stem x b [k] t =
      closed stem k (scopeOf x t stem k) (sendLine stem x t b [k] (noteWalks stem x t [k]) (pa / 64)) := by
  simp only [atomicsDone, closed, List.foldl_cons, List.foldl_nil, List.filterMap_cons, List.filterMap_nil, hva, hplace, Option.map_some,
    nub, List.filter_nil]

section Run

variable {i : Instr} {stem : Stem} {code : Code} {s : State} {b : Bundle} {k : Nat} (hs : stem = .atom ∨ stem = .cas ∨ stem = .red)
  (hv : i.view = some (stem, code)) (hb : Standing s b) (hk : participants s b (code.norm stem).g = [k])
  (hcheck : memCheck stem (code.norm stem) s k = Verdict.ok)
include hs hv hb hk hcheck

theorem exec_atomic_single : exec i s = .next (executed s (advanceAll (atomicsDone stem (code.norm stem) b.block [k]
    (seeTargets stem (code.norm stem) (bystandersPast s b (code.norm stem).g code.len) [k])) code.len [k])) := by
  have hpass : AllPass (participants s b (code.norm stem).g) (memCheck stem (code.norm stem) (issued s)) := fun j hj => by
    rw [hk] at hj
    rw [List.mem_singleton.1 hj]
    exact hcheck
  rw [exec_atomic hs hv, atomicRun]
  dsimp only
  rw [runBundle_pass hb.1 hpass, hk]
  rfl

/-- Of a scratchpad location, with no copy of the block queued. -/
theorem exec_atomic_scratch {off : Int} (hidle : ∀ c ∈ (coreAt s (b.block / 4)).queue, c.block ≠ b.block)
    (hoff : (memTarget stem (code.norm stem) s k).1 = .scratch off) :
    let u := bystandersPast s b (code.norm stem).g code.len
    exec i s = .next (atomicEnd stem s code.len k (scopeOf (code.norm stem) u stem k)
      (atomicPad stem (code.norm stem) [k] u u k off.toNat)) := by
  have hpc := pcMoved_bystandersPast hb (code.norm stem).g code.len
  have hmem : k ∈ b.strands := participants_sub (by rw [hk]; exact List.mem_singleton_self k)
  have hsee : seeTargets stem (code.norm stem) (bystandersPast s b (code.norm stem).g code.len) [k] =
      bystandersPast s b (code.norm stem).g code.len := seeTargets_idle fun j hj => by
    rw [List.mem_singleton.1 hj, hpc.blockOf, standing_block hb hmem, hpc.coreAt]
    exact hidle
  rw [exec_atomic_single hs hv hb hk hcheck, hsee, atomicsDone_scratch ((congrArg Prod.fst (hpc.memTarget _ _ _)).trans hoff)]
  rfl

/-- Of a memory location. -/
theorem exec_atomic_global {va pa : Nat} {leaf : Leaf} (hva : (memTarget stem (code.norm stem) s k).1 = .global va)
    (htr : memTranslate stem s k va = .ok pa leaf) :
    let u := bystandersPast s b (code.norm stem).g code.len
    exec i s = .next (atomicEnd stem s code.len k (scopeOf (code.norm stem) u stem k)
      (sendLine stem (code.norm stem) u b.block [k] (noteWalks stem (code.norm stem) u [k]) (pa / 64))) := by
  have hpc := pcMoved_bystandersPast hb (code.norm stem).g code.len
  have htarget : (memTarget stem (code.norm stem) (bystandersPast s b (code.norm stem).g code.len) k).1 = .global va :=
    (congrArg Prod.fst (hpc.memTarget _ _ _)).trans hva
  have hplace : globalPlace stem (code.norm stem) (bystandersPast s b (code.norm stem).g code.len) k = some (pa, leaf) := by
    rw [hpc.globalPlace, globalPlace_of_ok hva htr]
  have hsee : seeTargets stem (code.norm stem) (bystandersPast s b (code.norm stem).g code.len) [k] =
      bystandersPast s b (code.norm stem).g code.len := foldl_fixed fun j hj => by
    rw [List.mem_singleton.1 hj, htarget]
  rw [exec_atomic_single hs hv hb hk hcheck, hsee, atomicsDone_global htarget hplace]
  rfl

end Run

/-! ## The closing fence -/

/-- A fence's issue changes strands and the records of cores. -/
theorem startFence_frame (s : State) (k sc : Nat) :
    startFence s k sc = { s with cores := (startFence s k sc).cores, strands := (startFence s k sc).strands } := by
  unfold startFence drainBlock
  dsimp only
  split
  · rfl
  · split <;> rfl

theorem startFence_strands (s : State) (k sc : Nat) : (startFence s k sc).strands =
    (modStrand s k fun y => { y with fences := y.fences ++ [fenceWait s k sc] }).strands := by
  unfold startFence drainBlock
  dsimp only
  split
  · rfl
  · split <;> rfl

/-- The strand has the fence's wait, and no other strand has changed. -/
theorem strandAt_startFence {s : State} {k : Nat} (hk : (tfind s.strands k).isSome) (sc j : Nat) : strandAt (startFence s k sc) j =
    if j = k then { strandAt s k with fences := (strandAt s k).fences ++ [fenceWait s k sc] } else strandAt s j := by
  rw [strandAt, startFence_strands, ← strandAt, strandAt_modStrand]
  exact if_congr (and_iff_left hk) rfl rfl

/-- A fence of any scope waits for the loads and atomics of its strand. -/
theorem mem_fenceWait_loads {s : State} {k : Nat} {p : PendingLoad} (h : p ∈ (strandAt s k).loads) (sc : Nat) :
    p.id ∈ (fenceWait s k sc).loads := by
  have hmem : p.id ∈ loadIds s k := List.mem_map_of_mem (List.mem_append_left _ h)
  unfold fenceWait
  dsimp only
  split <;> exact hmem

theorem closed_frame (stem : Stem) (k sc : Nat) (v : State) :
    closed stem k sc v = { v with cores := (closed stem k sc v).cores, strands := (closed stem k sc v).strands } := by
  unfold closed
  split
  · rfl
  · exact startFence_frame v k sc

/-- The closing fence changes only what its strand waits for. -/
theorem strandAt_closed {v : State} {k : Nat} (hk : (tfind v.strands k).isSome) (stem : Stem) (sc j : Nat) :
    strandAt (closed stem k sc v) j = { strandAt v j with
      fences := (strandAt v j).fences ++ if stem ≠ .red ∧ j = k then [fenceWait v k sc] else [] } := by
  unfold closed
  by_cases hr : stem = .red
  · rw [if_pos hr, if_neg fun h => h.1 hr, List.append_nil]
  · rw [if_neg hr, strandAt_startFence hk]
    by_cases hj : j = k
    · rw [if_pos hj, if_pos ⟨hr, hj⟩, hj]
    · rw [if_neg hj, if_neg fun h => hj h.2, List.append_nil]

theorem closed_isSome (stem : Stem) (k sc : Nat) (v : State) (j : Nat) :
    (tfind (closed stem k sc v).strands j).isSome = (tfind v.strands j).isSome := by
  unfold closed
  split
  · rfl
  · rw [startFence_strands]
    exact isSome_modStrand _ _ _ _

/-! ## The end of the instruction -/

section End

variable (stem : Stem) (s : State) (len k sc : Nat) (w : State)

/-- Messages, blocks and sheaves stay as the atomic left them. -/
theorem atomicEnd_frame : atomicEnd stem s len k sc w = { w with
    ctl := (atomicEnd stem s len k sc w).ctl, mem := s.mem, badLines := s.badLines, cores := (atomicEnd stem s len k sc w).cores,
    strands := (atomicEnd stem s len k sc w).strands } := by
  have hframe := closed_frame stem k sc w
  unfold atomicEnd
  generalize closed stem k sc w = c at *
  rw [advanceAll_rest, hframe]
  rfl

theorem strandAt_atomicEnd {w : State} (hk : (tfind w.strands k).isSome) : strandAt (atomicEnd stem s len k sc w) k =
    Strand.past { strandAt w k with fences := (strandAt w k).fences ++ if stem ≠ .red then [fenceWait w k sc] else [] } len := by
  have hadv := strandAt_advanceAll (s := closed stem k sc w) len (List.nodup_singleton k)
    (fun j hj => by rw [List.mem_singleton.1 hj, closed_isSome]; exact hk) k
  rw [atomicEnd, strandAt_executed, hadv, if_pos (List.mem_singleton_self k), strandAt_closed hk]
  simp only [and_true]

/-- Each strand of the bundle is past the instruction, where the atomic leaves pc alone. -/
theorem pc_atomicEnd {s w : State} {b : Bundle} (hb : Standing s b) {g : Guard} {len k : Nat} (hk : participants s b g = [k])
    (hpc : ∀ j, (strandAt w j).pc = (strandAt (bystandersPast s b g len) j).pc)
    (hsome : ∀ j, (tfind w.strands j).isSome = (tfind s.strands j).isSome) {j : Nat} (hj : j ∈ b.strands) :
    (strandAt (atomicEnd stem s len k sc w) j).pc = (strandAt s j).pc + BitVec.ofNat 64 len := by
  have hmem : k ∈ b.strands := participants_sub (by rw [hk]; exact List.mem_singleton_self k)
  refine pc_advanced_single hb hk len (closed stem k sc w) (fun i => ?_) (fun i => ?_) j hj
  · rw [strandAt_closed ((hsome k).trans (standing_present hb hmem))]
    exact hpc i
  · rw [closed_isSome, hsome, strand_isSome_bystandersPast]

end End

end Sys2Proof.Proofs
end

section
/-! SUPPORT. An atomic of a scratchpad location (R172, R185): what its update leaves in the scratchpad and in D. -/

namespace Sys2Proof.Proofs
open Sys2Proof Sys2Proof.Machine Sys2Proof.Laws

/-! ## A store of bytes that no armed error strikes -/

theorem padWritten_putPad (s : State) (b off : Nat) (bytes : List Byte) (poison : Bool) : PadWritten s (putPad s b off bytes poison) :=
  (padWritten_passedGranules s b (granulesOf off bytes.length)).trans (padWritten_putPadBy _ _ _ _ _ _)

/-- A strand whose block shares no registers and has no error armed is so after it. -/
theorem Unshared.putPad {s : State} {k : Nat} (h : Unshared s k) (b off : Nat) (bytes : List Byte) (poison : Bool) :
    Unshared (putPad s b off bytes poison) k := by
  have hsheaves := (padWritten_putPad s b off bytes poison).sheaves
  unfold Unshared blockOf sheafAt at h ⊢
  rw [hsheaves, blockAt, putPad_blocks, ← blockAt, blockAt_modBlock]
  split
  · next hb => rw [← hb.1]; exact h
  · exact h

theorem DestsFree.putPad {s : State} {ks : List Nat} {o : Operand} (h : DestsFree s ks o) (b off : Nat) (bytes : List Byte)
    (poison : Bool) : DestsFree (putPad s b off bytes poison) ks o :=
  have hpad := padWritten_putPad s b off bytes poison
  { unshared := fun k hk => (h.unshared k hk).putPad b off bytes poison
    strand := fun k hk => by rw [hpad.strands]; exact h.strand k hk
    sheaf := fun k hk => by rw [hpad.sheaves]; exact h.sheaf k hk
    nodup := h.nodup
    sheaves_nodup := h.sheaves_nodup }

/-! ## The update of a location (R185, R317, R319) -/

/-- The bits that a scratchpad location holds. -/
def padOld (s : State) (b off : Nat) (ty : BitVec 4) : Nat := leNat ((padBytes s b off ty).map (·.1))

/-- The bits that a strand's atomic or reduction makes of a location's. -/
def strandNew (stem : Stem) (x : Three) (s : State) (k old : Nat) : Nat :=
  atomNew (atomOpOf stem x) x.ty old (valueAt stem x s k (if stem = .red then .d else .c)).1
    (if stem = .cas then (valueAt stem x s k .b).1 else 0)

/-- The state with the update, before the value goes to D. -/
def padUpdated (stem : Stem) (x : Three) (s t : State) (b k off : Nat) (bad : Bool) : State :=
  putPad t b off (leBytes (accessBytes x.ty) (strandNew stem x s k (padOld s b off x.ty))) bad

theorem PcMoved.padBytes {s t : State} (h : PcMoved s t) (b off : Nat) (ty : BitVec 4) : padBytes t b off ty = padBytes s b off ty := by
  simp only [Proofs.padBytes, readPad, h.blockAt]

section Update

variable {stem : Stem} {s u : State} {b : Bundle} {k : Nat} (hs : stem = .atom ∨ stem = .cas ∨ stem = .red) (hb : Standing s b)
  (hmem : k ∈ b.strands) (hpc : PcMoved s u) (hidle : ∀ c ∈ (coreAt s (b.block / 4)).queue, c.block ≠ b.block)
include hs hb hmem hpc hidle

/-- It applies to the location's value, which goes to D of an atom or a cas. -/
theorem atomicPad_eq (x : Three) (off : Nat) : ∃ bad, atomicPad stem x [k] u u k off =
    if stem = .red then padUpdated stem x s u b.block k off bad
    else writeDest (padUpdated stem x s u b.block k off bad) k x.ty (destOf u k x.d) (padOld s b.block off x.ty) bad := by
  have hblock : blockOf u k = b.block := (hpc.blockOf k).trans (standing_block hb hmem)
  have hbytes : (List.range (accessBytes x.ty)).map (fun j => loadPadByte u b.block (off + j)) = padBytes s b.block off x.ty := by
    rw [← hpc.padBytes]
    exact List.map_congr_left fun j _ => loadPadByte_idle (by rw [hpc.coreAt]; exact hidle) _
  refine ⟨(padBytes s b.block off x.ty).any (·.2) || combinedBad stem x u [k] k off, ?_⟩
  unfold atomicPad
  dsimp only
  rw [hblock, hbytes, laneOp_value hs, laneOp_expected hs, hpc.valueAt, hpc.valueAt]
  rfl

end Update

/-- The write of an old value to D leaves everything else alone, and D then reads it. -/
theorem writeDest_spec {x : Three} {u v : State} {k : Nat} (hdest : DestsFree v [k] x.d) (hok : DestOk x) (hp : ∀ i, x.d ≠ .p i)
    (hslot : ∀ i, (strandAt v k).slotReg i = (strandAt u k).slotReg i) (old : Nat) (bad : Bool) :
    let w := writeDest v k x.ty (destOf u k x.d) old bad
    ThreadsMoved v w ∧ RegsWritten v w ∧ ∀ t : State, t.sheaves = w.sheaves → t.blocks = v.blocks →
      SameRegs (strandAt t k) (strandAt w k) → destReads t k x.ty x.d = destBits x.ty x.d old := by
  have hone : k ∈ [k] := List.mem_singleton_self k
  rw [writeDest, writeDestP_destOf hslot x.ty hok.1 hp old (bad, bad)]
  refine ⟨threadsMoved_writeOperandP (hdest.unshared k hone) _ _ _ _, regsWritten_writeOperandP _ _ _ _ _ _,
    fun t hsheaves hblocks hregs => ?_⟩
  exact (dests_written (ks := [k]) (step := fun u j => writeOperandP u j x.ty x.d old (bad, bad)) (bits := fun _ => old)
    (p := fun _ => (bad, bad)) hdest hok.1 (fun _ _ _ _ => rfl) hsheaves hblocks hone hregs).1

/-- What an atomic or reduction of a scratchpad location has done, before its closing fence. -/
structure PadAtomicDone (stem : Stem) (x : Three) (s u : State) (b k off : Nat) (w : State) : Prop where
  net : w.net = s.net
  pc : ∀ j, (strandAt w j).pc = (strandAt u j).pc
  isSome : ∀ j, (tfind w.strands j).isSome = (tfind u.strands j).isSome
  pad : ∀ a, (readPad w b a).1 = if off ≤ a ∧ a < off + accessBytes x.ty
    then ((leBytes (accessBytes x.ty) (strandNew stem x s k (padOld s b off x.ty)))[a - off]?).getD 0 else (readPad s b a).1
  dest : stem ≠ .red → ∀ t : State, t.sheaves = w.sheaves → t.blocks = w.blocks → SameRegs (strandAt t k) (strandAt w k) →
    destReads t k x.ty x.d = destBits x.ty x.d (padOld s b off x.ty)

theorem padUpdated_done {stem : Stem} {x : Three} {s u : State} (hpc : PcMoved s u) {b k : Nat} (hblock : (tfind s.blocks b).isSome)
    (hfree : stem ≠ .red → DestsFree u [k] x.d) (hdok : stem ≠ .red → DestOk x ∧ ∀ i, x.d ≠ .p i) (off : Nat) (bad : Bool) :
    PadAtomicDone stem x s u b k off (if stem = .red then padUpdated stem x s u b k off bad
      else writeDest (padUpdated stem x s u b k off bad) k x.ty (destOf u k x.d) (padOld s b off x.ty) bad) := by
  have hpad : PadWritten u (padUpdated stem x s u b k off bad) := padWritten_putPad _ _ _ _ _
  have hread : ∀ a, (readPad (padUpdated stem x s u b k off bad) b a).1 = if off ≤ a ∧ a < off + accessBytes x.ty
      then ((leBytes (accessBytes x.ty) (strandNew stem x s k (padOld s b off x.ty)))[a - off]?).getD 0 else (readPad s b a).1 := fun a => by
    rw [padUpdated, readPad_putPad (by rw [hpc.frame]; exact hblock), length_leBytes, readPad, hpc.blockAt]
    rfl
  have hdest : stem ≠ .red → DestsFree (padUpdated stem x s u b k off bad) [k] x.d := fun hr => (hfree hr).putPad _ _ _ _
  have hnet : (padUpdated stem x s u b k off bad).net = s.net := by rw [hpad.net, hpc.frame]
  generalize padUpdated stem x s u b k off bad = v at *
  split
  · next hr =>
    exact ⟨hnet, fun j => by rw [hpad.strandAt], fun j => by rw [hpad.strands], hread, fun h => absurd hr h⟩
  · next hr =>
    obtain ⟨hok, hp⟩ := hdok hr
    obtain ⟨hmoved, hwrote, hreads⟩ := writeDest_spec (u := u) (hdest hr) hok hp (fun i => by rw [hpad.strandAt]) (padOld s b off x.ty) bad
    generalize writeDest v k x.ty (destOf u k x.d) (padOld s b off x.ty) bad = w at *
    have hblocks : w.blocks = v.blocks := by rw [hmoved]
    refine ⟨by rw [hmoved]; exact hnet, fun j => by rw [hwrote.strand, hpad.strandAt], fun j => by rw [hwrote.strand_isSome, hpad.strands],
      fun a => ?_, fun _ t hsheaves ht hregs => hreads t hsheaves (ht.trans hblocks) hregs⟩
    rw [readPad, hmoved.blockAt]
    exact hread a

/-- Settles O32: the update is a store that nothing strikes, then D takes the old value; the closing fence and the advance leave both
as they are. -/
theorem atomicsOnScratchpad : Obligations.AtomicsOnScratchpad := by
  unfold Obligations.AtomicsOnScratchpad
  intro i stem code s b k off hv hs hc hb hu hblock hidle x hk hcheck hoff n old new
  have hexec := exec_atomic_scratch hs hv hb hk hcheck hidle hoff
  have hpc := pcMoved_bystandersPast hb x.g code.len
  have hsome := strand_isSome_bystandersPast s b x.g code.len
  have hmem : k ∈ b.strands := participants_sub (by rw [hk]; exact List.mem_singleton_self k)
  have hdok := destOk_atomic hs hc
  have hfree : stem ≠ .red → DestsFree (bystandersPast s b x.g code.len) [k] x.d := fun hr => by
    have h := destsFree_executors hb hu hpc hsome (hdok hr).1
    rwa [hk, executors_singleton] at h
  have hold : padOld s b.block off.toNat x.ty = old := congrArg leNat List.map_map
  obtain ⟨bad, hrun⟩ := atomicPad_eq hs hb hmem hpc hidle x off.toNat
  have hdone := padUpdated_done hpc hblock hfree hdok off.toNat bad
  dsimp only at hexec
  rw [← hrun] at hdone
  generalize atomicPad stem x [k] (bystandersPast s b x.g code.len) (bystandersPast s b x.g code.len) k off.toNat = w at *
  generalize scopeOf x (bystandersPast s b x.g code.len) stem k = sc at *
  obtain ⟨hnet, hpcs, hthere, hpad, hdest⟩ := hdone
  rw [hold] at hpad hdest
  have hthere' : ∀ j, (tfind w.strands j).isSome = (tfind s.strands j).isSome := fun j => (hthere j).trans (hsome j)
  have hframe := atomicEnd_frame stem s code.len k sc w
  have hend := strandAt_atomicEnd stem s code.len k sc ((hthere' k).trans (standing_present hb hmem))
  have hpast := fun j hj => pc_atomicEnd stem sc hb hk hpcs hthere' (j := j) hj
  generalize atomicEnd stem s code.len k sc w = t at *
  have hreads : ∀ a, readPad t b.block a = readPad w b.block a := fun a => by rw [hframe]; rfl
  refine ⟨t, hexec, hpast, by rw [hframe]; exact hnet, by rw [hframe], fun j hj => ?_, fun a ha => ?_, fun hr => ?_⟩
  · rw [hreads, hpad, if_pos (by omega), Nat.add_sub_cancel_left, List.getElem?_eq_getElem (by rw [length_leBytes]; exact hj),
      List.getElem?_eq_getElem (by rw [length_leBytes]; exact hj)]
    rfl
  · rw [hreads, hpad, if_neg (by omega)]
  · exact hdest hr t (by rw [hframe]) (by rw [hframe]) (by rw [hend]; exact ⟨rfl, rfl, rfl, fun _ => rfl⟩)

end Sys2Proof.Proofs
end

section
/-! SUPPORT. An atomic of a memory location (R179, R184, R186, R188): the message that carries it, the operation that its block counts and
the reply that its strand awaits. -/

namespace Sys2Proof.Proofs
open Sys2Proof Sys2Proof.Machine Sys2Proof.Laws

/-! ## Messages -/

/-- A message is on the fabric, and strands and blocks are as before. -/
structure SentOut (s t : State) (m : Msg) : Prop where
  strands : t.strands = s.strands
  blocks : t.blocks = s.blocks
  sent : ∃ id, tfind t.net id = some m

theorem sentOut_postFrom (s : State) (die port : Option Nat) (m : Msg) : SentOut s (postFrom s die port m) m :=
  ⟨rfl, rfl, s.ctl.nextId, tfind_tset_same _ _ _⟩

theorem sentOut_postHost (s : State) (m : Msg) : SentOut s (postHost s m) m := by
  have hcount := reported_countFrames s (hostPort s) true
  obtain ⟨hstrands, hblocks, hsent⟩ := sentOut_postFrom (countFrames s (hostPort s) true) none (hostPort s) m
  exact ⟨hstrands.trans hcount.strands, hblocks.trans hcount.blocks, hsent⟩

/-! ## One strand's line (R184, R188) -/

/-- What a block counts an atomic or reduction of a line of a class as (R179). -/
def atomicKind (stem : Stem) (cls : Nat) : OpKind := if cls = 4 then .host else if stem = .red then .red else .atomic

/-- The operation that the block counts. -/
def atomicOp (stem : Stem) (cls id : Nat) : OpRef := { id := id, kind := atomicKind stem cls, sourceRead := true, count := 1 }

/-- The message of one lane: to the host, or to the home of its line. -/
def atomicMsg (stem : Stem) (s : State) (b cls : Nat) (o : LaneOp) (id : Nat) : Msg :=
  if cls = 4 then .hostOp b [o] id (stem != .red)
  else if stem = .red then .red (homeSlice s (o.pa / 64)) (.op b id) [o] s.now cls
  else .atomic (homeSlice s (o.pa / 64)) b [o] id s.now cls none

/-- The reply that a strand awaits of an atomic. -/
def atomicAwaited (x : Three) (s : State) (k pa id : Nat) : PendingLoad :=
  { id := id, pa := pa, dest := destOf s k x.d, ty := x.ty, known := [], acquire := false }

theorem PcMoved.atomicAwaited {s t : State} (h : PcMoved s t) (x : Three) (k pa id : Nat) :
    atomicAwaited x t k pa id = atomicAwaited x s k pa id := by
  simp only [Proofs.atomicAwaited, h.destOf]

/-- The block counts the operation, the core has dropped its copy of an NC line, and the strand awaits the reply of an atom or a cas. -/
def atomicIssued (stem : Stem) (b cls k : Nat) (p : PendingLoad) (v : State) : State :=
  let t := modBlock (fresh v).2 b fun y => { y with ops := y.ops ++ [atomicOp stem cls v.ctl.nextId] }
  let t := if cls = 1 && stem != .red then dropL1 t (b / 4) (· == p.pa / 64) else t
  if stem = .red then t else addPending t k p

theorem sendLine_single {stem : Stem} {x : Three} {u : State} {k pa : Nat} {leaf : Leaf} (h : globalPlace stem x u k = some (pa, leaf))
    (b : Nat) (v : State) :
    let t := atomicIssued stem b leaf.cls k (atomicAwaited x u k pa v.ctl.nextId) v
    SentOut t (sendLine stem x u b [k] v (pa / 64)) (atomicMsg stem t b leaf.cls (laneOp stem x u k pa) v.ctl.nextId) := by
  have hrun : sendLine stem x u b [k] v (pa / 64) =
      let t := atomicIssued stem b leaf.cls k (atomicAwaited x u k pa v.ctl.nextId) v
      if leaf.cls = 4 then postHost t (.hostOp b [laneOp stem x u k pa] v.ctl.nextId (stem != .red))
      else if stem = .red then post t (.red (homeSlice t (pa / 64)) (.op b v.ctl.nextId) [laneOp stem x u k pa] t.now leaf.cls)
      else post t (.atomic (homeSlice t (pa / 64)) b [laneOp stem x u k pa] v.ctl.nextId t.now leaf.cls none) := by
    unfold sendLine
    simp only [List.filterMap_cons, List.filterMap_nil, h, if_true]
    rfl
  rw [hrun]
  intro t
  unfold atomicMsg
  dsimp only
  split
  · exact sentOut_postHost _ _
  · split
    · exact sentOut_postFrom _ _ _ _
    · exact sentOut_postFrom _ _ _ _

theorem atomicMsg_congr {s t : State} (hmodule : t.module = s.module) (hnow : t.now = s.now) (stem : Stem) (b cls : Nat) (o : LaneOp)
    (id : Nat) : atomicMsg stem t b cls o id = atomicMsg stem s b cls o id := by
  unfold atomicMsg homeSlice
  rw [hmodule, hnow]

section Issued

variable (stem : Stem) (b cls k : Nat) (p : PendingLoad) (v : State)

/-- The map of slices and the time stay. -/
theorem atomicIssued_frame : atomicIssued stem b cls k p v = { v with
    ctl := (atomicIssued stem b cls k p v).ctl, strands := (atomicIssued stem b cls k p v).strands,
    blocks := (atomicIssued stem b cls k p v).blocks, cores := (atomicIssued stem b cls k p v).cores,
    net := (atomicIssued stem b cls k p v).net } := by
  unfold atomicIssued
  dsimp only
  split
  · split <;> rfl
  · split <;> rfl

theorem atomicIssued_strands : (atomicIssued stem b cls k p v).strands =
    if stem = .red then v.strands else (addPending v k p).strands := by
  unfold atomicIssued
  dsimp only
  split
  · split <;> rfl
  · split <;> rfl

theorem atomicIssued_blocks : (atomicIssued stem b cls k p v).blocks =
    (modBlock v b fun y => { y with ops := y.ops ++ [atomicOp stem cls v.ctl.nextId] }).blocks := by
  unfold atomicIssued
  dsimp only
  split
  · split <;> rfl
  · split <;> rfl

variable {v}

/-- The block counts one operation more. -/
theorem mem_ops_atomicIssued (hb : (tfind v.blocks b).isSome) :
    atomicOp stem cls v.ctl.nextId ∈ (blockAt (atomicIssued stem b cls k p v) b).ops := by
  rw [blockAt, atomicIssued_blocks, ← blockAt, blockAt_modBlock, if_pos ⟨rfl, hb⟩]
  exact List.mem_append_right _ (List.mem_singleton_self _)

/-- The strand awaits the reply, and no other strand has changed. -/
theorem strandAt_atomicIssued (hk : (tfind v.strands k).isSome) (j : Nat) : strandAt (atomicIssued stem b cls k p v) j =
    { strandAt v j with loads := (strandAt v j).loads ++ if stem ≠ .red ∧ j = k then [p] else [] } := by
  rw [strandAt, atomicIssued_strands]
  by_cases hr : stem = .red
  · rw [if_pos hr, if_neg fun h => h.1 hr, List.append_nil]
    rfl
  · rw [if_neg hr, ← strandAt, addPending, strandAt_modStrand]
    by_cases hj : j = k
    · rw [if_pos ⟨hj, hk⟩, if_pos ⟨hr, hj⟩, hj]
    · rw [if_neg fun h => hj h.1, if_neg fun h => hj h.2, List.append_nil]

theorem isSome_atomicIssued (j : Nat) : (tfind (atomicIssued stem b cls k p v).strands j).isSome = (tfind v.strands j).isSome := by
  rw [atomicIssued_strands]
  split
  · rfl
  · exact isSome_modStrand _ _ _ _

end Issued

/-- What an atomic or reduction of a memory location has done, before its closing fence. -/
structure LineAtomicDone (stem : Stem) (x : Three) (s u : State) (b k pa cls : Nat) (w : State) : Prop where
  pc : ∀ j, (strandAt w j).pc = (strandAt u j).pc
  isSome : ∀ j, (tfind w.strands j).isSome = (tfind u.strands j).isSome
  op : atomicOp stem cls s.ctl.nextId ∈ (blockAt w b).ops
  load : stem ≠ .red → atomicAwaited x s k pa s.ctl.nextId ∈ (strandAt w k).loads
  sent : ∃ n, tfind w.net n = some (atomicMsg stem s b cls (laneOp stem x s k pa) s.ctl.nextId)

theorem sendLine_done {stem : Stem} {x : Three} {s u v : State} {b k pa : Nat} {leaf : Leaf} (hpc : PcMoved s u)
    (hkept : RecordsKept u v) (hblock : (tfind s.blocks b).isSome) (hk : (tfind u.strands k).isSome)
    (hplace : globalPlace stem x u k = some (pa, leaf)) :
    LineAtomicDone stem x s u b k pa leaf.cls (sendLine stem x u b [k] v (pa / 64)) := by
  have hid : v.ctl.nextId = s.ctl.nextId := by rw [hkept.frame, hpc.frame]; rfl
  have hblock' : (tfind v.blocks b).isSome := by rw [hkept.frame, hpc.frame]; exact hblock
  have hv : ∀ j, strandAt v j = strandAt u j := fun j => congrArg (fun l => tget l j Strand.blank) hkept.strands
  have hsent := sendLine_single hplace b v
  have hframe := atomicIssued_frame stem b leaf.cls k (atomicAwaited x u k pa v.ctl.nextId) v
  have hstrand := strandAt_atomicIssued stem b leaf.cls k (atomicAwaited x u k pa v.ctl.nextId) (hkept.strands ▸ hk)
  have hsome := isSome_atomicIssued stem b leaf.cls k (atomicAwaited x u k pa v.ctl.nextId) (v := v)
  have hop := mem_ops_atomicIssued stem b leaf.cls k (atomicAwaited x u k pa v.ctl.nextId) hblock'
  generalize atomicIssued stem b leaf.cls k (atomicAwaited x u k pa v.ctl.nextId) v = q at *
  obtain ⟨hstrands, hblocks, hmsg⟩ := hsent
  generalize sendLine stem x u b [k] v (pa / 64) = w at *
  have hw : ∀ j, strandAt w j = strandAt q j := fun j => congrArg (fun l => tget l j Strand.blank) hstrands
  rw [hid] at hop hstrand
  constructor
  case pc => exact fun j => by rw [hw, hstrand, hv]
  case isSome => exact fun j => by rw [hstrands, hsome, hkept.strands]
  case op =>
    rw [blockAt, hblocks]
    exact hop
  case load =>
    intro hr
    rw [hw, hstrand, if_pos ⟨hr, rfl⟩, hpc.atomicAwaited]
    exact List.mem_append_right _ (List.mem_singleton_self _)
  case sent =>
    rwa [atomicMsg_congr (s := s) (by rw [hframe, hkept.frame, hpc.frame]) (by rw [hframe, hkept.frame, hpc.frame]), hpc.laneOp,
      hid] at hmsg

/-- Settles O33: one message carries the strand's lane, its block counts it, and the closing fence of an atom or a cas waits for the reply. -/
theorem atomicsGoHome : Obligations.AtomicsGoHome := by
  unfold Obligations.AtomicsGoHome
  intro i stem code s b k va pa leaf hv hs hb hblock x hk hcheck hva htr
  have hexec := exec_atomic_global hs hv hb hk hcheck hva htr
  have hpc := pcMoved_bystandersPast hb x.g code.len
  have hsome := strand_isSome_bystandersPast s b x.g code.len
  have hmem : k ∈ b.strands := participants_sub (by rw [hk]; exact List.mem_singleton_self k)
  have hdone := sendLine_done hpc (recordsKept_noteWalks stem x [k] _) hblock ((hsome k).trans (standing_present hb hmem))
    ((hpc.globalPlace _ _ _).trans (globalPlace_of_ok hva htr))
  dsimp only at hexec
  generalize sendLine stem x _ b.block [k] _ (pa / 64) = w at *
  generalize scopeOf x _ stem k = sc at *
  obtain ⟨hpcs, hthere, hop, hload, n, hmsg⟩ := hdone
  have hthere' : ∀ j, (tfind w.strands j).isSome = (tfind s.strands j).isSome := fun j => (hthere j).trans (hsome j)
  have hframe := atomicEnd_frame stem s code.len k sc w
  have hend := strandAt_atomicEnd stem s code.len k sc ((hthere' k).trans (standing_present hb hmem))
  have hpast := pc_atomicEnd stem sc hb hk hpcs hthere' hmem
  generalize atomicEnd stem s code.len k sc w = t at *
  refine ⟨t, hexec, by rw [hframe], hpast, ⟨atomicOp stem leaf.cls s.ctl.nextId, ?_, rfl, rfl, rfl⟩, fun hr => ?_, n,
    by rw [hframe]; exact hmsg⟩
  · rw [hframe]
    exact hop
  · rw [hend, if_pos hr]
    exact ⟨⟨_, hload hr, rfl, rfl, rfl⟩, _, List.mem_append_right _ (List.mem_singleton_self _), mem_fenceWait_loads (hload hr) sc⟩

end Sys2Proof.Proofs
end

section
/-! SUPPORT. An acco whose page and whose line are translated apart (R87, R340): a TLB entry that begins inside a page serves the one and
not the other. -/

namespace Sys2Proof.Proofs
open Sys2Proof Sys2Proof.Machine Sys2Proof.Laws

/-- An Abacus page of 64 KiB, of host memory. -/
def abacusHostPage : Leaf := { hostPage with cls := 3 }

/-- A TLB entry of that page which begins 4 KiB before a multiple of 64 KiB: it translates 0xF000 to 0x1EFFF. -/
def straddlingEntry : TlbEntry := { entryOf Launch.blank 0 abacusHostPage with va := 0xF000 }

/-- The strand of key 0 is about to run; w4 names the line at 0x1F000, whose page begins at 0x10000, and w5 the length of one line. The
TLB holds the entry, and no page table lists the line. -/
def straddledState : State :=
  { State.reset with
    ctl := { State.reset.ctl with bundle := some loneBundle },
    strands := [(0, { Strand.blank with cond := .running })],
    sheaves := [(0, { Sheaf.blank with alloc := 32, w := [(4, 0x1F000), (5, 64)] })],
    blocks := [(0, Block.blank)],
    cores := [(0, { Core.reset with tlb := [straddlingEntry] })] }

/-- acco of that window, with grid 0. -/
def accoOneLine : Three :=
  { g := ⟨7, false⟩, u := false, d := .none, a := .w 4, b := .w 5, c := .w 6, mod := 0, ch := 0, ord := 0, sc := 0, rm := 0, ty := 0 }

theorem standing_straddledState : Standing straddledState loneBundle := by
  unfold Standing
  decide +kernel

/-- The checks pass, since they translate the first address of the page. -/
theorem accoCheck_straddledState : accoCheck accoOneLine straddledState 0 = Verdict.ok := by decide +kernel

theorem accoArgs_straddledState : accoArgs accoOneLine straddledState 0 = (0x1F000, 64, 0, false) := by decide +kernel

/-- The line itself has no translation. -/
theorem translate_straddledState :
    translate straddledState (some (coreOf 0)) (strandLaunch straddledState 0) 0x1F000 .write = .fault := by decide +kernel

/-- Refutes O41: it asks that every line of an acco's window is translated once the checks pass, but these translate each page at its first
address, and in `straddledState` a TLB entry that begins inside a page serves that address and not the line; the statement does not
ask that TLB entries begin where their pages do. -/
theorem not_abacusInstructions : ¬ Obligations.AbacusInstructions := by
  unfold Obligations.AbacusInstructions
  rintro ⟨-, -, -, hsingle⟩
  obtain ⟨t, -, -, -, -, hopens⟩ := hsingle accoOneLine straddledState loneBundle 0 standing_straddledState rfl (by decide +kernel)
    accoCheck_straddledState
  rw [accoArgs_straddledState] at hopens
  obtain ⟨-, -, hlines⟩ := hopens (by decide)
  obtain ⟨-, pa, leaf, -, hok, -⟩ := hlines 0x1F000 (by decide)
  cases hok.symm.trans translate_straddledState

end Sys2Proof.Proofs
end

section
/-! SUPPORT. Strands that would report arithmetic conditions where they arrive (R209, R275, R354): the entry of the handler with the
reported bits, and the instructions at which strands arrive. -/

namespace Sys2Proof.Proofs
open Sys2Proof Sys2Proof.Machine Sys2Proof.Laws

/-! ## The entry of the handler (R354, R356) -/

/-- A strand that has entered its handler with its reported bits, which are cleared. -/
def reportTaken (pc handler : DWord) (y : Strand) : Strand :=
  { handlerEntered .arith pc (y.reported.setWidth 64) handler y with fstat := y.fstat &&& ~~~y.reported }

theorem arithEntry_enters {s : State} {k : Nat} (hk : (tfind s.strands k).isSome) (h : canTrap s k) (pc : DWord) :
    StrandsMoved s (arithEntry s k pc) ∧
    (∀ j, (tfind (arithEntry s k pc).strands j).isSome = (tfind s.strands j).isSome) ∧
    ∀ j, strandAt (arithEntry s k pc) j = if j = k then reportTaken pc (handlerOf s j) (strandAt s j) else strandAt s j := by
  obtain ⟨hmoved, hsome, hat⟩ := trapEntry_enters hk h .arith pc ((strandAt s k).reported.setWidth 64)
  obtain ⟨-, hdepth, -, hroom⟩ := h
  have hentered : (strandAt (trapEntry s k .arith pc ((strandAt s k).reported.setWidth 64)) k).trapDepth ≠ (strandAt s k).trapDepth := by
    have hmax := ((spillPlan_room_iff s k).1 hroom).2
    rw [hat, if_pos rfl, hdepth]
    show (strandAt s k).depth + 1 ≠ 0
    bv_omega
  have hrun : arithEntry s k pc = clearReported (trapEntry s k .arith pc ((strandAt s k).reported.setWidth 64)) k := if_neg hentered
  rw [hrun, clearReported]
  refine ⟨hmoved.trans (strandsMoved_modStrand _ _ _), fun j => (isSome_modStrand _ _ _ _).trans (hsome j), fun j => ?_⟩
  rw [strandAt_modStrand, hsome]
  by_cases hj : j = k
  · subst hj
    rw [if_pos ⟨rfl, hk⟩, if_pos rfl, hat, if_pos rfl]
    rfl
  · rw [if_neg fun e => hj e.1, if_neg hj, hat, if_neg hj]

/-! ## Steps of several strands, each with its own -/

/-- A fold of steps, each of which changes its own strand, as it does where it finds that strand as it was at first. -/
theorem foldl_ownStrands {s : State} {P : State → Prop} {f : Nat → Strand → Strand} {step : State → Nat → State} :
    ∀ {ks : List Nat} {u : State},
    (∀ u k, k ∈ ks → P u → strandAt u k = strandAt s k →
      P (step u k) ∧ ∀ j, strandAt (step u k) j = if j = k then f k (strandAt s k) else strandAt u j) →
    ks.Nodup → (∀ k ∈ ks, strandAt u k = strandAt s k) → P u →
    P (ks.foldl step u) ∧ ∀ j, strandAt (ks.foldl step u) j = if j ∈ ks then f j (strandAt s j) else strandAt u j
  | [], u, _, _, _, hu => ⟨hu, fun _ => by simp⟩
  | k :: ks, u, hstep, hn, hsame, hu => by
    obtain ⟨hk, hn'⟩ := List.nodup_cons.1 hn
    obtain ⟨hP, hat⟩ := hstep u k List.mem_cons_self hu (hsame k List.mem_cons_self)
    have hother : ∀ j ∈ ks, strandAt (step u k) j = strandAt s j := fun j hj => by
      rw [hat, if_neg (fun e : j = k => hk (e ▸ hj))]
      exact hsame j (List.mem_cons_of_mem _ hj)
    obtain ⟨hQ, hrest⟩ := foldl_ownStrands (fun v j hj => hstep v j (List.mem_cons_of_mem _ hj)) hn' hother hP
    refine ⟨hQ, fun j => ?_⟩
    rw [List.foldl_cons, hrest, hat]
    by_cases hj : j = k
    · subst hj
      rw [if_neg hk, if_pos rfl, if_pos List.mem_cons_self]
    · simp only [List.mem_cons, hj, false_or, if_false]

/-- What arriving strands do: one that reports enters its handler, another does what the instruction says of it. -/
def arriveOne (pc : DWord) (one : State → Nat → State) (u : State) (k : Nat) : State :=
  if reports u k then arithEntry u k pc else one u k

/-- Where every one of them reports and can trap, they all enter their handlers. -/
theorem arrivals_report {s : State} {ks : List Nat} (hn : ks.Nodup) (hthere : ∀ k ∈ ks, (tfind s.strands k).isSome)
    (h : ∀ k ∈ ks, reports s k = true ∧ canTrap s k) (pc : DWord) (one : State → Nat → State) :
    StrandsMoved s (ks.foldl (arriveOne pc one) s) ∧ ∀ j, strandAt (ks.foldl (arriveOne pc one) s) j =
      if j ∈ ks then reportTaken pc (handlerOf s j) (strandAt s j) else strandAt s j := by
  have hstep : ∀ u k, k ∈ ks → (StrandsMoved s u ∧ ∀ j, (tfind u.strands j).isSome = (tfind s.strands j).isSome) →
      strandAt u k = strandAt s k → (StrandsMoved s (arriveOne pc one u k) ∧
        ∀ j, (tfind (arriveOne pc one u k).strands j).isSome = (tfind s.strands j).isSome) ∧ ∀ j, strandAt (arriveOne pc one u k) j =
          if j = k then reportTaken pc (handlerOf s k) (strandAt s k) else strandAt u j := by
    rintro u k hk ⟨hu, hsome⟩ hsame
    obtain ⟨hreports, hcan⟩ := h k hk
    obtain ⟨hmoved, hsome', hat⟩ := arithEntry_enters ((hsome k).trans (hthere k hk)) (canTrap_congr hu hsame hcan) pc
    have hrun : arriveOne pc one u k = arithEntry u k pc := if_pos (by rw [reports, hsame]; exact hreports)
    have hhandler : handlerOf u k = handlerOf s k := by rw [hu]; rfl
    rw [hrun]
    refine ⟨⟨hu.trans hmoved, fun j => (hsome' j).trans (hsome j)⟩, fun j => (hat j).trans ?_⟩
    by_cases hj : j = k
    · rw [if_pos hj, if_pos hj, hj, hhandler, hsame]
    · rw [if_neg hj, if_neg hj]
  obtain ⟨⟨hmoved, -⟩, hat⟩ := foldl_ownStrands (f := fun k => reportTaken pc (handlerOf s k)) hstep hn (fun _ _ => rfl)
    ⟨.refl s, fun _ => rfl⟩
  exact ⟨hmoved, hat⟩

/-! ## The instructions at which strands arrive (R265, R275) -/

/-- No sheaf goes on where none is in resume code. -/
theorem goOnAll_of_normal {s : State} {ks : List Nat} (h : ∀ k ∈ ks, (sheafAt s (sheafOf k)).phase = .normal) : goOnAll s ks = s := by
  have hone : ∀ f ∈ sheavesOf s ks, goOn s f = s := fun f hf => by
    rw [(sheavesOf_perm s ks).mem_iff, mem_nub] at hf
    obtain ⟨k, hk, rfl⟩ := List.mem_map.1 hf
    rw [goOn, h k hk]
    rfl
  exact List.foldlRecOn (motive := (· = s)) _ _ rfl fun u hu f hf => hu ▸ hone f hf

/-- bar, gbar, itend and exit: each participant arrives, and what follows leaves a bundle with no sheaf in resume code as it is. -/
theorem exec_arrival {i : Instr} {stem : Stem} {code : Code} {s : State} {b : Bundle} (hv : i.view = some (stem, code))
    (hstem : stem = .bar ∨ stem = .gbar ∨ stem = .itend ∨ stem = .exit) (hb : Standing s b) :
    ∃ (one : State → Nat → State) (after : State → State),
      exec i s = .next (executed s (after ((participants s b (code.norm stem).g).foldl (arriveOne b.pc one)
        (bystandersPast s b (code.norm stem).g code.len)))) ∧
      ∀ u, (∀ k ∈ participants s b (code.norm stem).g, (sheafAt u (sheafOf k)).phase = .normal) → after u = u := by
  have hi := ofCode_of_view hv
  have hbarrier : ∀ w, ∃ one, barrierRun stem w code s = executed s ((participants s b (code.norm stem).g).foldl (arriveOne b.pc one)
      (bystandersPast s b (code.norm stem).g code.len)) := fun w => by
    refine ⟨fun u k => waitAt u k w code.len, ?_⟩
    rw [barrierRun, controlRun, controlAs, runBundle_pass hb.1 fun _ _ => rfl]
    rfl
  have hend : ∀ one, endRun stem code one s = executed s (goOnAll ((participants s b (code.norm stem).g).foldl (arriveOne b.pc one)
      (bystandersPast s b (code.norm stem).g code.len)) (participants s b (code.norm stem).g)) := fun one => by
    rw [endRun, controlRun, controlAs, runBundle_pass hb.1 fun _ _ => rfl]
    rfl
  rcases hstem with rfl | rfl | rfl | rfl
  case inl =>
    obtain ⟨one, hone⟩ := hbarrier .bar
    exact ⟨one, id, by cases hi; exact congrArg _ hone, fun _ _ => rfl⟩
  case inr.inl =>
    obtain ⟨one, hone⟩ := hbarrier .gbar
    exact ⟨one, id, by cases hi; exact congrArg _ hone, fun _ _ => rfl⟩
  case inr.inr.inl => exact ⟨_, (goOnAll · _), by cases hi; exact congrArg _ (hend itendStrand), fun _ => goOnAll_of_normal⟩
  case inr.inr.inr => exact ⟨_, (goOnAll · _), by cases hi; exact congrArg _ (hend _), fun _ => goOnAll_of_normal⟩

/-- Settles O20: each participant enters its handler, which leaves its sheaf's phase, so that no sheaf goes on from resume code. -/
theorem arithmeticReports : Obligations.ArithmeticReports := by
  unfold Obligations.ArithmeticReports
  intro i stem code s b hv hstem hb ps _ h
  obtain ⟨one, after, hexec, hafter⟩ := exec_arrival hv hstem hb
  have hpast := strandAt_bystandersPast hb (code.norm stem).g code.len
  have hmoved : StrandsMoved (issued s) (bystandersPast s b (code.norm stem).g code.len) := strandsMoved_advanceAll _ _ _
  have hsame : ∀ k ∈ ps, strandAt (bystandersPast s b (code.norm stem).g code.len) k = strandAt s k := fun k hk => by
    rw [hpast, if_neg fun hy => (mem_bystanders.1 hy).2 hk]
  obtain ⟨hentered, hat⟩ := arrivals_report (s := bystandersPast s b (code.norm stem).g code.len)
    (standing_participants_nodup hb (code.norm stem).g)
    (fun k hk => by
      rw [strand_isSome_bystandersPast]
      exact standing_present hb (participants_sub hk))
    (fun k hk => ⟨by rw [reports, hsame k hk]; exact (h k hk).1, canTrap_congr hmoved (hsame k hk) (h k hk).2⟩) b.pc one
  rw [hafter _ fun k hk => by
    obtain ⟨-, -, hphase, -⟩ := (h k hk).2
    rw [(hmoved.trans hentered).sheafAt]
    exact hphase] at hexec
  refine ⟨_, hexec, onlyStrands_executed (pcMoved_bystandersPast hb _ _).frame hentered, fun k => ?_⟩
  have hhandler : handlerOf (bystandersPast s b (code.norm stem).g code.len) k = handlerOf s k := by rw [hmoved]; rfl
  rw [strandAt_executed, hat, hhandler]
  by_cases hk : k ∈ ps
  · rw [if_pos hk, hsame k hk]
    exact (if_pos hk).symm
  · rw [if_neg hk, hpast]
    refine Eq.trans ?_ (if_neg hk).symm
    simp only [mem_bystanders]
    by_cases hkb : k ∈ b.strands
    · rw [if_pos ⟨hkb, hk⟩, if_pos hkb]
    · rw [if_neg fun e => hkb e.1, if_neg hkb]

end Sys2Proof.Proofs
end

section
/-! SUPPORT. The collectives sred and sscan (R213, R214, R274): what each sheaf of a bundle reads, and what it and its participants
take. -/

namespace Sys2Proof.Proofs
open Sys2Proof Sys2Proof.Machine Sys2Proof.Laws

/-! ## What a collective reads -/

theorem PcMoved.collectiveResult {s t : State} (h : PcMoved s t) (stem : Stem) (x : Three) (ps : List Nat) (f : Nat) :
    collectiveResult stem x t ps f = collectiveResult stem x s ps f := by
  simp only [Machine.collectiveResult, redInputs, sheafStrands, h.sheafAt, h.valueAt]

/-- The destination of sred and sscan is a register. -/
theorem collectiveDest {stem : Stem} {code : Code} (hstem : stem = .sred ∨ stem = .sscan) (hc : codeOk stem code = true) :
    IsDest (code.norm stem).d := by
  have h := operandOk_d hc
  have hr : roleOf stem (code.norm stem).mod .d = some .d := by rcases hstem with rfl | rfl <;> rfl
  unfold operandOk at h
  rw [hr, show (code.norm stem).at .d = (code.norm stem).d from rfl] at h
  generalize (code.norm stem).d = d at h
  cases d with
  | v i | b i | w i => trivial
  | _ => cases h

/-! ## One sheaf's writes -/

/-- The bits that a strand of a sheaf reads in its destination: the head of the values in a uniform register, the value at its index in
a register of its own. -/
def bitsOf (o : Operand) (ys : List Nat) (k : Nat) : Nat :=
  match o with
  | .w _ => ys.headD 0
  | _ => ys.getD (k % 64) 0

/-- The writes of one sheaf's values, before the sticky bits. -/
def sheafWrites (ty : BitVec 4) (o : Operand) (ys : List Nat) (f : Nat) (part : List Nat) (u : State) : State :=
  match o with
  | .w _ => writeOperand u (strandKey f 0) ty o (ys.headD 0) false
  | _ => part.foldl (fun v k => writeOperand v k ty o (ys.getD (k % 64) 0) false) u

/-- One sheaf's writes and sticky bits. -/
def sheafCollects (ty : BitVec 4) (o : Operand) (r : List Nat × Flags) (f : Nat) (part : List Nat) (u : State) : State :=
  part.foldl (fun v k => setFlags v k r.2) (sheafWrites ty o r.1 f part u)

theorem exec_collective {i : Instr} {stem : Stem} {code : Code} {s : State} {b : Bundle} (hv : i.view = some (stem, code))
    (hstem : stem = .sred ∨ stem = .sscan) (hb : Standing s b)
    (h : AllPass (participants s b (code.norm stem).g) fun k => (Verdict.trapIf (rangeFails stem (code.norm stem) s k) .regrange).and
      (Verdict.poisonIf (valueAt stem (code.norm stem) s k .a).2)) :
    exec i s = .next (executed s (advanceAll ((sheavesOf s (participants s b (code.norm stem).g)).foldl (fun u f =>
      sheafCollects (code.norm stem).ty (code.norm stem).d
        (collectiveResult stem (code.norm stem) s (participants s b (code.norm stem).g) f) f
        (partOf (participants s b (code.norm stem).g) f) u)
      (bystandersPast s b (code.norm stem).g code.len)) code.len (participants s b (code.norm stem).g))) := by
  have he : exec i s = .next (collectiveRun stem code s) := by
    have hi := ofCode_of_view hv
    rcases hstem with rfl | rfl <;> cases code <;> cases hi <;> rfl
  have hpc := pcMoved_bystandersPast hb (code.norm stem).g code.len
  rw [he, collectiveRun, controlRun, controlAs, runBundle_pass hb.1 h]
  change Host.Outcome.next (executed s (advanceAll ((sheavesOf (bystandersPast s b (code.norm stem).g code.len) _).foldl (fun u f =>
    sheafCollects (code.norm stem).ty (code.norm stem).d (collectiveResult stem (code.norm stem)
      (bystandersPast s b (code.norm stem).g code.len) (participants s b (code.norm stem).g) f) f _ u) _) _ _)) = _
  simp only [hpc.sheavesOf, hpc.collectiveResult]
  rfl

/-! ## What one sheaf's writes leave -/

/-- A state in which nothing but strands and sheaves differs from another: the same are there, in the same blocks, with the same pc. -/
structure ThreadsKept (s t : State) : Prop where
  moved : ThreadsMoved s t
  strand : ∀ k, (tfind t.strands k).isSome = (tfind s.strands k).isSome
  sheaf : ∀ f, (tfind t.sheaves f).isSome = (tfind s.sheaves f).isSome
  block : ∀ k, blockOf t k = blockOf s k
  pc : ∀ k, (strandAt t k).pc = (strandAt s k).pc

namespace ThreadsKept

theorem refl (s : State) : ThreadsKept s s := ⟨.refl s, fun _ => rfl, fun _ => rfl, fun _ => rfl, fun _ => rfl⟩

theorem trans {s t u : State} (h : ThreadsKept s t) (k : ThreadsKept t u) : ThreadsKept s u :=
  ⟨h.moved.trans k.moved, fun j => (k.strand j).trans (h.strand j), fun f => (k.sheaf f).trans (h.sheaf f),
    fun j => (k.block j).trans (h.block j), fun j => (k.pc j).trans (h.pc j)⟩

theorem of_regs {s t : State} (hm : ThreadsMoved s t) (h : RegsWritten s t) : ThreadsKept s t :=
  ⟨hm, h.strand_isSome, h.sheaf_isSome, h.block, fun k => by rw [h.strand]⟩

theorem of_strands {s t : State} (h : StrandsMoved s t) (hs : ∀ k, (tfind t.strands k).isSome = (tfind s.strands k).isSome)
    (hpc : ∀ k, (strandAt t k).pc = (strandAt s k).pc) : ThreadsKept s t :=
  ⟨h.threads, hs, fun f => by rw [h.sheaves], fun k => by rw [blockOf, h.sheafAt]; rfl, hpc⟩

end ThreadsKept

/-- Writes to registers of several strands' own: each has its value, and nothing else changes. -/
theorem writeOperands_all {s : State} {ks : List Nat} (hn : ks.Nodup) (hk : ∀ k ∈ ks, (tfind s.strands k).isSome)
    (hu : ∀ k ∈ ks, Unshared s k) (ty : BitVec 4) {o : Operand} (ho : ∀ i, o ≠ .w i) (bits : Nat → Nat) (p : Nat → Bool × Bool) :
    let t := ks.foldl (fun u k => writeOperandP u k ty o (bits k) (p k)) s
    StrandsMoved s t ∧ RegsWritten s t ∧ (∀ k ∈ ks, strandAt t k = operandTaken ty o (bits k) (p k) (strandAt s k)) ∧
    ∀ k, k ∉ ks → strandAt t k = strandAt s k := by
  obtain ⟨⟨hmoved, hwrote⟩, hin, hout⟩ := foldl_lookup (look := strandAt) (key := id) (s := s) (ks := ks)
    (f := fun k => operandTaken ty o (bits k) (p k)) (step := fun u k => writeOperandP u k ty o (bits k) (p k))
    (P := fun u => StrandsMoved s u ∧ RegsWritten s u)
    (fun u k hm hu' => by
      have hfree : Unshared u k := (hu k hm).congr hu'.1.threads (hu'.2.block k)
      exact ⟨⟨hu'.1.trans (strandsMoved_writeOperandP hfree ty ho _ _), hu'.2.trans (regsWritten_writeOperandP _ _ _ _ _ _)⟩,
        strandAt_writeOperandP hfree (by rw [hu'.2.strand_isSome]; exact hk k hm) ty o _ _⟩)
    (by rw [List.map_id]; exact hn) ⟨.refl s, .refl s⟩
  exact ⟨hmoved, hwrote, hin, fun k hm => hout k fun j hj e => hm (e ▸ hj)⟩

section OneSheafCollects

variable {u : State} {f : Nat} {part : List Nat} (ty : BitVec 4) (o : Operand)

/-- The participants of a sheaf that is there, each once, can write registers of their own and of the sheaf. -/
structure PartFree (u : State) (f : Nat) (part : List Nat) : Prop where
  nodup : part.Nodup
  strand : ∀ k ∈ part, (tfind u.strands k).isSome
  sheaf : (tfind u.sheaves f).isSome
  unshared : ∀ k ∈ part, Unshared u k

theorem sheafWrites_uniform (i : BitVec 9) (ys : List Nat) : sheafWrites ty (.w i) ys f part u =
    modSheaf u f fun y => uniformTaken y i.toNat (BitVec.ofNat 64 (extendBits (ys.headD 0) (tyWidth ty) (tySigned ty) 64)) false := by
  have hf : sheafOf (strandKey f 0) = f := by
    unfold sheafOf strandKey
    omega
  show writeWs u (strandKey f 0) ty i.toNat (ys.headD 0) false = _
  rw [writeWs, hf]
  rfl

/-- A value that is written for a sheaf is in the strands' registers, or in the sheaf's. -/
theorem sheafWrites_spec (ys : List Nat) (h : PartFree u f part) :
    let t := sheafWrites ty o ys f part u
    ThreadsMoved u t ∧ RegsWritten u t ∧
    (∀ k ∈ part, strandAt t k = operandTaken ty o (bitsOf o ys k) (false, false) (strandAt u k)) ∧
    (∀ k, k ∉ part → strandAt t k = strandAt u k) ∧
    ∀ g, sheafAt t g = if g = f then sheafTaken ty o (ys.headD 0) (false, false) (sheafAt u g) else sheafAt u g := by
  by_cases hw : ∃ i, o = .w i
  · obtain ⟨i, rfl⟩ := hw
    intro t
    have ht : t = _ := sheafWrites_uniform ty i ys
    rw [ht]
    refine ⟨rfl, .modSheaf _ _ fun _ => rfl, fun _ _ => rfl, fun _ _ => rfl, fun g => ?_⟩
    rw [sheafAt_modSheaf]
    by_cases hg : g = f
    · subst hg
      rw [if_pos ⟨rfl, h.sheaf⟩, if_pos rfl]
      rfl
    · rw [if_neg fun e => hg e.1, if_neg hg]
  · have hne : ∀ i, o ≠ .w i := fun i e => hw ⟨i, e⟩
    have hrun : sheafWrites ty o ys f part u = part.foldl (fun v k => writeOperandP v k ty o (bitsOf o ys k) (false, false)) u := by
      cases o with
      | w i => exact absurd rfl (hne i)
      | _ => rfl
    have hid : ∀ y, sheafTaken ty o (ys.headD 0) (false, false) y = y := fun y => by
      cases o with
      | w i => exact absurd rfl (hne i)
      | _ => rfl
    obtain ⟨hmoved, hwrote, hin, hout⟩ := writeOperands_all h.nodup h.strand h.unshared ty hne (bitsOf o ys) fun _ => (false, false)
    intro t
    rw [show t = _ from hrun]
    exact ⟨hmoved.threads, hwrote, hin, hout, fun g => by rw [hmoved.sheafAt, hid, ite_self]⟩

/-- A participant that has taken its sheaf's value and the sticky bits. -/
def collected (r : List Nat × Flags) (k : Nat) (x : Strand) : Strand :=
  let y := operandTaken ty o (bitsOf o r.1 k) (false, false) x
  { y with fstat := y.fstat ||| r.2 }

theorem sheafCollects_spec (r : List Nat × Flags) (h : PartFree u f part) :
    let t := sheafCollects ty o r f part u
    ThreadsKept u t ∧ (∀ k ∈ part, strandAt t k = collected ty o r k (strandAt u k)) ∧
    (∀ k, k ∉ part → strandAt t k = strandAt u k) ∧
    ∀ g, sheafAt t g = if g = f then sheafTaken ty o (r.1.headD 0) (false, false) (sheafAt u g) else sheafAt u g := by
  obtain ⟨hmoved, hwrote, hin, hout, hsheaf⟩ := sheafWrites_spec ty o r.1 h
  obtain ⟨hflagged, hsome, hflag, hplain⟩ := setFlags_all h.nodup
    (fun k hk => (hwrote.strand_isSome k).trans (h.strand k hk)) fun _ => r.2
  have hpc : ∀ k, (strandAt (sheafCollects ty o r f part u) k).pc = (strandAt (sheafWrites ty o r.1 f part u) k).pc := fun k => by
    by_cases hk : k ∈ part
    · exact (congrArg Strand.pc (hflag k hk) :)
    · exact congrArg Strand.pc (hplain k hk)
  refine ⟨(ThreadsKept.of_regs hmoved hwrote).trans (.of_strands hflagged hsome hpc), fun k hk => (hflag k hk).trans ?_,
    fun k hk => (hplain k hk).trans (hout k hk), fun g => (hflagged.sheafAt g).trans (hsheaf g)⟩
  rw [hin k hk]
  rfl

end OneSheafCollects

/-! ## The sheaves of a bundle -/

/-- A sheaf with its strands. -/
def threadsOf (s : State) (f : Nat) : Sheaf × (Nat → Strand) :=
  (sheafAt s f, fun k => if sheafOf k = f then strandAt s k else Strand.blank)

/-- A sheaf whose participants have taken its values. -/
def threadsCollected (ty : BitVec 4) (o : Operand) (r : List Nat × Flags) (part : List Nat) (y : Sheaf × (Nat → Strand)) :
    Sheaf × (Nat → Strand) :=
  (sheafTaken ty o (r.1.headD 0) (false, false) y.1, fun k => if k ∈ part then collected ty o r k (y.2 k) else y.2 k)

theorem threadsOf_sheafCollects {u : State} {f : Nat} {part : List Nat} (hpart : ∀ k ∈ part, sheafOf k = f) (h : PartFree u f part)
    (ty : BitVec 4) (o : Operand) (r : List Nat × Flags) (g : Nat) :
    threadsOf (sheafCollects ty o r f part u) g = if g = f then threadsCollected ty o r part (threadsOf u g) else threadsOf u g := by
  obtain ⟨-, hin, hout, hsheaf⟩ := sheafCollects_spec ty o r h
  by_cases hg : g = f
  · subst hg
    rw [if_pos rfl]
    refine Prod.ext ((hsheaf g).trans (if_pos rfl)) (funext fun k => ?_)
    by_cases hk : k ∈ part
    · simp only [threadsOf, threadsCollected, hpart k hk, if_true, hk, hin k hk]
    · simp only [threadsOf, threadsCollected, hk, if_false, hout k hk]
  · rw [if_neg hg]
    refine Prod.ext ((hsheaf g).trans (if_neg hg)) (funext fun k => ?_)
    by_cases hk : sheafOf k = g
    · simp only [threadsOf, hk, if_true, hout k fun hm => hg (hk.symm.trans (hpart k hm))]
    · simp only [threadsOf, hk, if_false]

/-- Every participant has taken its sheaf's value and the sticky bits, and its sheaf has. -/
theorem collects_spec {s : State} {fs ps : List Nat} (hn : fs.Nodup) (hps : ps.Nodup) (hfs : ∀ f ∈ fs, ∃ k ∈ ps, sheafOf k = f)
    (hthere : ∀ k ∈ ps, (tfind s.strands k).isSome) (hsheaf : ∀ k ∈ ps, (tfind s.sheaves (sheafOf k)).isSome)
    (hu : ∀ k ∈ ps, Unshared s k) (ty : BitVec 4) (o : Operand) (r : Nat → List Nat × Flags) :
    let t := fs.foldl (fun u f => sheafCollects ty o (r f) f (partOf ps f) u) s
    ThreadsKept s t ∧ ∀ k ∈ ps, sheafOf k ∈ fs →
      strandAt t k = collected ty o (r (sheafOf k)) k (strandAt s k) ∧
      sheafAt t (sheafOf k) = sheafTaken ty o ((r (sheafOf k)).1.headD 0) (false, false) (sheafAt s (sheafOf k)) := by
  have hfree : ∀ u f, f ∈ fs → ThreadsKept s u → PartFree u f (partOf ps f) := fun u f hf hkept => by
    obtain ⟨j, hj, rfl⟩ := hfs f hf
    exact {
      nodup := hps.filter _
      strand := fun k hk => (hkept.strand k).trans (hthere k (mem_partOf.1 hk).1)
      sheaf := (hkept.sheaf _).trans (hsheaf j hj)
      unshared := fun k hk => (hu k (mem_partOf.1 hk).1).congr hkept.moved (hkept.block k) }
  obtain ⟨hkept, hin, -⟩ := foldl_lookup (look := threadsOf) (key := id) (f := fun f => threadsCollected ty o (r f) (partOf ps f))
    (step := fun u f => sheafCollects ty o (r f) f (partOf ps f) u)
    (fun u f hf hkept => ⟨hkept.trans (sheafCollects_spec ty o (r f) (hfree u f hf hkept)).1,
      threadsOf_sheafCollects (fun _ hk => (mem_partOf.1 hk).2) (hfree u f hf hkept) ty o (r f)⟩)
    (by rw [List.map_id]; exact hn) (ThreadsKept.refl s)
  refine ⟨hkept, fun k hk hf => ⟨?_, congrArg Prod.fst (hin (sheafOf k) hf)⟩⟩
  have hstrand := congrFun (congrArg Prod.snd (hin (sheafOf k) hf)) k
  simpa only [threadsOf, threadsCollected, id, mem_partOf, hk, and_self, if_true] using hstrand

/-- A write of a destination leaves a strand's fields alone but for its registers and predicates. -/
theorem operandTaken_rest (ty : BitVec 4) (o : Operand) (bits : Nat) (p : Bool × Bool) (x : Strand) :
    operandTaken ty o bits p x = { x with
      v := (operandTaken ty o bits p x).v
      vPoison := (operandTaken ty o bits p x).vPoison
      preds := (operandTaken ty o bits p x).preds } := by
  have hvs : ∀ n, vsTaken x ty n bits p =
      { x with v := (vsTaken x ty n bits p).v, vPoison := (vsTaken x ty n bits p).vPoison, preds := (vsTaken x ty n bits p).preds } :=
    fun n => by
      unfold vsTaken
      split <;> rfl
  cases o with
  | v i => exact hvs _
  | b i => exact hvs _
  | p i =>
    show predTaken x i.toNat (bits % 2 == 1) = { x with
      v := (predTaken x i.toNat (bits % 2 == 1)).v
      vPoison := (predTaken x i.toNat (bits % 2 == 1)).vPoison
      preds := (predTaken x i.toNat (bits % 2 == 1)).preds }
    unfold predTaken
    split <;> rfl
  | _ => rfl

theorem sheafTaken_bitsOf (ty : BitVec 4) (o : Operand) (ys : List Nat) (k : Nat) (p : Bool × Bool) (y : Sheaf) :
    sheafTaken ty o (bitsOf o ys k) p y = sheafTaken ty o (ys.headD 0) p y := by cases o <;> rfl

/-! ## The instructions (R274) -/

/-- The execution of sred and sscan: every participant and its sheaf take what the values were before, and the bundle goes on. -/
theorem exec_collective_taken {i : Instr} {stem : Stem} {code : Code} {s : State} {b : Bundle} (hv : i.view = some (stem, code))
    (hstem : stem = .sred ∨ stem = .sscan) (hb : Standing s b) (hu : Unmapped s b)
    (h : AllPass (participants s b (code.norm stem).g) fun k => (Verdict.trapIf (rangeFails stem (code.norm stem) s k) .regrange).and
      (Verdict.poisonIf (valueAt stem (code.norm stem) s k .a).2)) :
    let x := code.norm stem
    let ps := participants s b x.g
    let r := fun k => collectiveResult stem x s ps (sheafOf k)
    ∃ w, exec i s = .next (executed s (advanceAll w code.len ps)) ∧ ThreadsKept (bystandersPast s b x.g code.len) w ∧
      ∀ k ∈ ps, strandAt w k = collected x.ty x.d (r k) k (strandAt s k) ∧
        sheafAt w (sheafOf k) = sheafTaken x.ty x.d ((r k).1.headD 0) (false, false) (sheafAt s (sheafOf k)) := by
  intro x ps r
  have hpc := pcMoved_bystandersPast hb x.g code.len
  have hmem : ∀ f, f ∈ sheavesOf s ps ↔ ∃ k ∈ ps, sheafOf k = f := fun f => by
    rw [(sheavesOf_perm s ps).mem_iff, mem_nub, List.mem_map]
  obtain ⟨hkept, hin⟩ := collects_spec (s := bystandersPast s b x.g code.len) ((sheavesOf_perm s ps).nodup_iff.2 (nodup_nub _))
    (standing_participants_nodup hb x.g) (fun f hf => (hmem f).1 hf)
    (fun k hk => by
      rw [strand_isSome_bystandersPast]
      exact standing_present hb (participants_sub hk))
    (fun k hk => by
      rw [hpc.frame]
      exact standing_sheaf hb (participants_sub hk))
    (fun k hk => by
      rw [Unshared, hpc.blockOf, hpc.blockAt, standing_block hb (participants_sub hk)]
      exact hu) x.ty x.d (collectiveResult stem x s ps)
  refine ⟨_, exec_collective hv hstem hb h, hkept, fun k hk => ?_⟩
  obtain ⟨hstrand, hsheaf⟩ := hin k hk ((hmem _).2 ⟨k, hk, rfl⟩)
  rw [strandAt_bystandersPast hb, if_neg fun hy => (mem_bystanders.1 hy).2 hk] at hstrand
  rw [hpc.sheafAt] at hsheaf
  exact ⟨hstrand, hsheaf⟩

/-- Settles O23: sheaf by sheaf, the participants take what the sheaf's values are, all read from the state before the instruction. -/
theorem reductionResults : Obligations.ReductionResults := by
  unfold Obligations.ReductionResults
  intro i stem code s b hv hstem hc hb hu x ps hpass
  obtain ⟨w, hexec, hkept, htaken⟩ := exec_collective_taken hv hstem hb hu hpass
  refine ⟨_, hexec, ?_⟩
  have hpc := pcMoved_bystandersPast hb x.g code.len
  have hthere : ∀ k, (tfind w.strands k).isSome = (tfind s.strands k).isSome := fun k =>
    (hkept.strand k).trans (strand_isSome_bystandersPast s b x.g code.len k)
  have hpresent : ∀ k ∈ ps, (tfind w.strands k).isSome := fun k hk => by
    rw [hthere]
    exact standing_present hb (participants_sub hk)
  have hmoved := strandsMoved_advanceAll w code.len ps
  have hend : ∀ k ∈ ps, strandAt (advanceAll w code.len ps) k =
      (collected x.ty x.d (collectiveResult stem x s ps (sheafOf k)) k (strandAt s k)).past code.len := fun k hk => by
    rw [strandAt_advanceAll code.len (standing_participants_nodup hb x.g) hpresent, if_pos hk, (htaken k hk).1]
  refine ⟨onlyThreads_executed hpc.frame (hkept.moved.trans hmoved.threads), fun k hk => ?_, fun k hk => ?_, fun k hk => ?_⟩
  · exact pc_advanced hb hkept.pc hthere hk
  · have hblock : blockOf (advanceAll w code.len ps) k = b.block := by
      rw [blockOf, hmoved.sheafAt]
      exact (hkept.block k).trans ((hpc.blockOf k).trans (standing_block hb (participants_sub hk)))
    have hshared : (blockAt (advanceAll w code.len ps) (blockOf (advanceAll w code.len ps) k)).shared = [] := by
      rw [hblock, hmoved.blockAt, hkept.moved.blockAt, hpc.blockAt]
      exact hu.1
    refine (dest_taken (t := executed s (advanceAll w code.len ps)) (x := strandAt s k) (y := sheafAt s (sheafOf k))
      (bits := bitsOf x.d (collectiveResult stem x s ps (sheafOf k)).1 k) (p := (false, false)) (collectiveDest hstem hc) hshared ?_ ?_ ?_).1
    · rw [strandAt_executed, hend k hk]
      exact ⟨rfl, rfl, rfl, fun _ => rfl⟩
    · intro j
      rw [strandAt_executed, hend k hk, collected, operandTaken_rest]
      rfl
    · rw [sheafAt_executed, hmoved.sheafAt, (htaken k hk).2, sheafTaken_bitsOf]
  · rw [strandAt_executed, hend k hk, collected, operandTaken_rest]
    rfl

end Sys2Proof.Proofs
end
